-- ==== Sys2Proof/Word.lean ====
section
/-! DEFINITION. The word types of the block. -/

namespace Sys2Proof

/-- One byte. -/
abbrev Byte := BitVec 8

/-- A 32-bit register. -/
abbrev W32 := BitVec 32

/-- A 64-bit word of memory, of a record or of a register pair. -/
abbrev W64 := BitVec 64

/-- The 128 bytes of a line, byte 0 lowest. -/
abbrev Line := BitVec 1024

end Sys2Proof
end

