-- ==== Sys2Proof/Syntax.lean ====
section
/-! DEFINITION. The commands of the block: one constructor of Instr for every row of spec/opcode_table.json, and the
types of their operands: the fields of an instruction word (R81), packets (R304 to R306), flits (R300), Olvis-E packets
(R335, R336), the firmware image (R422), the manifest (R428 to R432) and the readings of monitors. -/

namespace Sys2Proof

/-- Link-local messages (R300). -/
inductive MsgKind where
  | hello
  | proof
  | timeProbe
  | timeReply
  | gmac
  deriving DecidableEq, Repr

/-- Packet opcodes of the table of R306, with the value of each. -/
inductive PktOp where
  | bulkRead -- 0x01
  | bulkWrite -- 0x02
  | bulkReduce -- 0x03
  | getS -- 0x10
  | getM -- 0x11
  | putS -- 0x12
  | putE -- 0x13
  | putO -- 0x14
  | putM -- 0x15
  | atomF -- 0x16
  | readU -- 0x17
  | writeU -- 0x18
  | fwdGetS -- 0x20
  | fwdGetM -- 0x21
  | inv -- 0x22
  | recall -- 0x23
  | evictAck -- 0x24
  | routeMark -- 0x25
  | data -- 0x30
  | grant -- 0x31
  | invAck -- 0x32
  | recallData -- 0x33
  | recallAck -- 0x34
  | atomResp -- 0x35
  | readData -- 0x36
  | writeAck -- 0x37
  | errorResp -- 0x38
  | heldRetry -- 0x39
  | mgmtResp -- 0x3A
  | markAck -- 0x3B
  | mgmtRead -- 0x40
  | mgmtWrite -- 0x41
  | peerDown -- 0x42
  | peerUp -- 0x43
  | timeOffset -- 0x44
  | ping -- 0x45
  deriving DecidableEq, Repr

/-- What a received Ethernet frame holds (R333). -/
inductive FrameKind where
  | arp -- ARP request
  | nd -- IPv6 neighbour solicitation
  | echo -- ICMP or ICMPv6 echo request
  | pause -- PAUSE
  | udp -- UDP
  | other -- anything else
  deriving DecidableEq, Repr

/-- The fields of an instruction word other than its opcode (R81). -/
structure InsF where
  /-- bit [8], W. spec 03 R81. -/
  wide : Bool := false
  /-- bit [9], guard enable. spec 03 R85. -/
  g : Bool := false
  /-- bits [12:10], guard predicate. spec 03 R81. -/
  gp : BitVec 3 := 0
  /-- bit [13], guard negate. spec 03 R81. -/
  gneg : Bool := false
  /-- bits [63:14]. spec 03 R81. -/
  body : BitVec 50 := 0
  /-- the second word of the wide form. spec 03 R83. -/
  ext : BitVec 64 := 0
  deriving DecidableEq, Repr

/-- `InsF` with every field at its reset value. -/
def InsF.reset : InsF := {}

/-- A packet of the fabric or of the mesh (R303 to R306). -/
structure Packet where
  /-- opcode. spec 10 R306. -/
  op : PktOp := .ping
  /-- destination device. spec 10 R304. -/
  dst : Nat := 0
  /-- sending device. spec 10 R304. -/
  src : Nat := 0
  /-- agent of the destination device that takes the packet. The model's own field. -/
  tgt : Nat := 0
  /-- requester's agent. spec 10 R304. -/
  agent : Nat := 0
  /-- requester's landing buffer. spec 10 R304. -/
  entry : Nat := 0
  /-- landing buffer's generation. spec 10 R304. -/
  gen : Nat := 0
  /-- global line: home or target device in bits [49:38], bits [44:7] of the local address in [37:0]. spec 10 R304. -/
  line : Nat := 0
  /-- epoch tag. spec 10 R304. -/
  epoch : Nat := 0
  /-- berth of the request. spec 10 R304. -/
  berth : Nat := 0
  /-- key_index of the range. spec 10 R304. -/
  key : Nat := 0
  /-- memory type of the range the request went through. spec 07 R198. -/
  mtype : Nat := 0
  /-- mirror index of the range, 0 for none. spec 09 R262. -/
  mirror : Nat := 0
  /-- lines of a bulk access. spec 10 R306. -/
  lines : Nat := 1
  /-- first byte offset of a bulk write, or a register offset. spec 10 R306. -/
  off : Nat := 0
  /-- byte count of a bulk write. spec 10 R306. -/
  cnt : Nat := 0
  /-- reduction type. spec 10 R306. -/
  rtype : Nat := 0
  /-- GetM has_copy. spec 10 R306. -/
  hasCopy : Bool := false
  /-- sector mask. spec 10 R306. -/
  sectors : BitVec 4 := 0
  /-- AtomF op. spec 10 R306. -/
  aop : Nat := 0
  /-- AtomF type. spec 10 R306. -/
  aty : Nat := 0
  /-- lanes of an AtomF or AtomResp. spec 10 R306. -/
  lanes : Nat := 0
  /-- grant: 1 S, 2 E, 3 M. spec 10 R306. -/
  grant : Nat := 0
  /-- contended. spec 10 R306. -/
  contended : Bool := false
  /-- ack count. spec 10 R306. -/
  acks : Nat := 0
  /-- not_performed. spec 10 R306. -/
  notPerf : Bool := false
  /-- ErrorResp reason. spec 10 R306. -/
  reason : Nat := 0
  /-- MgmtResp error. spec 10 R306. -/
  err : Bool := false
  /-- Ext: requester's device. spec 10 R306. -/
  reqDev : Nat := 0
  /-- Ext: ack target's device. spec 10 R306. -/
  ackDev : Nat := 0
  /-- Ext: ack target's tag, agent in [9:0], entry in [19:10], gen in [23:20]. spec 10 R306. -/
  ackTag : Nat := 0
  /-- WriteU byte mask. spec 10 R306. -/
  mask : BitVec 128 := 0
  /-- data words. spec 10 R306. -/
  data : List (BitVec 64) := []
  /-- poisoned data words. spec 10 R303. -/
  poison : List Nat := []
  /-- device named by PeerDown, PeerUp or RouteMark. spec 10 R306. -/
  who : Nat := 0
  /-- mark number. spec 10 R306. -/
  no : Nat := 0
  /-- boot count named. spec 10 R306. -/
  boot : Nat := 0
  /-- TimeOffset value, in sixteenths of a tick. spec 10 R306. -/
  toff : Int := 0
  /-- TimeOffset: the link offset that the sender measured on the link, in sixteenths of a tick. spec 10 R328. -/
  tlink : Int := 0
  /-- travels in the escape sub-channel. spec 10 R308. -/
  esc : Bool := false
  /-- port it came in by. spec 10 R308. -/
  via : Option Nat := none
  /-- ReadU of weights: 0 allocates as any read, 1 at the least-recently-used position, 2 not at all. spec 06 R174. -/
  alloc : Nat := 0
  /-- context of the request, for its usage figures (R491). The model's own field. -/
  ctx : Nat := 0
  deriving DecidableEq, Repr

/-- `Packet` with every field at its reset value. -/
def Packet.reset : Packet := {}

/-- A link-local message, which a Control flit carries (R300). -/
structure LinkMsg where
  /-- which message it is. spec 10 R300. -/
  kind : MsgKind := .hello
  /-- Hello: the sender's device ID. spec 10 R325. -/
  dev : Nat := 0
  /-- Hello: the sender's port number. spec 10 R325. -/
  port : Nat := 0
  /-- Hello: the sender's boot count. spec 10 R325. -/
  boot : Nat := 0
  /-- Hello: the sender's nonce. spec 10 R325. -/
  nonce : BitVec 256 := 0
  /-- TimeReply: t2, in sixteenths of a tick. spec 10 R326. -/
  t2 : Int := 0
  /-- TimeReply: t3, in sixteenths of a tick. spec 10 R326. -/
  t3 : Int := 0
  deriving DecidableEq, Repr

/-- `LinkMsg` with every field at its reset value. -/
def LinkMsg.reset : LinkMsg := {}

/-- A flit held by a port (R300). -/
structure Flit where
  /-- sequence number. spec 10 R300. -/
  seq : Nat := 0
  /-- 0 Data, 1 Idle, 2 Control. spec 10 R300. -/
  kind : Nat := 0
  /-- packets that the flit completes. spec 10 R303. -/
  pkts : List Packet := []
  /-- message of a Control flit. spec 10 R300. -/
  msg : Option LinkMsg := none
  deriving DecidableEq, Repr

/-- `Flit` with every field at its reset value. -/
def Flit.reset : Flit := {}

/-- A flit as it arrives (R300), its payload given as the packets it completes. -/
structure FlitIn where
  /-- seq. spec 10 R300. -/
  seq : Nat := 0
  /-- ack_seq. spec 10 R300. -/
  ackSeq : Nat := 0
  /-- ack_valid. spec 10 R300. -/
  ackValid : Bool := false
  /-- nak. spec 10 R300. -/
  nak : Bool := false
  /-- kind. spec 10 R300. -/
  kind : Nat := 1
  /-- first credit return: class, escape, slots. spec 10 R300. -/
  cr0 : Option (Nat × Bool × Nat) := none
  /-- second credit return. spec 10 R300. -/
  cr1 : Option (Nat × Bool × Nat) := none
  /-- packets the flit completes. spec 10 R303. -/
  pkts : List Packet := []
  /-- no codeword it overlaps was uncorrectable, and its CRC-32C matches. spec 10 R299. -/
  ok : Bool := true
  /-- it overlaps an uncorrectable codeword. spec 10 R299. -/
  fecBad : Bool := false
  /-- of the uncorrectable codewords that it overlaps, those that no earlier flit overlapped. spec 10 R299. -/
  cws : Nat := 1
  deriving DecidableEq, Repr

/-- `FlitIn` with every field at its reset value. -/
def FlitIn.reset : FlitIn := {}

/-- An op header (R336). -/
structure OpHdr where
  /-- op. spec 11 R336. -/
  op : Nat := 0
  /-- status. spec 11 R336. -/
  status : Nat := 0
  /-- flags [0]. spec 11 R336. -/
  fence : Bool := false
  /-- berth. spec 11 R336. -/
  berth : Nat := 0
  /-- device. spec 11 R336. -/
  device : Nat := 0
  /-- object. spec 11 R336. -/
  obj : Nat := 0
  /-- form. spec 11 R336. -/
  form : Nat := 0
  /-- tag. spec 11 R336. -/
  tag : BitVec 32 := 0
  /-- address. spec 11 R336. -/
  addr : Nat := 0
  /-- bytes. spec 11 R336. -/
  bytes : Nat := 0
  /-- every reserved field is 0. spec 11 R336. -/
  rsvdOk : Bool := true
  /-- poison: bytes of the poison map that follow the data. spec 11 R336. -/
  pmap : Nat := 0
  deriving DecidableEq, Repr

/-- `OpHdr` with every field at its reset value. -/
def OpHdr.reset : OpHdr := {}

/-- One entry of an EVENT (R350). -/
structure EventEntry where
  /-- device. spec 11 R350. -/
  dev : Nat := 0
  /-- berth. spec 11 R350. -/
  berth : Nat := 0
  /-- ring. spec 11 R350. -/
  ring : Nat := 0
  /-- index. spec 11 R350. -/
  index : Nat := 0
  /-- the 64-byte record. spec 11 R350. -/
  recd : BitVec 512 := 0
  deriving DecidableEq, Repr

/-- `EventEntry` with every field at its reset value. -/
def EventEntry.reset : EventEntry := {}

/-- An Olvis-E packet, decrypted (R335). -/
structure HostPkt where
  /-- type. spec 11 R335. -/
  typ : Nat := 0
  /-- flags [0]. spec 11 R335. -/
  reliable : Bool := false
  /-- flags [1]. spec 11 R335. -/
  ackValid : Bool := false
  /-- session. spec 11 R335. -/
  session : Nat := 0
  /-- seq. spec 11 R335. -/
  seq : Nat := 0
  /-- rseq. spec 11 R335. -/
  rseq : Nat := 0
  /-- ack. spec 11 R335. -/
  ack : Nat := 0
  /-- sack. spec 11 R335. -/
  sack : BitVec 64 := 0
  /-- ACK payload. spec 11 R335. -/
  bitmap : BitVec 4096 := 0
  /-- op header of an OP or RESP. spec 11 R336. -/
  op : OpHdr := OpHdr.reset
  /-- data. spec 11 R336. -/
  data : List (BitVec 8) := []
  /-- poisoned 8-byte words of the data. spec 11 R336. -/
  poison : List Nat := []
  /-- Host or Storage port. spec 11 R334. -/
  port : Nat := 14
  /-- the other side's address. spec 11 R334. -/
  addr : BitVec 128 := 0
  /-- the other side's UDP port. spec 11 R334. -/
  sport : Nat := 0
  /-- the GCM tag verifies under the session's key. spec 11 R342. -/
  tagOk : Bool := true
  /-- JOIN: identity public key. spec 11 R339. -/
  key : BitVec 256 := 0
  /-- JOIN, JOIN_ACCEPT: nonce. spec 11 R339. -/
  nonce : BitVec 256 := 0
  /-- JOIN: berths asked for; JOIN_ACCEPT: berths granted. spec 11 R339. -/
  mask : BitVec 32 := 0
  /-- the Ed25519 signature it carries verifies. spec 11 R339. -/
  sigOk : Bool := true
  /-- a JOIN that is not malformed. spec 11 R340. -/
  formOk : Bool := true
  /-- JOIN_REJECT reason, or LEAVE. spec 11 R340. -/
  reason : Nat := 0
  /-- JOIN, JOIN_ACCEPT: X25519 public key. spec 11 R339. -/
  xkey : BitVec 256 := 0
  /-- the Ed25519 signature that a packet of this device carries. spec 11 R339. -/
  sig : BitVec 512 := 0
  /-- GCM nonce of an encrypted packet of this device. spec 11 R339. -/
  iv : BitVec 96 := 0
  /-- ANNOUNCE: device ID. spec 11 R338. -/
  dev : Nat := 0
  /-- ANNOUNCE: reach. spec 11 R338. -/
  reach : Nat := 0
  /-- ANNOUNCE: boot count. spec 11 R338. -/
  boots : Nat := 0
  /-- ANNOUNCE: the port's IPv6 address. spec 11 R338. -/
  ip6 : BitVec 128 := 0
  /-- ANNOUNCE: the port's IPv4 address. spec 11 R338. -/
  ip4 : BitVec 32 := 0
  /-- ANNOUNCE: the port's UDP port. spec 11 R338. -/
  udp : Nat := 0
  /-- ANNOUNCE: device identity certificate. spec 11 R338. -/
  cert : BitVec 1280 := 0
  /-- the port's MAC address, in its answer to ARP or Neighbor Discovery. spec 11 R333. -/
  mac : BitVec 48 := 0
  /-- ANNOUNCE: D. spec 11 R338. -/
  limit : Nat := 0
  /-- ANNOUNCE: free session slots. spec 11 R338. -/
  free : Nat := 0
  /-- EVENT entries. spec 11 R350. -/
  events : List EventEntry := []
  deriving DecidableEq, Repr

/-- `HostPkt` with every field at its reset value. -/
def HostPkt.reset : HostPkt := {}

/-- An Ethernet frame received by a Host or Storage port (R333). -/
structure Frame where
  /-- bytes, header and FCS included. spec 11 R333. -/
  len : Nat := 64
  /-- 802.1Q tag. spec 11 R333. -/
  vlan : Option Nat := none
  /-- what the frame holds. spec 11 R333. -/
  kind : FrameKind := .other
  /-- it is for one of the port's own addresses. spec 11 R333. -/
  mine : Bool := true
  /-- an IP fragment. spec 11 R333. -/
  fragment : Bool := false
  /-- its UDP checksum is right, or zero on IPv4. spec 11 R333. -/
  cksumOk : Bool := true
  /-- UDP destination port. spec 11 R334. -/
  udp : Nat := 47210
  /-- the sender's IP address. spec 11 R333. -/
  src : BitVec 128 := 0
  /-- the Olvis-E packet of a UDP frame. spec 11 R335. -/
  pkt : Option HostPkt := none
  deriving DecidableEq, Repr

/-- `Frame` with every field at its reset value. -/
def Frame.reset : Frame := {}

/-- A Lockkeeper firmware image (R422). -/
structure Image where
  /-- the magic is right and the body length at most 32 MiB − 4 KiB. spec 14 R422. -/
  magicOk : Bool := true
  /-- security_version. spec 14 R422. -/
  ver : Nat := 1
  /-- commit_rollback. spec 14 R422. -/
  commit : Bool := false
  /-- signing public key. spec 14 R422. -/
  key : BitVec 256 := 0
  /-- SHA-512 of the body. spec 14 R422. -/
  bodyHash : BitVec 512 := 0
  /-- the signature verifies under that key and the body's hash matches. spec 14 R423. -/
  sigOk : Bool := true
  deriving DecidableEq, Repr

/-- `Image` with every field at its reset value. -/
def Image.reset : Image := {}

/-- A PEER_PORT record (R430). -/
structure MPeer where
  /-- port. spec 14 R430. -/
  port : Nat := 0
  /-- encrypt. spec 14 R430. -/
  encrypt : Bool := false
  /-- full_width_only. spec 14 R430. -/
  full : Bool := false
  /-- neighbour device. spec 14 R430. -/
  dev : Nat := 0
  /-- neighbour port. spec 14 R430. -/
  nport : Nat := 0
  /-- neighbour identity public key. spec 14 R430. -/
  key : BitVec 256 := 0
  deriving DecidableEq, Repr

/-- `MPeer` with every field at its reset value. -/
def MPeer.reset : MPeer := {}

/-- A NET_PORT record (R430). -/
structure MNet where
  /-- port. spec 14 R430. -/
  port : Nat := 14
  /-- 1 Host, 2 Storage. spec 14 R430. -/
  role : Nat := 1
  /-- frame size. spec 14 R430. -/
  frame : Nat := 1518
  /-- VLAN. spec 14 R430. -/
  vlan : Option Nat := none
  /-- UDP port. spec 14 R430. -/
  udp : Nat := 47210
  /-- MAC. spec 14 R430. -/
  mac : BitVec 48 := 0
  /-- IPv6 address. spec 14 R430. -/
  ip6 : BitVec 128 := 0
  /-- IPv6 gateway. spec 14 R430. -/
  gw6 : BitVec 128 := 0
  /-- IPv4 address. spec 14 R430. -/
  ip4 : BitVec 32 := 0
  /-- IPv4 gateway. spec 14 R430. -/
  gw4 : BitVec 32 := 0
  /-- multicast group. spec 14 R430. -/
  mcast : BitVec 128 := 0
  /-- appliance identity key. spec 14 R430. -/
  appl : BitVec 256 := 0
  deriving DecidableEq, Repr

/-- `MNet` with every field at its reset value. -/
def MNet.reset : MNet := {}

/-- A BERTH record (R432). -/
structure MBerth where
  /-- berth. spec 14 R432. -/
  berth : Nat := 0
  /-- spread. spec 14 R432. -/
  spread : Bool := false
  /-- headless. spec 14 R432. -/
  headless : Bool := false
  /-- key_preserve. spec 14 R432. -/
  keyPreserve : Bool := false
  /-- class ceiling. spec 14 R432. -/
  ceiling : Nat := 0
  /-- min_cores. spec 14 R432. -/
  minCores : Nat := 0
  /-- core_weight. spec 14 R432. -/
  coreW : Nat := 1
  /-- link_weight. spec 14 R432. -/
  linkW : Nat := 1
  /-- barge_weight. spec 14 R432. -/
  bargeW : Nat := 1
  /-- fault queue, log2 records. spec 14 R432. -/
  fqLog2 : Nat := 8
  /-- hbm_rate. spec 14 R432. -/
  hbmRate : Nat := 0
  /-- hbm_depth. spec 14 R432. -/
  hbmDepth : Nat := 64
  /-- context_limit. spec 14 R432. -/
  ctxLimit : Nat := 0
  /-- stream_limit. spec 14 R432. -/
  streamLimit : Nat := 0
  /-- grace time in 10 ms. spec 14 R432. -/
  grace : Nat := 200
  /-- coalescing time in µs. spec 14 R432. -/
  coalesce : Nat := 20
  /-- admin queue. spec 14 R432. -/
  adminQ : Nat := 0
  /-- ring 0 size, log2 records. spec 14 R432. -/
  ring0Log2 : Nat := 4
  /-- carve-outs: first grant page, page count. spec 14 R432. -/
  carve : List (Nat × Nat) := []
  /-- queue runs: first, count. spec 14 R432. -/
  queues : List (Nat × Nat) := []
  /-- fence runs: first, count. spec 14 R432. -/
  fences : List (Nat × Nat) := []
  deriving DecidableEq, Repr

/-- `MBerth` with every field at its reset value. -/
def MBerth.reset : MBerth := {}

/-- A manifest, its records given parsed (R428 to R430). -/
structure Manifest where
  /-- magic, format version, length and every reserved byte are right. spec 14 R428. -/
  hdrOk : Bool := true
  /-- the signature verifies under the header's key. spec 14 R428. -/
  sigOk : Bool := true
  /-- serial. spec 14 R428. -/
  serial : Nat := 0
  /-- device serial. spec 14 R428. -/
  devSerial : BitVec 128 := 0
  /-- operator installation public key. spec 14 R428. -/
  key : BitVec 256 := 0
  /-- it holds an unknown record type with bit [15] clear. spec 14 R429. -/
  unknown : Bool := false
  /-- DEVICE records. spec 14 R431. -/
  nDevice : Nat := 1
  /-- TOPOLOGY records. spec 14 R431. -/
  nTopology : Nat := 1
  /-- ROUTES records. spec 14 R431. -/
  nRoutes : Nat := 1
  /-- TIME records. spec 14 R431. -/
  nTime : Nat := 1
  /-- COUNTERS records. spec 14 R431. -/
  nCounters : Nat := 0
  /-- LEDGER records. spec 14 R431. -/
  nLedger : Nat := 0
  /-- POWER records. spec 14 R431. -/
  nPower : Nat := 0
  /-- device ID. spec 14 R430. -/
  device : Nat := 0
  /-- reach. spec 14 R430. -/
  reach : Nat := 0
  /-- flight. spec 14 R430. -/
  flight : Nat := 0
  /-- wharf. spec 14 R430. -/
  wharf : Bool := false
  /-- session limit. spec 14 R430. -/
  sessions : Nat := 0
  /-- mooring limit in s. spec 14 R430. -/
  moorLimit : Nat := 3600
  /-- parking limit in ms. spec 14 R430. -/
  parkLimit : Nat := 10000
  /-- TOPOLOGY: reach of each device that exists (0xFF otherwise). spec 14 R430. -/
  reaches : List (Nat × Nat) := []
  /-- TOPOLOGY: hops, key 128*a+b (0 otherwise). spec 14 R430. -/
  hops : List (Nat × Nat) := []
  /-- PEER_PORT records. spec 14 R430. -/
  peers : List MPeer := []
  /-- NET_PORT records. spec 14 R430. -/
  nets : List MNet := []
  /-- ROUTES entries (0 otherwise). spec 14 R430. -/
  routes : List (Nat × BitVec 64) := []
  /-- time root device. spec 14 R430. -/
  timeRoot : Nat := 0
  /-- common reference. spec 14 R430. -/
  commonRef : Bool := false
  /-- BERTH records. spec 14 R432. -/
  berths : List MBerth := []
  /-- HOST_GRANT records. spec 14 R430. -/
  grants : List (BitVec 256 × BitVec 32) := []
  /-- SHARED_KEY: index, owner, readers. spec 14 R430. -/
  shared : List (Nat × Nat × BitVec 32) := []
  /-- NARROW: stack, window sizes in 64 MiB. spec 14 R430. -/
  narrow : List (Nat × List Nat) := []
  /-- MIRROR: index, mask. spec 14 R430. -/
  mirrors : List (Nat × BitVec 64) := []
  /-- COUNTERS: interval in µs. spec 14 R430. -/
  cInterval : Nat := 1000
  /-- COUNTERS: ring address. spec 14 R430. -/
  cBase : Nat := 0
  /-- COUNTERS: ring size, log2 bytes. spec 14 R430. -/
  cLog2 : Nat := 0
  /-- LEDGER: mode. spec 14 R430. -/
  lMode : Nat := 0
  /-- LEDGER: pre-trigger share. spec 14 R430. -/
  lPre : Nat := 0
  /-- LEDGER: ring size in MiB. spec 14 R430. -/
  lSize : Nat := 64
  /-- POWER: cap. spec 14 R430. -/
  capW : Nat := 2000
  /-- POWER: performance floor. spec 14 R430. -/
  floor : Nat := 12
  /-- POWER: packing allowed. spec 14 R430. -/
  packing : Bool := true
  /-- POWER: Slack water idle time in µs. spec 14 R430. -/
  idleUs : Nat := 100
  deriving DecidableEq, Repr

/-- `Manifest` with every field at its reset value. -/
def Manifest.reset : Manifest := {}

/-- One domain's gauge reading (R455). -/
structure Meas where
  /-- power domain. spec 15 R455. -/
  domain : Nat := 0
  /-- smallest replica slack in ps. spec 15 R455. -/
  slack : Int := 100
  /-- temperature in °C. spec 15 R455. -/
  temp : Nat := 40
  deriving DecidableEq, Repr

/-- `Meas` with every field at its reset value. -/
def Meas.reset : Meas := {}

/-- The readings of one measurement of every gauge (R455, R456). -/
structure GaugeIn where
  /-- domains measured. spec 15 R455. -/
  meas : List Meas := []
  /-- some SerDes lane's eye lies below 0.3 UI or 40 mV. spec 15 R458. -/
  eyeBad : Bool := false
  deriving DecidableEq, Repr

/-- `GaugeIn` with every field at its reset value. -/
def GaugeIn.reset : GaugeIn := {}

/-- The outcome of training and margining one stack (R225, R226). -/
structure StackIn where
  /-- stack. spec 07 R225. -/
  stack : Nat := 0
  /-- channels that fail training. spec 07 R225. -/
  fails : BitVec 16 := 0
  /-- channels' smallest eyes: channel, width in thousandths of a UI, height in mV (a channel not listed has 500 and 100). spec 07 R225. -/
  eyes : List (Nat × Nat × Nat) := []
  /-- temperature the stack reports. spec 07 R229. -/
  temp : Nat := 40
  deriving DecidableEq, Repr

/-- `StackIn` with every field at its reset value. -/
def StackIn.reset : StackIn := {}

/-- A storage fault the environment will show after the boot (R217). -/
structure LatentIn where
  /-- as Latent.kind. spec 07 R217. -/
  kind : Nat := 0
  /-- core, slice or berth. spec 07 R217. -/
  unit : Nat := 0
  /-- line number, burst, word or group slot. spec 07 R217. -/
  place : Nat := 0
  /-- word of the line, for a cache line. spec 07 R217. -/
  word : Nat := 0
  /-- uncorrectable. spec 07 R217. -/
  unc : Bool := false
  deriving DecidableEq, Repr

/-- `LatentIn` with every field at its reset value. -/
def LatentIn.reset : LatentIn := {}

/-- What a boot meets outside the device's own state. -/
structure BootIn where
  /-- a junction at 110 °C or a stack at 105 °C at step 1. spec 19 R532. -/
  hot : Bool := false
  /-- the NVM header can be read. spec 14 R424. -/
  nvmOk : Bool := true
  /-- the firmware image is read as the NVM holds it. spec 19 R528. -/
  imgRead : Bool := true
  /-- the manifest is read as the NVM holds it. spec 19 R528. -/
  manRead : Bool := true
  /-- stacks' outcomes at step 6 (a stack not listed trains with wide eyes). spec 07 R225. -/
  stks : List StackIn := []
  /-- readings of step 7. spec 15 R456. -/
  gauges : GaugeIn := GaugeIn.reset
  /-- characterisation: smallest rail offset that gives 30 ps (0 when not listed). spec 15 R457. -/
  offsets : List (Nat × Nat) := []
  /-- storage faults that reads will find. spec 07 R217. -/
  latent : List LatentIn := []
  /-- characterisation: highest ceiling at which the slack holds. spec 15 R457. -/
  ceiling : Nat := 16
  deriving DecidableEq, Repr

/-- `BootIn` with every field at its reset value. -/
def BootIn.reset : BootIn := {}

/-- One rail's telemetry (R454). -/
structure RailIn where
  /-- rail. spec 15 R454. -/
  rail : Nat := 0
  /-- current in 0.1 A. spec 15 R468. -/
  current : Nat := 0
  /-- within its tolerance. spec 15 R454. -/
  inTol : Bool := true
  /-- the regulator reports a fault, or gives no valid answer to four attempts. spec 15 R454. -/
  fault : Bool := false
  deriving DecidableEq, Repr

/-- `RailIn` with every field at its reset value. -/
def RailIn.reset : RailIn := {}

/-- What a counter capture reads from monitors that the model does not run (R488). -/
structure SampleIn where
  /-- package power in W, averaged over the interval. spec 17 R488. -/
  power : Nat := 0
  /-- hottest temperature of compute dies 0 to 3, in °C. spec 17 R488. -/
  dies : List Nat := []
  /-- temperatures that stacks 0 to 7 report, in °C. spec 17 R488. -/
  stackTemps : List Nat := []
  /-- increments of the activity words 160 to 191, by word number. spec 17 R488. -/
  words : List (Nat × Nat) := []
  deriving DecidableEq, Repr

/-- `SampleIn` with every field at its reset value. -/
def SampleIn.reset : SampleIn := {}
/-- The commands: one constructor per row of the table. A group instruction names the core, the group slot and the
fields of its word; its opcode is the constructor's own. A message row carries its packet; an event row carries what it
concerns and what the model takes from outside. -/
inductive Instr where
  /-- `NOP` (R88): A group issues NOP, which does nothing. -/
  | nop (c : Fin 512) (s : Fin 64) (f : InsF)
  /-- `MOV` (R183): A group writes an immediate or wide-form constant to its destination. -/
  | mov (c : Fin 512) (s : Fin 64) (f : InsF)
  /-- `IADD` (R183): A group adds integers, wrapping or saturating per mod bit 57. -/
  | iadd (c : Fin 512) (s : Fin 64) (f : InsF)
  /-- `ISUB` (R183): A group subtracts integers, wrapping or saturating. -/
  | isub (c : Fin 512) (s : Fin 64) (f : InsF)
  /-- `IMUL` (R183): A group writes the low 32 bits of an integer product. -/
  | imul (c : Fin 512) (s : Fin 64) (f : InsF)
  /-- `IMAD` (R183): A group writes the low 32 bits of A times B plus C. -/
  | imad (c : Fin 512) (s : Fin 64) (f : InsF)
  /-- `IMIN` (R183): A group takes the smaller of two integers. -/
  | imin (c : Fin 512) (s : Fin 64) (f : InsF)
  /-- `IMAX` (R183): A group takes the larger of two integers. -/
  | imax (c : Fin 512) (s : Fin 64) (f : InsF)
  /-- `AND` (R183): A group computes a bitwise AND. -/
  | and (c : Fin 512) (s : Fin 64) (f : InsF)
  /-- `OR` (R183): A group computes a bitwise OR. -/
  | or (c : Fin 512) (s : Fin 64) (f : InsF)
  /-- `XOR` (R183): A group computes a bitwise XOR. -/
  | xor (c : Fin 512) (s : Fin 64) (f : InsF)
  /-- `NOT` (R183): A group computes the bitwise complement of A. -/
  | not (c : Fin 512) (s : Fin 64) (f : InsF)
  /-- `SHL` (R184): A group shifts A left by the low 8 bits of B. -/
  | shl (c : Fin 512) (s : Fin 64) (f : InsF)
  /-- `SHR` (R184): A group shifts A right, logically or arithmetically. -/
  | shr (c : Fin 512) (s : Fin 64) (f : InsF)
  /-- `POPC` (R183): A group counts the set bits of A. -/
  | popc (c : Fin 512) (s : Fin 64) (f : InsF)
  /-- `CLZ` (R183): A group counts the leading zeros of A. -/
  | clz (c : Fin 512) (s : Fin 64) (f : InsF)
  /-- `SEL` (R183): A group selects A or B per lane by predicate C. -/
  | sel (c : Fin 512) (s : Fin 64) (f : InsF)
  /-- `SETP` (R185): A group writes a predicate from a comparison of A and B. -/
  | setp (c : Fin 512) (s : Fin 64) (f : InsF)
  /-- `PLOP` (R183): A group computes a predicate from a truth table over three predicates. -/
  | plop (c : Fin 512) (s : Fin 64) (f : InsF)
  /-- `SHFL` (R184): A group reads A from a source lane chosen by IDX, UP, DOWN or XOR. -/
  | shfl (c : Fin 512) (s : Fin 64) (f : InsF)
  /-- `VOTE` (R184): A group writes ANY, ALL or BALLOT of a predicate over active lanes to a u register. -/
  | vote (c : Fin 512) (s : Fin 64) (f : InsF)
  /-- `RDSV` (R80): A group reads a special value such as core ID, time or a local-memory unit number. -/
  | rdsv (c : Fin 512) (s : Fin 64) (f : InsF)
  /-- `FADD` (R185): A group performs an IEEE floating-point add. -/
  | fadd (c : Fin 512) (s : Fin 64) (f : InsF)
  /-- `FSUB` (R185): A group performs an IEEE floating-point subtract. -/
  | fsub (c : Fin 512) (s : Fin 64) (f : InsF)
  /-- `FMUL` (R185): A group performs an IEEE floating-point multiply. -/
  | fmul (c : Fin 512) (s : Fin 64) (f : InsF)
  /-- `FFMA` (R185): A group performs a fused multiply-add rounded once. -/
  | ffma (c : Fin 512) (s : Fin 64) (f : InsF)
  /-- `FMIN` (R99): A group takes the IEEE minimum of two floats. -/
  | fmin (c : Fin 512) (s : Fin 64) (f : InsF)
  /-- `FMAX` (R99): A group takes the IEEE maximum of two floats. -/
  | fmax (c : Fin 512) (s : Fin 64) (f : InsF)
  /-- `EXP2` (R186): A group computes 2 to the power A. -/
  | exp2 (c : Fin 512) (s : Fin 64) (f : InsF)
  /-- `LOG2` (R186): A group computes the base-2 logarithm of A. -/
  | log2 (c : Fin 512) (s : Fin 64) (f : InsF)
  /-- `RSQRT` (R186): A group computes the reciprocal square root of A. -/
  | rsqrt (c : Fin 512) (s : Fin 64) (f : InsF)
  /-- `RCP` (R186): A group computes the reciprocal of A. -/
  | rcp (c : Fin 512) (s : Fin 64) (f : InsF)
  /-- `CVT` (R106): A group converts one element between types under a rounding mode. -/
  | cvt (c : Fin 512) (s : Fin 64) (f : InsF)
  /-- `CVT_AMAX` (R107): A group converts a scaled F32 value and updates a u register with the running absolute maximum. -/
  | cvtAmax (c : Fin 512) (s : Fin 64) (f : InsF)
  /-- `BRA` (R82): A group branches unconditionally. -/
  | bra (c : Fin 512) (s : Fin 64) (f : InsF)
  /-- `BRX` (R54): A group branches on a predicate, pushing a Deferred entry when lanes diverge. -/
  | brx (c : Fin 512) (s : Fin 64) (f : InsF)
  /-- `BRX_ANY` (R89): A group branches on a predicate, merging into an existing Deferred entry. -/
  | brxAny (c : Fin 512) (s : Fin 64) (f : InsF)
  /-- `PUSHM` (R54): A group pushes a Reconverge entry on its mask stack. -/
  | pushm (c : Fin 512) (s : Fin 64) (f : InsF)
  /-- `POPM` (R54): A group pops its mask stack and continues as the entry directs. -/
  | popm (c : Fin 512) (s : Fin 64) (f : InsF)
  /-- `SWAPM` (R54): A group swaps its active path with a Deferred top entry. -/
  | swapm (c : Fin 512) (s : Fin 64) (f : InsF)
  /-- `CALL` (R88): A group branches and writes the return address to u62 and u63. -/
  | call (c : Fin 512) (s : Fin 64) (f : InsF)
  /-- `RET` (R88): A group returns to the address in a u register pair. -/
  | ret (c : Fin 512) (s : Fin 64) (f : InsF)
  /-- `BRI` (R88): A group branches to the address in a u register pair. -/
  | bri (c : Fin 512) (s : Fin 64) (f : InsF)
  /-- `EXIT` (R56): Active lanes exit and the mask stack unwinds, the group becoming Exited when no lane remains. -/
  | exit (c : Fin 512) (s : Fin 64) (f : InsF)
  /-- `BAR` (R58): A group arrives at its block barrier, or parks with BAR_DIVERGED. -/
  | bar (c : Fin 512) (s : Fin 64) (f : InsF)
  /-- `LD` (R90): A group loads from a context virtual address through translation and L1. -/
  | ld (c : Fin 512) (s : Fin 64) (f : InsF)
  /-- `ST` (R90): A group stores to a context virtual address. -/
  | st (c : Fin 512) (s : Fin 64) (f : InsF)
  /-- `LDL` (R191): A group loads from its block's local memory. -/
  | ldl (c : Fin 512) (s : Fin 64) (f : InsF)
  /-- `STL` (R65): A group stores to local memory, waiting while it overlaps a held region. -/
  | stl (c : Fin 512) (s : Fin 64) (f : InsF)
  /-- `CFLUSH` (R93): A group writes back dirty bytes of Streaming lines to their home. -/
  | cflush (c : Fin 512) (s : Fin 64) (f : InsF)
  /-- `CINV` (R93): A group discards its device's copies of Streaming lines. -/
  | cinv (c : Fin 512) (s : Fin 64) (f : InsF)
  /-- `MFENCE` (R95): A group orders its accesses as a release and acquire at a scope. -/
  | mfence (c : Fin 512) (s : Fin 64) (f : InsF)
  /-- `ACQ` (R102): A group tries to acquire a lock word, lanes acting from the lowest upward. -/
  | acq (c : Fin 512) (s : Fin 64) (f : InsF)
  /-- `REL` (R103): A group releases a lock word it holds, resetting spin counts. -/
  | rel (c : Fin 512) (s : Fin 64) (f : InsF)
  /-- `ATOM_ADD` (R100): A group performs a combined atomic add on global memory. -/
  | atomAdd (c : Fin 512) (s : Fin 64) (f : InsF)
  /-- `ATOM_MIN` (R100): A group performs a combined atomic minimum on global memory. -/
  | atomMin (c : Fin 512) (s : Fin 64) (f : InsF)
  /-- `ATOM_MAX` (R100): A group performs a combined atomic maximum on global memory. -/
  | atomMax (c : Fin 512) (s : Fin 64) (f : InsF)
  /-- `ATOM_AND` (R100): A group performs a combined atomic AND on global memory. -/
  | atomAnd (c : Fin 512) (s : Fin 64) (f : InsF)
  /-- `ATOM_OR` (R100): A group performs a combined atomic OR on global memory. -/
  | atomOr (c : Fin 512) (s : Fin 64) (f : InsF)
  /-- `ATOM_XOR` (R100): A group performs a combined atomic XOR on global memory. -/
  | atomXor (c : Fin 512) (s : Fin 64) (f : InsF)
  /-- `ATOM_EXCH` (R100): A group performs sequential atomic exchanges on global memory. -/
  | atomExch (c : Fin 512) (s : Fin 64) (f : InsF)
  /-- `ATOM_CAS` (R100): A group performs sequential compare-and-swaps on global memory. -/
  | atomCas (c : Fin 512) (s : Fin 64) (f : InsF)
  /-- `ATOML_ADD` (R98): A group performs an atomic add on local memory. -/
  | atomlAdd (c : Fin 512) (s : Fin 64) (f : InsF)
  /-- `ATOML_MIN` (R98): A group performs an atomic minimum on local memory. -/
  | atomlMin (c : Fin 512) (s : Fin 64) (f : InsF)
  /-- `ATOML_MAX` (R98): A group performs an atomic maximum on local memory. -/
  | atomlMax (c : Fin 512) (s : Fin 64) (f : InsF)
  /-- `ATOML_AND` (R98): A group performs an atomic AND on local memory. -/
  | atomlAnd (c : Fin 512) (s : Fin 64) (f : InsF)
  /-- `ATOML_OR` (R98): A group performs an atomic OR on local memory. -/
  | atomlOr (c : Fin 512) (s : Fin 64) (f : InsF)
  /-- `ATOML_XOR` (R98): A group performs an atomic XOR on local memory. -/
  | atomlXor (c : Fin 512) (s : Fin 64) (f : InsF)
  /-- `ATOML_EXCH` (R98): A group performs an atomic exchange on local memory. -/
  | atomlExch (c : Fin 512) (s : Fin 64) (f : InsF)
  /-- `ATOML_CAS` (R98): A group performs an atomic compare-and-swap on local memory. -/
  | atomlCas (c : Fin 512) (s : Fin 64) (f : InsF)
  /-- `MXZERO` (R119): A group queues zeroing of a tile with a chosen kind. -/
  | mxzero (c : Fin 512) (s : Fin 64) (f : InsF)
  /-- `MXSTREAM` (R120): A group queues K rank-1 updates into a tile, validated at issue. -/
  | mxstream (c : Fin 512) (s : Fin 64) (f : InsF)
  /-- `MXDIAG` (R121): A group queues element-wise products accumulated into tile rows. -/
  | mxdiag (c : Fin 512) (s : Fin 64) (f : InsF)
  /-- `MXDRAIN` (R122): A group queues a drain of a tile to local memory with conversion and fusions. -/
  | mxdrain (c : Fin 512) (s : Fin 64) (f : InsF)
  /-- `MXWAIT` (R123): A group stalls until a matrix token completes, or returns STALE at once. -/
  | mxwait (c : Fin 512) (s : Fin 64) (f : InsF)
  /-- `BWDOT` (R167): A group issues a weight-panel times activation-vector product to a bywash slot. -/
  | bwdot (c : Fin 512) (s : Fin 64) (f : InsF)
  /-- `HELD_REGION_TIMEOUT` (R66): A store waiting on a held region for 2^20 C-cycles parks its group. -/
  | heldRegionTimeout (c : Fin 512) (s : Fin 64)
  /-- `PARKING_LIMIT_EXPIRY` (R74): A group parked beyond the parking limit aborts its context. -/
  | parkingLimitExpiry (c : Fin 512) (s : Fin 64)
  /-- `GROUP_SLOT_FREE` (R41): An Exited group's last outstanding load completes and its slot and registers are freed. -/
  | groupSlotFree (c : Fin 512) (s : Fin 64)
  /-- `DISPATCH_BLOCK` (R402): The dispatcher places a ready block on a core chosen by shares, yield and packing. -/
  | dispatchBlock
  /-- `LM_UNIT_ZERO_DONE` (R46): Zeroing of a block's newly allocated local-memory units ends and its groups start. -/
  | lmUnitZeroDone (c : Fin 512) (b : Fin 32)
  /-- `MATRIX_PHASE_START` (R134): A queued matrix instruction starts its first phase once its conditions hold. -/
  | matrixPhaseStart (c : Fin 512) (e : Fin 8)
  /-- `MATRIX_PASS_END` (R153): A stream or diag pass settles and the array tests overflow, completing or replaying. -/
  | matrixPassEnd (c : Fin 512) (e : Fin 8)
  /-- `MATRIX_TOKEN_COMPLETE` (R136): A matrix instruction's final phase ends, releasing held regions and waking MXWAIT. -/
  | matrixTokenComplete (c : Fin 512) (e : Fin 8)
  /-- `BWDOT_COMPLETE` (R177): A bywash slot finishes computing and writes its accumulators back. -/
  | bwdotComplete (c : Fin 512) (b : Fin 4)
  /-- `GET_S` (R241): A home or far slice processes a read-ownership request for a line. -/
  | getS (p : Packet)
  /-- `GET_M` (R241): A home or far slice processes a request for exclusive ownership of a line. -/
  | getM (p : Packet)
  /-- `PUT_S` (R241): A home processes an eviction of a shared copy. -/
  | putS (p : Packet)
  /-- `PUT_E` (R241): A home processes an eviction of an exclusive clean copy. -/
  | putE (p : Packet)
  /-- `PUT_O` (R241): A home processes an eviction of an owned copy with dirty sectors. -/
  | putO (p : Packet)
  /-- `PUT_M` (R241): A home processes an eviction of a modified copy with dirty sectors. -/
  | putM (p : Packet)
  /-- `ATOM_F` (R253): A home slice's atomic unit takes a far atomic and executes it on the line. -/
  | atomF (p : Packet)
  /-- `READ_U` (R200): A home slice serves an untracked read. -/
  | readU (p : Packet)
  /-- `WRITE_U` (R212): A home slice merges an untracked masked write. -/
  | writeU (p : Packet)
  /-- `FWD_GET_S` (R245): An owner or chosen sharer answers a forwarded read with Data(S). -/
  | fwdGetS (p : Packet)
  /-- `FWD_GET_M` (R245): An owner answers a forwarded exclusive request with Data(M) and invalidates. -/
  | fwdGetM (p : Packet)
  /-- `INV` (R245): A sharer invalidates its copy and sends InvAck to the ack target. -/
  | inv (p : Packet)
  /-- `RECALL` (R245): An owner returns the line to the home with RecallData or RecallAck. -/
  | recall (p : Packet)
  /-- `EVICT_ACK` (R242): A holder frees its eviction-buffer entry. -/
  | evictAck (p : Packet)
  /-- `DATA` (R243): A requester receives line data with a grant and completes waiting accesses once acks are in. -/
  | data (p : Packet)
  /-- `GRANT` (R241): A requester receives M without data. -/
  | grant (p : Packet)
  /-- `INV_ACK` (R246): An ack target counts an invalidation acknowledgement. -/
  | invAck (p : Packet)
  /-- `RECALL_DATA` (R247): A slice receives recalled dirty sectors and writes them back. -/
  | recallData (p : Packet)
  /-- `RECALL_ACK` (R247): A slice receives a clean recall acknowledgement. -/
  | recallAck (p : Packet)
  /-- `ATOM_RESP` (R254): A core receives far-atomic results and updates its contention predictor. -/
  | atomResp (p : Packet)
  /-- `READ_DATA` (R237): An agent receives the answer to an untracked or bulk read. -/
  | readData (p : Packet)
  /-- `WRITE_ACK` (R246): An agent receives acknowledgement that an untracked or bulk write was performed or not. -/
  | writeAck (p : Packet)
  /-- `MIRROR_REPAIR` (R476): A mirror sector read for a failed primary returns and the primary is rewritten or the line tainted. -/
  | mirrorRepair (sl : Fin 128) (line : Nat)
  /-- `WCB_ENTRY_TIMEOUT` (R213): A write-combining entry untouched for 1,024 F-cycles writes its sectors to HBM. -/
  | wcbEntryTimeout (sl : Fin 128) (line : Nat)
  /-- `PATROL_SCRUB_READ` (R222): Patrol scrub reads the next burst and rewrites it corrected or poisoned. -/
  | patrolScrubRead (st : Fin 8) (ch : Fin 16) (pc : Fin 2) (ecc : Fin 3)
  /-- `CHANNEL_RETRAIN` (R227): An HBM controller retrains a channel on parity errors or a narrow eye. -/
  | channelRetrain (st : Fin 8) (ch : Fin 16)
  /-- `CHANNEL_RETRAIN_DONE` (R227): A channel retrain ends and waiting requests complete, or the stack is lost. -/
  | channelRetrainDone (st : Fin 8) (ch : Fin 16) (good : Bool)
  /-- `WALK_COMPLETE` (R268): A walker returns a translation, a miss or poison to the waiting group or stream. -/
  | walkComplete (agent : Nat) (who : Nat)
  /-- `BARGE_DESCRIPTOR_READ` (R276): A stream reads and validates a descriptor of its COPY. -/
  | bargeDescriptorRead (st : Fin 4096)
  /-- `STREAM_ACCESS_ISSUE` (R278): A ready stream issues its next line or window access. -/
  | streamAccessIssue (st : Fin 4096)
  /-- `COPY_COMPLETE` (R281): A stream performs its COPY's last descriptor and the COPY completes. -/
  | copyComplete (st : Fin 4096)
  /-- `STREAM_STALL_LIMIT_EXPIRY` (R288): A stream stalled on a fault beyond the parking limit aborts its context. -/
  | streamStallLimitExpiry (st : Fin 4096)
  /-- `UNMAP_DRAIN_COMPLETE` (R290): Every agent reports its older-epoch transactions drained and UNMAP removes the entries. -/
  | unmapDrainComplete (x : Fin 4096)
  /-- `UNMAP_BOUND_EXPIRY` (R292): At 50 ms outstanding older-epoch transactions are orphaned and UNMAP completes ORPHANED. -/
  | unmapBoundExpiry (x : Fin 4096)
  /-- `BULK_READ` (R306): A target receives a bulk read of up to 8 lines. -/
  | bulkRead (p : Packet)
  /-- `BULK_WRITE` (R306): A target receives a bulk write, or answers HeldRetry for a held region. -/
  | bulkWrite (p : Packet)
  /-- `BULK_REDUCE` (R277): A home slice adds reducing-copy words in its atomic unit. -/
  | bulkReduce (p : Packet)
  /-- `ROUTE_MARK` (R321): A device forwards a route mark behind its VC2 traffic or answers MarkAck at the destination. -/
  | routeMark (p : Packet)
  /-- `MARK_ACK` (R321): A device releases VC2 packets held for a destination after its link went Down. -/
  | markAck (p : Packet)
  /-- `ERROR_RESP` (R36): A requester receives an error response and parks, faults or denies. -/
  | errorResp (p : Packet)
  /-- `HELD_RETRY` (R306): A stream or core receives HeldRetry and stalls before reissuing. -/
  | heldRetry (p : Packet)
  /-- `CORE_HELD_RETRY` (R407): A core retries a transaction 256 F-cycles after HeldRetry. -/
  | coreHeldRetry (c : Fin 512) (e : Nat)
  /-- `MGMT_READ` (R511): A device's management engine performs a register read for another device. -/
  | mgmtRead (p : Packet)
  /-- `MGMT_WRITE` (R511): A device's management engine performs a register write for another device. -/
  | mgmtWrite (p : Packet)
  /-- `MGMT_RESP` (R315): A requester receives a management response. -/
  | mgmtResp (p : Packet)
  /-- `PEER_DOWN` (R322): A device forwards a PeerDown once, marks the peer down and applies R250. -/
  | peerDown (p : Packet)
  /-- `PEER_UP` (R323): A device clears a down mark for a rebooted peer. -/
  | peerUp (p : Packet)
  /-- `TIME_OFFSET` (R328): A device takes its offset from its time parent and passes its own on. -/
  | timeOffset (p : Packet)
  /-- `PING` (R315): A Lockkeeper answers a Ping with MgmtResp. -/
  | ping (p : Packet)
  /-- `PACKET_FORWARD` (R312): A device routes a transit or outgoing packet to an output port and sub-channel. -/
  | packetForward (p : Packet)
  /-- `FLIT_RECEIVE` (R301): A port accepts an in-order flit or discards it and sends nak, and returns credits. -/
  | flitReceive (port : Fin 18) (f : FlitIn)
  /-- `HELLO` (R325): A port receives a neighbour's Hello with ID, port and boot count. -/
  | hello (port : Fin 18) (dev : BitVec 12) (nport : BitVec 5) (boot : BitVec 28) (nonce : BitVec 256)
  /-- `PROOF` (R325): A port checks its neighbour's signature and enables or disables the link. -/
  | proof (port : Fin 18) (sigOk : Bool)
  /-- `TIME_PROBE` (R326): A port captures t2 and answers with TimeReply. -/
  | timeProbe (port : Fin 18) (turn : Nat)
  /-- `TIME_REPLY` (R327): A port records a time exchange and computes its link offset after 16. -/
  | timeReply (port : Fin 18) (t2 : BitVec 64) (t3 : BitVec 64)
  /-- `GMAC` (R302): A port verifies the GMAC over 16 encrypted flits, disabling after three failures. -/
  | gmac (port : Fin 18) (ok : Bool)
  /-- `LANE_FAIL` (R318): A lane fails and the port retrains at a narrower width. -/
  | laneFail (port : Fin 18) (lane : Fin 8)
  /-- `LINK_SILENCE_TIMEOUT` (R320): A port with no valid flit for 10 µs begins a retrain. -/
  | linkSilenceTimeout (port : Fin 18)
  /-- `PORT_RETRAIN_DONE` (R320): A port retrain ends Up, or after three failures the port goes Down. -/
  | portRetrainDone (port : Fin 18) (ok : Bool) (lanes : BitVec 8)
  /-- `NEIGHBOUR_SEQ_TIMEOUT` (R320): A Down port's neighbour gives no sequence answer in 50 ms and its packets are treated as sent to a downed device. -/
  | neighbourSeqTimeout (port : Fin 18)
  /-- `PING_TIMEOUT` (R322): No Ping answer within 50 ms makes the Lockkeeper flood PeerDown. -/
  | pingTimeout (port : Fin 18)
  /-- `FAB_PORT_RETRAIN` (R332): Berth 0 writes the retrain bit and the port retrains from step 1 at up to x8. -/
  | fabPortRetrain (port : Fin 18) (berth : Fin 32)
  /-- `LINK_REKEY` (R440): A port repeats Hello and Proof before 2^47 flits and increments its key epoch. -/
  | linkRekey (port : Fin 18)
  /-- `LPI_ENTRY` (R448): An idle peer port enters low-power idle after 2 µs. -/
  | lpiEntry (port : Fin 18)
  /-- `ETHERNET_FRAME` (R333): A Host or Storage port receives a frame, answering ARP, ND and echo and discarding others. -/
  | ethernetFrame (port : Fin 18) (f : Frame)
  /-- `ANNOUNCE` (R338): A wharf sends ANNOUNCE from each Host port once per second. -/
  | announce (port : Fin 18)
  /-- `JOIN` (R339): A wharf checks a host's identity and sends JOIN_ACCEPT or JOIN_REJECT. -/
  | join (k : HostPkt)
  /-- `JOIN_ACCEPT` (R347): An Eozer joining a storage appliance verifies acceptance and sends JOIN_CONFIRM. -/
  | joinAccept (k : HostPkt)
  /-- `JOIN_REJECT` (R340): An Eozer joining a storage appliance receives a rejection. -/
  | joinReject (k : HostPkt)
  /-- `JOIN_CONFIRM` (R339): A wharf verifies JOIN_CONFIRM and the session becomes Active. -/
  | joinConfirm (k : HostPkt)
  /-- `JOIN_CONFIRM_TIMEOUT` (R340): A session slot with no JOIN_CONFIRM within 1 s is freed. -/
  | joinConfirmTimeout (n : Fin 256)
  /-- `REG_READ` (R344): A wharf performs a host's register read. -/
  | regRead (k : HostPkt)
  /-- `REG_WRITE` (R344): A wharf performs a host's register write. -/
  | regWrite (k : HostPkt)
  /-- `MEM_READ` (R344): A wharf performs a host's device-memory read. -/
  | memRead (k : HostPkt)
  /-- `MEM_WRITE` (R344): A wharf performs a host's device-memory write. -/
  | memWrite (k : HostPkt)
  /-- `DOORBELL` (R344): A wharf issues a host's doorbell write after earlier operations complete. -/
  | doorbell (k : HostPkt)
  /-- `WINDOW_OPEN` (R346): A host or storage appliance opens a window onto its memory. -/
  | windowOpen (k : HostPkt)
  /-- `WINDOW_CLOSE` (R348): A host or storage appliance closes a window after its accesses are answered. -/
  | windowClose (k : HostPkt)
  /-- `SUBSCRIBE` (R349): A host subscribes to an event ring of a device and berth. -/
  | subscribe (k : HostPkt)
  /-- `UNSUBSCRIBE` (R349): A host ends an event-ring subscription. -/
  | unsubscribe (k : HostPkt)
  /-- `RESP` (R346): A device receives a host's answer to a WIN_READ or WIN_WRITE. -/
  | resp (k : HostPkt)
  /-- `ACK` (R342): A session side receives an ACK bitmap and frees or retransmits reliable packets. -/
  | ack (k : HostPkt)
  /-- `RETRANSMIT_TIMEOUT` (R342): A reliable packet unacknowledged for four smoothed round trips is retransmitted. -/
  | retransmitTimeout (n : Fin 512) (rseq : BitVec 32)
  /-- `HEARTBEAT` (R353): A session side receives a HEARTBEAT. -/
  | heartbeat (k : HostPkt)
  /-- `HEARTBEAT_SEND` (R353): Each side sends HEARTBEAT every 100 ms. -/
  | heartbeatSend (n : Fin 512)
  /-- `HEARTBEAT_TIMEOUT` (R353): Ten intervals without a HEARTBEAT end the session. -/
  | heartbeatTimeout (n : Fin 512)
  /-- `LEAVE` (R354): A receiver processes LEAVE, acknowledges and ends the session. -/
  | leave (k : HostPkt)
  /-- `WINDOW_ACCESS_TIMEOUT` (R348): A window access without RESP for 1 s closes the window and ends the session. -/
  | windowAccessTimeout (n : Fin 512) (tag : BitVec 32)
  /-- `EVENT_COALESCE_TIMEOUT` (R351): The oldest held record reaches the coalescing time and the wharf sends an EVENT. -/
  | eventCoalesceTimeout (n : Fin 256) (berth : Fin 32)
  /-- `GRACE_TIME_EXPIRY` (R412): A berth's grace time expires without a session and its departure policy applies. -/
  | graceTimeExpiry (berth : Fin 32)
  /-- `QUE_DOORBELL` (R362): A write to a queue's doorbell is checked and accepted as its new tail. -/
  | queDoorbell (w : Fin 32) (q : Fin 4096) (v : BitVec 32)
  /-- `QUE_ENABLE` (R362): Setting a queue's enable sets head and tail to 0 if its base is valid. -/
  | queEnable (w : Fin 32) (q : Fin 4096)
  /-- `QUE_DISABLE` (R392): Clearing a queue's enable takes effect in Idle or Halted state. -/
  | queDisable (w : Fin 32) (q : Fin 4096)
  /-- `QUE_RESUME` (R366): A Halted queue leaves Halted and continues with its next record. -/
  | queResume (w : Fin 32) (q : Fin 4096)
  /-- `QUE_DISCARD` (R366): A Halted queue moves its head to its tail and leaves Halted. -/
  | queDiscard (w : Fin 32) (q : Fin 4096)
  /-- `LAUNCH` (R369): A command processor begins a kernel launch and hands it to the dispatcher. -/
  | launch (q : Fin 4096)
  /-- `COPY` (R272): A command processor assigns a COPY to a free stream of the berth's share. -/
  | copy (q : Fin 4096)
  /-- `FENCE_SIGNAL` (R376): A command signals a local or remote fence with a value. -/
  | fenceSignal (q : Fin 4096)
  /-- `FENCE_WAIT` (R377): A command waits until a fence reaches its target, is ABORTED or times out. -/
  | fenceWait (q : Fin 4096)
  /-- `BATCH_MARK` (R373): A command closes the queue's counter bank and opens one under a batch identifier. -/
  | batchMark (q : Fin 4096)
  /-- `QUERY_USAGE` (R383): A command writes a context's usage figures to a result address. -/
  | queryUsage (q : Fin 4096)
  /-- `TIMESTAMP_WRITE` (R537): A command writes the global time at which it began to an address. -/
  | timestampWrite (q : Fin 4096)
  /-- `LEDGER_MARK` (R503): A command makes a ledger mark record. -/
  | ledgerMark (q : Fin 4096)
  /-- `CREATE_CONTEXT` (R359): An admin command makes the lowest Free context number Live. -/
  | createContext (q : Fin 4096)
  /-- `DESTROY_CONTEXT` (R391): An admin command begins or awaits the bounded abort of a context. -/
  | destroyContext (q : Fin 4096)
  /-- `MAP` (R264): An admin command installs or widens a range entry. -/
  | map (q : Fin 4096)
  /-- `UNMAP` (R290): An admin command withdraws a span and increments the translation epoch. -/
  | unmap (q : Fin 4096)
  /-- `RESUME_STREAM` (R285): An admin command resumes a stream stalled on a posted fault with a matching tag. -/
  | resumeStream (q : Fin 4096)
  /-- `REPLAY_GROUP` (R72): An admin command re-executes a parked group's faulting instruction. -/
  | replayGroup (q : Fin 4096)
  /-- `KILL_GROUP` (R72): An admin command makes a parked group Exited. -/
  | killGroup (q : Fin 4096)
  /-- `EXPORT_FENCE` (R381): An admin command adds, updates or revokes a fence export and import entry. -/
  | exportFence (q : Fin 4096)
  /-- `BERTH_RESET` (R413): Berth 0 begins a reset of another berth. -/
  | berthReset (q : Fin 4096)
  /-- `BERTH_RESET_COMPLETE` (R413): A berth reset finishes its steps, the berth becomes Live and BERTH_RESET_DONE is written. -/
  | berthResetComplete (berth : Fin 32)
  /-- `COMMAND_COMPLETION` (R369): A finished command posts its fence signal and completion record in record order. -/
  | commandCompletion (q : Fin 4096)
  /-- `FENCE_WAIT_TIMEOUT` (R377): A FENCE_WAIT's timeout passes and it completes with FENCE_TIMEOUT. -/
  | fenceWaitTimeout (q : Fin 4096) (n : Nat)
  /-- `REMOTE_FENCE_POLL` (R382): A remote wait reads the fence value every 1 µs. -/
  | remoteFencePoll (q : Fin 4096) (n : Nat)
  /-- `FEN_SIGNAL` (R376): A write of FEN_SIGNAL applies a signal to a fence. -/
  | fenSignal (w : Fin 32) (f : Fin 65536) (v : BitVec 64)
  /-- `FEN_REBASE` (R380): A write of FEN_REBASE sets an idle fence's value or is refused. -/
  | fenRebase (w : Fin 32) (f : Fin 65536) (v : BitVec 64)
  /-- `FEN_CONFIG_WRITE` (R374): A write of FEN_CONFIG changes owner, valid or strict under the idle and Live checks. -/
  | fenConfigWrite (w : Fin 32) (f : Fin 65536) (v : BitVec 32)
  /-- `CONTEXT_ABORT_COMPLETE` (R385): An abort's transactions drain, owned fences become ABORTED and CONTEXT_ABORTED is written. -/
  | contextAbortComplete (x : Fin 4096)
  /-- `ABORT_BOUND_EXPIRY` (R386): At 12 ms outstanding transactions of an aborted context are orphaned. -/
  | abortBoundExpiry (x : Fin 4096)
  /-- `BTH_FQ_CONS_WRITE` (R287): A driver advances the fault queue's consumer index, and Pending records are posted. -/
  | bthFqConsWrite (w : Fin 32) (berth : Fin 32) (v : BitVec 32)
  /-- `BTH_RING_CONS_WRITE` (R411): A driver advances an event ring's consumer index, freeing room for waiting completion records. -/
  | bthRingConsWrite (w : Fin 32) (berth : Fin 32) (ring : Fin 16) (v : BitVec 32)
  /-- `BTH_RING_ENABLE` (R410): A driver enables an event ring, zeroing its indices. -/
  | bthRingEnable (w : Fin 32) (berth : Fin 32) (ring : Fin 16) (v : BitVec 32)
  /-- `BTH_GRANT_PAGE` (R397): Berth 0 grants a grant page to a berth. -/
  | bthGrantPage (w : Fin 32) (v : BitVec 32)
  /-- `BTH_RELEASE_PAGE` (R397): Berth 0 returns a grant page to berth 0. -/
  | bthReleasePage (w : Fin 32) (v : BitVec 32)
  /-- `GRANT_APPLY_DONE` (R397): An ownership change is seen by every slice and busy clears. -/
  | grantApplyDone
  /-- `TOKEN_BUCKET_RELEASE` (R406): Accrued tokens release a berth's waiting HBM request at a slice. -/
  | tokenBucketRelease (sl : Fin 128) (berth : Fin 32)
  /-- `BTH_ATTEST` (R437): A berth writes a buffer address to request an attestation report. -/
  | bthAttest (w : Fin 32) (berth : Fin 32) (v : BitVec 64)
  /-- `ATTEST_DONE` (R437): The Lockkeeper writes the signed report and an ATTEST_DONE record. -/
  | attestDone (berth : Fin 32)
  /-- `COLD_START` (R425): Release of RESET_N or VAON restoration runs the boot steps to Ready or Recovery. -/
  | coldStart (b : BootIn)
  /-- `WARM_RESET` (R427): The Lockkeeper command performs a warm reset, optionally preserving HBM. -/
  | warmReset (b : BootIn)
  /-- `MAINTENANCE_ENTER` (R435): The Lockkeeper aborts contexts of berths 1 to 31 and enters Maintenance. -/
  | maintenanceEnter
  /-- `MAINTENANCE_EXIT` (R433): The Lockkeeper leaves Maintenance by a warm reset without preserve. -/
  | maintenanceExit (b : BootIn)
  /-- `MARGIN_STACKS` (R226): The Lockkeeper fully margins the stacks and journals the results. -/
  | marginStacks (r : List StackIn)
  /-- `CLEAR_HEALTH` (R433): The Lockkeeper removes way-disable or characterisation entries from the health record. -/
  | clearHealth
  /-- `FW_UPDATE` (R434): The Lockkeeper checks and writes a new firmware image to NVM. -/
  | fwUpdate (img : Image) (nvmOk : Bool)
  /-- `MANIFEST_UPDATE` (R434): The Lockkeeper checks and writes a new manifest to NVM. -/
  | manifestUpdate (m : Manifest) (nvmOk : Bool)
  /-- `REMEASURE_TIME` (R330): The time root passes a remeasurement down the tree and devices recompute their offsets. -/
  | remeasureTime
  /-- `DEBUG_CONSENT` (R441): The Lockkeeper holds an installation-signed debug consent record. -/
  | debugConsent (sigOk : Bool) (serial : BitVec 128) (hash : BitVec 512)
  /-- `DEBUG_UNLOCK` (R441): A valid Keagor token on the test port zeroises keys and memory and enters Debug. -/
  | debugUnlock (sigOk : Bool) (serial : BitVec 128) (hash : BitVec 512)
  /-- `DOMAIN_GATE` (R445): A core domain idle for the Slack water idle time is written back and gated. -/
  | domainGate (pd : Fin 32)
  /-- `DOMAIN_WAKE_DONE` (R446): A woken domain's shadows are restored and waiting work proceeds. -/
  | domainWakeDone (pd : Fin 32)
  /-- `PWR_MOOR` (R449): Berth 0 writes moor and the mooring sequence stops admission. -/
  | pwrMoor (w : Fin 32) (v : BitVec 32)
  /-- `MOORING_QUIESCED` (R450): Work has drained and the device saves state and enters Moored. -/
  | mooringQuiesced
  /-- `MOORING_ABANDON` (R450): Step 1 not finished within 1 s abandons mooring with BUSY. -/
  | mooringAbandon
  /-- `WAKE_TIME_REACHED` (R451): Global time reaches PWR_WAKE and the Moored device unmoors. -/
  | wakeTimeReached
  /-- `WAKE_LAND` (R451): A rising edge on the WAKE land unmoors a Moored device. -/
  | wakeLand
  /-- `GAUGE_MEASUREMENT` (R456): Every 10 minutes the Lockkeeper measures every gauge. -/
  | gaugeMeasurement (g : GaugeIn)
  /-- `JOURNAL_APPEND` (R460): The Lockkeeper appends a margin step to the NVM journal, compacting when a half fills. -/
  | journalAppend
  /-- `DERATE_STEP` (R27): The C and A setting moves one sixteenth at a frame boundary. -/
  | derateStep
  /-- `THERMAL_LOOP_STEP` (R462): The thermal loop lowers or raises its level from the hottest temperature. -/
  | thermalLoopStep (temp : Nat)
  /-- `THERMAL_TRIP` (R462): A junction or stack over its trip point stops every clock and asserts THERMTRIP. -/
  | thermalTrip
  /-- `CURRENT_LOOP_STEP` (R463): The current loop lowers or raises its level from package power and regulator alerts. -/
  | currentLoopStep (power : Nat) (avg : Nat) (alert : Bool)
  /-- `TIMING_SAFETY_STEP` (R463): The timing-safety loop lowers or raises its level from replica slack. -/
  | timingSafetyStep (slack : Int)
  /-- `CAP_LOOP_STEP` (R464): The cap loop lowers its level or the active-core limit, or undoes its last action. -/
  | capLoopStep (avg : Nat)
  /-- `POLICY_UNMET` (R467): A policy kept from holding for 10 ms writes POLICY_UNMET. -/
  | policyUnmet (reason : Fin 7) (port : Fin 18)
  /-- `POLICY_MET` (R467): A policy held again for 1 s writes POLICY_MET. -/
  | policyMet (reason : Fin 7) (port : Fin 18)
  /-- `RAIL_TELEMETRY_READ` (R454): The Lockkeeper reads every rail each millisecond and takes the fatal path on a fault. -/
  | railTelemetryRead (r : List RailIn)
  /-- `COUNTER_SAMPLE` (R487): Once per interval the Eozer captures operator counters into a sample record. -/
  | counterSample (x : SampleIn)
  /-- `COUNTER_VIEW_SAMPLE` (R496): A read of a counter view's first word captures the whole view for the requester. -/
  | counterViewSample (who : Nat) (w : Fin 32) (q : Fin 4096) (last : Bool)
  /-- `LEDGER_DELIVERY` (R499): An in-core buffer delivers a ledger record and the assembly places it in the ring. -/
  | ledgerDelivery (src : Nat)
  /-- `LDG_TRIGGER` (R502): Berth 0 writes LDG_TRIGGER to trigger the ledger. -/
  | ldgTrigger (w : Fin 32)
  /-- `LEDGER_ENABLE` (R503): Setting ledger enable zeroes its counts and enters Recording. -/
  | ledgerEnable (w : Fin 32) (v : BitVec 32)
  /-- `LEDGER_DISABLE` (R503): Clearing ledger enable stops placement and discards buffered records. -/
  | ledgerDisable (w : Fin 32) (v : BitVec 32)
  /-- `REGISTER_LO_READ` (R13): A read of a _LO half captures the _HI half into the requester's shadow. -/
  | registerLoRead (who : Nat) (off : BitVec 32)
  /-- `REGISTER_LO_WRITE` (R13): A write of a _LO half is held until the requester's _HI write. -/
  | registerLoWrite (who : Nat) (off : BitVec 32) (v : BitVec 32)
  /-- `REGISTER_WRITE` (R10): A write to a register without its own row takes effect as its access code states. -/
  | registerWrite (who : Nat) (off : BitVec 32) (v : BitVec 32)
  /-- `READ_REG` (R531): The side-band port reads an always-readable register. -/
  | readReg (off : BitVec 24) (pecOk : Bool)
  /-- `READ_FATAL` (R531): The side-band port reads 4 bytes of the NVM fatal log. -/
  | readFatal (off : BitVec 24) (pecOk : Bool)
  /-- `WAKE` (R531): A side-band command wakes a Moored device. -/
  | wake (pecOk : Bool)
  /-- `CLEAR_RETIREMENT` (R484): A side-band command removes the retirement-cause entry. -/
  | clearRetirement (pecOk : Bool) (nvmOk : Bool)
  /-- `SIDEBAND_PING` (R531): A side-band command returns the Lockkeeper state and boot step. -/
  | sidebandPing (pecOk : Bool)
  /-- `RESET_N_ASSERT` (R523): An assertion of RESET_N for at least 10 µs stops the device for a cold reset. -/
  | resetNAssert (ns : Nat)
  /-- `VAON_LOSS` (R524): VAON out of tolerance over 10 µs loses always-on contents. -/
  | vaonLoss (ns : Nat)
  /-- `REFCLK_LOSS` (R525): REFCLK stopped over 1 µs stops every clock of the device. -/
  | refclkLoss (ns : Nat)
  /-- `NET_PORT_DOWN` (R354): A Host or Storage Ethernet port loses its link, and every session on that port ends with reason port down. -/
  | netPortDown (port : Fin 18)
  deriving DecidableEq, Repr

end Sys2Proof
end

