-- ==== Sys2Proof/Decode.lean ====
section
/-! DEFINITION. The decoder of table words. spec/opcode_table.json gives no row any bits. -/

namespace Sys2Proof

/-- The command that a word spells by the bits of the opcode table: the table gives bits to no row. (DESIGN CHOICE, assumption 4.) -/
def decodeTableWord (nbits w : Nat) : Option Instr :=
  match nbits, w with
  | _, _ => none

end Sys2Proof
end

