-- ==== Sys2Proof/Config.lean ====
section
/-! DEFINITION. The values that the spec leaves open: opaque constants without a body, so that no proof can rest on one of
them. -/

namespace Sys2Proof.Config

/-- What the 32 bytes of a sector decrypt to under one key when they were encrypted under another (R211): AES-256-XTS with the sector's
number as tweak; each key by its number and generation. (DESIGN CHOICE, assumption 150.) -/
opaque recrypt (wroteKey wroteGen readKey readGen sector : Nat) (v : BitVec 256) : BitVec 256

/-- What a byte of HBM reads as when it was never written under the key that reads it (R211, R226, R413): a function of
the byte's local physical address, the key and the key's generation. (DESIGN CHOICE, assumption 7.) -/
opaque freeByte : Nat → Nat → Nat → BitVec 8

/-- A draw of the stochastic rounding generator (R162): a function of the core and of the number of draws taken.
(DESIGN CHOICE, assumption 9.) -/
opaque stochastic : Nat → Nat → Nat

/-- Candidate F32 results of EXP2, LOG2, RSQRT and RCP (R186), used only where they meet the bound that R186 gives:
operation 0 to 3 and operand. (DESIGN CHOICE, assumption 10.) -/
opaque transcendental : Nat → BitVec 32 → BitVec 32

/-- A byte that a barge copy leaves unspecified because its source and destination overlap, or because an earlier descriptor of
its stream touches it without a fence (R273): a function of the number of such bytes drawn before.
(DESIGN CHOICE, assumption 11.) -/
opaque copyByte : Nat → BitVec 8

/-- Whether a host or storage window of another device is open when a MAP names it (R264): a function of the number of such questions
asked before. (DESIGN CHOICE, assumption 151.) -/
opaque farWindow : Nat → Bool

/-- SHA-512 of a 256-bit value, such as a signing key (R423, R428). (DESIGN CHOICE, assumption 12.) -/
opaque sha512 : BitVec 256 → BitVec 512

/-- The identity public key and certificate fields that an attestation report carries (R436, R437), and its signature:
the report's bytes that are not fixed by the device's state, by byte position and request number.
(DESIGN CHOICE, assumption 13.) -/
opaque reportByte : Nat → Nat → BitVec 8

/-- Nonces, session keys and other values drawn from the entropy source (R339, R438), by draw number.
(DESIGN CHOICE, assumption 14.) -/
opaque entropy : Nat → BitVec 256

/-- SHA-512 of bytes, for the transcript of a join (R339). (DESIGN CHOICE, assumption 12.) -/
opaque sha512Bytes : List (BitVec 8) → BitVec 512

/-- X25519 of a private and a public key (R339); the public key of a private key is its product with 9. (DESIGN CHOICE, assumption 14.) -/
opaque x25519 : BitVec 256 → BitVec 256 → BitVec 256

/-- The 72 bytes that HKDF-SHA-512 derives from a shared secret with a salt (R339). (DESIGN CHOICE, assumption 14.) -/
opaque hkdf : BitVec 256 → BitVec 512 → BitVec 576

/-- The public key of the device identity that a device secret gives (R339, R436). (DESIGN CHOICE, assumption 14.) -/
opaque identityKey : BitVec 256 → BitVec 256

/-- A signature by the device identity key (R338 to R340), by draw number. (DESIGN CHOICE, assumption 13.) -/
opaque signature : Nat → BitVec 512

end Sys2Proof.Config
end

