-- ==== Sys2Proof/Machine/State.lean ====
section
/-! DEFINITION. The state of the block as plain data: every register, buffer, counter, mode and pin that the spec gives
the KGE-5128, the queue of waiting commands, and the reasons a step can stop. A field that is a list of pairs is a sparse
map, its keys rising; a key that is not listed stands for the default that the field's line names. -/

namespace Sys2Proof.Machine

/-- States of a group slot (R40). -/
inductive GState where
  | free
  | running
  | barrier
  | parked
  | exited
  deriving DecidableEq, Repr

/-- Kinds of a mask-stack entry (R54). -/
inductive MaskKind where
  | reconverge
  | deferred
  deriving DecidableEq, Repr

/-- Kinds of an accumulator tile (R113). -/
inductive TileKind where
  | unset
  | fp32
  | bf16
  | int32
  deriving DecidableEq, Repr

/-- Saturation flag of a tile (R156). -/
inductive Sat where
  | none
  | pinned
  | exhausted
  deriving DecidableEq, Repr

/-- Instructions of the matrix queue (R118). -/
inductive MxOp where
  | zero
  | stream
  | diag
  | drain
  deriving DecidableEq, Repr

/-- Phases of a queued matrix instruction (R133). -/
inductive MxPhase where
  | queued
  | zero
  | pass
  | drain
  | done
  deriving DecidableEq, Repr

/-- States of a copy of a line (R232). -/
inductive LState where
  | m
  | o
  | e
  | s
  | i
  deriving DecidableEq, Repr

/-- What a memory instruction in flight does. -/
inductive MemKind where
  | load
  | store
  | atomic
  | acq
  | rel
  | cflush
  | cinv
  deriving DecidableEq, Repr

/-- Request of an outstanding transaction. -/
inductive ReqKind where
  | getS
  | getM
  | readU
  | writeU
  | atomF
  | flush
  | fetch
  deriving DecidableEq, Repr

/-- Directory states (R233). -/
inductive DirState where
  | uncached
  | shared
  | owned
  | exclusive
  deriving DecidableEq, Repr

/-- States of a context (R359). -/
inductive CtxState where
  | free
  | live
  | aborted
  deriving DecidableEq, Repr

/-- States of a stream (R294). -/
inductive StreamSt where
  | idle
  | running
  | translating
  | faulted
  | pending
  | held
  | cancelling
  deriving DecidableEq, Repr

/-- States of a berth (R393). -/
inductive BerthSt where
  | absent
  | live
  | resetting
  deriving DecidableEq, Repr

/-- Roles of a port (R296, R332). -/
inductive PortRole where
  | peer
  | host
  | storage
  | unused
  deriving DecidableEq, Repr

/-- States of a port (R332). -/
inductive PortSt where
  | off
  | training
  | up
  | retraining
  | down
  | disabled
  deriving DecidableEq, Repr

/-- States of a session slot (R357). -/
inductive SessSt where
  | free
  | joining
  | active
  | moored
  deriving DecidableEq, Repr

/-- States of the Lockkeeper (R443). -/
inductive LkpSt where
  | booting
  | ready
  | maintenance
  | recovery
  | retired
  | debug
  deriving DecidableEq, Repr

/-- Power states that the model holds (R444); Slack water is Under way with a gated domain or a port in low-power idle. -/
inductive PwrSt where
  | underway
  | mooring
  | moored
  | unmooring
  deriving DecidableEq, Repr

/-- States of the passage ledger (R506). -/
inductive LdgSt where
  | off
  | recording
  | triggered
  | stopped
  deriving DecidableEq, Repr

/-- One entry of a group's mask stack (R54). -/
structure MaskEntry where
  /-- Reconverge or Deferred. spec 02 R54. -/
  kind : MaskKind := .reconverge
  /-- the lanes the entry holds. spec 02 R54. -/
  mask : BitVec 32 := 0
  /-- where the entry continues. spec 02 R54. -/
  addr : BitVec 56 := 0
  deriving DecidableEq, Repr

/-- `MaskEntry` with every field at its reset value. -/
def MaskEntry.reset : MaskEntry := {}

/-- What a Parked group keeps of its fault (R70). -/
structure ParkInfo where
  /-- fault code of the table of R69. spec 02 R69. -/
  code : Nat := 0
  /-- park_tag, 16 bits. spec 02 R70. -/
  tag : Nat := 0
  /-- address of the faulting instruction. spec 02 R70. -/
  pc : BitVec 64 := 0
  /-- completed_mask. spec 02 R70. -/
  completed : BitVec 32 := 0
  /-- active_mask. spec 02 R70. -/
  active : BitVec 32 := 0
  /-- fault_address. spec 02 R69. -/
  addr : BitVec 64 := 0
  /-- detail. spec 02 R69. -/
  detail : Nat := 0
  /-- park_time, global time in sixteenths of a tick. spec 02 R70. -/
  time : Nat := 0
  /-- the record is held Pending, not posted. spec 02 R73. -/
  pend : Bool := false
  /-- where and with which mask the group goes on after a replay when it had issued past the faulting instruction. spec 02 R72. -/
  resume : Option (BitVec 64 × BitVec 32) := none
  deriving DecidableEq, Repr

/-- `ParkInfo` with every field at its reset value. -/
def ParkInfo.reset : ParkInfo := {}

/-- One group slot of a core (R38, R40). -/
structure Group where
  /-- Free, Running, Barrier, Parked or Exited. spec 02 R40. -/
  st : GState := .free
  /-- block slot of the group's block. spec 02 R38. -/
  block : Nat := 0
  /-- program counter, 64 bits as RET and BRI take it (R32). spec 03 R81. -/
  pc : BitVec 64 := 0
  /-- active mask A. spec 02 R43. -/
  active : BitVec 32 := 0
  /-- lanes that have not exited. spec 02 R56. -/
  live : BitVec 32 := 0
  /-- mask stack, top first, at most 16. spec 02 R54. -/
  stack : List MaskEntry := []
  /-- per lane, 32 times its spin count plus the holder's lane last seen (sparse, default 0). spec 02 R62. -/
  spins : List (Nat × Nat) := []
  /-- uniform registers u0-u63 (sparse, default 0). spec 03 R77. -/
  u : List (Nat × BitVec 32) := []
  /-- predicates p0-p7, bit n for lane n (sparse, default 0). spec 03 R77. -/
  p : List (Nat × BitVec 32) := []
  /-- per-thread registers, key 32*n+lane (sparse, default 0). spec 03 R77. -/
  v : List (Nat × BitVec 32) := []
  /-- registers, as operand field values, that await an earlier write. spec 02 R50. -/
  await : List Nat := []
  /-- parkings since the slot was filled. spec 02 R70. -/
  parks : Nat := 0
  /-- the present parking. spec 02 R70. -/
  park : Option ParkInfo := none
  /-- a replay is running; A is restored to this mask when it completes. spec 02 R72. -/
  replay : Option (BitVec 32) := none
  /-- pc and mask to go on with after the replayed instruction. spec 02 R72. -/
  resume : Option (BitVec 64 × BitVec 32) := none
  /-- C-cycle count at which a store began to wait on a held region. spec 02 R66. -/
  heldSince : Option Nat := none
  /-- local-memory offsets of the acting lanes of the store or atomic that waits, in lane order. spec 02 R66. -/
  heldAccs : List Nat := []
  /-- bytes of each of those accesses. spec 02 R66. -/
  heldWidth : Nat := 0
  /-- bywash slot whose lines this group waits for. spec 06 R176. -/
  bwHold : Option Nat := none
  /-- a walk for this virtual address is in progress; the group presents nothing. spec 09 R271. -/
  walkVa : Option Nat := none
  /-- the line that an instruction fetch of the group awaits; the group presents nothing. spec 07 R197. -/
  fetching : Option Nat := none
  /-- pages that walks for the present instruction found no range for; its next presentation meets them. spec 09 R271. -/
  absent : List Nat := []
  /-- lanes that received ACQ_HELD since their last ACQUIRED. spec 17 R497. -/
  acqHeld : BitVec 32 := 0
  /-- C-cycle count when the slot was filled. spec 17 R492. -/
  since : Nat := 0
  deriving DecidableEq, Repr

/-- `Group` with every field at its reset value. -/
def Group.reset : Group := {}

/-- One block slot of a core (R38). -/
structure Block where
  /-- context number. spec 02 R38. -/
  ctx : Nat := 0
  /-- context instance. spec 02 R46. -/
  inst : Nat := 0
  /-- berth of the context. spec 13 R401. -/
  berth : Nat := 0
  /-- queue of the launching command. spec 02 R70. -/
  queue : Nat := 0
  /-- sequence number of the launching command. spec 02 R70. -/
  seq : BitVec 32 := 0
  /-- order number of the LAUNCH in its queue. spec 12 R369. -/
  launch : Nat := 0
  /-- g, groups of the block. spec 02 R38. -/
  groups : Nat := 1
  /-- threads of the block. spec 02 R39. -/
  threads : Nat := 32
  /-- declared registers per thread. spec 02 R42. -/
  r : Nat := 1
  /-- local-memory units allocated. spec 02 R44. -/
  lmUnits : Nat := 0
  /-- unit map: physical unit of each logical unit. spec 02 R44. -/
  units : List Nat := []
  /-- physical units still to be zeroed before the block starts. spec 02 R46. -/
  zeroing : List Nat := []
  /-- the block's groups have started. spec 02 R46. -/
  started : Bool := false
  /-- barrier generation count, 16 bits. spec 02 R58. -/
  barGen : Nat := 0
  /-- block index x. spec 03 R79. -/
  bx : Nat := 0
  /-- block index y. spec 03 R79. -/
  byi : Nat := 0
  /-- block index z. spec 03 R79. -/
  bz : Nat := 0
  /-- launch size x. spec 03 R79. -/
  gx : Nat := 1
  /-- launch size y. spec 03 R79. -/
  gy : Nat := 1
  /-- launch size z. spec 03 R79. -/
  gz : Nat := 1
  /-- parameter area. spec 03 R79. -/
  param : BitVec 64 := 0
  /-- entry PC. spec 12 R369. -/
  entry : BitVec 56 := 0
  /-- the context's scale-pinned policy. spec 05 R155. -/
  scalePinned : Bool := false
  deriving DecidableEq, Repr

/-- `Block` with every field at its reset value. -/
def Block.reset : Block := {}

/-- One accumulator tile of a core (R113). -/
structure Tile where
  /-- accumulator of cell (i, j), key 128*i+j (sparse, default 0). spec 04 R113. -/
  acc : List (Nat × BitVec 32) := []
  /-- Unset, FP32, BF16 or INT32. spec 04 R113. -/
  kind : TileKind := .unset
  /-- replay level n, the scale field, 0 to 3. spec 05 R152. -/
  level : Nat := 0
  /-- saturation flag. spec 05 R156. -/
  sat : Sat := .none
  /-- poison bit. spec 04 R113. -/
  poison : Bool := false
  /-- block slot that claims the tile. spec 04 R113. -/
  claim : Option Nat := none
  /-- the kind every earlier-issued instruction leaves, tracked at issue. spec 04 R120. -/
  issueKind : TileKind := .unset
  /-- block slot that claims the tile next. spec 04 R117. -/
  resv : Option Nat := none
  deriving DecidableEq, Repr

/-- `Tile` with every field at its reset value. -/
def Tile.reset : Tile := {}

/-- A matrix operand or output descriptor as copied at issue (R124 to R128). -/
structure MxDesc where
  /-- 0 Dense, 1 Transposed, 2 Window. spec 04 R124. -/
  mode : Nat := 0
  /-- format code. spec 05 R141. -/
  fmt : Nat := 0
  /-- local-memory offset of the data. spec 04 R124. -/
  base : Nat := 0
  /-- local-memory offset of the E8M0 scales. spec 04 R124. -/
  scaleBase : Nat := 0
  /-- Q1 stride. spec 04 R125. -/
  stride : Nat := 0
  /-- Q1 scale_stride. spec 04 R125. -/
  scaleStride : Nat := 0
  /-- active elements, rows or output rows. spec 04 R125. -/
  count : Nat := 0
  /-- word Q1 (Window fields). spec 04 R126. -/
  q1 : BitVec 64 := 0
  /-- word Q2 (Window or output fields). spec 04 R128. -/
  q2 : BitVec 64 := 0
  deriving DecidableEq, Repr

/-- `MxDesc` with every field at its reset value. -/
def MxDesc.reset : MxDesc := {}

/-- A fusion descriptor as copied at issue (R129). -/
structure MxFuse where
  /-- rowmax_base when enabled. spec 04 R129. -/
  rowmax : Option Nat := none
  /-- rowsum_base when enabled. spec 04 R129. -/
  rowsum : Option Nat := none
  /-- amax_offset when enabled. spec 04 R129. -/
  amax : Option Nat := none
  deriving DecidableEq, Repr

/-- `MxFuse` with every field at its reset value. -/
def MxFuse.reset : MxFuse := {}

/-- One entry of a core's matrix queue (R52). -/
structure MxEntry where
  /-- the instruction. spec 04 R118. -/
  op : MxOp := .zero
  /-- T0 or T1. spec 04 R118. -/
  tile : Nat := 0
  /-- issue serial, 29 bits. spec 03 R109. -/
  serial : Nat := 0
  /-- block slot that issued it. spec 04 R123. -/
  block : Nat := 0
  /-- context. spec 05 R155. -/
  ctx : Nat := 0
  /-- it claims its tile, so a zero phase comes first. spec 04 R115. -/
  claims : Bool := false
  /-- MXZERO's kind. spec 04 R118. -/
  kindArg : TileKind := .unset
  /-- A or output descriptor. spec 04 R124. -/
  da : MxDesc := MxDesc.reset
  /-- B descriptor. spec 04 R124. -/
  db : MxDesc := MxDesc.reset
  /-- fusion descriptor. spec 04 R129. -/
  fuse : MxFuse := MxFuse.reset
  /-- K or S. spec 04 R120. -/
  k : Nat := 0
  /-- MXDRAIN mod bit [52]. spec 04 R118. -/
  zeroAfter : Bool := false
  /-- phase in progress. spec 04 R133. -/
  phase : MxPhase := .queued
  /-- A-cycle count when the instruction began to hold its tile. spec 17 R491. -/
  since : Nat := 0
  /-- A-cycle in which the lead-in of the present pass began. spec 04 R133. -/
  leadAt : Nat := 0
  /-- replay level at the snapshot. spec 05 R153. -/
  n0 : Nat := 0
  /-- tile contents when the first pass's update began. spec 04 R135. -/
  snap : List (Nat × BitVec 32) := []
  /-- scale replays performed. spec 05 R153. -/
  replays : Nat := 0
  /-- status code once complete. spec 04 R123. -/
  status : Nat := 0
  /-- the token has completed. spec 04 R136. -/
  done : Bool := false
  /-- queue of the issuing block's launch. spec 17 R492. -/
  queue : Nat := 0
  /-- the amax word as read when the drain started. spec 05 R160. -/
  amax : BitVec 32 := 0
  deriving DecidableEq, Repr

/-- `MxEntry` with every field at its reset value. -/
def MxEntry.reset : MxEntry := {}

/-- One way of an L1 set (R195). -/
structure L1Line where
  /-- global line number (global physical address / 128). spec 07 R195. -/
  line : Nat := 0
  /-- M, O, E, S or I. spec 08 R232. -/
  st : LState := .i
  /-- dirty bit per 32-byte sector. spec 07 R195. -/
  dirty : BitVec 4 := 0
  /-- the 128 bytes. spec 07 R195. -/
  data : BitVec 1024 := 0
  /-- poison bit per 64-bit word. spec 07 R214. -/
  poison : BitVec 16 := 0
  /-- berth whose request brought the line. spec 13 R413. -/
  berth : Nat := 0
  /-- key index of its range. spec 07 R211. -/
  key : Nat := 0
  /-- mirror index of the range, 0 for none. spec 09 R262. -/
  mirror : Nat := 0
  deriving DecidableEq, Repr

/-- `L1Line` with every field at its reset value. -/
def L1Line.reset : L1Line := {}

/-- One lane's access of a memory instruction. -/
structure LaneAcc where
  /-- lane. spec 03 R90. -/
  lane : Nat := 0
  /-- aligned context virtual address. spec 03 R90. -/
  va : Nat := 0
  /-- global physical address. spec 09 R258. -/
  ga : Nat := 0
  /-- store data, or the atomic's operand. spec 03 R90. -/
  data : BitVec 128 := 0
  /-- CAS swap value. spec 03 R98. -/
  data2 : BitVec 64 := 0
  /-- memory type of the range. spec 07 R198. -/
  mtype : Nat := 0
  /-- key index of the range. spec 07 R211. -/
  key : Nat := 0
  /-- mirror index of the range. spec 09 R262. -/
  mirror : Nat := 0
  /-- an atomic that runs far. spec 03 R101. -/
  far : Bool := false
  /-- translated before an UNMAP dropped the entry, and not yet issued. spec 09 R290. -/
  stale : Bool := false
  deriving DecidableEq, Repr

/-- `LaneAcc` with every field at its reset value. -/
def LaneAcc.reset : LaneAcc := {}

/-- A memory-pipe instruction in flight on a core. -/
structure MemOp where
  /-- group slot. spec 02 R50. -/
  slot : Nat := 0
  /-- queue of the launching command. spec 12 R367. -/
  queue : Nat := 0
  /-- order number of the LAUNCH in its queue. spec 12 R367. -/
  launch : Nat := 0
  /-- load, store, atomic, ACQ or REL. spec 03 R88. -/
  kind : MemKind := .load
  /-- address of the instruction. spec 02 R70. -/
  pc : BitVec 64 := 0
  /-- A at the instruction. spec 02 R70. -/
  active : BitVec 32 := 0
  /-- lanes whose effect is performed, guarded-off lanes included. spec 02 R70. -/
  done : BitVec 32 := 0
  /-- lanes that faulted: lane, code, address, detail. spec 02 R69. -/
  flt : List (Nat × Nat × Nat × Nat) := []
  /-- the group has gone on past the instruction. spec 02 R68. -/
  adv : Bool := false
  /-- it acquires: later accesses of the group wait for it. spec 03 R95. -/
  acq : Bool := false
  /-- context. spec 09 R289. -/
  ctx : Nat := 0
  /-- epoch at issue. spec 09 R289. -/
  epoch : Nat := 0
  /-- berth. spec 10 R304. -/
  berth : Nat := 0
  /-- the accesses still to be performed. spec 03 R90. -/
  lanes : List LaneAcc := []
  /-- type code. spec 03 R84. -/
  ty : Nat := 0
  /-- destination register field, 0x0FF for none. spec 03 R77. -/
  dst : Nat := 255
  /-- atomic operation 0 to 7. spec 03 R98. -/
  aop : Nat := 0
  /-- hint of an atomic. spec 03 R101. -/
  hint : Nat := 0
  deriving DecidableEq, Repr

/-- `MemOp` with every field at its reset value. -/
def MemOp.reset : MemOp := {}

/-- An outstanding transaction of a core (R52), with its landing buffer. -/
structure Mshr where
  /-- global line number. spec 08 R238. -/
  line : Nat := 0
  /-- the request. spec 08 R237. -/
  kind : ReqKind := .getS
  /-- landing buffer generation, 4 bits. spec 10 R307. -/
  gen : Nat := 0
  /-- instructions waiting, in order. spec 08 R243. -/
  ops : List Nat := []
  /-- context. spec 09 R289. -/
  ctx : Nat := 0
  /-- epoch tag, low 3 bits. spec 09 R289. -/
  epoch : Nat := 0
  /-- ack count named by the grant. spec 08 R246. -/
  need : Option Nat := none
  /-- InvAcks counted. spec 08 R246. -/
  got : Nat := 0
  /-- Data or Grant has arrived. spec 08 R243. -/
  granted : Bool := false
  /-- contended bit of the answer. spec 08 R237. -/
  contended : Bool := false
  /-- an Inv arrived while a GetS was outstanding. spec 08 R244. -/
  invSeen : Bool := false
  /-- orphaned; the landing buffer stays reserved. spec 10 R317. -/
  orphan : Bool := false
  /-- device the request went to. spec 10 R317. -/
  dev : Nat := 0
  /-- berth of the request. spec 10 R304. -/
  berth : Nat := 0
  /-- key index. spec 10 R304. -/
  key : Nat := 0
  /-- mirror index of the range, 0 for none. spec 09 R262. -/
  mirror : Nat := 0
  /-- bywash slot that the line is for. spec 06 R177. -/
  bw : Option Nat := none
  /-- virtual address of a bywash line. spec 06 R176. -/
  va : Nat := 0
  /-- a HeldRetry arrived at this local time. spec 13 R407. -/
  retryAt : Option Nat := none
  /-- the request as sent. spec 13 R407. -/
  req : Packet := Packet.reset
  deriving DecidableEq, Repr

/-- `Mshr` with every field at its reset value. -/
def Mshr.reset : Mshr := {}

/-- One line of an eviction buffer (R242). -/
structure EvictBuf where
  /-- global line number. spec 08 R242. -/
  line : Nat := 0
  /-- buffered state. spec 08 R242. -/
  st : LState := .i
  /-- dirty sectors. spec 08 R242. -/
  dirty : BitVec 4 := 0
  /-- the bytes. spec 08 R242. -/
  data : BitVec 1024 := 0
  /-- poison per word. spec 08 R242. -/
  poison : BitVec 16 := 0
  /-- berth of the line. spec 07 R211. -/
  berth : Nat := 0
  /-- its key index. spec 07 R211. -/
  key : Nat := 0
  /-- its memory type. spec 07 R198. -/
  mtype : Nat := 0
  /-- its mirror index. spec 09 R262. -/
  mirror : Nat := 0
  deriving DecidableEq, Repr

/-- `EvictBuf` with every field at its reset value. -/
def EvictBuf.reset : EvictBuf := {}

/-- One line of an instruction cache (R197). -/
structure ICLine where
  /-- global line number. spec 07 R197. -/
  line : Nat := 0
  /-- context number. spec 07 R197. -/
  ctx : Nat := 0
  /-- poison per 64-bit word. spec 07 R214. -/
  poison : BitVec 16 := 0
  deriving DecidableEq, Repr

/-- `ICLine` with every field at its reset value. -/
def ICLine.reset : ICLine := {}

/-- One entry of a range cache (R270). -/
structure XCache where
  /-- context tag. spec 09 R270. -/
  ctx : Nat := 0
  /-- copy of the whole range entry. spec 09 R259. -/
  entry : BitVec 256 := 0
  deriving DecidableEq, Repr

/-- `XCache` with every field at its reset value. -/
def XCache.reset : XCache := {}

/-- A walk in progress (R268, R271). -/
structure Walk where
  /-- context. spec 09 R268. -/
  ctx : Nat := 0
  /-- virtual address. spec 09 R268. -/
  va : Nat := 0
  /-- group slot, or stream number. spec 09 R271. -/
  who : Nat := 0
  /-- image and count that the walk began on, once another image is active. spec 09 R269. -/
  old : Option (Nat × Nat) := none
  deriving DecidableEq, Repr

/-- `Walk` with every field at its reset value. -/
def Walk.reset : Walk := {}

/-- One bywash slot (R177). -/
structure BwSlot where
  /-- issuing group slot. spec 06 R177. -/
  slot : Nat := 0
  /-- address of the BWDOT. spec 06 R176. -/
  pc : BitVec 64 := 0
  /-- A at issue. spec 06 R168. -/
  active : BitVec 32 := 0
  /-- acceptance order. spec 06 R177. -/
  order : Nat := 0
  /-- first accumulator register. spec 06 R168. -/
  d : Nat := 0
  /-- V. spec 06 R169. -/
  vcount : Nat := 1
  /-- starting panel row. spec 06 R169. -/
  k0 : Nat := 0
  /-- c. spec 06 R171. -/
  chunks : Nat := 1
  /-- active columns. spec 06 R171. -/
  cols : Nat := 1
  /-- weight format. spec 06 R171. -/
  fmt : Nat := 0
  /-- mod bit [50], accumulators start from +0. spec 06 R167. -/
  fresh : Bool := false
  /-- activation buffer, key 32*register+lane. spec 06 R177. -/
  act : List (Nat × BitVec 32) := []
  /-- weight buffer: lines that arrived, by virtual address. spec 06 R177. -/
  weights : List (Nat × BitVec 1024) := []
  /-- weight and scale lines not yet arrived. spec 06 R177. -/
  wLines : List LaneAcc := []
  /-- lines that arrived poisoned (0) or with an error response (1): virtual address, which. spec 06 R176. -/
  bad : List (Nat × Nat) := []
  /-- virtual address of the weight span. spec 06 R172. -/
  wva : Nat := 0
  /-- virtual address of the scale span. spec 06 R172. -/
  sva : Nat := 0
  /-- rows given to the multipliers, in order. spec 06 R177. -/
  rowsIn : Nat := 0
  /-- C-cycle at which the rows given are computed. spec 06 R178. -/
  busyTo : Nat := 0
  /-- cancelled; frees itself when its lines have returned. spec 06 R179. -/
  cancelled : Bool := false
  /-- context. spec 09 R289. -/
  ctx : Nat := 0
  /-- epoch at issue. spec 09 R289. -/
  epoch : Nat := 0
  /-- berth. spec 10 R304. -/
  berth : Nat := 0
  /-- mod bit [51], the no-allocate hint. spec 06 R174. -/
  noAlloc : Bool := false
  /-- bytes of the instruction. spec 03 R81. -/
  len : Nat := 8
  deriving DecidableEq, Repr

/-- `BwSlot` with every field at its reset value. -/
def BwSlot.reset : BwSlot := {}

/-- One core (R38 to R76, R113, R195, R254). -/
structure Core where
  /-- 64 group slots (sparse, default Free). spec 02 R38. -/
  groups : List (Nat × Group) := []
  /-- 32 block slots (present when occupied). spec 02 R38. -/
  blocks : List (Nat × Block) := []
  /-- fill count per group slot (sparse, default 0). spec 03 R102. -/
  fills : List (Nat × Nat) := []
  /-- free per-thread registers. spec 02 R47. -/
  freeRegs : Nat := 131072
  /-- last user of each unit, context instance + 1 (sparse, 0: none). spec 02 R46. -/
  unitUser : List (Nat × Nat) := []
  /-- 2 MiB local memory, key physical offset (sparse, default 0). spec 07 R190. -/
  lm : List (Nat × BitVec 8) := []
  /-- poisoned 64-bit words of local memory. spec 07 R214. -/
  lmPoison : List Nat := []
  /-- matrix queue entries 0 to 7. spec 02 R52. -/
  mxq : List (Nat × MxEntry) := []
  /-- next issue serial. spec 03 R109. -/
  mxSerial : Nat := 0
  /-- matrix queue entries whose passes the multipliers serve, in order of service. spec 04 R134. -/
  mulq : List Nat := []
  /-- A-cycle at which the update phases that have ended left the multipliers free. spec 04 R134. -/
  mulFree : Nat := 0
  /-- tile T0. spec 04 R113. -/
  t0 : Tile := Tile.reset
  /-- tile T1. spec 04 R113. -/
  t1 : Tile := Tile.reset
  /-- waiters for a tile: tile, group slot, C-cycle since when. spec 04 R117. -/
  tileWait : List (Nat × Nat × Nat) := []
  /-- L1 ways, key 8*set+way. spec 07 R195. -/
  l1 : List (Nat × L1Line) := []
  /-- tree pseudo-LRU bits per set. spec 07 R195. -/
  l1Plru : List (Nat × Nat) := []
  /-- disabled L1 units, 8*set group+way. spec 07 R218. -/
  l1Off : List Nat := []
  /-- disable_refused of the L1. spec 07 R219. -/
  l1Refused : Bool := false
  /-- corrected errors: unit, time. spec 07 R218. -/
  l1Errs : List (Nat × Nat) := []
  /-- eviction buffer, 8 lines. spec 08 R238. -/
  evict : List EvictBuf := []
  /-- forward queue, 16 entries. spec 08 R243. -/
  fwdq : List Packet := []
  /-- memory instructions in flight. spec 02 R52. -/
  ops : List (Nat × MemOp) := []
  /-- outstanding transactions, at most 192. spec 02 R52. -/
  mshrs : List (Nat × Mshr) := []
  /-- landing buffer generations. spec 10 R307. -/
  gens : List (Nat × Nat) := []
  /-- next number for an instruction in flight. spec 02 R52. -/
  nextOp : Nat := 0
  /-- instruction cache lines, newest first. spec 07 R197. -/
  icache : List ICLine := []
  /-- range cache, 64 entries, newest first. spec 09 R270. -/
  xlat : List XCache := []
  /-- walks in progress and queued. spec 09 R270. -/
  walks : List Walk := []
  /-- contention predictor counters (sparse, default 0). spec 08 R254. -/
  predictor : List (Nat × Nat) := []
  /-- bywash slots 0 to 3. spec 06 R177. -/
  bw : List (Nat × BwSlot) := []
  /-- acceptance count of the bywash pipe. spec 06 R177. -/
  bwOrder : Nat := 0
  /-- MODEL: draws taken from the stochastic generator. spec 05 R162. -/
  draws : Nat := 0
  /-- device C-cycle count when the core's domain last powered on. spec 03 R80. -/
  ccBase : Nat := 0
  /-- contexts with a resident group: context, local time since when. spec 17 R491. -/
  ctxSince : List (Nat × Nat) := []
  /-- C-cycle count since which the core holds a resident group. spec 17 R489. -/
  resSince : Option Nat := none
  /-- per-core counter: C-cycles with a resident group. spec 17 R489. -/
  resident : Nat := 0
  deriving DecidableEq, Repr

/-- `Core` with every field at its reset value. -/
def Core.reset : Core := {}

/-- A line held by a basin slice: frame, victim-cache entry (R209, R210). -/
structure SLine where
  /-- global line number. spec 07 R209. -/
  line : Nat := 0
  /-- the bytes, in plaintext (R211). spec 07 R209. -/
  data : BitVec 1024 := 0
  /-- poison per 64-bit word. spec 07 R214. -/
  poison : BitVec 16 := 0
  /-- valid bit per 32-byte sector. spec 07 R209. -/
  valid : BitVec 4 := 0
  /-- dirty bit per sector. spec 07 R209. -/
  dirty : BitVec 4 := 0
  /-- dirty bit per byte (Streaming copy of a remote line). spec 07 R199. -/
  bytes : BitVec 128 := 0
  /-- bytes that a Streaming copy of a remote line holds. spec 07 R199. -/
  present : BitVec 128 := 0
  /-- key index of the requesting range. spec 07 R211. -/
  key : Nat := 0
  /-- berth of the request. spec 07 R211. -/
  berth : Nat := 0
  /-- memory type. spec 07 R198. -/
  mtype : Nat := 0
  /-- mirror mask, 0 for none. spec 09 R262. -/
  mirror : Nat := 0
  /-- entry of the victim cache that holds the line, while one does. spec 07 R218. -/
  ventry : Nat := 0
  deriving DecidableEq, Repr

/-- `SLine` with every field at its reset value. -/
def SLine.reset : SLine := {}

/-- One write-combining buffer entry (R212). -/
structure Wcb where
  /-- global line number. spec 07 R212. -/
  line : Nat := 0
  /-- written bytes. spec 07 R212. -/
  data : BitVec 1024 := 0
  /-- dirty bit per byte. spec 07 R212. -/
  mask : BitVec 128 := 0
  /-- poisoned words of the entry. spec 07 R217. -/
  poison : BitVec 16 := 0
  /-- local time of the last write. spec 07 R213. -/
  last : Nat := 0
  /-- key index. spec 07 R211. -/
  key : Nat := 0
  /-- berth. spec 07 R211. -/
  berth : Nat := 0
  /-- mirror mask. spec 09 R262. -/
  mirror : Nat := 0
  deriving DecidableEq, Repr

/-- `Wcb` with every field at its reset value. -/
def Wcb.reset : Wcb := {}

/-- A directory entry (R235). -/
structure DirEntry where
  /-- global line number (home_device, pch_b and location). spec 08 R235. -/
  line : Nat := 0
  /-- directory state. spec 08 R235. -/
  st : DirState := .uncached
  /-- coarse. spec 08 R235. -/
  coarse : Bool := false
  /-- exact sharer pointers, 13 bits each, at most 4. spec 08 R235. -/
  sharers : List Nat := []
  /-- owner pointer, 14 bits. spec 08 R235. -/
  owner : Nat := 0
  /-- a far entry's device state. spec 08 R235. -/
  devState : LState := .i
  /-- a far entry. spec 08 R235. -/
  far : Bool := false
  /-- coarse core groups. spec 08 R235. -/
  coreGroups : BitVec 32 := 0
  /-- coarse device groups. spec 08 R235. -/
  devGroups : BitVec 32 := 0
  deriving DecidableEq, Repr

/-- `DirEntry` with every field at its reset value. -/
def DirEntry.reset : DirEntry := {}

/-- One recall-buffer entry (R247). -/
structure Recall where
  /-- the evicted entry. spec 08 R247. -/
  ent : DirEntry := DirEntry.reset
  /-- InvAcks still awaited. spec 08 R247. -/
  acks : Nat := 0
  /-- RecallData or RecallAck still awaited. spec 08 R247. -/
  owner : Bool := false
  /-- requests that wait for the recall. spec 08 R248. -/
  waiting : List Packet := []
  /-- a far entry: the device's Put goes to the home when the recall ends. spec 08 R249. -/
  putBack : Bool := false
  /-- landing buffer of the recall's answers. spec 08 R238. -/
  entry : Nat := 0
  /-- its generation. spec 10 R307. -/
  gen : Nat := 0
  /-- the far line that left the slice and waits for its local holders. spec 08 R249. -/
  kept : Option SLine := none
  deriving DecidableEq, Repr

/-- `Recall` with every field at its reset value. -/
def Recall.reset : Recall := {}

/-- The atomic unit's work on one line (R253). -/
structure AtomLine where
  /-- global line number. spec 08 R253. -/
  line : Nat := 0
  /-- AtomFs and bulk accesses waiting, in order of arrival. spec 08 R253. -/
  reqs : List Packet := []
  /-- ack count of the grant. spec 08 R253. -/
  need : Option Nat := none
  /-- InvAcks counted. spec 08 R253. -/
  got : Nat := 0
  /-- the line's data once received. spec 08 R253. -/
  data : Option (BitVec 1024) := none
  /-- its poison. spec 08 R253. -/
  poison : BitVec 16 := 0
  /-- forwards queued while the unit owns the line. spec 08 R253. -/
  fwds : List Packet := []
  /-- landing buffer of the unit's GetM. spec 08 R238. -/
  entry : Nat := 0
  /-- its generation. spec 10 R307. -/
  gen : Nat := 0
  deriving DecidableEq, Repr

/-- `AtomLine` with every field at its reset value. -/
def AtomLine.reset : AtomLine := {}

/-- A far slice's request to a line's home device (R249). -/
structure FarReq where
  /-- global line number. spec 08 R249. -/
  line : Nat := 0
  /-- GetS, GetM, ReadU or a flush. spec 08 R249. -/
  kind : ReqKind := .getS
  /-- landing buffer. spec 10 R307. -/
  entry : Nat := 0
  /-- generation. spec 10 R307. -/
  gen : Nat := 0
  /-- L1 requests that wait for the answer. spec 08 R249. -/
  waiting : List Packet := []
  /-- ack count named by the grant. spec 08 R249. -/
  need : Option Nat := none
  /-- InvAcks counted. spec 08 R249. -/
  got : Nat := 0
  /-- the answer has arrived. spec 08 R249. -/
  granted : Bool := false
  /-- grant: 1 S, 2 E, 3 M. spec 10 R306. -/
  grant : Nat := 0
  /-- an Inv arrived meanwhile. spec 08 R244. -/
  invSeen : Bool := false
  /-- requests that were waiting when the Inv arrived. spec 08 R244. -/
  early : Nat := 0
  /-- berth. spec 10 R304. -/
  berth : Nat := 0
  /-- key index. spec 10 R304. -/
  key : Nat := 0
  deriving DecidableEq, Repr

/-- `FarReq` with every field at its reset value. -/
def FarReq.reset : FarReq := {}

/-- A mirror repair in progress (R476). -/
structure Repair where
  /-- global line number of the primary. spec 16 R476. -/
  line : Nat := 0
  /-- sectors being repaired. spec 16 R476. -/
  sectors : BitVec 4 := 0
  /-- global line number of the mirror. spec 16 R476. -/
  mline : Nat := 0
  /-- the request served when the repair ends. spec 16 R476. -/
  req : Packet := Packet.reset
  /-- reads and partial writes that wait. spec 16 R477. -/
  waiting : List Packet := []
  /-- sectors whose rewrite a whole-sector write cancelled. spec 16 R477. -/
  cancel : BitVec 4 := 0
  deriving DecidableEq, Repr

/-- `Repair` with every field at its reset value. -/
def Repair.reset : Repair := {}

/-- One basin slice with its directory (R209, R234, R253). -/
structure Slice where
  /-- frames, key 16*set+way. spec 07 R209. -/
  frames : List (Nat × SLine) := []
  /-- tree pseudo-LRU bits per set. spec 07 R209. -/
  plru : List (Nat × Nat) := []
  /-- victim cache, newest first, at most 32. spec 07 R210. -/
  victim : List SLine := []
  /-- write-combining buffer, oldest first, at most 64. spec 07 R212. -/
  wcb : List Wcb := []
  /-- directory, key 16*set+way. spec 08 R234. -/
  dir : List (Nat × DirEntry) := []
  /-- pseudo-LRU bits per directory set. spec 08 R234. -/
  dirPlru : List (Nat × Nat) := []
  /-- recall buffer, at most 16. spec 08 R247. -/
  recalls : List Recall := []
  /-- atomic unit. spec 08 R253. -/
  atoms : List AtomLine := []
  /-- eviction buffer of far lines, at most 16. spec 08 R238. -/
  evict : List EvictBuf := []
  /-- forward queue, at most 64. spec 08 R238. -/
  fwdq : List Packet := []
  /-- requests outstanding to other homes. spec 08 R249. -/
  far : List FarReq := []
  /-- landing buffer generations. spec 10 R307. -/
  gens : List (Nat × Nat) := []
  /-- disabled units of the main array, 16*set group+way. spec 07 R218. -/
  off : List Nat := []
  /-- disabled victim-cache entries. spec 07 R218. -/
  vOff : List Nat := []
  /-- disable_refused. spec 07 R229. -/
  refused : Bool := false
  /-- corrected errors: unit (256 + n for victim entry n), time. spec 07 R218. -/
  errs : List (Nat × Nat) := []
  /-- requests waiting for tokens, per berth, at most 32 each. spec 13 R407. -/
  held : List (Nat × List Packet) := []
  /-- token buckets: berth, tokens in 1/131072 of a sector, time of the last accrual. spec 13 R406. -/
  tokens : List (Nat × Int × Nat) := []
  /-- mirror repairs in progress. spec 16 R476. -/
  repairs : List Repair := []
  /-- requests waiting for a channel that retrains. spec 07 R227. -/
  stalled : List Packet := []
  /-- the slice's own reads and writes whose answers are outstanding. spec 10 R307. -/
  outs : List Packet := []
  deriving DecidableEq, Repr

/-- `Slice` with every field at its reset value. -/
def Slice.reset : Slice := {}

/-- What the model knows of a 32-byte HBM sector's ciphertext. -/
structure SectorTag where
  /-- key under which it was written: berth b as b, shared key k as 32 + k. spec 07 R211. -/
  key : Nat := 0
  /-- generation of that key. spec 13 R413. -/
  gen : Nat := 0
  /-- bytes ever written under that key. spec 07 R211. -/
  bytes : BitVec 32 := 0
  /-- poison bit of the sector. spec 07 R215. -/
  poison : Bool := false
  deriving DecidableEq, Repr

/-- `SectorTag` with every field at its reset value. -/
def SectorTag.reset : SectorTag := {}

/-- One HBM stack (R225 to R229). -/
structure Stack where
  /-- 0 Untrained, 1 Training, 2 Ready, 3 Lost. spec 07 R229. -/
  st : Nat := 0
  /-- in self-refresh. spec 07 R229. -/
  selfRefresh : Bool := false
  /-- channels that caused the loss. spec 07 R229. -/
  failed : BitVec 16 := 0
  /-- reported temperature. spec 07 R229. -/
  temp : Nat := 0
  /-- retrains: channel, time. spec 07 R228. -/
  retrains : List (Nat × Nat) := []
  /-- channels being retrained. spec 07 R227. -/
  retraining : BitVec 16 := 0
  /-- uncorrectable burst locations: location, time. spec 07 R228. -/
  unc : List (Nat × Nat) := []
  /-- bursts scrubbed since the last warm or cold reset per pseudo-channel, key 2*channel+b (sparse, default 0). spec 07 R222. -/
  scrubbed : List (Nat × Nat) := []
  /-- bursts found already poisoned. spec 07 R222. -/
  poisonSeen : Nat := 0
  deriving DecidableEq, Repr

/-- `Stack` with every field at its reset value. -/
def Stack.reset : Stack := {}

/-- An UNMAP in progress (R290). -/
structure UnmapRec where
  /-- admin queue. spec 09 R290. -/
  queue : Nat := 0
  /-- order of the command in its queue. spec 09 R290. -/
  order : Nat := 0
  /-- start of the span. spec 09 R290. -/
  start : Nat := 0
  /-- length of the span. spec 09 R290. -/
  len : Nat := 0
  /-- e, the epoch after the increment. spec 09 R290. -/
  epoch : Nat := 0
  /-- local time of step 2. spec 09 R292. -/
  since : Nat := 0
  deriving DecidableEq, Repr

/-- `UnmapRec` with every field at its reset value. -/
def UnmapRec.reset : UnmapRec := {}

/-- A bounded abort in progress (R385). -/
structure AbortRec where
  /-- reason of the CONTEXT_ABORTED record, 0 for none written. spec 12 R384. -/
  reason : Nat := 0
  /-- local time of step 1. spec 12 R385. -/
  since : Nat := 0
  /-- DESTROY_CONTEXT commands that wait: queue, order. spec 12 R391. -/
  waits : List (Nat × Nat) := []
  /-- no CONTEXT_ABORTED record (berth reset, debug). spec 12 R384. -/
  silent : Bool := false
  deriving DecidableEq, Repr

/-- `AbortRec` with every field at its reset value. -/
def AbortRec.reset : AbortRec := {}

/-- One context (R358 to R360). -/
structure Ctx where
  /-- Free, Live or Aborted. spec 12 R359. -/
  st : CtxState := .free
  /-- owning berth. spec 12 R358. -/
  berth : Nat := 0
  /-- instance number, unique per CREATE_CONTEXT. spec 02 R46. -/
  inst : Nat := 0
  /-- TRN_CTX_BASE.table_area, 45 bits. spec 09 R294. -/
  area : Nat := 0
  /-- TRN_CTX_TABLE.cap_log2, 5 bits. spec 09 R294. -/
  cap : Nat := 0
  /-- TRN_CTX_TABLE.active. spec 09 R294. -/
  image : Nat := 0
  /-- TRN_CTX_TABLE.count, 19 bits. spec 09 R294. -/
  count : Nat := 0
  /-- TRN_CTX_EPOCH.epoch, 16 bits. spec 09 R294. -/
  epoch : Nat := 0
  /-- TRN_CTX_EPOCH.orphans, saturating at 65535. spec 09 R294. -/
  orphans : Nat := 0
  /-- DESTROY_CONTEXT has been processed for it. spec 12 R359. -/
  destroyed : Bool := false
  /-- scale-pinned policy. spec 05 R155. -/
  scalePinned : Bool := false
  /-- the ledger records its waits. spec 12 R360. -/
  ledger : Bool := false
  /-- UNMAPs outstanding, at most 4. spec 09 R293. -/
  unmaps : List UnmapRec := []
  /-- abort in progress. spec 12 R385. -/
  abort : Option AbortRec := none
  /-- tenant counter core_us, kept in sixteenths of a tick. spec 17 R491. -/
  coreTime : Nat := 0
  /-- tenant counter array_busy. spec 17 R491. -/
  arrayBusy : Nat := 0
  /-- tenant counter hbm_bytes. spec 17 R491. -/
  hbmBytes : Nat := 0
  deriving DecidableEq, Repr

/-- `Ctx` with every field at its reset value. -/
def Ctx.reset : Ctx := {}

/-- One side of a barge access within one line, or within one window run (R278, R279). -/
structure BSeg where
  /-- range entry that translated it. spec 09 R258. -/
  entry : BitVec 256 := 0
  /-- virtual address. spec 09 R278. -/
  va : Nat := 0
  /-- offset within the access. spec 09 R278. -/
  off : Nat := 0
  /-- bytes. spec 09 R278. -/
  len : Nat := 0
  deriving DecidableEq, Repr

/-- `BSeg` with every field at its reset value. -/
def BSeg.reset : BSeg := {}

/-- One access of a barge stream in flight (R278). -/
structure BTxn where
  /-- landing buffer of the engine. spec 10 R307. -/
  entry : Nat := 0
  /-- its generation. spec 10 R307. -/
  gen : Nat := 0
  /-- 0 data, 1 an index, 2 a descriptor, 3 destination bytes that an overlap leaves unspecified. spec 09 R273. -/
  what : Nat := 0
  /-- 0 its source is being read, 1 its data waits for earlier accesses, 2 its destination is being written. spec 09 R284. -/
  stage : Nat := 0
  /-- place of the access in its descriptor. spec 09 R273. -/
  cur : Nat := 0
  /-- descriptor index. spec 09 R284. -/
  desc : Nat := 0
  /-- the descriptor. spec 09 R274. -/
  q : List (BitVec 64) := []
  /-- source parts not yet answered. spec 09 R278. -/
  src : List BSeg := []
  /-- destination parts not yet answered. spec 09 R278. -/
  dst : List BSeg := []
  /-- bytes. spec 09 R278. -/
  len : Nat := 0
  /-- context. spec 09 R289. -/
  ctx : Nat := 0
  /-- epoch tag. spec 09 R289. -/
  epoch : Nat := 0
  /-- device the latest request went to. spec 10 R317. -/
  dev : Nat := 0
  /-- orphaned. spec 10 R317. -/
  orphan : Bool := false
  /-- it comes after a faulting access: its answer is discarded. spec 09 R283. -/
  dead : Bool := false
  /-- HeldRetry arrived: its request is to be sent again. spec 13 R407. -/
  retry : Bool := false
  /-- data read, key offset. spec 09 R280. -/
  data : List (Nat × BitVec 8) := []
  /-- poisoned offsets. spec 09 R280. -/
  poison : List Nat := []
  /-- virtual address of its first source byte. spec 09 R273. -/
  srcVa : Nat := 0
  /-- virtual address of its first destination byte. spec 09 R273. -/
  dstVa : Nat := 0
  deriving DecidableEq, Repr

/-- `BTxn` with every field at its reset value. -/
def BTxn.reset : BTxn := {}

/-- A stream's present fault (R284). -/
structure SFault where
  /-- fault code. spec 09 R282. -/
  code : Nat := 0
  /-- fault_tag. spec 09 R284. -/
  tag : Nat := 0
  /-- fault_address. spec 09 R284. -/
  va : Nat := 0
  /-- a write. spec 09 R284. -/
  write : Bool := false
  /-- residency found. spec 09 R284. -/
  residency : Nat := 3
  /-- descriptor index. spec 09 R284. -/
  desc : Nat := 0
  /-- detail. spec 09 R282. -/
  detail : Nat := 0
  /-- progress. spec 09 R284. -/
  progress : Nat := 0
  /-- fault_time. spec 09 R284. -/
  time : Nat := 0
  /-- epoch at the fault. spec 09 R284. -/
  epoch : Nat := 0
  /-- held Pending. spec 09 R287. -/
  pend : Bool := false
  deriving DecidableEq, Repr

/-- `SFault` with every field at its reset value. -/
def SFault.reset : SFault := {}

/-- One barge stream (R272). -/
structure Stream where
  /-- BRG_STREAM_STATUS.state. spec 09 R294. -/
  st : StreamSt := .idle
  /-- context of the present COPY. spec 09 R294. -/
  ctx : Nat := 0
  /-- queue of the present COPY. spec 09 R294. -/
  queue : Nat := 0
  /-- order of the COPY in its queue. spec 09 R281. -/
  order : Nat := 0
  /-- sequence number of the COPY. spec 09 R284. -/
  seq : BitVec 32 := 0
  /-- berth. spec 13 R409. -/
  berth : Nat := 0
  /-- descriptor list address. spec 09 R273. -/
  list : Nat := 0
  /-- descriptors in the list. spec 09 R273. -/
  count : Nat := 0
  /-- index of the descriptor in progress. spec 09 R273. -/
  di : Nat := 0
  /-- the descriptor, Q0 to Q7, once read and validated. spec 09 R274. -/
  desc : Option (List (BitVec 64)) := none
  /-- next byte of the descriptor to issue, counted along its destination. spec 09 R273. -/
  cur : Nat := 0
  /-- faults since the COPY was taken. spec 09 R284. -/
  faults : Nat := 0
  /-- the present fault. spec 09 R282. -/
  fault : Option SFault := none
  /-- accesses in flight. spec 09 R278. -/
  txns : List BTxn := []
  /-- range cache, 16 entries. spec 09 R270. -/
  xlat : List XCache := []
  /-- walk in progress. spec 09 R271. -/
  walkVa : Option Nat := none
  /-- the walk is for a write. spec 09 R284. -/
  walkWrite : Bool := false
  /-- the walk is for a read of the list. spec 09 R284. -/
  walkDesc : Bool := false
  /-- element number and its index, none when poisoned. spec 09 R275. -/
  idx : Option (Nat × Option Nat) := none
  /-- spans touched since the last fence bit: address, bytes, descriptor, written. spec 09 R273. -/
  hazard : List (Nat × Nat × Nat × Bool) := []
  /-- status the COPY ends with once its earlier accesses are performed. spec 09 R276. -/
  failed : Option Nat := none
  /-- descriptor that ended the COPY. spec 12 R371. -/
  failedAt : Nat := 0
  /-- place in that descriptor before which accesses are performed. spec 09 R276. -/
  failedCur : Nat := 0
  /-- local-memory offset of a held-region stall. spec 17 R497. -/
  heldAt : Nat := 0
  /-- detail of the stall's STREAM_WAIT_BEGIN, 0 for none. spec 17 R497. -/
  stallKind : Nat := 0
  /-- object of the stall's STREAM_WAIT_BEGIN. spec 17 R497. -/
  stallObj : Nat := 0
  deriving DecidableEq, Repr

/-- `Stream` with every field at its reset value. -/
def Stream.reset : Stream := {}

/-- One counter bank of a queue (R492). -/
structure Bank where
  /-- tag. spec 17 R492. -/
  tag : BitVec 64 := 0
  /-- opcode that opened it. spec 17 R506. -/
  opener : Nat := 0
  /-- blocks_retired. spec 17 R492. -/
  blocks : Nat := 0
  /-- group_cycles. spec 17 R492. -/
  groupCycles : Nat := 0
  /-- array_busy. spec 17 R492. -/
  arrayBusy : Nat := 0
  /-- memory_bytes. spec 17 R492. -/
  memBytes : Nat := 0
  /-- copy_bytes. spec 17 R492. -/
  copyBytes : Nat := 0
  /-- faults. spec 17 R492. -/
  faults : Nat := 0
  /-- final. spec 17 R506. -/
  final : Bool := false
  /-- open. spec 17 R506. -/
  opened : Bool := false
  deriving DecidableEq, Repr

/-- `Bank` with every field at its reset value. -/
def Bank.reset : Bank := {}

/-- A command read from a queue and not yet posted (R364). -/
structure Cmd where
  /-- order in the queue. spec 12 R364. -/
  order : Nat := 0
  /-- record words Q0 to Q7. spec 12 R368. -/
  q : List (BitVec 64) := []
  /-- global time at which it began. spec 12 R371. -/
  begin : Nat := 0
  /-- status once finished. spec 12 R370. -/
  status : Option Nat := none
  /-- result field. spec 12 R371. -/
  result : BitVec 64 := 0
  /-- its fence signal has been applied and only the record waits. spec 12 R369. -/
  signalled : Bool := false
  /-- its record was read with a poisoned word. spec 16 R475. -/
  poisoned : Bool := false
  /-- LAUNCH: next linear block index to place. spec 13 R401. -/
  nextBlock : Nat := 0
  /-- LAUNCH: blocks retired. spec 12 R369. -/
  retired : Nat := 0
  /-- LAUNCH: groups killed. spec 12 R370. -/
  killed : Nat := 0
  /-- LAUNCH: cores whose instruction cache lines of the context were invalidated. spec 07 R197. -/
  icDone : List Nat := []
  /-- FENCE_WAIT: local time of the timeout. spec 12 R377. -/
  deadline : Option Nat := none
  /-- remote wait: halves of the value answered so far, 0 low and 1 high; remote signal: under 2 the status of an answer with an error. spec 12 R382. -/
  poll : List (Nat × BitVec 32) := []
  /-- remote wait: local time of the last poll. spec 12 R382. -/
  pollAt : Nat := 0
  /-- remote wait: the value last seen. spec 12 R371. -/
  seen : BitVec 64 := 0
  /-- FENCE_WAIT: it has found its fence not reached. spec 17 R497. -/
  waiting : Bool := false
  /-- requests of it that await an answer. spec 12 R382. -/
  reqs : List Packet := []
  /-- its completion signal was applied. spec 12 R371. -/
  applied : Bool := false
  deriving DecidableEq, Repr

/-- `Cmd` with every field at its reset value. -/
def Cmd.reset : Cmd := {}

/-- One command queue (R361, R362, R392). -/
structure Queue where
  /-- QUE_BASE, 45 bits. spec 12 R392. -/
  base : Nat := 0
  /-- QUE_CONFIG.enable. spec 12 R392. -/
  enable : Bool := false
  /-- QUE_CONFIG.size_log2. spec 12 R392. -/
  sizeLog2 : Nat := 4
  /-- QUE_CONFIG.halt_on_error. spec 12 R392. -/
  haltOn : Bool := false
  /-- QUE_CONFIG.admin. spec 12 R392. -/
  admin : Bool := false
  /-- QUE_CONFIG.berth. spec 12 R392. -/
  berth : Nat := 0
  /-- QUE_CONFIG.granted. spec 12 R392. -/
  granted : Bool := false
  /-- QUE_HEAD. spec 12 R392. -/
  head : BitVec 32 := 0
  /-- QUE_TAIL. spec 12 R392. -/
  tail : BitVec 32 := 0
  /-- QUE_STATUS.doorbell_error. spec 12 R392. -/
  dbErr : Bool := false
  /-- Halted state. spec 12 R366. -/
  halted : Bool := false
  /-- QUE_STATUS.halt_status. spec 12 R392. -/
  haltStatus : Nat := 0
  /-- commands read and not yet posted, in record order. spec 12 R364. -/
  cmds : List Cmd := []
  /-- order of the next record. spec 12 R364. -/
  nextOrder : Nat := 0
  /-- opcodes of the records begun before, newest first, back to the latest LAUNCH. spec 12 R372. -/
  recent : List Nat := []
  /-- open bank. spec 17 R492. -/
  cur : Bank := Bank.reset
  /-- closed bank. spec 17 R492. -/
  last : Bank := Bank.reset
  deriving DecidableEq, Repr

/-- `Queue` with every field at its reset value. -/
def Queue.reset : Queue := {}

/-- One entry of a fence's export table (R381). -/
structure Export where
  /-- importer context. spec 12 R381. -/
  ctx : Nat := 0
  /-- importer device. spec 12 R381. -/
  dev : Nat := 0
  /-- may_signal. spec 12 R381. -/
  signal : Bool := false
  deriving DecidableEq, Repr

/-- `Export` with every field at its reset value. -/
def Export.reset : Export := {}

/-- One entry of the device's import table (R381). -/
structure Import where
  /-- context that imports. spec 12 R381. -/
  ctx : Nat := 0
  /-- fence number. spec 12 R381. -/
  fence : Nat := 0
  /-- fence's device. spec 12 R381. -/
  dev : Nat := 0
  /-- may_signal. spec 12 R381. -/
  signal : Bool := false
  deriving DecidableEq, Repr

/-- `Import` with every field at its reset value. -/
def Import.reset : Import := {}

/-- A FENCE_WAIT waiting on a fence of its own device (R377). -/
structure Waiter where
  /-- queue. spec 12 R377. -/
  queue : Nat := 0
  /-- order of the command. spec 12 R377. -/
  order : Nat := 0
  /-- context. spec 12 R377. -/
  ctx : Nat := 0
  /-- target. spec 12 R377. -/
  target : BitVec 64 := 0
  deriving DecidableEq, Repr

/-- `Waiter` with every field at its reset value. -/
def Waiter.reset : Waiter := {}

/-- One fence (R374, R392). -/
structure Fence where
  /-- FEN_VALUE. spec 12 R392. -/
  value : BitVec 64 := 0
  /-- FEN_CONFIG.owner. spec 12 R392. -/
  owner : Nat := 0
  /-- FEN_CONFIG.valid. spec 12 R392. -/
  valid : Bool := false
  /-- FEN_CONFIG.strict. spec 12 R392. -/
  strict : Bool := false
  /-- FEN_CONFIG.rebase_refused. spec 12 R392. -/
  rebRefused : Bool := false
  /-- FEN_CONFIG.berth. spec 12 R392. -/
  berth : Nat := 0
  /-- FEN_CONFIG.granted. spec 12 R392. -/
  granted : Bool := false
  /-- FEN_CONFIG.config_refused. spec 12 R392. -/
  cfgRefused : Bool := false
  /-- FEN_OOO. spec 12 R392. -/
  ooo : Nat := 0
  /-- export table, at most 8. spec 12 R381. -/
  exports : List Export := []
  /-- waiters of this device. spec 12 R377. -/
  waiters : List Waiter := []
  deriving DecidableEq, Repr

/-- `Fence` with every field at its reset value. -/
def Fence.reset : Fence := {}

/-- One event ring of a berth (R410, R419). -/
structure Ring where
  /-- BTH_RING_BASE. spec 13 R419. -/
  base : Nat := 0
  /-- BTH_RING_CFG.enable. spec 13 R419. -/
  enable : Bool := false
  /-- BTH_RING_CFG.size_log2. spec 13 R419. -/
  sizeLog2 : Nat := 4
  /-- BTH_RING_PROD. spec 13 R419. -/
  prod : BitVec 32 := 0
  /-- BTH_RING_CONS. spec 13 R419. -/
  cons : BitVec 32 := 0
  /-- BTH_RING_STATUS.lost. spec 13 R419. -/
  lost : Nat := 0
  deriving DecidableEq, Repr

/-- `Ring` with every field at its reset value. -/
def Ring.reset : Ring := {}

/-- A berth reset in progress (R413). -/
structure ResetRec where
  /-- scrub. spec 13 R413. -/
  scrub : Bool := false
  /-- global time at which it began. spec 13 R419. -/
  begin : Nat := 0
  /-- BERTH_RESET commands that wait: queue, order. spec 13 R416. -/
  waits : List (Nat × Nat) := []
  /-- started by a berth-fatal error. spec 16 R481. -/
  fatal : Bool := false
  deriving DecidableEq, Repr

/-- `ResetRec` with every field at its reset value. -/
def ResetRec.reset : ResetRec := {}

/-- One berth of the device (R393, R395, R419). -/
structure Berth where
  /-- Absent, Live or Resetting. spec 13 R393. -/
  st : BerthSt := .absent
  /-- BTH_SHARE.min_cores. spec 13 R419. -/
  minCores : Nat := 0
  /-- BTH_SHARE.spread. spec 13 R419. -/
  spread : Bool := false
  /-- BTH_SHARE.class_ceiling. spec 13 R419. -/
  ceiling : Nat := 3
  /-- BTH_WEIGHTS.core_weight. spec 13 R419. -/
  coreW : Nat := 1
  /-- BTH_WEIGHTS.link_weight. spec 13 R419. -/
  linkW : Nat := 1
  /-- BTH_WEIGHTS.barge_weight. spec 13 R419. -/
  bargeW : Nat := 1
  /-- BTH_QOS.hbm_rate. spec 13 R419. -/
  hbmRate : Nat := 0
  /-- BTH_QOS.hbm_depth. spec 13 R419. -/
  hbmDepth : Nat := 64
  /-- BTH_LIMITS.context_limit. spec 13 R419. -/
  ctxLimit : Nat := 0
  /-- BTH_LIMITS.stream_limit. spec 13 R419. -/
  streamLimit : Nat := 0
  /-- BTH_POLICY.headless. spec 13 R419. -/
  headlessPol : Bool := false
  /-- BTH_POLICY.grace. spec 13 R419. -/
  grace : Nat := 200
  /-- BTH_POLICY.key_preserve. spec 13 R419. -/
  keyPreserve : Bool := false
  /-- coalescing time in µs. spec 14 R432. -/
  coalesce : Nat := 20
  /-- BTH_STATE.headless. spec 13 R419. -/
  headless : Bool := false
  /-- BTH_STATE.resets, modulo 256. spec 13 R419. -/
  resets : Nat := 0
  /-- local time at which the grace time began. spec 13 R412. -/
  graceSince : Option Nat := none
  /-- generation of the berth key. spec 13 R413. -/
  keyGen : Nat := 0
  /-- event rings 0 to 15. spec 13 R410. -/
  rings : List (Nat × Ring) := []
  /-- BTH_FQ_BASE. spec 09 R294. -/
  fqBase : Nat := 0
  /-- BTH_FQ_SIZE.size_log2. spec 09 R294. -/
  fqSize : Nat := 0
  /-- BTH_FQ_PROD. spec 09 R294. -/
  fqProd : BitVec 32 := 0
  /-- BTH_FQ_CONS. spec 09 R294. -/
  fqCons : BitVec 32 := 0
  /-- BTH_FQ_STATUS.overflow. spec 09 R294. -/
  overflow : Bool := false
  /-- place in the cyclic order after the last Pending record posted. spec 09 R287. -/
  pendNext : Nat := 0
  /-- reset in progress. spec 13 R413. -/
  rst : Option ResetRec := none
  /-- attestation buffer of the pending request. spec 14 R437. -/
  attest : Option Nat := none
  deriving DecidableEq, Repr

/-- `Berth` with every field at its reset value. -/
def Berth.reset : Berth := {}

/-- One shared key index (R263, R439). -/
structure SharedKey where
  /-- owner berth. spec 14 R430. -/
  owner : Nat := 0
  /-- reader berths. spec 14 R430. -/
  readers : BitVec 32 := 0
  /-- generation. spec 13 R413. -/
  gen : Nat := 0
  deriving DecidableEq, Repr

/-- `SharedKey` with every field at its reset value. -/
def SharedKey.reset : SharedKey := {}

/-- One time exchange on a link (R326, R327). -/
structure Exch where
  /-- twice the offset of the exchange. spec 10 R327. -/
  off2 : Int := 0
  /-- twice its delay. spec 10 R327. -/
  delay2 : Int := 0
  deriving DecidableEq, Repr

/-- `Exch` with every field at its reset value. -/
def Exch.reset : Exch := {}

/-- One fabric port (R295, R332). -/
structure Port where
  /-- FAB_PORT_CONFIG.role. spec 10 R332. -/
  role : PortRole := .unused
  /-- FAB_PORT_CONFIG.encrypt. spec 10 R332. -/
  encrypt : Bool := false
  /-- FAB_PORT_CONFIG.full_width_only. spec 10 R332. -/
  fullWidth : Bool := false
  /-- FAB_PORT_CONFIG.nbr_device. spec 10 R332. -/
  nbrDev : Nat := 0
  /-- FAB_PORT_CONFIG.nbr_port. spec 10 R332. -/
  nbrPort : Nat := 0
  /-- FAB_PORT_STATUS.state. spec 10 R332. -/
  st : PortSt := .off
  /-- FAB_PORT_STATUS.width code. spec 10 R332. -/
  width : Nat := 0
  /-- FAB_PORT_STATUS.lanes_good. spec 10 R332. -/
  lanes : BitVec 8 := 0
  /-- FAB_PORT_STATUS.disable_reason. spec 10 R332. -/
  reason : Nat := 0
  /-- FAB_PORT_STATUS.degraded_unmet. spec 10 R332. -/
  unmet : Bool := false
  /-- FAB_PORT_ERRORS.replays. spec 10 R332. -/
  replays : Nat := 0
  /-- FAB_PORT_ERRORS.retrains. spec 10 R332. -/
  retrains : Nat := 0
  /-- FAB_PORT_ERRORS.fec_uncorrectable. spec 10 R332. -/
  fecUnc : Nat := 0
  /-- sequence number of the next Data or Control flit to send. spec 10 R301. -/
  txSeq : Nat := 0
  /-- sequence number expected next. spec 10 R301. -/
  rxSeq : Nat := 0
  /-- nak sent for the present gap. spec 10 R301. -/
  nakOut : Bool := false
  /-- replay buffer, oldest first, at most 1024 flits. spec 10 R301. -/
  replay : List Flit := []
  /-- flits at the end of the replay buffer to be sent again. spec 10 R301. -/
  resend : Nat := 0
  /-- packets granted to this port and not yet packed into flits. spec 10 R310. -/
  txq : List Packet := []
  /-- link-local messages not yet packed into flits. spec 10 R300. -/
  ctlq : List LinkMsg := []
  /-- notices of the Lockkeeper to the neighbour that wait for credit. spec 10 R309. -/
  offered : List Packet := []
  /-- credits used, key 2*class+escape (sparse, default 0). spec 10 R309. -/
  credits : List (Nat × Nat) := []
  /-- slots of the receive buffer freed since bring-up, whose credits return in flit headers, key 2*class+escape. spec 10 R309. -/
  creditOut : List (Nat × Nat) := []
  /-- deficit round robin, key 32*class+berth. spec 13 R408. -/
  deficit : List (Nat × Int) := []
  /-- encrypted Data flits accepted and not yet verified. spec 10 R302. -/
  gmacRun : List Flit := []
  /-- failed GMACs in a row. spec 10 R302. -/
  gmacFails : Nat := 0
  /-- failed retrains in a row. spec 10 R320. -/
  tries : Nat := 0
  /-- local time of the last valid flit. spec 10 R320. -/
  lastFlit : Nat := 0
  /-- local time since which both directions hold nothing. spec 15 R448. -/
  idleSince : Nat := 0
  /-- low-power idle. spec 15 R448. -/
  lpi : Bool := false
  /-- key epoch. spec 14 R440. -/
  keyEpoch : Nat := 0
  /-- flits sent under the key. spec 10 R302. -/
  txCount : Nat := 0
  /-- Data flits sent since the last Gmac. spec 10 R302. -/
  gmacTx : Nat := 0
  /-- neighbour's Hello: device, port, boot count. spec 10 R325. -/
  hello : Option (Nat × Nat × Nat) := none
  /-- nonce of this device's Hello. spec 10 R325. -/
  nonce : BitVec 256 := 0
  /-- nonce of the neighbour's Hello. spec 10 R325. -/
  peerNonce : BitVec 256 := 0
  /-- the neighbour's Proof has been checked. spec 10 R325. -/
  proved : Bool := false
  /-- local time at which the neighbour was asked for its last sequence number. spec 10 R320. -/
  seqAsk : Option Nat := none
  /-- local time at which the neighbour was pinged. spec 10 R322. -/
  pingAt : Option Nat := none
  /-- t1 of the exchange in progress. spec 10 R326. -/
  probeT1 : Option Int := none
  /-- t2 and t3 of the last TimeProbe answered. spec 10 R326. -/
  replyT : Option (Int × Int) := none
  /-- exchanges taken. spec 10 R327. -/
  exch : List Exch := []
  /-- destinations whose VC2 traffic has moved off the Down port, its MarkAck received. spec 10 R321. -/
  moved : List Nat := []
  /-- of VC1 and VC0, VC0 takes the next turn. spec 10 R310. -/
  bulkTurn : Bool := false
  /-- link offset, in sixteenths of a tick. spec 10 R327. -/
  linkOff : Option Int := none
  deriving DecidableEq, Repr

/-- `Port` with every field at its reset value. -/
def Port.reset : Port := {}

/-- VC2 traffic held for a destination while a RouteMark is out (R321). -/
structure Mark where
  /-- destination. spec 10 R321. -/
  dst : Nat := 0
  /-- mark number. spec 10 R321. -/
  no : Nat := 0
  /-- neighbour beyond the Down port. spec 10 R321. -/
  nbr : Nat := 0
  /-- the Down port. spec 10 R321. -/
  port : Nat := 0
  /-- packets held. spec 10 R321. -/
  held : List Packet := []
  /-- its MarkAck came while the Down port's packets were not yet resolved (R320). spec 10 R321. -/
  acked : Bool := false
  deriving DecidableEq, Repr

/-- `Mark` with every field at its reset value. -/
def Mark.reset : Mark := {}

/-- The fabric side of the device. -/
structure Fabric where
  /-- ports 0 to 17 (sparse, default Port.reset). spec 10 R295. -/
  ports : List (Nat × Port) := []
  /-- packets in the mesh: sent by this device's agents or in transit, oldest first. spec 10 R314. -/
  net : List Packet := []
  /-- FAB_STRAY. spec 10 R332. -/
  stray : Nat := 0
  /-- FAB_ROUTE entries (sparse, default 0). spec 10 R311. -/
  routes : List (Nat × BitVec 64) := []
  /-- down marks: device, boot count named. spec 10 R323. -/
  down : List (Nat × Nat) := []
  /-- down devices for which R250 was applied. spec 10 R323. -/
  applied : List Nat := []
  /-- RouteMarks outstanding. spec 10 R321. -/
  marks : List Mark := []
  /-- next mark number, 8 bits. spec 10 R306. -/
  nextMark : Nat := 0
  /-- port by which the request of an own landing buffer left, key 16*(1024*agent+entry)+generation. spec 10 R317. -/
  left : List (Nat × Nat) := []
  /-- management requests of this device that await their MgmtResp, by landing buffer. spec 10 R315. -/
  mgmtOut : List (Nat × Packet) := []
  /-- next landing buffer of the management agents. spec 10 R307. -/
  mgmtGen : Nat := 0
  /-- PeerDown and PeerUp (with bit 28) forwarded: device, boot count. spec 10 R322. -/
  flooded : List (Nat × Nat) := []
  /-- DIR_REACH (sparse, default 0x80: absent). spec 08 R257. -/
  reach : List (Nat × Nat) := []
  /-- DIR_HOPS, key 128*a+b (sparse, default 0xF). spec 08 R257. -/
  hops : List (Nat × Nat) := []
  /-- landing buffers released without a response: agent, entry, local time of the release. spec 10 R317. -/
  quarantine : List (Nat × Nat × Nat) := []
  deriving DecidableEq, Repr

/-- `Fabric` with every field at its reset value. -/
def Fabric.reset : Fabric := {}

/-- Global time (R326 to R332). -/
structure TimeSt where
  /-- TIM_OFFSET. spec 10 R332. -/
  off : Int := 0
  /-- TIM_STATUS.valid. spec 10 R332. -/
  valid : Bool := false
  /-- TIM_STATUS.common_ref. spec 10 R332. -/
  common : Bool := false
  /-- TIM_STATUS.hops. spec 10 R332. -/
  hops : Nat := 0
  /-- TIM_STATUS.remeasuring. spec 10 R332. -/
  remeas : Bool := false
  /-- TIM_STATUS.step_back. spec 10 R332. -/
  stepBack : Bool := false
  /-- time root device. spec 14 R430. -/
  root : Nat := 0
  /-- last global time returned before the offset last changed. spec 10 R330. -/
  floor : Int := 0
  /-- a measurement asked for by REMEASURE_TIME has not yet given a new offset. spec 10 R330. -/
  due : Bool := false
  deriving DecidableEq, Repr

/-- `TimeSt` with every field at its reset value. -/
def TimeSt.reset : TimeSt := {}

/-- An answer that a host operation awaits (R344). -/
structure HPart where
  /-- landing buffer of the host bridge. spec 11 R344. -/
  entry : Nat := 0
  /-- its generation. spec 10 R307. -/
  gen : Nat := 0
  /-- offset within the operation's data. spec 11 R336. -/
  off : Nat := 0
  /-- first byte within the line read. spec 10 R306. -/
  lo : Nat := 0
  /-- bytes. spec 10 R306. -/
  len : Nat := 0
  /-- the request as sent. spec 10 R306. -/
  req : Packet := Packet.reset
  deriving DecidableEq, Repr

/-- `HPart` with every field at its reset value. -/
def HPart.reset : HPart := {}

/-- A host operation staged or in progress at the wharf (R344). -/
structure HostOp where
  /-- reliable sequence number. spec 11 R342. -/
  rseq : Nat := 0
  /-- the packet. spec 11 R335. -/
  pkt : HostPkt := HostPkt.reset
  /-- issued into the fabric. spec 11 R344. -/
  issued : Bool := false
  /-- answers still awaited. spec 11 R344. -/
  parts : List HPart := []
  /-- data received so far, key offset. spec 11 R344. -/
  got : List (Nat × BitVec 8) := []
  /-- poisoned 8-byte words received. spec 11 R336. -/
  gotPoison : List Nat := []
  /-- status so far. spec 11 R345. -/
  status : Nat := 0
  deriving DecidableEq, Repr

/-- `HostOp` with every field at its reset value. -/
def HostOp.reset : HostOp := {}

/-- A stream's window access that this device carries to a host or appliance (R346). -/
structure WinAcc where
  /-- the stream's request. spec 11 R346. -/
  req : Packet := Packet.reset
  /-- parts not yet answered: tag, offset within the access, bytes. spec 11 R346. -/
  parts : List (BitVec 32 × Nat × Nat) := []
  /-- data received, key offset. spec 11 R346. -/
  got : List (Nat × BitVec 8) := []
  /-- poisoned 8-byte words received. spec 11 R346. -/
  poison : List Nat := []
  /-- a part was answered with another status than OK. spec 11 R346. -/
  bad : Bool := false
  /-- local time at which its parts were sent. spec 11 R348. -/
  since : Nat := 0
  deriving DecidableEq, Repr

/-- `WinAcc` with every field at its reset value. -/
def WinAcc.reset : WinAcc := {}

/-- A reliable packet not yet acknowledged (R342). -/
structure Unacked where
  /-- reliable sequence number. spec 11 R342. -/
  rseq : Nat := 0
  /-- the packet. spec 11 R335. -/
  pkt : HostPkt := HostPkt.reset
  /-- local time of the last transmission. spec 11 R342. -/
  sentAt : Nat := 0
  deriving DecidableEq, Repr

/-- `Unacked` with every field at its reset value. -/
def Unacked.reset : Unacked := {}

/-- An event record held for a session (R351). -/
structure HeldRec where
  /-- device of the ring. spec 11 R350. -/
  dev : Nat := 0
  /-- berth. spec 11 R350. -/
  berth : Nat := 0
  /-- ring. spec 11 R350. -/
  ring : Nat := 0
  /-- ring index. spec 11 R350. -/
  index : Nat := 0
  /-- the 64-byte record. spec 11 R350. -/
  bytes : BitVec 512 := 0
  /-- a gap entry; bytes then hold the last index missed. spec 11 R352. -/
  gap : Bool := false
  /-- local time at which it was held. spec 11 R351. -/
  heldAt : Nat := 0
  deriving DecidableEq, Repr

/-- `HeldRec` with every field at its reset value. -/
def HeldRec.reset : HeldRec := {}

/-- One Olvis-E session slot (R339, R357). -/
structure Session where
  /-- Free, Joining, Active or Moored. spec 11 R357. -/
  st : SessSt := .free
  /-- Host or Storage port. spec 11 R357. -/
  port : Nat := 0
  /-- granted mask. spec 11 R357. -/
  berths : BitVec 32 := 0
  /-- identity public key of the other side. spec 11 R339. -/
  peerKey : BitVec 256 := 0
  /-- address of the other side. spec 11 R334. -/
  addr : BitVec 128 := 0
  /-- source port of the other side. spec 11 R334. -/
  sport : Nat := 0
  /-- nonce of the JOIN. spec 11 R339. -/
  nonce : BitVec 256 := 0
  /-- this side's X25519 public key. spec 11 R339. -/
  xpub : BitVec 256 := 0
  /-- its private key, until the keys are derived. spec 11 R339. -/
  xpriv : BitVec 256 := 0
  /-- the other side's X25519 public key. spec 11 R339. -/
  peerX : BitVec 256 := 0
  /-- the JOIN that a Storage port sent. spec 11 R339. -/
  joined : HostPkt := HostPkt.reset
  /-- T. spec 11 R339. -/
  transcript : BitVec 512 := 0
  /-- key of the packets received. spec 11 R339. -/
  rxKey : BitVec 256 := 0
  /-- key of the packets sent. spec 11 R339. -/
  txKey : BitVec 256 := 0
  /-- IV prefix of the packets received. spec 11 R339. -/
  rxIv : BitVec 32 := 0
  /-- IV prefix of the packets sent. spec 11 R339. -/
  txIv : BitVec 32 := 0
  /-- local time of JOIN_ACCEPT. spec 11 R340. -/
  joinAt : Nat := 0
  /-- local time at which the previous session ended. spec 11 R340. -/
  endAt : Option Nat := none
  /-- next seq. spec 11 R335. -/
  txSeq : Nat := 0
  /-- highest seq accepted. spec 11 R342. -/
  rxHigh : Nat := 0
  /-- seqs accepted of the last 8192. spec 11 R342. -/
  rxSeen : List Nat := []
  /-- next rseq. spec 11 R342. -/
  txRseq : Nat := 0
  /-- next rseq expected. spec 11 R342. -/
  rxRseq : Nat := 0
  /-- packets received out of order, by rseq. spec 11 R343. -/
  staged : List HostPkt := []
  /-- operations taken in rseq order and not yet answered. spec 11 R344. -/
  ops : List HostOp := []
  /-- reliable packets not yet acknowledged. spec 11 R342. -/
  unacked : List Unacked := []
  /-- smoothed round trip, in sixteenths of a tick. spec 11 R342. -/
  srtt : Nat := 0
  /-- open windows: number, bytes. spec 11 R346. -/
  windows : List (Nat × Nat) := []
  /-- windows closing: number, the WINDOW_CLOSE. spec 11 R348. -/
  closing : List (Nat × OpHdr) := []
  /-- subscriptions: device, berth, ring. spec 11 R349. -/
  subs : List (Nat × Nat × Nat) := []
  /-- records held, oldest first. spec 11 R351. -/
  held : List HeldRec := []
  /-- records not held: ring key, first and last index missed. spec 11 R352. -/
  gapFrom : List (Nat × Nat × Nat) := []
  /-- reason the previous session ended. spec 11 R357. -/
  lastEnd : Nat := 0
  /-- a HEARTBEAT arrived in the present interval. spec 11 R353. -/
  beat : Bool := false
  /-- intervals in a row without a HEARTBEAT. spec 11 R353. -/
  missed : Nat := 0
  /-- local time at which the present interval began. spec 11 R353. -/
  beatAt : Nat := 0
  /-- local time at which the session was Moored. spec 11 R356. -/
  mooredAt : Nat := 0
  /-- next tag of an Eozer's own operation. spec 11 R346. -/
  tagNext : Nat := 0
  /-- window accesses in progress. spec 11 R346. -/
  winOut : List WinAcc := []
  /-- reliable packets that wait for room in the window. spec 11 R342. -/
  waitq : List HostPkt := []
  /-- local time of the last HEARTBEAT sent. spec 11 R353. -/
  hbAt : Nat := 0
  /-- it would have sent seq 2^63. spec 11 R339. -/
  spent : Bool := false
  deriving DecidableEq, Repr

/-- `Session` with every field at its reset value. -/
def Session.reset : Session := {}

/-- A Host or Storage port's Ethernet settings (R333). -/
structure NetPort where
  /-- frame size F. spec 11 R333. -/
  frame : Nat := 1518
  /-- VLAN identifier of a tagged port. spec 11 R333. -/
  vlan : Option Nat := none
  /-- UDP port. spec 11 R334. -/
  udp : Nat := 47210
  /-- MAC address. spec 11 R333. -/
  mac : BitVec 48 := 0
  /-- IPv6 address. spec 11 R333. -/
  ip6 : BitVec 128 := 0
  /-- IPv4 address, 0 for none. spec 11 R333. -/
  ip4 : BitVec 32 := 0
  /-- multicast group of a Host port. spec 11 R338. -/
  mcast : BitVec 128 := 0
  /-- appliance identity key of a Storage port. spec 11 R347. -/
  appl : BitVec 256 := 0
  /-- the Ethernet link is up. spec 11 R354. -/
  up : Bool := false
  /-- local time of the last ANNOUNCE. spec 11 R338. -/
  annAt : Nat := 0
  deriving DecidableEq, Repr

/-- `NetPort` with every field at its reset value. -/
def NetPort.reset : NetPort := {}

/-- The wharf and the Ethernet ports (R333 to R357). -/
structure Wharf where
  /-- WHF_STATUS.is_wharf. spec 11 R357. -/
  isWharf : Bool := false
  /-- WHF_STATUS.limit. spec 11 R357. -/
  limit : Nat := 0
  /-- WHF_DISCARDS.frames. spec 11 R357. -/
  frames : Nat := 0
  /-- WHF_DISCARDS.auth. spec 11 R357. -/
  auth : Nat := 0
  /-- host sessions 0 to 255; a storage port p's session under 256 + p. spec 11 R341. -/
  sessions : List (Nat × Session) := []
  /-- Ethernet settings of ports 14 to 17. spec 14 R430. -/
  netPorts : List (Nat × NetPort) := []
  /-- host identity grants. spec 14 R430. -/
  grants : List (BitVec 256 × BitVec 32) := []
  /-- packets and frames sent, oldest first. spec 11 R335. -/
  out : List HostPkt := []
  /-- Host ports are open. spec 14 R425. -/
  opened : Bool := false
  /-- landing buffer generations of the host bridge. spec 10 R307. -/
  hgens : List (Nat × Nat) := []
  /-- requests in the fabric whose session has ended. spec 11 R354. -/
  ghosts : List HPart := []
  /-- event rings of this device to which its wharf subscribes: the wharf, berth, ring. spec 11 R349. -/
  mySubs : List (Nat × Nat × Nat) := []
  deriving DecidableEq, Repr

/-- `Wharf` with every field at its reset value. -/
def Wharf.reset : Wharf := {}

/-- The Lockkeeper and its registers (R443). -/
structure Lkp where
  /-- LKP_STATE.state. spec 14 R443. -/
  st : LkpSt := .booting
  /-- LKP_STATE.boot_step. spec 14 R443. -/
  step : Nat := 0
  /-- LKP_STATE.recovery_reason. spec 14 R443. -/
  recovery : Nat := 0
  /-- LKP_STATE.first_boot. spec 14 R443. -/
  firstBoot : Bool := false
  /-- LKP_BOOT.boot_count, 28 bits. spec 14 R443. -/
  boots : Nat := 0
  /-- LKP_BOOT.last_warm. spec 14 R443. -/
  lastWarm : Bool := false
  /-- LKP_BOOT.preserved. spec 14 R443. -/
  preserved : Bool := false
  /-- LKP_CMD_STATUS.busy. spec 14 R443. -/
  busy : Bool := false
  /-- LKP_CMD_STATUS.overrun. spec 14 R443. -/
  overrun : Bool := false
  /-- LKP_CMD_STATUS.command. spec 14 R443. -/
  cmd : Nat := 0
  /-- LKP_CMD_STATUS.status. spec 14 R443. -/
  status : Nat := 0
  /-- LKP_CMD_ARG. spec 14 R443. -/
  arg : BitVec 64 := 0
  /-- LKP_CMD_LEN. spec 14 R443. -/
  len : BitVec 32 := 0
  /-- SHA-512 of the consent record held in always-on memory. spec 14 R441. -/
  consent : Option (BitVec 512) := none
  /-- SEC_STATE.debug. spec 14 R443. -/
  debug : Bool := false
  /-- SEC_STATE.fw_version. spec 14 R443. -/
  fwVer : Nat := 0
  /-- manifest image in always-on memory. spec 14 R425. -/
  manifest : Option Manifest := none
  /-- device ID. spec 14 R430. -/
  device : Nat := 0
  /-- parking limit in ms. spec 14 R430. -/
  parkLimit : Nat := 10000
  /-- mooring limit in s. spec 14 R430. -/
  moorLimit : Nat := 3600
  /-- the manifest is applied; RWL fields are locked. spec 14 R425. -/
  applied : Bool := false
  /-- the identity key signs nothing. spec 14 R441. -/
  identityOff : Bool := false
  /-- the Lockkeeper itself is to perform a warm reset (R323, R481). spec 14 R427. -/
  warmDue : Bool := false
  deriving DecidableEq, Repr

/-- `Lkp` with every field at its reset value. -/
def Lkp.reset : Lkp := {}

/-- The fuses (R420). -/
structure Fuses where
  /-- device secret. spec 14 R420. -/
  secret : BitVec 256 := 0
  /-- serial. spec 14 R420. -/
  serial : BitVec 128 := 0
  /-- identity certificate. spec 14 R420. -/
  cert : BitVec 1280 := 0
  /-- firmware key hash. spec 14 R420. -/
  fwKey : BitVec 512 := 0
  /-- debug key hash. spec 14 R420. -/
  dbgKey : BitVec 512 := 0
  /-- operator key hash, 0 while blank. spec 14 R420. -/
  opKey : BitVec 512 := 0
  /-- anti-rollback counter, thermometer code. spec 14 R420. -/
  rollback : BitVec 64 := 0
  deriving DecidableEq, Repr

/-- `Fuses` with every field at its reset value. -/
def Fuses.reset : Fuses := {}

/-- A margin journal entry (R460). -/
structure JEntry where
  /-- plan version. spec 15 R460. -/
  version : Nat := 0
  /-- kind. spec 15 R460. -/
  kind : Nat := 0
  /-- rail or stack. spec 15 R460. -/
  rail : Nat := 0
  /-- value. spec 15 R460. -/
  value : Nat := 0
  /-- domain. spec 15 R460. -/
  domain : Nat := 255
  /-- global time. spec 15 R460. -/
  time : Nat := 0
  /-- slack. spec 15 R460. -/
  slack : Int := 0
  /-- temperature. spec 15 R460. -/
  temp : Nat := 0
  /-- end. spec 15 R460. -/
  last : Bool := false
  deriving DecidableEq, Repr

/-- `JEntry` with every field at its reset value. -/
def JEntry.reset : JEntry := {}

/-- An error-log record (R470). -/
structure ErlRec where
  /-- class. spec 16 R470. -/
  cls : Nat := 0
  /-- source. spec 16 R470. -/
  src : Nat := 0
  /-- code. spec 16 R470. -/
  code : Nat := 0
  /-- unit. spec 16 R470. -/
  unit : Nat := 0
  /-- berth, 0xFF for none. spec 16 R470. -/
  berth : Nat := 255
  /-- flags [0]. spec 16 R470. -/
  nvm : Bool := false
  /-- flags [1]. spec 16 R470. -/
  coal : Bool := false
  /-- address. spec 16 R470. -/
  addr : BitVec 64 := 0
  /-- time. spec 16 R470. -/
  time : Nat := 0
  /-- count. spec 16 R470. -/
  count : Nat := 1
  /-- detail. spec 16 R470. -/
  detail : Nat := 0
  deriving DecidableEq, Repr

/-- `ErlRec` with every field at its reset value. -/
def ErlRec.reset : ErlRec := {}

/-- Fuses and NVM: what no reset and no power loss erases. -/
structure Perm where
  /-- the fuses. spec 14 R420. -/
  fuses : Fuses := Fuses.reset
  /-- the NVM header can be read and its magic is right. spec 14 R421. -/
  headerOk : Bool := true
  /-- image_state. spec 14 R421. -/
  imgState : Nat := 0
  /-- manifest_state. spec 14 R421. -/
  manState : Nat := 0
  /-- firmware image region. spec 14 R421. -/
  image : Option Image := none
  /-- manifest region. spec 14 R421. -/
  man : Option Manifest := none
  /-- valid journal entries of the half in use, oldest first. spec 15 R460. -/
  journal : List JEntry := []
  /-- health record: boot count. spec 14 R421. -/
  boots : Nat := 0
  /-- health record: characterised. spec 14 R421. -/
  characterised : Bool := false
  /-- health record: way disables (structure, unit). spec 14 R421. -/
  wayOff : List (Nat × Nat) := []
  /-- health record: retirement cause. spec 14 R421. -/
  retire : Bool := false
  /-- health record: highest manifest serial applied. spec 14 R421. -/
  manSerial : Nat := 0
  /-- fatal log, oldest first, at most two halves of 16,384 records. spec 14 R421. -/
  fatal : List ErlRec := []
  /-- fatal records erased so far. spec 14 R473. -/
  fatalOld : Nat := 0
  deriving DecidableEq, Repr

/-- `Perm` with every field at its reset value. -/
def Perm.reset : Perm := {}

/-- One regulated rail (R453, R468). -/
structure Rail where
  /-- GAU_RAIL.offset in 2.5 mV steps. spec 15 R468. -/
  off : Nat := 0
  /-- GAU_RAIL.min_slack. spec 15 R468. -/
  slack : Int := 0
  /-- GAU_RAIL.current. spec 15 R468. -/
  current : Nat := 0
  /-- local time since which it lies outside its tolerance. spec 15 R454. -/
  outSince : Option Nat := none
  deriving DecidableEq, Repr

/-- `Rail` with every field at its reset value. -/
def Rail.reset : Rail := {}

/-- Bookkeeping of one policy reason (R467). -/
structure Unmet where
  /-- local time since which it has been kept from holding. spec 15 R467. -/
  since : Option Nat := none
  /-- local time since which it has held again. spec 15 R467. -/
  held : Option Nat := none
  /-- POLICY_UNMET written and not yet met. spec 15 R467. -/
  on : Bool := false
  deriving DecidableEq, Repr

/-- `Unmet` with every field at its reset value. -/
def Unmet.reset : Unmet := {}

/-- Power states, loops and policies (R444 to R468). -/
structure Power where
  /-- PWR_STATE.state (Under way and Slack water are derived). spec 15 R468. -/
  st : PwrSt := .underway
  /-- PWR_STATE.core_limit. spec 15 R468. -/
  coreLimit : Nat := 512
  /-- PWR_STATE.hottest. spec 15 R468. -/
  hottest : Nat := 0
  /-- policy reasons, key reason + 8 × port (the port for reason 6 only). spec 15 R467. -/
  unmet : List (Nat × Unmet) := []
  /-- PWR_POLICY.cap_w. spec 15 R468. -/
  cap : Nat := 2000
  /-- PWR_POLICY.floor. spec 15 R468. -/
  floor : Nat := 12
  /-- PWR_MOOR.wake_enable. spec 15 R468. -/
  wakeEn : Bool := false
  /-- PWR_MOOR.last_result. spec 15 R468. -/
  last : Nat := 0
  /-- PWR_WAKE. spec 15 R468. -/
  wake : BitVec 64 := 0
  /-- PWR_GATED.core_gated. spec 15 R468. -/
  gated : BitVec 32 := 0
  /-- core domains being woken: domain, local time. spec 15 R446. -/
  waking : List (Nat × Nat) := []
  /-- core domains idle: domain, local time since when. spec 15 R445. -/
  idleSince : List (Nat × Nat) := []
  /-- Slack water idle time in µs. spec 14 R430. -/
  idleUs : Nat := 100
  /-- packing allowed. spec 14 R430. -/
  packing : Bool := true
  /-- local time at which step 1 of mooring began; while Moored, at which Moored was entered. spec 15 R450. -/
  moorSince : Nat := 0
  /-- a wake source arrived during Mooring. spec 15 R452. -/
  wakePend : Bool := false
  /-- thermal loop's level. spec 15 R462. -/
  thermal : Nat := 16
  /-- current loop's level. spec 15 R463. -/
  current : Nat := 16
  /-- timing-safety loop's level. spec 15 R463. -/
  timing : Nat := 16
  /-- cap loop's level. spec 15 R464. -/
  capLvl : Nat := 16
  /-- cap loop's actions, newest first: true for a core-limit step. spec 15 R464. -/
  capStack : List Bool := []
  /-- local time of the thermal loop's last step. spec 15 R462. -/
  thermAt : Nat := 0
  /-- local time of the current loop's last step. spec 15 R463. -/
  currAt : Nat := 0
  /-- local time of the cap loop's last step. spec 15 R464. -/
  capAt : Nat := 0
  /-- local time since which T has been below 97 degrees. spec 15 R462. -/
  coolSince : Option Nat := none
  /-- local time since which the average has been below 1900 W. spec 15 R463. -/
  avgLow : Option Nat := none
  /-- local time since which the slack has been above 20 ps. spec 15 R463. -/
  slackOk : Option Nat := none
  /-- local time since which the average has been below 95% of the cap. spec 15 R464. -/
  capLow : Option Nat := none
  /-- P averaged over 10 ms at the last sample. spec 15 R463. -/
  avgW : Nat := 0
  /-- package energy in mJ. spec 17 R488. -/
  energy : Nat := 0
  deriving DecidableEq, Repr

/-- `Power` with every field at its reset value. -/
def Power.reset : Power := {}

/-- The margin plan and gauges (R455 to R460, R468). -/
structure Gauge where
  /-- GAU_PLAN.ceiling. spec 15 R468. -/
  ceiling : Nat := 16
  /-- GAU_PLAN.end_of_margin. spec 15 R468. -/
  ended : Bool := false
  /-- GAU_PLAN.version. spec 15 R468. -/
  version : Nat := 0
  /-- GAU_RAIL 0 to 10. spec 15 R468. -/
  rails : List (Nat × Rail) := []
  /-- last stack margining: stack, eye width in thousandths of a UI, eye height in mV. spec 15 R458. -/
  eyes : List (Nat × Nat × Nat) := []
  /-- local time of the last measurement. spec 15 R456. -/
  measAt : Nat := 0
  /-- core domains that were gated at the last measurement and are measured at their next wake. spec 15 R456. -/
  gatedAt : BitVec 32 := 0
  /-- steps taken and not yet journalled. spec 15 R460. -/
  dueEntries : List JEntry := []
  deriving DecidableEq, Repr

/-- `Gauge` with every field at its reset value. -/
def Gauge.reset : Gauge := {}

/-- An entry of the taint list (R478). -/
structure Taint where
  /-- global line address / 128. spec 16 R486. -/
  line : Nat := 0
  /-- key index. spec 16 R486. -/
  key : Nat := 0
  /-- sector mask. spec 16 R486. -/
  sectors : BitVec 4 := 0
  deriving DecidableEq, Repr

/-- `Taint` with every field at its reset value. -/
def Taint.reset : Taint := {}

/-- The error log and taint list (R470 to R486). -/
structure Erl where
  /-- ERL_PROD. spec 16 R486. -/
  prod : BitVec 32 := 0
  /-- records, key n mod 2048. spec 16 R470. -/
  ring : List (Nat × ErlRec) := []
  /-- newest record of each source: source, slot. spec 16 R471. -/
  newest : List (Nat × Nat) := []
  /-- ERL_STATUS.taint_overflow. spec 16 R486. -/
  overflow : Bool := false
  /-- taint list, at most 256. spec 16 R478. -/
  taint : List Taint := []
  /-- Device-fatal records not yet read by READ_FATAL, numbered from the first ever appended to the fatal log. spec 19 R532. -/
  unread : List Nat := []
  deriving DecidableEq, Repr

/-- `Erl` with every field at its reset value. -/
def Erl.reset : Erl := {}

/-- Operator counters (R487 to R490, R506). -/
structure Cnt where
  /-- CNT_CONFIG.interval_us. spec 17 R506. -/
  interval : Nat := 1000
  /-- CNT_CONFIG.enable. spec 17 R506. -/
  enable : Bool := false
  /-- CNT_RING_BASE. spec 17 R506. -/
  base : Nat := 0
  /-- CNT_RING_SIZE.size_log2. spec 17 R506. -/
  size : Nat := 0
  /-- CNT_SAMPLE_PROD. spec 17 R506. -/
  prod : BitVec 32 := 0
  /-- next sample number. spec 17 R488. -/
  sampleNo : Nat := 0
  /-- the next sample is the first after Moored. spec 17 R490. -/
  restart : Bool := false
  /-- interval in force. spec 17 R488. -/
  inForce : Nat := 1000
  /-- local time of the last capture. spec 17 R487. -/
  lastAt : Nat := 0
  /-- cumulative words 0 to 90, and activity of domains other than core domains as words 160 to 191 (sparse, default 0). spec 17 R488. -/
  words : List (Nat × Nat) := []
  deriving DecidableEq, Repr

/-- `Cnt` with every field at its reset value. -/
def Cnt.reset : Cnt := {}

/-- A ledger record (R498). -/
structure LdgRec where
  /-- time. spec 17 R498. -/
  time : Nat := 0
  /-- kind. spec 17 R498. -/
  kind : Nat := 0
  /-- flags. spec 17 R498. -/
  flags : Nat := 0
  /-- context. spec 17 R498. -/
  ctx : Nat := 0
  /-- waiter. spec 17 R498. -/
  waiter : BitVec 32 := 0
  /-- object. spec 17 R498. -/
  obj : BitVec 64 := 0
  /-- releaser. spec 17 R498. -/
  rel : BitVec 32 := 0
  /-- releaser's device. spec 17 R498. -/
  relDev : Nat := 0
  /-- detail. spec 17 R498. -/
  detail : Nat := 0
  /-- the LEDGER_MARK command that completes when it is placed: queue, order. spec 17 R503. -/
  queue : Option (Nat × Nat) := none
  /-- berth of the context (for R413). spec 17 R497. -/
  berth : Nat := 0
  deriving DecidableEq, Repr

/-- `LdgRec` with every field at its reset value. -/
def LdgRec.reset : LdgRec := {}

/-- An in-core ledger buffer (R499). -/
structure LdgBuf where
  /-- records, oldest first. spec 17 R499. -/
  recs : List LdgRec := []
  /-- records dropped since the last placed. spec 17 R499. -/
  dropped : Nat := 0
  /-- time of the first record dropped. spec 17 R499. -/
  dropAt : Nat := 0
  deriving DecidableEq, Repr

/-- `LdgBuf` with every field at its reset value. -/
def LdgBuf.reset : LdgBuf := {}

/-- The passage ledger (R497 to R506). -/
structure Ledger where
  /-- LDG_CONFIG.mode. spec 17 R506. -/
  mode : Nat := 0
  /-- LDG_CONFIG.pre_share. spec 17 R506. -/
  pre : Nat := 0
  /-- LDG_CONFIG.enable. spec 17 R506. -/
  enable : Bool := false
  /-- LDG_CONFIG.match_en. spec 17 R506. -/
  matchEn : Bool := false
  /-- LDG_CONFIG.abort_en. spec 17 R506. -/
  abortEn : Bool := false
  /-- LDG_BASE. spec 17 R506. -/
  base : Nat := 0
  /-- LDG_SIZE.size_mib. spec 17 R506. -/
  size : Nat := 0
  /-- LDG_PROD. spec 17 R506. -/
  prod : BitVec 64 := 0
  /-- LDG_LOST. spec 17 R506. -/
  lost : Nat := 0
  /-- LDG_STATUS.state. spec 17 R506. -/
  st : LdgSt := .off
  /-- LDG_STATUS.cause. spec 17 R506. -/
  cause : Nat := 0
  /-- LDG_MATCH. spec 17 R506. -/
  matchV : BitVec 32 := 0
  /-- LDG_TRIG_INDEX. spec 17 R506. -/
  trig : Nat := 0
  /-- post-trigger records still to be placed. spec 17 R501. -/
  postLeft : Nat := 0
  /-- in-core buffers: core n as n, command processors 512 and 513, barge groups 514 to 517. spec 17 R499. -/
  bufs : List (Nat × LdgBuf) := []
  deriving DecidableEq, Repr

/-- `Ledger` with every field at its reset value. -/
def Ledger.reset : Ledger := {}

/-- A register shadow or held half of one requester (R13, R496). -/
structure Shadow where
  /-- requester code. spec 18 R513. -/
  who : Nat := 0
  /-- offset of the _LO half or of the view, within the operator window. spec 18 R513. -/
  off : Nat := 0
  /-- a read shadow, not a held write. spec 17 R13. -/
  isRead : Bool := true
  /-- the captured words, or the held low half. spec 00 R13. -/
  val : List (BitVec 32) := []
  deriving DecidableEq, Repr

/-- `Shadow` with every field at its reset value. -/
def Shadow.reset : Shadow := {}

/-- An ownership change being applied (R397). -/
structure GrantRec where
  /-- grant page. spec 13 R397. -/
  page : Nat := 0
  /-- new owner. spec 13 R397. -/
  berth : Nat := 0
  deriving DecidableEq, Repr

/-- `GrantRec` with every field at its reset value. -/
def GrantRec.reset : GrantRec := {}

/-- HBM and its ownership (R203 to R229, R396). -/
structure Mem where
  /-- HBM bytes by local physical address, as plaintext (sparse, default 0). spec 07 R203. -/
  hbm : List (Nat × BitVec 8) := []
  /-- per sector (address / 32): key, bytes ever written, poison. spec 07 R211. -/
  tags : List (Nat × SectorTag) := []
  /-- stacks 0 to 7 (sparse, default Untrained). spec 07 R229. -/
  stks : List (Nat × Stack) := []
  /-- HBM_NRES.reserve_8g. spec 07 R229. -/
  nres : Nat := 0
  /-- HBM_NWIN.size_64m, key 8*stack+window (sparse, default 0). spec 07 R229. -/
  nwin : List (Nat × Nat) := []
  /-- owner entries by page: berth in [4:0], carve in [5] (sparse, default 0). spec 13 R396. -/
  owner : List (Nat × Nat) := []
  /-- change being applied (BTH_GRANT_STATUS.busy). spec 13 R397. -/
  grant : Option GrantRec := none
  /-- BTH_GRANT_STATUS.refused. spec 13 R419. -/
  grantRef : Bool := false
  /-- BTH_OWNER_BASE. spec 13 R419. -/
  ownerBase : Nat := 0
  deriving DecidableEq, Repr

/-- `Mem` with every field at its reset value. -/
def Mem.reset : Mem := {}

/-- Contexts, queues, fences, berths and ranges. -/
structure Ctl where
  /-- contexts 0 to 4095 (sparse, default Free). spec 12 R358. -/
  ctxs : List (Nat × Ctx) := []
  /-- next context instance. spec 02 R46. -/
  nextInst : Nat := 0
  /-- queues 0 to 4095 (sparse, default Queue.reset). spec 12 R361. -/
  queues : List (Nat × Queue) := []
  /-- fences 0 to 65535 (sparse, default Fence.reset). spec 12 R374. -/
  fences : List (Nat × Fence) := []
  /-- import table, at most 16384. spec 12 R381. -/
  imports : List Import := []
  /-- berths 0 to 31 (sparse, default Absent). spec 13 R393. -/
  berths : List (Nat × Berth) := []
  /-- shared keys 1 to 31. spec 13 R438. -/
  shared : List (Nat × SharedKey) := []
  /-- streams 0 to 4095 (sparse, default Idle). spec 09 R272. -/
  streams : List (Nat × Stream) := []
  /-- landing buffer generations of the barge engines, key 1024*engine+buffer. spec 10 R307. -/
  bgens : List (Nat × Nat) := []
  /-- orphaned result writes of command processors: agent, entry, generation, context, device. spec 10 R317. -/
  lostWrites : List (Nat × Nat × Nat × Nat × Nat) := []
  /-- TRN_MIRROR masks (sparse, default 0). spec 09 R294. -/
  mirrors : List (Nat × BitVec 64) := []
  /-- walks of barge streams, in arrival order. spec 09 R271. -/
  bwalks : List Walk := []
  /-- shared range caches of the four basin quarters. spec 09 R270. -/
  quarter : List (Nat × List XCache) := []
  deriving DecidableEq, Repr

/-- `Ctl` with every field at its reset value. -/
def Ctl.reset : Ctl := {}

/-- A storage fault that the next read of its place finds (R217, R256, R481). -/
structure Latent where
  /-- 0 HBM burst, 1 slice line, 2 L1 line, 3 local-memory word, 4 register file of a group, 5 instruction-cache line, 6 and 7 directory words 0 and 1, 8 state of a berth, 9 write-combining entry, 10 word of a port's buffer. spec 07 R217. -/
  kind : Nat := 0
  /-- core, slice or berth. spec 07 R217. -/
  unit : Nat := 0
  /-- line number, burst, word or group slot. spec 07 R217. -/
  place : Nat := 0
  /-- word of the line, for a cache line. spec 07 R217. -/
  word : Nat := 0
  /-- uncorrectable. spec 07 R217. -/
  unc : Bool := false
  deriving DecidableEq, Repr

/-- `Latent` with every field at its reset value. -/
def Latent.reset : Latent := {}

/-- The device proper: everything a warm or cold reset acts on. -/
structure Dev where
  /-- 512 cores (sparse, default Core.reset). spec 01 R19. -/
  cores : List (Nat × Core) := []
  /-- 128 basin slices (sparse, default Slice.reset). spec 01 R24. -/
  slices : List (Nat × Slice) := []
  /-- HBM. spec 07 R203. -/
  mem : Mem := Mem.reset
  /-- contexts, queues, fences, berths, streams. spec 12 R358. -/
  ctl : Ctl := Ctl.reset
  /-- ports and routes. spec 10 R295. -/
  fab : Fabric := Fabric.reset
  /-- time offset. spec 10 R332. -/
  tim : TimeSt := TimeSt.reset
  /-- wharf. spec 11 R357. -/
  whf : Wharf := Wharf.reset
  /-- Lockkeeper. spec 14 R443. -/
  lkp : Lkp := Lkp.reset
  /-- power. spec 15 R468. -/
  pwr : Power := Power.reset
  /-- gauges. spec 15 R468. -/
  gau : Gauge := Gauge.reset
  /-- error log. spec 16 R486. -/
  erl : Erl := Erl.reset
  /-- counters. spec 17 R506. -/
  cnt : Cnt := Cnt.reset
  /-- passage ledger. spec 17 R506. -/
  ldg : Ledger := Ledger.reset
  /-- register shadows and held halves. spec 00 R13. -/
  shadows : List Shadow := []
  /-- THERMTRIP_N is asserted. spec 19 R532. -/
  thermtrip : Bool := false
  /-- NVM_OWNER is high. spec 19 R528. -/
  nvmOwner : Bool := false
  /-- no clock outside PD61 runs: after a thermal trip, after REFCLK was lost, while Moored and while RESET_N is asserted. spec 15 R462. -/
  stopped : Bool := false
  /-- storage faults that reads will find, set by the environment at a boot. The model's own field. -/
  latent : List Latent := []
  /-- notices not yet written: index of the record in the log, owner of the key, record. spec 16 R474. -/
  notices : List (Nat × Nat × ErlRec) := []
  /-- Device-fatal records that the Lockkeeper has yet to act on. spec 16 R483. -/
  fatalPend : List ErlRec := []
  /-- unit disables to be entered in the health record: structure (slice n, 128 + n for its victim cache, 256 + c for the L1 of core c), unit. spec 07 R219. -/
  healthDue : List (Nat × Nat) := []
  /-- result of the last side-band command: status and bytes. spec 19 R531. -/
  sbResult : Option (Nat × List (BitVec 8)) := none
  /-- counter of free values taken (the model's own field). The model's own field. -/
  fresh : Nat := 0
  deriving DecidableEq, Repr

/-- `Dev` with every field at its reset value. -/
def Dev.reset : Dev := {}

/-- The clocks that run whatever the device does (R2, R26, R504). -/
structure Clock where
  /-- local count in sixteenths of a tick (TIM_LOCAL). spec 17 R504. -/
  tsc : Nat := 0
  /-- C slot of the present frame, 0 to 31. spec 01 R26. -/
  slot : Nat := 0
  /-- C-cycles counted since the last cold start. spec 01 R26. -/
  ccyc : Nat := 0
  /-- A-cycles counted since the last cold start. spec 01 R26. -/
  acyc : Nat := 0
  /-- C and A setting n of n/16. spec 01 R26. -/
  setting : Nat := 16
  /-- local time of the last change of setting. spec 01 R27. -/
  changedAt : Nat := 0
  /-- local time of the last upward step. spec 15 R461. -/
  upAt : Nat := 0
  /-- REFCLK runs. spec 19 R525. -/
  refOk : Bool := true
  /-- RESET_N is asserted. spec 19 R523. -/
  inReset : Bool := false
  /-- VAON is within its tolerance. spec 19 R524. -/
  vaon : Bool := true
  deriving DecidableEq, Repr

/-- `Clock` with every field at its reset value. -/
def Clock.reset : Clock := {}

/-- The whole block. -/
structure State where
  /-- the queue of commands that wait, first in, first out. The model's own field. -/
  pending : List Instr := []
  /-- the device. spec 01 R19. -/
  dev : Dev := Dev.reset
  /-- fuses and NVM. spec 14 R420. -/
  perm : Perm := Perm.reset
  /-- clocks. spec 01 R26. -/
  clk : Clock := Clock.reset
  deriving DecidableEq, Repr

/-- `State` with every field at its reset value. -/
def State.reset : State := {}
/-- Faults. The block has no stop of this kind: no meaning raises one, which is neither safe nor unsafe. The type has
one constructor so that it is inhabited. -/
inductive Fault where
  /-- Raised by no meaning. Safe. -/
  | none
  deriving DecidableEq, Repr

/-- Refusals. -/
inductive Refusal where
  /-- Raised by an arm of `exec` whose command has no meaning yet. Safe: the model stops where the hardware goes on. -/
  | notModelled (mnemonic : String)
  deriving DecidableEq, Repr

end Sys2Proof.Machine
end

