-- ==== Sys2Proof/Machine/Bits.lean ====
section
/-! DEFINITION. Helpers that know nothing of the hardware: sparse maps, bit fields, bytes in little-endian order, lines
of 128 bytes with their masks, and tree pseudo-LRU. -/

namespace Sys2Proof.Machine

/-! ### Sparse maps: lists of pairs with rising keys -/

/-- Value at a key, `dflt` when the key is not listed. -/
def mget {α : Type} (dflt : α) : List (Nat × α) → Nat → α
  | [], _ => dflt
  | (j, v) :: t, k => if j = k then v else mget dflt t k

/-- Whether a key is listed. -/
def mhas {α : Type} (m : List (Nat × α)) (k : Nat) : Bool := m.any fun e => e.1 == k

/-- Optional value at a key. -/
def mget? {α : Type} : List (Nat × α) → Nat → Option α
  | [], _ => none
  | (j, v) :: t, k => if j = k then some v else mget? t k

/-- List a value at a key, in its place by rising keys. -/
def mput {α : Type} : List (Nat × α) → Nat → α → List (Nat × α)
  | [], k, v => [(k, v)]
  | (j, w) :: t, k, v =>
    if k < j then (k, v) :: (j, w) :: t
    else if j = k then (k, v) :: t
    else (j, w) :: mput t k v

/-- Drop a key. -/
def mdel {α : Type} (m : List (Nat × α)) (k : Nat) : List (Nat × α) := m.filter fun e => e.1 != k

/-- Write a value at a key of a map whose unlisted keys read `dflt`: writing `dflt` drops the entry. -/
def mset {α : Type} [DecidableEq α] (dflt : α) (m : List (Nat × α)) (k : Nat) (v : α) : List (Nat × α) :=
  if v = dflt then mdel m k else mput m k v

/-- Replace the value at a key by a function of it. -/
def mupd {α : Type} (dflt : α) (m : List (Nat × α)) (k : Nat) (f : α → α) : List (Nat × α) :=
  mput m k (f (mget dflt m k))

/-- Apply a function to every value of a map. -/
def mmap {α : Type} (m : List (Nat × α)) (f : Nat → α → α) : List (Nat × α) := m.map fun e => (e.1, f e.1 e.2)

/-- Keys rise strictly. -/
def keysRise {α : Type} : List (Nat × α) → Bool
  | [] => true
  | [_] => true
  | (a, _) :: (b, w) :: t => decide (a < b) && keysRise ((b, w) :: t)

/-- Canonical form of a memory: rising keys, and no entry equal to what an unlisted address reads as. -/
def Memory.wf (m : List (Nat × BitVec 8)) : Bool := keysRise m && m.all fun e => e.2 != 0

/-- Smallest number below `n` that a list does not hold. -/
def lowestFree (n : Nat) (used : List Nat) : Option Nat := (List.range n).find? fun i => !used.contains i

/-- Sum of a list. -/
def sumNat (l : List Nat) : Nat := l.foldl (· + ·) 0

/-! ### Bit fields of numbers -/

/-- Bits [lo + len - 1 : lo] of a number. -/
def bitsAt (n lo len : Nat) : Nat := (n >>> lo) % 2 ^ len

/-- Bit `i` of a number. -/
def bitAt (n i : Nat) : Bool := (n >>> i) % 2 == 1

/-- 1 for true. -/
def b2n (b : Bool) : Nat := if b then 1 else 0

/-- Replace bits [lo + len - 1 : lo] of a number. -/
def setBits (n lo len v : Nat) : Nat := n - (bitsAt n lo len) * 2 ^ lo + (v % 2 ^ len) * 2 ^ lo

/-- A number as a signed one of `w` bits. -/
def toSigned (w n : Nat) : Int := if 2 ^ (w - 1) ≤ n % 2 ^ w then Int.ofNat (n % 2 ^ w) - Int.ofNat (2 ^ w) else Int.ofNat (n % 2 ^ w)

/-- A signed number modulo 2^w. -/
def ofSigned (w : Nat) (i : Int) : Nat := (i % (2 ^ w : Nat)).toNat

/-- Quotient rounded up. -/
def ceilDiv (a b : Nat) : Nat := (a + b - 1) / b

/-- A number made of fields: (low bit, width, value). -/
def packBits (fs : List (Nat × Nat × Nat)) : Nat :=
  fs.foldl (fun acc f => acc + (f.2.2 % 2 ^ f.2.1) * 2 ^ f.1) 0

/-- Add and stay at or below a bound. -/
def satAdd (bound a b : Nat) : Nat := min bound (a + b)

/-- Lanes set in a mask, lowest first. -/
def lanesOf (m : BitVec 32) : List Nat := (List.range 32).filter fun i => m.getLsbD i

/-- The mask of a list of lanes. -/
def maskOf (ls : List Nat) : BitVec 32 := ls.foldl (fun m i => m ||| (1#32 <<< i)) 0

/-! ### Bytes -/

/-- The `n` bytes of a number, lowest first (R7). -/
def bytesOf : Nat → Nat → List (BitVec 8)
  | 0, _ => []
  | n + 1, v => BitVec.ofNat 8 v :: bytesOf n (v / 256)

/-- The number that a list of bytes spells, lowest first (R7). -/
def natOf : List (BitVec 8) → Nat
  | [] => 0
  | b :: t => b.toNat + 256 * natOf t

/-- Split a list into pieces of `n`. -/
def chunks {α : Type} (n : Nat) : Nat → List α → List (List α)
  | 0, _ => []
  | k + 1, l => l.take n :: chunks n k (l.drop n)

/-! ### Lines -/

/-- Byte `i` of a line. -/
def lineByte (l : Line) (i : Nat) : Byte := l.extractLsb' (8 * i) 8

/-- 64-bit word `i` of a line. -/
def lineWord (l : Line) (i : Nat) : W64 := l.extractLsb' (64 * i) 64

/-- A line with `len` bytes from byte `i` replaced by the low bytes of `v`. -/
def lineSet (l : Line) (i len v : Nat) : Line :=
  let m : Line := BitVec.ofNat 1024 ((2 ^ (8 * len) - 1) * 2 ^ (8 * i))
  (l &&& ~~~m) ||| (BitVec.ofNat 1024 (v * 2 ^ (8 * i)) &&& m)

/-- `len` bytes of a line from byte `i`, as a number. -/
def lineGet (l : Line) (i len : Nat) : Nat := (l.toNat >>> (8 * i)) % 2 ^ (8 * len)

/-- The 16 words of a line. -/
def lineWords (l : Line) : List W64 := (List.range 16).map (lineWord l)

/-- The line that a list of words spells. -/
def lineOfWords (ws : List W64) : Line :=
  BitVec.ofNat 1024 ((ws.take 16).foldr (fun w acc => w.toNat + 2 ^ 64 * acc) 0)

/-- Byte mask of `len` bytes from byte `i`. -/
def spanMask (i len : Nat) : BitVec 128 := BitVec.ofNat 128 ((2 ^ len - 1) * 2 ^ i)

/-- A byte mask widened to bits. -/
def bitMask (m : BitVec 128) : Line :=
  BitVec.ofNat 1024 ((List.range 128).foldl (fun acc i => if m.getLsbD i then acc + 255 * 2 ^ (8 * i) else acc) 0)

/-- `new` at the bytes of the mask, `old` elsewhere. -/
def lineMerge (m : BitVec 128) (new old : Line) : Line := (new &&& bitMask m) ||| (old &&& ~~~(bitMask m))

/-- The 32-byte sectors that a byte mask touches. -/
def sectorsOf (m : BitVec 128) : BitVec 4 :=
  (List.range 4).foldl (fun acc i => if m.extractLsb' (32 * i) 32 = 0 then acc else acc ||| (1#4 <<< i)) 0

/-- The byte mask of a sector mask. -/
def sectorBytes (s : BitVec 4) : BitVec 128 :=
  (List.range 4).foldl (fun acc i => if s.getLsbD i then acc ||| spanMask (32 * i) 32 else acc) 0

/-- Words whose poison a write of the masked bytes clears: those it covers whole (R216). -/
def clearedWords (m : BitVec 128) : BitVec 16 :=
  (List.range 16).foldl (fun acc i => if m.extractLsb' (8 * i) 8 = 0xFF#8 then acc ||| (1#16 <<< i) else acc) 0

/-- Poison of a line after a masked write that carries its own poisoned words (R216). -/
def mergePoison (m : BitVec 128) (new old : BitVec 16) : BitVec 16 :=
  (List.range 16).foldl (fun acc i =>
    let part := m.extractLsb' (8 * i) 8
    let p := if part = 0 then old.getLsbD i else if part = 0xFF#8 then new.getLsbD i else old.getLsbD i || new.getLsbD i
    if p then acc ||| (1#16 <<< i) else acc) 0

/-- Words set in a poison mask. -/
def poisonList (p : BitVec 16) : List Nat := (List.range 16).filter fun i => p.getLsbD i

/-- Poison mask of a list of words. -/
def poisonMask (ws : List Nat) : BitVec 16 := ws.foldl (fun p i => if i < 16 then p ||| (1#16 <<< i) else p) 0

/-- Sectors that hold a poisoned word. -/
def poisonSectors (p : BitVec 16) : BitVec 4 :=
  (List.range 4).foldl (fun acc i => if p.extractLsb' (4 * i) 4 = 0 then acc else acc ||| (1#4 <<< i)) 0

/-- All 16 words poisoned. -/
def allPoison : BitVec 16 := 0xFFFF#16

/-! ### Tree pseudo-LRU

Node 1 is the root; node n's children are 2n and 2n + 1. A node's bit names the side to replace next. -/

/-- The bits after a use of way `w`. -/
def plruTouch : (levels : Nat) → (node bits w : Nat) → Nat
  | 0, _, bits, _ => bits
  | l + 1, node, bits, w =>
    let side := b2n (bitAt w l)
    plruTouch l (2 * node + side) (setBits bits node 1 (1 - side)) w

/-- The bits that name way `w` as the next to replace. -/
def plruAim : (levels : Nat) → (node bits w : Nat) → Nat
  | 0, _, bits, _ => bits
  | l + 1, node, bits, w =>
    let side := b2n (bitAt w l)
    plruAim l (2 * node + side) (setBits bits node 1 side) w

/-- The way to replace among those that `ok` allows; the tree's ways run from `base`. -/
def plruVictim : (levels : Nat) → (node bits base : Nat) → (ok : Nat → Bool) → Nat
  | 0, _, _, base, _ => base
  | l + 1, node, bits, base, ok =>
    let side := b2n (bitAt bits node)
    let has := fun (sd : Nat) => (List.range (2 ^ l)).any fun i => ok (base + sd * 2 ^ l + i)
    let sd := if has side then side else 1 - side
    plruVictim l (2 * node + sd) bits (base + sd * 2 ^ l) ok

end Sys2Proof.Machine
end

