-- ==== Sys2Proof/Machine/Float.lean ====
section
/-! DEFINITION. Numbers: exact values, the floating-point and integer formats of R84 and R140 to R144, rounding (R161 to R164),
IEEE arithmetic (R99, R185) and the transcendentals (R186). -/

namespace Sys2Proof.Machine

/-- An exact value: not a number, an infinity, or (-1)^neg * m * 2^e. -/
inductive FVal where
  | nan
  | inf (neg : Bool)
  | fin (neg : Bool) (m : Nat) (e : Int)
  deriving DecidableEq, Repr

/-- A floating-point format. -/
structure Fmt where
  /-- Bits of the exponent field. -/
  eb : Nat
  /-- Bits of the fraction field. -/
  mb : Nat
  /-- Exponent bias. -/
  bias : Nat
  /-- It has infinities and NaNs in the top exponent. -/
  ieee : Bool
  /-- It has one NaN per sign, all ones, and no infinity. -/
  ones : Bool
  /-- The code of a NaN result. -/
  qnan : Nat
  deriving DecidableEq, Repr

/-- binary32. -/
def fp32 : Fmt := ⟨8, 23, 127, true, false, 0x7FC00000⟩
/-- bfloat16. -/
def bf16 : Fmt := ⟨8, 7, 127, true, false, 0x7FC0⟩
/-- binary16. -/
def fp16 : Fmt := ⟨5, 10, 15, true, false, 0x7E00⟩
/-- E5M2. -/
def e5m2 : Fmt := ⟨5, 2, 15, true, false, 0x7E⟩
/-- E4M3. -/
def e4m3 : Fmt := ⟨4, 3, 7, false, true, 0x7F⟩
/-- E2M3. -/
def e2m3 : Fmt := ⟨2, 3, 1, false, false, 0⟩
/-- E3M2. -/
def e3m2 : Fmt := ⟨3, 2, 3, false, false, 0⟩
/-- E2M1. -/
def e2m1 : Fmt := ⟨2, 1, 1, false, false, 0⟩

/-- Bits of a format. -/
def Fmt.width (f : Fmt) : Nat := 1 + f.eb + f.mb

/-- The value that a code stands for. -/
def fdecode (f : Fmt) (c : Nat) : FVal :=
  let neg := bitAt c (f.eb + f.mb)
  let ex := bitsAt c f.mb f.eb
  let mant := bitsAt c 0 f.mb
  if f.ieee && ex == 2 ^ f.eb - 1 then (if mant = 0 then .inf neg else .nan)
  else if f.ones && ex == 2 ^ f.eb - 1 && mant == 2 ^ f.mb - 1 then .nan
  else if ex = 0 then .fin neg mant (1 - Int.ofNat f.bias - Int.ofNat f.mb)
  else .fin neg (mant + 2 ^ f.mb) (Int.ofNat ex - Int.ofNat f.bias - Int.ofNat f.mb)

/-- Rounding modes (R106, R161). -/
inductive RMode where
  | rne
  | zero
  | stochastic (r : Nat)
  deriving DecidableEq, Repr

/-- An integer multiple of 2^q near m * 2^e, under a mode (R161, R162). -/
def roundAt (mode : RMode) (m : Nat) (e q : Int) : Nat :=
  if q ≤ e then m * 2 ^ (e - q).toNat
  else
    let k := (q - e).toNat
    let lo := m >>> k
    let r := m - lo <<< k
    match mode with
    | .zero => lo
    | .rne => if r * 2 > 2 ^ k ∨ (r * 2 = 2 ^ k ∧ lo % 2 = 1) then lo + 1 else lo
    | .stochastic d => if r ≠ 0 ∧ 2 ^ 16 ≤ (2 ^ 16 * r) >>> k + d then lo + 1 else lo

/-- Number of bits of a number. -/
def bitLen (n : Nat) : Nat := if n = 0 then 0 else Nat.log2 n + 1

/-- Greatest exponent field of a finite value. -/
def Fmt.maxExp (f : Fmt) : Nat := if f.ieee then 2 ^ f.eb - 2 else 2 ^ f.eb - 1
/-- Code of the largest finite magnitude. -/
def Fmt.maxCode (f : Fmt) : Nat := f.maxExp * 2 ^ f.mb + (if f.ones then 2 ^ f.mb - 2 else 2 ^ f.mb - 1)

/-- Round an exact value to a format (R161, R163): `ieeeOver` selects overflow to infinity, else saturation. -/
def fround (f : Fmt) (mode : RMode) (ieeeOver : Bool) : FVal → Nat
  | .nan => f.qnan
  | .inf neg =>
    b2n neg * 2 ^ (f.eb + f.mb) + (if f.ieee then (2 ^ f.eb - 1) * 2 ^ f.mb else f.maxCode)
  | .fin neg m e =>
    let sign := b2n neg * 2 ^ (f.eb + f.mb)
    if m = 0 then sign
    else
      let emin : Int := 1 - Int.ofNat f.bias - Int.ofNat f.mb
      let q := max emin (e + Int.ofNat (bitLen m) - 1 - Int.ofNat f.mb)
      let n := roundAt mode m e q
      let (n, q) := if n = 2 ^ (f.mb + 1) then (2 ^ f.mb, q + 1) else (n, q)
      let code := if n < 2 ^ f.mb then n else ((q - emin).toNat + 1) * 2 ^ f.mb + (n - 2 ^ f.mb)
      if f.maxCode < code then
        sign + (if f.ieee && ieeeOver && mode != .zero then (2 ^ f.eb - 1) * 2 ^ f.mb else f.maxCode)
      else sign + code

/-! ### Exact arithmetic -/

/-- Exact product. -/
def fmul : FVal → FVal → FVal
  | .nan, _ => .nan
  | _, .nan => .nan
  | .inf a, .inf b => .inf (a != b)
  | .inf a, .fin b m _ => if m = 0 then .nan else .inf (a != b)
  | .fin a m _, .inf b => if m = 0 then .nan else .inf (a != b)
  | .fin a m e, .fin b n g => .fin (a != b) (m * n) (e + g)

/-- Signed integer of a sign and a magnitude. -/
def signed (neg : Bool) (m : Nat) : Int := if neg then -Int.ofNat m else Int.ofNat m

/-- Exact sum. A zero sum is +0 unless both addends are negative zeros. -/
def fadd : FVal → FVal → FVal
  | .nan, _ => .nan
  | _, .nan => .nan
  | .inf a, .inf b => if a = b then .inf a else .nan
  | .inf a, .fin _ _ _ => .inf a
  | .fin _ _ _, .inf b => .inf b
  | .fin a m e, .fin b n g =>
    let q := min e g
    let s := signed a (m * 2 ^ (e - q).toNat) + signed b (n * 2 ^ (g - q).toNat)
    if s = 0 then .fin (a && b) 0 0 else .fin (decide (s < 0)) s.natAbs q

/-- Negation. -/
def fneg : FVal → FVal
  | .nan => .nan
  | .inf a => .inf (!a)
  | .fin a m e => .fin (!a) m e

/-- Magnitude. -/
def fabs : FVal → FVal
  | .nan => .nan
  | .inf _ => .inf false
  | .fin _ m e => .fin false m e

/-- Order of two numbers that are not NaN, with both zeros equal: negative, 0 or positive. -/
def fcmp : FVal → FVal → Int
  | .inf a, .inf b => if a = b then 0 else if a then -1 else 1
  | .inf a, _ => if a then -1 else 1
  | _, .inf b => if b then 1 else -1
  | .fin a m e, .fin b n g =>
    let q := min e g
    signed a (m * 2 ^ (e - q).toNat) - signed b (n * 2 ^ (g - q).toNat)
  | _, _ => 0

/-- Whether a value is a NaN. -/
def FVal.isNan : FVal → Bool
  | .nan => true
  | _ => false

/-- Whether a value carries a minus sign. -/
def FVal.isNeg : FVal → Bool
  | .nan => false
  | .inf a => a
  | .fin a _ _ => a

/-- IEEE 754-2019 minimum and maximum (R99): a NaN operand gives a NaN, and -0 orders below +0. -/
def fminmax (mx : Bool) (a b : FVal) : FVal :=
  if a.isNan || b.isNan then .nan
  else
    let c := fcmp a b
    let aLess := decide (c < 0) || (c == 0 && a.isNeg && !b.isNeg)
    if aLess == mx then b else a

/-- An arithmetic result in a format, with IEEE overflow (R185). -/
def farith (f : Fmt) (mode : RMode) (v : FVal) : Nat := fround f mode true v

/-! ### Transcendentals (R186) -/

/-- Integer square root, rounded down, for numbers below 2^(2 * fuel). -/
def isqrt : Nat → Nat → Nat
  | 0, _ => 0
  | k + 1, n =>
    let s := 2 * isqrt k (n / 4)
    if (s + 1) * (s + 1) ≤ n then s + 1 else s

/-- Fixed-point precision of the transcendentals. -/
def tP : Nat := 96

/-- 2^(f / 2^k) in fixed point for a fraction f of k bits: the product of the roots 2^(1/2), 2^(1/4), ... that its bits
select, `root` being the last one. -/
def exp2Frac : Nat → (f root acc : Nat) → Nat
  | 0, _, _, acc => acc
  | k + 1, f, root, acc =>
    let r := isqrt (tP + 1) (root * 2 ^ tP)
    exp2Frac k f r (if bitAt f k then (acc * r) >>> tP else acc)

/-- 2^x as an exact approximation: value / 2^tP times 2^n. -/
def exp2Approx (neg : Bool) (m : Nat) (e : Int) : FVal :=
  -- x in units of 2^-tP, rounded down
  let x : Int := if 0 ≤ e + Int.ofNat tP then signed neg (m * 2 ^ (e + Int.ofNat tP).toNat)
    else if neg then -(Int.ofNat (m >>> (-(e + Int.ofNat tP)).toNat) + 1) else Int.ofNat (m >>> (-(e + Int.ofNat tP)).toNat)
  let n := x.fdiv (Int.ofNat (2 ^ tP))
  let f := (x - n * Int.ofNat (2 ^ tP)).toNat
  .fin false (exp2Frac tP f (2 * 2 ^ tP) (2 ^ tP)) (n - Int.ofNat tP)

/-- Bits of log2 of y / 2^tP, 1 ≤ y / 2^tP < 2, by repeated squaring. -/
def log2Bits : Nat → (y acc : Nat) → Nat
  | 0, _, acc => acc
  | k + 1, y, acc =>
    let s := (y * y) >>> tP
    if 2 * 2 ^ tP ≤ s then log2Bits k (s / 2) (2 * acc + 1) else log2Bits k s (2 * acc)

/-- log2 of m * 2^e, approximated with 48 bits of fraction. -/
def log2Approx (m : Nat) (e : Int) : FVal :=
  let l := bitLen m - 1
  let y := m * 2 ^ tP / 2 ^ l
  let s : Int := (e + Int.ofNat l) * Int.ofNat (2 ^ 48) + Int.ofNat (log2Bits 48 y 0)
  .fin (decide (s < 0)) s.natAbs (-48)

/-- 1 / (m * 2^e) to 2 * tP bits, with a last bit that tells of a remainder. -/
def rcpApprox (m : Nat) (e : Int) : FVal :=
  let s := 2 * tP + bitLen m
  let q := 2 ^ s / m
  .fin false (2 * q + b2n (q * m != 2 ^ s)) (-e - Int.ofNat s - 1)

/-- 1 / sqrt(m * 2^e), likewise. -/
def rsqrtApprox (m : Nat) (e : Int) : FVal :=
  -- m * 2^e with an even exponent
  let (m, e) := if e % 2 = 0 then (m, e) else (2 * m, e - 1)
  let s := 2 * tP + 2 * bitLen m
  let q := 2 ^ (2 * s) / m
  let r := isqrt (s + 2) q
  .fin false (2 * r + b2n (r * r * m != 2 ^ (2 * s))) (-(e / 2) - Int.ofNat s - 1)

/-- Whether an F32 code lies within 2 units in the last place of a value, at the code's own spacing (R186). -/
def within2 (c : Nat) (v : FVal) : Bool :=
  match fdecode fp32 c with
  | .fin n m e => decide (fcmp (fabs (fadd (.fin n m e) (fneg v))) (.fin false 2 e) ≤ 0)
  | _ => false

/-- An F32 candidate is accepted where it meets R186's bound for the operation: 2 units in the last place for EXP2 and for LOG2, 2^-22 for
LOG2 from 0.5 to 2, and one of the two enclosing values for RSQRT and RCP; `v` approximates the exact result far more closely than the
bound. -/
def candOk (op : Nat) (a : FVal) (v : FVal) (c : Nat) : Bool :=
  match op with
  | 0 => within2 c v
  | 1 =>
    if 0 ≤ fcmp a (.fin false 1 (-1)) ∧ fcmp a (.fin false 1 1) ≤ 0 then
      match fdecode fp32 c with
      | .fin n m e => decide (fcmp (fabs (fadd (.fin n m e) (fneg v))) (.fin false 1 (-22)) ≤ 0)
      | _ => false
    else within2 c v
  | _ =>
    let lo := fround fp32 .zero true v
    if fcmp (fdecode fp32 lo) v == 0 then c == lo else c == lo || c == lo + 1

/-- Exact approximation of a transcendental for a finite operand that the special-value table leaves. -/
def transApprox (op : Nat) : FVal → FVal
  | .fin neg m e => match op with
    | 0 => exp2Approx neg m e
    | 1 => log2Approx m e
    | 2 => match rsqrtApprox m e with | .fin _ a b => .fin neg a b | v => v
    | _ => match rcpApprox m e with | .fin _ a b => .fin neg a b | v => v
  | v => v

/-- Special values of the transcendentals (R186), for F32 and BF16: op 0 EXP2, 1 LOG2, 2 RSQRT, 3 RCP. -/
def transSpecial (f : Fmt) (op : Nat) : FVal → Option FVal
  | .nan => some .nan
  | .inf neg => some (match op, neg with
    | 0, true => .fin false 0 0 | 0, false => .inf false
    | 1, true => .nan | 1, false => .inf false
    | 2, true => .nan | 2, false => .fin false 0 0
    | _, n => .fin n 0 0)
  | .fin neg m e =>
    if m = 0 then some (match op with
      | 0 => .fin false 1 0
      | 1 => .inf true
      | _ => .inf neg)
    else match op with
      | 0 =>
        if !neg && decide (0 ≤ fcmp (.fin neg m e) (.fin false 128 0)) then some (.inf false)
        else if neg && decide (fcmp (.fin neg m e) (.fin true (if f.mb = 23 then 149 else 133) 0) < 0) then some (.fin false 0 0)
        else none
      | 1 => if neg then some .nan else none
      | 2 => if neg then some .nan else none
      | _ => none

/-- Whether the exact result is representable and must be given exactly: EXP2 of an integer, LOG2 of a power of two. -/
def transExact (op : Nat) : FVal → Option FVal
  | .fin neg m e => match op with
    | 0 =>
      if 0 ≤ e then some (.fin false 1 (signed neg (m * 2 ^ e.toNat)))
      else if m % 2 ^ (-e).toNat = 0 then some (.fin false 1 (signed neg (m / 2 ^ (-e).toNat)))
      else none
    | 1 =>
      let l := bitLen m - 1
      if m = 2 ^ l then
        let n := e + Int.ofNat l
        some (.fin (decide (n < 0)) n.natAbs 0)
      else none
    | _ => none
  | _ => none

/-- A transcendental in F32 or BF16 (R186). -/
def transOp (f : Fmt) (op : Nat) (c : Nat) : Nat :=
  let a := fdecode f c
  match transSpecial f op a with
  | some v => fround f .rne true v
  | none =>
    match transExact op a with
    | some v => fround f .rne true v
    | none =>
      let v := transApprox op a
      if f.mb = 23 then
        let cand := (Config.transcendental op (BitVec.ofNat 32 c)).toNat
        if candOk op a v cand then cand else fround f .rne true v
      else fround f .rne true v

/-! ### Conversions (R106, R161 to R164) -/

/-- An element type of a conversion: a float format, E8M0, or an integer of a width. -/
inductive ETy where
  | flt (f : Fmt)
  | e8m0
  | int (signed : Bool) (w : Nat)
  deriving DecidableEq, Repr

/-- Bits of an element's place, from bit 0: 6-bit types take a byte (R106). -/
def ETy.place : ETy → Nat
  | .flt f => if f.width = 6 then 8 else f.width
  | .e8m0 => 8
  | .int _ w => w

/-- The element type of a type code (R84), where a conversion may name it. -/
def etyOf : Nat → Option ETy
  | 0x00 => some (.int false 32)
  | 0x01 => some (.int true 32)
  | 0x02 => some (.int false 64)
  | 0x03 => some (.int true 64)
  | 0x04 => some (.flt fp32)
  | 0x08 => some (.int false 8)
  | 0x09 => some (.int true 8)
  | 0x0A => some (.int false 16)
  | 0x0B => some (.int true 16)
  | 0x10 => some (.flt e4m3)
  | 0x11 => some (.flt e5m2)
  | 0x12 => some (.flt e2m3)
  | 0x13 => some (.flt e3m2)
  | 0x14 => some (.flt e2m1)
  | 0x15 => some (.int true 4)
  | 0x16 => some (.flt bf16)
  | 0x17 => some (.flt fp16)
  | 0x18 => some .e8m0
  | _ => none

/-- Value of an element. -/
def edecode (t : ETy) (c : Nat) : FVal :=
  match t with
  | .flt f => fdecode f (c % 2 ^ f.width)
  | .e8m0 => if c % 256 = 255 then .nan else .fin false 1 (Int.ofNat (c % 256) - 127)
  | .int s w =>
    let v := if s then toSigned w c else Int.ofNat (c % 2 ^ w)
    .fin (decide (v < 0)) v.natAbs 0

/-- Round to an integer type and limit to its range (R163). -/
def toIntTy (mode : RMode) (s : Bool) (w : Nat) : FVal → Nat
  | .nan => 0
  | .inf neg =>
    if s then (if neg then 2 ^ (w - 1) else 2 ^ (w - 1) - 1) else (if neg then 0 else 2 ^ w - 1)
  | .fin neg m e =>
    let v := signed neg (roundAt mode m e 0)
    let lo : Int := if s then -Int.ofNat (2 ^ (w - 1)) else 0
    let hi : Int := if s then Int.ofNat (2 ^ (w - 1)) - 1 else Int.ofNat (2 ^ w) - 1
    ofSigned w (max lo (min hi v))

/-- Conversion to E8M0 (R164): the sign is ignored. -/
def toE8M0 (mode : RMode) : FVal → Nat
  | .nan => 0xFF
  | .inf _ => 0xFF
  | .fin _ m e =>
    if m = 0 then 0
    else
      let l : Int := e + Int.ofNat (bitLen m) - 1
      let s : Int := l + 127
      let up := match mode with
        | .rne =>
          let c := fcmp (.fin false m e) (.fin false 3 (l - 1))
          decide (0 < c) || (c == 0 && s % 2 != 0)
        | _ => false
      let s : Int := if up then s + 1 else s
      if l < -127 then 0 else if 254 < s then 0xFE else s.toNat

/-- Convert an exact value to an element type. -/
def eround (t : ETy) (mode : RMode) (ieeeOver : Bool) (v : FVal) : Nat :=
  match t with
  | .flt f => fround f mode ieeeOver v
  | .e8m0 => toE8M0 mode v
  | .int s w => toIntTy mode s w v

/-- Whether an element type has infinities (R106). -/
def ETy.hasInf : ETy → Bool
  | .flt f => f.ieee
  | _ => false

end Sys2Proof.Machine
end

