-- ==== Sys2Proof/Machine/Ops.lean ====
section
/-! DEFINITION. Named operations over the parts of State: access to cores, groups, slices, queues and the other numbered
units; time; the error log (R470 to R474). -/

namespace Sys2Proof.Machine

/-- The outcome type of a meaning. -/
abbrev Out := Host.Outcome State Fault Refusal

/-- A meaning that changes only the device: a next state in every case. -/
def onDev (s : State) (f : Dev → Dev) : Out := .next { s with dev := f s.dev }

/-! ### Numbered units -/

/-- Core `c` (R19). -/
def Dev.core (d : Dev) (c : Nat) : Core := mget Core.reset d.cores c
/-- Replace core `c`. -/
def Dev.setCore (d : Dev) (c : Nat) (k : Core) : Dev := { d with cores := mput d.cores c k }
/-- Change core `c`. -/
def Dev.updCore (d : Dev) (c : Nat) (f : Core → Core) : Dev := d.setCore c (f (d.core c))
/-- Group slot `s` of a core (R38). -/
def Core.group (k : Core) (s : Nat) : Group := mget Group.reset k.groups s
/-- Replace a group slot; a number beyond the 64 slots changes nothing. -/
def Core.setGroup (k : Core) (s : Nat) (g : Group) : Core := if s < 64 then { k with groups := mput k.groups s g } else k
/-- Group `s` of core `c`. -/
def Dev.group (d : Dev) (c s : Nat) : Group := (d.core c).group s
/-- Replace group `s` of core `c`. -/
def Dev.setGroup (d : Dev) (c s : Nat) (g : Group) : Dev := d.updCore c fun k => k.setGroup s g
/-- Change group `s` of core `c`. -/
def Dev.updGroup (d : Dev) (c s : Nat) (f : Group → Group) : Dev := d.setGroup c s (f (d.group c s))
/-- Block slot `b` of a core (R38). -/
def Core.block (k : Core) (b : Nat) : Block := mget Block.reset k.blocks b
/-- Replace a block slot. -/
def Core.setBlock (k : Core) (b : Nat) (x : Block) : Core := { k with blocks := mput k.blocks b x }
/-- The block of a group. -/
def Core.blockOf (k : Core) (s : Nat) : Block := k.block (k.group s).block
/-- Slice `n` (R24). -/
def Dev.slice (d : Dev) (n : Nat) : Slice := mget Slice.reset d.slices n
/-- Replace slice `n`. -/
def Dev.setSlice (d : Dev) (n : Nat) (x : Slice) : Dev := { d with slices := mput d.slices n x }
/-- Change slice `n`. -/
def Dev.updSlice (d : Dev) (n : Nat) (f : Slice → Slice) : Dev := d.setSlice n (f (d.slice n))
/-- HBM stack `n` (R229). -/
def Dev.stack (d : Dev) (n : Nat) : Stack := mget Stack.reset d.mem.stks n
/-- Change stack `n`. -/
def Dev.updStack (d : Dev) (n : Nat) (f : Stack → Stack) : Dev :=
  { d with mem := { d.mem with stks := mput d.mem.stks n (f (d.stack n)) } }
/-- Context `x` (R358). -/
def Dev.ctx (d : Dev) (x : Nat) : Ctx := mget Ctx.reset d.ctl.ctxs x
/-- Change context `x`. -/
def Dev.updCtx (d : Dev) (x : Nat) (f : Ctx → Ctx) : Dev :=
  { d with ctl := { d.ctl with ctxs := mput d.ctl.ctxs x (f (d.ctx x)) } }
/-- Queue `q` (R361). -/
def Dev.queue (d : Dev) (q : Nat) : Queue := mget Queue.reset d.ctl.queues q
/-- Change queue `q`. -/
def Dev.updQueue (d : Dev) (q : Nat) (f : Queue → Queue) : Dev :=
  { d with ctl := { d.ctl with queues := mput d.ctl.queues q (f (d.queue q)) } }
/-- Fence `f` (R374). -/
def Dev.fence (d : Dev) (f : Nat) : Fence := mget Fence.reset d.ctl.fences f
/-- Change fence `n`. -/
def Dev.updFence (d : Dev) (n : Nat) (f : Fence → Fence) : Dev :=
  { d with ctl := { d.ctl with fences := mput d.ctl.fences n (f (d.fence n)) } }
/-- Berth `b` (R393). -/
def Dev.berth (d : Dev) (b : Nat) : Berth := mget Berth.reset d.ctl.berths b
/-- Change berth `b`. -/
def Dev.updBerth (d : Dev) (b : Nat) (f : Berth → Berth) : Dev :=
  { d with ctl := { d.ctl with berths := mput d.ctl.berths b (f (d.berth b)) } }
/-- Stream `n` (R272). -/
def Dev.stream (d : Dev) (n : Nat) : Stream := mget Stream.reset d.ctl.streams n
/-- Change stream `n`. -/
def Dev.updStream (d : Dev) (n : Nat) (f : Stream → Stream) : Dev :=
  { d with ctl := { d.ctl with streams := mput d.ctl.streams n (f (d.stream n)) } }
/-- Port `p` (R295). -/
def Dev.port (d : Dev) (p : Nat) : Port := mget Port.reset d.fab.ports p
/-- Change port `p`. -/
def Dev.updPort (d : Dev) (p : Nat) (f : Port → Port) : Dev :=
  { d with fab := { d.fab with ports := mput d.fab.ports p (f (d.port p)) } }
/-- Session `n` of the wharf, or of Storage port n - 256 (R341, R347). -/
def Dev.session (d : Dev) (n : Nat) : Session := mget Session.reset d.whf.sessions n
/-- Change session `n`. -/
def Dev.updSession (d : Dev) (n : Nat) (f : Session → Session) : Dev :=
  { d with whf := { d.whf with sessions := mput d.whf.sessions n (f (d.session n)) } }
/-- The device's own ID (R33). -/
def Dev.id (d : Dev) : Nat := d.lkp.device
/-- Change a queue's open counter bank (R492). -/
def Dev.updBank (d : Dev) (q : Nat) (f : Bank → Bank) : Dev := d.updQueue q fun x => { x with cur := f x.cur }
/-- Count up a cumulative word of the operator counters (R488). -/
def Dev.bump (d : Dev) (w n : Nat) : Dev := { d with cnt := { d.cnt with words := mput d.cnt.words w (mget 0 d.cnt.words w + n) } }
/-- Change command number `n` of queue `q`. -/
def Dev.updCmd (d : Dev) (q n : Nat) (f : Cmd → Cmd) : Dev :=
  d.updQueue q fun x => { x with cmds := x.cmds.map fun m => if m.order = n then f m else m }
/-- Command number `n` of queue `q`, if it is not yet posted. -/
def Dev.cmd (d : Dev) (q n : Nat) : Option Cmd := (d.queue q).cmds.find? fun m => m.order == n
/-! ### Packets -/

/-- Bytes that an access of a type code covers (R90, R98). -/
def accWidth (ty : Nat) : Nat :=
  if ty = 8 ∨ ty = 9 then 1
  else if ty = 10 ∨ ty = 11 then 2
  else if ty = 2 ∨ ty = 3 then 8
  else if ty = 7 then 16
  else 4

/-- Class of a packet: 0 Bulk, 1 Request, 2 Forward, 3 Response, 4 Management (R306, R308). -/
def vcOf : PktOp → Nat
  | .bulkRead | .bulkWrite | .bulkReduce => 0
  | .getS | .getM | .putS | .putE | .putO | .putM | .atomF | .readU | .writeU => 1
  | .fwdGetS | .fwdGetM | .inv | .recall | .evictAck | .routeMark => 2
  | .mgmtRead | .mgmtWrite | .peerDown | .peerUp | .timeOffset | .ping => 4
  | _ => 3

/-- Slots of a packet, its header among them (R303, R306). -/
def pktSlots (p : Packet) : Nat :=
  let w := if 8 ≤ p.aop then 8 else accWidth p.aty
  let secs := ((List.range 4).filter fun i => p.sectors.getLsbD i).length
  1 + match p.op with
    | .bulkWrite | .bulkReduce => 1 + ceilDiv p.data.length 2
    | .putO | .putM | .recallData => 2 * secs
    | .atomF => ceilDiv (p.data.length * w) 16
    | .writeU => 9
    | .fwdGetS | .fwdGetM | .inv => 1
    | .data => 8
    | .atomResp => ceilDiv (p.data.length * w) 16
    | .readData => ceilDiv p.data.length 2
    | .mgmtResp | .mgmtWrite => if p.data.isEmpty then 0 else 1
    | .peerDown | .peerUp | .timeOffset => 1
    | _ => 0

/-- Key of a class and sub-channel in the maps of credits (R308). -/
def pktChan (p : Packet) : Nat := 2 * vcOf p.op + b2n p.esc

/-- Send a packet into the mesh: it holds no slot of a receive buffer. -/
def Dev.send (d : Dev) (p : Packet) : Dev := { d with fab := { d.fab with net := d.fab.net ++ [{ p with via := none, esc := false }] } }
/-- Send packets into the mesh, in order. -/
def Dev.sendAll (d : Dev) (ps : List Packet) : Dev := ps.foldl Dev.send d
/-- Take a packet out of the mesh, where it is listed: the slots of the receive buffer that it came in by are free (R309). -/
def Dev.take (d : Dev) (p : Packet) : Dev :=
  let d := { d with fab := { d.fab with net := d.fab.net.erase p } }
  match p.via with
  | none => d
  | some q => d.updPort q fun x => { x with creditOut := mput x.creditOut (pktChan p) (mget 0 x.creditOut (pktChan p) + pktSlots p) }

/-! ### Time -/

/-- Sixteenths of a tick in a number of microseconds: a tick is 2.5 ns (R2). -/
def usec (n : Nat) : Nat := 6400 * n
/-- Sixteenths of a tick in a number of milliseconds. -/
def msec (n : Nat) : Nat := 6400000 * n
/-- Whether `n` F-cycles of 2.4 GHz have passed since `since` (R2): 3 F-cycles last 8 sixteenths of a tick. -/
def fcyclesPassed (k : Clock) (since n : Nat) : Bool := decide (8 * n ≤ 3 * (k.tsc - since))
/-- Whether a time has passed since `since`. (DESIGN CHOICE, assumption 136.) -/
def passed (k : Clock) (since len : Nat) : Bool := decide (since + len ≤ k.tsc)
/-- Global time: the local count plus the offset, never less than the last value returned before the offset changed
(R328, R330). -/
def gtime (k : Clock) (d : Dev) : Nat := ofSigned 64 (max (Int.ofNat k.tsc + d.tim.off) d.tim.floor)

/-! ### Landing buffers released without an answer (R317) -/

/-- Landing buffers of an agent that are not to be reused yet: released without a response less than 10 ms ago. -/
def Dev.quarantined (d : Dev) (k : Clock) (a : Nat) : List Nat :=
  (d.fab.quarantine.filter fun e => e.1 == a && !passed k e.2.2 (msec 10)).map fun e => e.2.1

/-- Release a landing buffer without its response. -/
def Dev.quarantine (d : Dev) (k : Clock) (a e : Nat) : Dev :=
  { d with fab := { d.fab with quarantine := (d.fab.quarantine.filter fun x => !passed k x.2.2 (msec 10)) ++ [(a, e, k.tsc)] } }

/-! ### Event-log records (R470 to R474) -/

/-- Codes for which a notice is written (R474). -/
def noticeCode (code : Nat) : Bool := (3 ≤ code && code ≤ 10) || code == 0x11

/-- Index, modulo 2,048, of the newest record of a source. -/
def newestOf (e : Erl) (src : Nat) : Option Nat := mget? e.newest src

/-- Write an error-log record: a Corrected one that repeats its source's newest within 1 s only counts up (R471); every
other one takes the next place of the ring; a Device-fatal one also waits for the Lockkeeper (R473, R483); a notice is
due for the codes of R474. -/
def logErr (k : Clock) (r : ErlRec) (d : Dev) : Dev :=
  let r := { r with time := gtime k d }
  let d := if r.cls = 1 then d.bump 90 1 else d
  let e := d.erl
  let old := (newestOf e r.src).bind fun i => (mget? e.ring i).map fun o => (i, o)
  let repeats := match old with
    | some (_, o) => r.cls == 1 && o.cls == 1 && o.code == r.code && o.unit == r.unit && o.addr == r.addr
        && decide (r.time ≤ o.time + usec 1000000)
    | none => false
  match repeats, old with
  | true, some (i, o) =>
    { d with erl := { e with ring := mput e.ring i { o with count := satAdd 65535 o.count 1, coal := true } } }
  | _, _ =>
    let i := e.prod.toNat % 2048
    let r := { r with nvm := r.cls == 4 }
    let d := { d with erl := { e with ring := mput e.ring i r, prod := e.prod + 1, newest := mput e.newest r.src i } }
    let d := if noticeCode r.code then { d with notices := d.notices ++ [(e.prod.toNat, 0, r)] } else d
    if r.cls == 4 then { d with fatalPend := d.fatalPend ++ [r] } else d

/-- Name the owner of the key that the newest record concerns: the notice goes to its ring 0 as well (R474). -/
def Dev.noticeOwner (d : Dev) (b : Nat) : Dev :=
  match d.notices.getLast? with
  | some (i, _, r) => { d with notices := d.notices.dropLast ++ [(i, b, r)] }
  | none => d

/-- Find and remove a storage fault that a read of a place meets (R217): whether it was there, and uncorrectable. -/
def takeLatent (kind unit place : Nat) (d : Dev) : Option Bool × Dev :=
  match d.latent.find? fun l => l.kind == kind && l.unit == unit && l.place == place with
  | some l => (some l.unc, { d with latent := d.latent.erase l })
  | none => (none, d)

/-- The word of a line in which a storage fault lies. -/
def latentWord (kind unit place : Nat) (d : Dev) : Nat :=
  (d.latent.find? fun l => l.kind == kind && l.unit == unit && l.place == place).elim 0 fun l => l.word % 16

end Sys2Proof.Machine
end

