-- ==== Sys2Proof/Machine/Array.lean ====
section
/-! DEFINITION. The outer-product array's descriptors (R124 to R129), formats (R141), spans (R132), and local memory as a block
sees it (R44, R190), with its held regions (R64, R65). -/

namespace Sys2Proof.Machine

/-! ### Formats (R141) -/

/-- Element size e of a descriptor format code; none for a reserved code. -/
def fmtBits : Nat → Option Nat
  | 0x00 => some 8
  | 0x01 => some 8
  | 0x02 => some 8
  | 0x03 => some 4
  | 0x04 => some 16
  | 0x05 => some 16
  | 0x08 => some 8
  | 0x09 => some 8
  | 0x0A => some 6
  | 0x0B => some 6
  | 0x0C => some 4
  | 0x0D => some 8
  | 0x10 => some 32
  | 0x11 => some 32
  | _ => none

/-- Element size, 8 for a code that no accepted instruction holds. -/
def fmtE (c : Nat) : Nat := (fmtBits c).getD 8
/-- Whether a format has E8M0 scales. -/
def fmtMx (c : Nat) : Bool := decide (8 ≤ c) && decide (c ≤ 0x0D)
/-- Whether a format's elements are integers. -/
def fmtInt (c : Nat) : Bool := c == 2 || c == 3 || c == 0x0D || c == 0x11
/-- Formats that MXDIAG accepts. -/
def fmtDiag (c : Nat) : Bool := decide (c ≤ 5)
/-- Formats that MXSTREAM accepts. -/
def fmtStream (c : Nat) : Bool := decide (c ≤ 5) || fmtMx c

/-- Element type of a format (R142, R143). -/
def fmtTy (c : Nat) : ETy :=
  match c with
  | 0x00 => .flt e4m3
  | 0x01 => .flt e5m2
  | 0x02 => .int true 8
  | 0x03 => .int true 4
  | 0x04 => .flt bf16
  | 0x05 => .flt fp16
  | 0x08 => .flt e4m3
  | 0x09 => .flt e5m2
  | 0x0A => .flt e2m3
  | 0x0B => .flt e3m2
  | 0x0C => .flt e2m1
  | 0x0D => .int true 8
  | 0x10 => .flt fp32
  | _ => .int true 32

/-- Exponent of the largest finite value of an MX element format (R158). -/
def fmtEmax (c : Nat) : Int :=
  match c with
  | 0x08 => 8
  | 0x09 => 15
  | 0x0A => 2
  | 0x0B => 4
  | 0x0C => 2
  | _ => 0

/-! ### Descriptor fields -/

/-- Window field of word Q1 (R126). -/
def MxDesc.w1 (x : MxDesc) (lo len : Nat) : Nat := bitsAt x.q1.toNat lo len
/-- Field of word Q2 (R126, R128). -/
def MxDesc.w2 (x : MxDesc) (lo len : Nat) : Nat := bitsAt x.q2.toNat lo len
/-- in_h. -/
def MxDesc.inH (x : MxDesc) : Nat := x.w1 0 12
/-- in_w. -/
def MxDesc.inW (x : MxDesc) : Nat := x.w1 12 12
/-- c_blocks. -/
def MxDesc.cBlocks (x : MxDesc) : Nat := x.w1 24 8
/-- C, the channels of a Window. -/
def MxDesc.chans (x : MxDesc) : Nat := 32 * x.cBlocks
/-- Kernel height. -/
def MxDesc.kh (x : MxDesc) : Nat := x.w1 32 4 + 1
/-- Kernel width. -/
def MxDesc.kw (x : MxDesc) : Nat := x.w1 36 4 + 1
/-- Columns of an output descriptor. -/
def MxDesc.cols (x : MxDesc) : Nat := x.w2 0 8

/-! ### Spans (R132) -/

/-- Round a span out to multiples of 32 bytes. -/
def round32 (s : Nat × Nat) : Nat × Nat := (s.1 / 32 * 32, ceilDiv s.2 32 * 32)

/-- Data span of an operand over `k` k-steps, end exclusive. -/
def MxDesc.data (x : MxDesc) (k : Nat) : Nat × Nat :=
  let e := fmtE x.fmt
  match x.mode with
  | 0 => (x.base, x.base + (k - 1) * x.stride + ceilDiv (x.count * e) 8)
  | 1 => (x.base, x.base + (x.count - 1) * x.stride + ceilDiv (k * e) 8)
  | _ => (x.base, x.base + x.inH * x.inW * x.chans * e / 8)

/-- Scale span of an operand of an MX format. -/
def MxDesc.scales (x : MxDesc) (k : Nat) : Nat × Nat :=
  if x.mode = 2 then (x.scaleBase, x.scaleBase + x.inH * x.inW * x.cBlocks)
  else (x.scaleBase, x.scaleBase + (k - 1) / 32 * x.scaleStride + x.count)

/-- The held spans of an operand. -/
def MxDesc.spans (x : MxDesc) (k : Nat) : List (Nat × Nat) :=
  round32 (x.data k) :: if fmtMx x.fmt then [round32 (x.scales k)] else []

/-- The written spans of a drain (R132): the output rows, the output scales, each fusion area. -/
def drainSpans (o : MxDesc) (f : MxFuse) : List (Nat × Nat) :=
  let rows := (o.base, o.base + (o.count - 1) * o.stride + ceilDiv (o.cols * fmtE o.fmt) 8)
  let sc := if fmtMx o.fmt then [(o.scaleBase, o.scaleBase + (o.count - 1) * o.scaleStride + ceilDiv o.cols 32)] else []
  let area := fun (b : Option Nat) => match b with | some x => [(x, x + 4 * o.count)] | none => []
  let am := match f.amax with | some x => [(x, x + 4)] | none => []
  rows :: sc ++ area f.rowmax ++ area f.rowsum ++ am

/-- Whether two spans overlap. -/
def spansMeet (a b : Nat × Nat) : Bool := decide (a.1 < b.2) && decide (b.1 < a.2)

/-- Held spans of a queued instruction; MXZERO and MXDRAIN hold none. -/
def MxEntry.held (x : MxEntry) : List (Nat × Nat) :=
  if x.op = .stream ∨ x.op = .diag then x.da.spans x.k ++ x.db.spans x.k else []

/-- Written spans of a queued instruction. -/
def MxEntry.written (x : MxEntry) : List (Nat × Nat) := if x.op = .drain then drainSpans x.da x.fuse else []

/-- The queue entry, lowest first, that holds a region of a block which `len` bytes at an offset overlap at 32-byte
granularity (R65). -/
def Core.heldBy (k : Core) (b off len : Nat) : Option Nat :=
  (k.mxq.find? fun e => e.2.block == b && !e.2.done && e.2.held.any fun s => spansMeet s (round32 (off, off + len))).map Prod.fst

/-! ### Local memory (R44, R190) -/

/-- Physical offset of a block's local-memory offset. -/
def Block.phys (b : Block) (off : Nat) : Nat := 8192 * b.units.getD (off / 8192) 0 + off % 8192

/-- A block's local-memory size in bytes (R44, R45). -/
def Block.lmSize (b : Block) : Nat := 8192 * b.lmUnits

/-- Bytes of a block's local memory, as a number. -/
def Core.lmGet (k : Core) (b : Block) (off len : Nat) : Nat :=
  natOf ((List.range len).map fun i => mget 0 k.lm (b.phys (off + i)))

/-- Whether a byte of a block's local memory lies in a poisoned word. -/
def Core.lmBad (k : Core) (b : Block) (off len : Nat) : Bool :=
  (List.range len).any fun i => k.lmPoison.contains (b.phys (off + i) / 8)

/-- Write bytes at offsets of a block, and settle the poison of their words (R216): a word written whole is clean, or poisoned
when the writer is; a word written in part stays as it is, or becomes poisoned. (DEDUCED, assumption 140.) -/
def Core.lmPut (k : Core) (b : Block) (bytes : List (Nat × Byte)) (poison : Bool) : Core :=
  let at' := bytes.map fun e => (b.phys e.1, e.2)
  let lm := at'.foldl (fun m e => mset 0 m e.1 e.2) k.lm
  let words := (at'.map fun e => e.1 / 8).eraseDups
  let whole := words.filter fun w => (List.range 8).all fun i => at'.any fun e => e.1 == 8 * w + i
  let left := k.lmPoison.filter fun w => !whole.contains w
  { k with lm := lm, lmPoison := if poison then (left ++ words).eraseDups else left }

/-- The bytes of a number at consecutive offsets. -/
def bytesAt (off len v : Nat) : List (Nat × Byte) := (bytesOf len v).zipIdx.map fun e => (off + e.2, e.1)

/-! ### Tiles (R113) -/

/-- Tile T0 or T1. -/
def Core.tile (k : Core) (t : Nat) : Tile := if t = 0 then k.t0 else k.t1
/-- Replace a tile. -/
def Core.setTile (k : Core) (t : Nat) (x : Tile) : Core := if t = 0 then { k with t0 := x } else { k with t1 := x }

end Sys2Proof.Machine
end

