-- ==== Sys2Proof/Machine/Drains.lean ====
section
/-! DEFINITION. Drains of a tile (R122, R157 to R160), and the A-cycles in which passes hold the multipliers (R112, R133, R134). -/

namespace Sys2Proof.Machine

/-- Whether a value is finite. -/
def FVal.isFin : FVal → Bool
  | .fin _ _ _ => true
  | _ => false

/-- A power of two. -/
def pow2 (e : Int) : FVal := .fin false 1 e

/-- A tile as a claim or MXZERO leaves it (R115, R119). -/
def Tile.zeroed (t : Tile) (kind : TileKind) : Tile := { t with acc := [], kind := kind, level := 0, sat := .none, poison := false }

/-! ### Drains (R157 to R160) -/

/-- The exact value of a cell of a tile, its level undone (R157): v. -/
def drainV (t : Tile) (i j : Nat) : FVal :=
  let a := (mget 0 t.acc (128 * i + j)).toNat
  match t.kind with
  | .unset => .fin false 0 0
  | .int32 => let v := toSigned 32 a; .fin (decide (v < 0)) v.natAbs (4 * Int.ofNat t.level)
  | .bf16 => fmul (fdecode bf16 a) (pow2 (8 * Int.ofNat t.level))
  | .fp32 => fmul (fdecode fp32 a) (pow2 (8 * Int.ofNat t.level))

/-- u = v × scale (R157). -/
def drainU (t : Tile) (o : MxDesc) (i j : Nat) : FVal := fmul (drainV t i j) (fdecode fp32 (o.w2 8 32))

/-- The exponent that R158 chooses for a block of columns; none when an element is NaN or infinite. -/
def mxBlockExp (fmt : Nat) (us : List FVal) : Option Int :=
  if us.any fun u => !u.isFin then none
  else
    let m := us.foldl (fun m u => fminmax true m (fabs u)) (.fin false 0 0)
    match m with
    | .fin _ 0 _ => some (-127)
    | .fin _ n e => some (max (-127) (min 127 (e + Int.ofNat (bitLen n) - 1 - fmtEmax fmt)))
    | _ => none

/-- Rounding mode of an output descriptor for the `n`-th draw (R128, R162). -/
def drainMode (c draws : Nat) (o : MxDesc) (n : Nat) : RMode :=
  match o.w2 40 2 with
  | 0 => .rne
  | 1 => .zero
  | _ => .stochastic (Config.stochastic c (draws + n) % 65536)

/-- Element codes of a row, and its scale bytes for an MX format (R157, R158). -/
def drainRow (c draws : Nat) (t : Tile) (o : MxDesc) (i : Nat) : List Nat × List Nat :=
  let us := (List.range o.cols).map fun j => drainU t o i j
  let ty := fmtTy o.fmt
  let ieee := o.w2 42 1 == 1 && ty.hasInf
  let mode := fun j => drainMode c draws o (i * o.cols + j)
  if fmtMx o.fmt then
    let exps := (List.range (ceilDiv o.cols 32)).map fun q => mxBlockExp o.fmt ((us.drop (32 * q)).take 32)
    let codes := us.zipIdx.map fun u => match exps.getD (u.2 / 32) none with
      | none => 0
      | some x => eround ty (mode u.2) ieee (fmul u.1 (pow2 (if o.fmt = 0x0D then 6 - x else -x)))
    (codes, exps.map fun x => match x with | some v => (v + 127).toNat | none => 255)
  else (us.zipIdx.map fun u => eround ty (mode u.2) ieee u.1, [])

/-- Store one drained row and its fusion results. -/
def drainPut (k : Core) (b : Block) (c draws : Nat) (t : Tile) (e : MxEntry) (i : Nat) : Core :=
  let o := e.da
  let w := fmtE o.fmt
  let r := drainRow c draws t o i
  let n := ceilDiv (o.cols * w) 8
  let off := o.base + i * o.stride
  -- a last byte covered in part keeps its other bits (R130)
  let keep := k.lmGet b off n >>> (o.cols * w) <<< (o.cols * w)
  let v := r.1.zipIdx.foldl (fun acc x => acc + x.1 % 2 ^ w * 2 ^ (w * x.2)) keep
  let k := k.lmPut b (bytesAt off n v) t.poison
  let k := if fmtMx o.fmt then
      k.lmPut b (r.2.zipIdx.map fun x => (o.scaleBase + i * o.scaleStride + x.2, BitVec.ofNat 8 x.1)) t.poison
    else k
  let ws := (List.range o.cols).map fun j => fdecode fp32 (fround fp32 .rne true (drainU t o i j))
  let k := match e.fuse.rowmax with
    | some a => k.lmPut b (bytesAt (a + 4 * i) 4 (fround fp32 .rne true (ws.tail.foldl (fminmax true) (ws.headD .nan)))) t.poison
    | none => k
  match e.fuse.rowsum with
  | some a =>
    let sum := ws.tail.foldl (fun s x => fdecode fp32 (fround fp32 .rne true (fadd s x))) (ws.headD .nan)
    k.lmPut b (bytesAt (a + 4 * i) 4 (fround fp32 .rne true sum)) t.poison
  | none => k

/-- A magnitude rounded toward positive infinity to F32 (R160). -/
def roundUp32 (v : FVal) : Nat :=
  match v with
  | .fin _ _ _ =>
    let lo := fround fp32 .zero true v
    if fcmp (fdecode fp32 lo) v < 0 then lo + 1 else lo
  | _ => fround fp32 .rne true v

/-- The drain's amax (R160). -/
def drainAmax (t : Tile) (o : MxDesc) : Nat :=
  let big := (List.range o.count).foldl (fun m i => (List.range o.cols).foldl (fun m j => fminmax true m (fabs (drainV t i j))) m) (.fin false 0 0)
  roundUp32 big

/-- Status of a drain (R156, R123, R138). -/
def drainStatus (t : Tile) : Nat := if t.poison then 4 else if t.sat = .exhausted then 2 else if t.sat = .pinned then 3 else 0

/-! ### Phases in time (R112, R133, R134) -/

/-- The A-cycles of a lead-in (R133). -/
def MxEntry.lead (e : MxEntry) : Nat := if e.da.mode = 0 ∧ e.db.mode = 0 then 4 else 12

/-- The A-cycles of an update phase (R112). -/
def MxEntry.upLen (e : MxEntry) : Nat :=
  if fmtE e.da.fmt = 16 then 2 * e.k
  else if e.op = .diag ∨ fmtE e.da.fmt = 8 then e.k else ceilDiv e.k 2

/-- The A-cycle in which an instruction's own phases begin, when its first phase began at `since` (R115, R133). -/
def MxEntry.ownAt (e : MxEntry) : Nat := e.since + (if e.claims then 2 else 0)

/-- The update phases that the multipliers serve one at a time, in order (R134): the entry, its first A-cycle, and the one after its last. -/
def Core.updates (k : Core) : List (Nat × Nat × Nat) :=
  (k.mulq.foldl (fun (acc : List (Nat × Nat × Nat) × Nat) n =>
    match mget? k.mxq n with
    | none => acc
    | some e =>
      let at' := max acc.2 (e.leadAt + e.lead)
      (acc.1 ++ [(n, at', at' + e.upLen)], at' + e.upLen)) ([], k.mulFree)).1

/-- The A-cycle at which the multipliers become free, by the update phases begun or scheduled (R134). -/
def Core.mulEnd (k : Core) : Nat := (k.updates.getLast?.map fun u => u.2.2).getD k.mulFree

/-- What MXA_STATUS.multipliers shows in an A-cycle (R140). -/
def Core.multipliers (k : Core) (acyc : Nat) : Nat :=
  match k.updates.find? fun u => decide (u.2.1 ≤ acyc) && decide (acyc < u.2.2) with
  | some u => (mget? k.mxq u.1).elim 0 fun e => e.tile + 1
  | none => 0

/-- Take an entry's passes from the multipliers' order: an update that has begun ends no later than the A-cycle `at'`. -/
def Core.endUpdates (k : Core) (n at' : Nat) : Core :=
  let free := match k.updates.find? fun u => u.1 == n with
    | some u => if u.2.1 ≤ at' then max k.mulFree (min u.2.2 at') else k.mulFree
    | none => k.mulFree
  { k with mulq := k.mulq.filter fun m => m != n, mulFree := free }

/-- Put a replay pass ahead of every update that has not begun (R134). -/
def Core.replayFirst (k : Core) (n acyc : Nat) : Core :=
  let begun := (k.updates.filter fun u => decide (u.2.1 ≤ acyc)).map Prod.fst
  { k with mulq := (k.mulq.filter fun m => begun.contains m) ++ n :: k.mulq.filter fun m => !begun.contains m }

/-- The rows of a running drain whose writes stay when it is stopped in an A-cycle, the row being written among them (R133, R139). -/
def MxEntry.rowsBy (e : MxEntry) (acyc : Nat) : Nat := min e.da.count (acyc + 1 - e.ownAt)

/-- Write the first rows of a drain with their row maxima and sums (R122, R129, R139). -/
def drainRows (k : Core) (c : Nat) (e : MxEntry) (rows : Nat) : Core :=
  let b := k.block e.block
  let t := k.tile e.tile
  let draws := k.draws
  let k := (List.range rows).foldl (fun k i => drainPut k b c draws t e i) k
  if 2 ≤ e.da.w2 40 2 then { k with draws := draws + rows * e.da.cols } else k

/-- Everything a drain writes, and the tile it leaves (R122, R118). (DESIGN CHOICE, assumption 41.) -/
def drainAll (k : Core) (c : Nat) (e : MxEntry) : Core :=
  let b := k.block e.block
  let t := k.tile e.tile
  let k := drainRows k c e e.da.count
  let k := match e.fuse.amax with
    | some a => k.lmPut b (bytesAt a 4 (fround fp32 .rne true (fminmax true (fdecode fp32 e.amax.toNat) (fdecode fp32 (drainAmax t e.da))))) t.poison
    | none => k
  if e.zeroAfter then k.setTile e.tile (t.zeroed t.kind) else k

end Sys2Proof.Machine
end

