-- ==== Sys2Proof/Machine/Routing.lean ====
section
/-! DEFINITION. Routes, credits and the sending side of a port (R296, R300 to R312, R408): the packet header, the choice of a port, and
packets packed into flits. -/

namespace Sys2Proof.Machine

/-! ### Reaching another device (R311, R322, R382) -/

/-- Whether a port carries packets: a peer port that is Up (R296). -/
def Dev.portUp (d : Dev) (p : Nat) : Bool := (d.port p).st == .up && (d.port p).role == .peer

/-- Whether the route entry of a device offers an Up port (R311, R322). -/
def Dev.routed (d : Dev) (x : Nat) : Bool :=
  let e := (mget 0 d.fab.routes x).toNat
  ((List.range 18).any fun p => (bitAt e p || bitAt e (18 + p)) && d.portUp p) || d.portUp (bitsAt e 36 5) || d.portUp (bitsAt e 41 5)

/-- Whether a device can be reached: itself, or one not marked down with a route (R322). -/
def Dev.reachable (d : Dev) (x : Nat) : Bool := x == d.id || (!mhas d.fab.down x && d.routed x)

/-! ### The packet header (R304, R306) -/

/-- Value of an opcode (R306). -/
def pktCode : PktOp → Nat
  | .bulkRead => 0x01 | .bulkWrite => 0x02 | .bulkReduce => 0x03
  | .getS => 0x10 | .getM => 0x11 | .putS => 0x12 | .putE => 0x13 | .putO => 0x14 | .putM => 0x15
  | .atomF => 0x16 | .readU => 0x17 | .writeU => 0x18
  | .fwdGetS => 0x20 | .fwdGetM => 0x21 | .inv => 0x22 | .recall => 0x23 | .evictAck => 0x24 | .routeMark => 0x25
  | .data => 0x30 | .grant => 0x31 | .invAck => 0x32 | .recallData => 0x33 | .recallAck => 0x34 | .atomResp => 0x35
  | .readData => 0x36 | .writeAck => 0x37 | .errorResp => 0x38 | .heldRetry => 0x39 | .mgmtResp => 0x3A | .markAck => 0x3B
  | .mgmtRead => 0x40 | .mgmtWrite => 0x41 | .peerDown => 0x42 | .peerUp => 0x43 | .timeOffset => 0x44 | .ping => 0x45

/-- The field spec of word 1, as the opcode states (R306). -/
def pktSpec (p : Packet) : Nat :=
  match p.op with
  | .bulkRead | .bulkWrite | .readData => p.lines - 1
  | .bulkReduce => packBits [(0, 3, p.lines - 1), (3, 2, p.rtype)]
  | .getM => b2n p.hasCopy
  | .putO | .putM | .recallData => p.sectors.toNat
  | .atomF => packBits [(0, 3, p.aop), (3, 3, p.aty), (6, 5, p.lanes - 1)]
  | .data | .grant => packBits [(0, 2, p.grant), (2, 1, b2n p.contended), (3, 13, p.acks)]
  | .atomResp => packBits [(2, 1, b2n p.contended), (3, 5, p.lanes - 1)]
  | .writeAck => b2n p.notPerf
  | .errorResp => p.reason
  | .mgmtResp => b2n p.err
  | .routeMark | .markAck => packBits [(0, 12, p.who), (12, 8, p.no)]
  | _ => 0

/-- The two words of a packet's header (R304). Which register bits line and spec of a management access hold is left to its offset.
(DESIGN CHOICE, assumption 171.) -/
def pktHeader (p : Packet) : BitVec 64 × BitVec 64 :=
  (BitVec.ofNat 64 (packBits [(0, 8, pktCode p.op), (8, 7, pktSlots p - 1), (15, 12, p.dst), (27, 12, p.src), (39, 10, p.agent), (49, 10, p.entry),
     (59, 4, p.gen)]),
   BitVec.ofNat 64 (if vcOf p.op ≤ 1 then
       packBits [(0, 38, p.line), (38, 3, p.epoch), (41, 5, p.berth), (46, 5, p.key), (51, 13, pktSpec p)]
     else packBits [(0, 38, p.line), (38, 26, pktSpec p)]))

/-- The extension slot of a forward or an Inv (R306). -/
def pktExt (p : Packet) : BitVec 128 := BitVec.ofNat 128 (packBits [(0, 12, p.reqDev), (16, 12, p.ackDev), (28, 24, p.ackTag), (64, 13, p.acks)])

/-! ### Credits and the choice of a port (R308, R309, R311, R312) -/

/-- Slots of a receive buffer for a class and sub-channel, by its key (R308). -/
def bufCap : Nat → Nat
  | 0 => 12288 | 1 => 256 | 2 => 4096 | 3 => 256 | 5 => 1024 | 6 => 6144 | 7 => 256 | 9 => 256
  | _ => 0

/-- Credit of a port for a class and sub-channel (R309). -/
def Port.room (x : Port) (chan : Nat) : Nat := bufCap chan - mget 0 x.credits chan

/-- The escape port that a packet for a device takes (R311, R312): the entry's escape port, or escape_alt when that is not Up. -/
def Dev.escapePort (d : Dev) (dst : Nat) : Option Nat :=
  let e := (mget 0 d.fab.routes dst).toNat
  if d.portUp (bitsAt e 36 5) then some (bitsAt e 36 5) else if d.portUp (bitsAt e 41 5) then some (bitsAt e 41 5) else none

/-- Ports that a packet in the adaptive sub-channel may take (R311, R312). -/
def Dev.allowedPorts (d : Dev) (dst : Nat) : List Nat :=
  let e := (mget 0 d.fab.routes dst).toNat
  let ps := (List.range 18).filter fun p => bitAt e p && d.portUp p
  if ps.isEmpty then (List.range 18).filter fun p => bitAt e (18 + p) && d.portUp p else ps

/-- The port and sub-channel of a packet: true for escape (R312). None when it must wait. -/
def Dev.choosePort (d : Dev) (p : Packet) : Option (Nat × Bool) :=
  let vc := vcOf p.op
  let need := pktSlots p
  let esc := (d.escapePort p.dst).bind fun q => if need ≤ (d.port q).room (2 * vc + 1) then some (q, true) else none
  if vc = 2 ∨ vc = 4 ∨ p.esc = true then esc
  else
    let room := fun (q : Nat) => (d.port q).room (2 * vc)
    let best := (d.allowedPorts p.dst).foldl (fun (o : Option Nat) q =>
      if room q < need then o
      else match o with
        | none => some q
        | some r => if room r < room q then some q else some r) none
    match best with
    | some q => some (q, false)
    | none => esc

/-! ### Sending (R301, R302, R310, R408) -/

/-- Berth against which a packet counts at a port (R408). -/
def shareBerth (p : Packet) : Nat :=
  match p.op with
  | .putS | .putE | .putO | .putM => 0
  | .writeU => if 512 ≤ p.agent ∧ p.agent < 640 then 0 else p.berth
  | _ => p.berth

/-- The next packet of class 0 or 1 by deficit round robin, and the deficits after it (R408). -/
def Dev.fairPick (d : Dev) (x : Port) (vc : Nat) : Nat → List (Nat × Int) → Option (Packet × List (Nat × Int))
  | 0, _ => none
  | fuel + 1, def' =>
    let ws := x.txq.filter fun p => vcOf p.op == vc
    let head := fun (b : Nat) => ws.find? fun p => shareBerth p == b
    let bs := (List.range 32).filter fun b => (head b).isSome
    let fits := fun (b : Nat) => (head b).any fun p => decide (Int.ofNat (pktSlots p) ≤ mget 0 def' (32 * vc + b))
    match (bs.find? fits).bind fun b => (head b).map fun p => (b, p) with
    | some (b, p) =>
      let left := mget 0 def' (32 * vc + b) - Int.ofNat (pktSlots p)
      some (p, mput def' (32 * vc + b) (if (ws.filter fun q => shareBerth q == b).length ≤ 1 then 0 else left))
    | none =>
      if bs.isEmpty then none
      else Dev.fairPick d x vc fuel (bs.foldl (fun m b => mput m (32 * vc + b) (mget 0 m (32 * vc + b) + Int.ofNat (16 * (d.berth b).linkW))) def')

/-- The packet that a port sends next (R310): VC4, VC3 and VC2 before VC1 and VC0, which take turns. -/
def Dev.nextOut (d : Dev) (x : Port) : Option (Packet × Port) :=
  let first := fun (vc : Nat) => x.txq.find? fun p => vcOf p.op == vc
  let fair := fun (vc : Nat) => (d.fairPick x vc 8 x.deficit).map fun r => (r.1, { x with deficit := r.2, bulkTurn := vc == 1 })
  match ((first 4).or (first 3)).or (first 2) with
  | some p => some (p, x)
  | none => if x.bulkTurn then (fair 0).or (fair 1) else (fair 1).or (fair 0)

/-- The flits of one packet, from the port's next sequence number: the packet ends in the last Data flit; with encryption a Gmac flit
follows every 16th Data flit (R301 to R303). -/
def Port.flits (x : Port) (p : Packet) : List Flit :=
  let n := ceilDiv (pktSlots p) 15
  let kinds := (List.range n).flatMap fun i =>
    let f : Flit := { Flit.reset with pkts := if i + 1 = n then [p] else [] }
    if x.encrypt && (x.gmacTx + i + 1) % 16 == 0 then [f, { Flit.reset with kind := 2, msg := some { LinkMsg.reset with kind := .gmac } }] else [f]
  kinds.zipIdx.map fun f => { f.1 with seq := (x.txSeq + f.2) % 4096 }

/-- A word of a packet is checked as the sending port reads it from its buffer (R214, R303): a corrected error is logged, and an
uncorrectable one poisons the word. -/
def Dev.meetBuf (d : Dev) (k : Clock) (port : Nat) (p : Packet) : Packet × Dev :=
  match takeLatent 10 port 0 d with
  | (none, d) => (p, d)
  | (some unc, d) =>
    let d := logErr k { ErlRec.reset with cls := if unc then 2 else 1, src := 0x0C, code := if unc then 2 else 1, unit := port } d
    (if unc && !p.data.isEmpty && !p.poison.contains 0 then { p with poison := 0 :: p.poison } else p, d)

/-- Pack the messages and packets that wait at a port into flits while the replay buffer takes them (R301): packets only while the port is
Up. (DESIGN CHOICE, assumption 80.)
(DEDUCED, assumption 81.) (DESIGN CHOICE, assumption 146.) (DESIGN CHOICE, assumption 172.) -/
def Dev.portPump (port : Nat) : Nat → Dev → Dev
  | 0, d => d
  | fuel + 1, d =>
    match (d.port port).ctlq with
    | m :: rest =>
      if 1024 ≤ (d.port port).replay.length then d
      else Dev.portPump port fuel (d.updPort port fun x => { x with
        ctlq := rest, replay := x.replay ++ [{ Flit.reset with seq := x.txSeq, kind := 2, msg := some m }], txSeq := (x.txSeq + 1) % 4096
        txCount := x.txCount + 1, lpi := false })
    | [] =>
    match d.nextOut (d.port port) with
    | none => d
    | some (p, x) =>
      let fs := x.flits p
      if 1024 < x.replay.length + fs.length ∨ x.st ≠ .up then d
      else
        let data := (fs.filter fun f => f.kind == 0).length
        let x := { x with
          txq := x.txq.erase p, replay := x.replay ++ fs, txSeq := (x.txSeq + fs.length) % 4096, txCount := x.txCount + fs.length
          gmacTx := (x.gmacTx + data) % 16, lpi := false }
        Dev.portPump port fuel ((d.updPort port fun _ => x).bump (16 + 2 * port) (240 * data))

/-- Pack what waits at a port. -/
def Dev.pumpPort (d : Dev) (port : Nat) : Dev := Dev.portPump port ((d.port port).ctlq.length + (d.port port).txq.length + 1) d

/-- Send a link-local message to a port's neighbour (R300). -/
def Dev.linkSend (d : Dev) (port : Nat) (m : LinkMsg) : Dev := (d.updPort port fun x => { x with ctlq := x.ctlq ++ [m] }).pumpPort port

/-- Give a packet to a port, with the credits that it takes (R309). -/
def Dev.toPort (d : Dev) (port : Nat) (p : Packet) : Dev :=
  let d := d.updPort port fun x => { x with
    credits := mput x.credits (pktChan p) (mget 0 x.credits (pktChan p) + pktSlots p), txq := x.txq ++ [{ p with via := none }] }
  d.pumpPort port

/-! ### Requests that leave the device -/

/-- Key of a landing buffer and its generation in the map of the ports by which requests left. -/
def leftKey (a e g : Nat) : Nat := 16 * (1024 * a + e) + g % 16

/-- Whether a request of a landing buffer left by a port. -/
def Dev.leftBy (d : Dev) (port a e g : Nat) : Bool := mget? d.fab.left (leftKey a e g) == some port

/-- Note the port by which a request of this device left (R317). -/
def Dev.noteLeft (d : Dev) (p : Packet) (q : Nat) : Dev :=
  if p.src = d.id ∧ (vcOf p.op = 0 ∨ vcOf p.op = 1 ∨ vcOf p.op = 4) then
    let mine := fun (e : Nat × Nat) => e.1 / 16 == 1024 * p.agent + p.entry
    { d with fab := { d.fab with left := mput (d.fab.left.filter fun e => !mine e) (leftKey p.agent p.entry p.gen) q } }
  else d

/-- Landing buffer of the management agents for a new request (R307, R315). -/
def Dev.mgmtSend (d : Dev) (p : Packet) : Dev :=
  let e := (lowestFree 1024 (d.fab.mgmtOut.map Prod.fst)).getD 0
  let p := { p with src := d.id, entry := e, gen := d.fab.mgmtGen % 16 }
  { d with fab := { d.fab with mgmtOut := mput d.fab.mgmtOut e p, mgmtGen := d.fab.mgmtGen + 1 } }.send p

/-- Take a packet into the fabric with the credits that it needs (R315, R343): one for this device, or for one that cannot be reached, enters
the mesh. None when there is no credit. -/
def Dev.admitOne (d : Dev) (p : Packet) : Option Dev :=
  if p.dst = d.id ∨ d.reachable p.dst = false then some (d.send p)
  else (d.choosePort p).map fun x => (d.noteLeft p x.1).toPort x.1 { p with esc := x.2 }

/-- Take packets into the fabric, all or none. -/
def Dev.admitAll (d : Dev) (ps : List Packet) : Option Dev := ps.foldlM Dev.admitOne d

end Sys2Proof.Machine
end

