-- ==== Sys2Proof/Machine/Hbm.lean ====
section
/-! DEFINITION. HBM: the interleave (R203 to R207), sectors under their keys (R211, R215, R216), the mirror (R201, R262),
the patrol scrub (R222 to R224), retraining and stack loss (R227, R228). -/

namespace Sys2Proof.Machine

/-- Where a byte of HBM lies (R203): stack, channel, pseudo-channel and location. -/
structure Loc where
  /-- Stack. -/
  stack : Nat
  /-- Channel of the stack. -/
  ch : Nat
  /-- Pseudo-channel bit b. -/
  b : Nat
  /-- Location P. -/
  p : Nat
  deriving DecidableEq, Repr

/-- Size of HBM (R34). -/
def hbmSize : Nat := 0x12000000000

/-- H, the end of normal memory (R204, R206). -/
def Dev.normalEnd (d : Dev) : Nat := hbmSize - 2 ^ 33 * d.mem.nres

/-- Location of a normal address (R204). -/
def normalLoc (a : Nat) : Loc :=
  let pch := (bitsAt a 9 8) ^^^ (bitsAt a 17 8) ^^^ (bitsAt a 25 8) ^^^ (bitsAt a 33 8)
  { stack := pch % 8, ch := bitsAt pch 3 4, b := bitsAt pch 7 1, p := 512 * bitsAt a 17 24 + a % 512 }

/-- XOR of the 5-bit fields of a sector number, `n` of them (R207). -/
def xorFields5 : Nat → Nat → Nat
  | 0, _ => 0
  | n + 1, v => (v % 32) ^^^ xorFields5 n (v / 32)

/-- Location of an address at offset `w` of stack `s`'s part of the narrow reservation (R207). -/
def narrowLoc (h s w : Nat) : Loc :=
  let sec := w / 32
  let q := xorFields5 8 sec
  { stack := s, ch := q % 16, b := bitsAt q 4 1, p := h / 256 + sec / 32 * 32 + w % 32 }

/-- Sum of a stack's narrow windows in bytes (R206). -/
def Dev.narrowBytes (d : Dev) (s : Nat) : Nat :=
  2 ^ 26 * sumNat ((List.range 8).map fun w => mget 0 d.mem.nwin (8 * s + w))

/-- Whether an address lies in a narrow window, and in which stack and at which offset (R206). -/
def Dev.narrowAt (d : Dev) (a : Nat) : Option (Nat × Nat) :=
  let h := d.normalEnd
  if a < h ∨ hbmSize ≤ a then none
  else
    let share := 2 ^ 33 * d.mem.nres / 8
    let s := (a - h) / share
    let w := (a - h) % share
    if w < d.narrowBytes s then some (s, w) else none

/-- The number of the narrow window, 8 * stack + window, that holds an address (R202, R206). -/
def Dev.narrowWindowOf (d : Dev) (a : Nat) : Option Nat :=
  (d.narrowAt a).bind fun sw =>
    (List.range 8).find? (fun i =>
      decide (2 ^ 26 * sumNat ((List.range i).map fun j => mget 0 d.mem.nwin (8 * sw.1 + j)) ≤ sw.2) &&
      decide (sw.2 < 2 ^ 26 * sumNat ((List.range (i + 1)).map fun j => mget 0 d.mem.nwin (8 * sw.1 + j))))
    |>.map fun i => 8 * sw.1 + i

/-- Location of a local physical address; none where HBM is unpopulated (R34, R206). -/
def Dev.locOf (d : Dev) (a : Nat) : Option Loc :=
  if a < d.normalEnd then some (normalLoc a)
  else (d.narrowAt a).map fun sw => narrowLoc d.normalEnd sw.1 sw.2

/-- The slice that fronts a location (R205). -/
def Loc.slice (l : Loc) : Nat := 16 * l.stack + l.ch

/-- The set of a location within its slice (R205). -/
def Loc.set (l : Loc) : Nat := (bitsAt l.p 7 10) ^^^ (bitsAt l.p 17 10) ^^^ (64 * l.b + bitsAt l.p 27 6)

/-- The address of a location of the narrow reservation: the inverse of R207. -/
def narrowAddr (d : Dev) (stack ch b p : Nat) : Nat :=
  let h := d.normalEnd
  let hi := (p - h / 256) / 32
  let lo := (ch + 16 * b) ^^^ xorFields5 7 hi
  h + stack * (2 ^ 33 * d.mem.nres / 8) + (hi * 32 + lo) * 32 + p % 32

/-- The line number that stands for a frame of narrow sectors (R205, R207): the slice's location bits above those of a sector, in a range of
line numbers that no HBM address has. -/
def narrowKey (l : Loc) : Nat := 2 ^ 37 + ((l.stack * 16 + l.ch) * 2 + l.b) * 2 ^ 26 + l.p / 128

/-- The location of a frame of narrow sectors. -/
def narrowKeyLoc (x : Nat) : Loc :=
  let y := x - 2 ^ 37
  { stack := y / 2 ^ 31, ch := y / 2 ^ 27 % 16, b := y / 2 ^ 26 % 2, p := 128 * (y % 2 ^ 26) }

/-- Whether a line number stands for a frame of narrow sectors. -/
def isNarrowKey (line : Nat) : Bool := decide (2 ^ 37 ≤ line % 2 ^ 38)

/-- The frame that holds sector `i` of a line of this device, and the sector's place in it (R205, R207). -/
def Dev.frameLine (d : Dev) (line i : Nat) : Nat × Nat :=
  match d.narrowAt (line % 2 ^ 38 * 128 + 32 * i) with
  | some sw =>
    let l := narrowLoc d.normalEnd sw.1 sw.2
    (2 ^ 38 * (line / 2 ^ 38) + narrowKey l, l.p / 32 % 4)
  | none => (line, i)

/-- The number of the HBM sector that a frame's sector `i` holds. -/
def Dev.sectorNo (d : Dev) (line i : Nat) : Nat :=
  let x := line % 2 ^ 38
  if isNarrowKey line then
    let l := narrowKeyLoc x
    narrowAddr d l.stack l.ch l.b (l.p + 32 * i) / 32
  else 4 * x + i

/-- Slice of a line whose home is this device. Narrow lines have one slice per sector; `sec` selects it. -/
def Dev.sliceOfLine (d : Dev) (line : Nat) : Nat :=
  if isNarrowKey line then (narrowKeyLoc (line % 2 ^ 38)).slice
  else ((d.locOf (line % 2 ^ 38 * 128)).map Loc.slice).getD (normalLoc (line % 2 ^ 38 * 128)).slice

/-- Far slice of a line homed elsewhere: its address taken as normal memory (R231, R199). -/
def farSlice (line : Nat) : Nat := (normalLoc (line % 2 ^ 38 * 128)).slice

/-- Set of a line in the frames of its slice (R205, R231). -/
def Dev.setOfLine (d : Dev) (line : Nat) : Nat :=
  if isNarrowKey line then (narrowKeyLoc (line % 2 ^ 38)).set
  else if line / 2 ^ 38 = d.id then ((d.locOf (line % 2 ^ 38 * 128)).map Loc.set).getD 0
  else (normalLoc (line % 2 ^ 38 * 128)).set

/-- Slice that handles a line on this device: the home slice, or the far slice (R231). -/
def Dev.lineSlice (d : Dev) (line : Nat) : Nat :=
  if line / 2 ^ 38 = d.id then d.sliceOfLine line else farSlice line

/-! ### Keys and sectors -/

/-- Number of a key: berth b's own key is b, shared key k is 32 + k (R211, R263). -/
def keyId (berth idx : Nat) : Nat := if idx = 0 then berth else 32 + idx

/-- Present generation of a key (R413, R438). -/
def Dev.keyGen (d : Dev) (id : Nat) : Nat :=
  if id < 32 then (d.berth id).keyGen else (mget SharedKey.reset d.ctl.shared (id - 32)).gen

/-- Whether a stack answers with poison and discards writes (R228). -/
def Dev.stackLost (d : Dev) (n : Nat) : Bool := (d.stack n).st == 3

/-- The stack of an address. -/
def Dev.stackOf (d : Dev) (a : Nat) : Nat := ((d.locOf a).map Loc.stack).getD 0

/-- One byte of HBM as a key shows it (R211): the byte written under the same key and generation; of a sector written whole under another,
what its ciphertext decrypts to; else an open value. -/
def Dev.hbmByte (d : Dev) (key a : Nat) : Byte :=
  let t := mget SectorTag.reset d.mem.tags (a / 32)
  if t.key = key ∧ t.gen = d.keyGen key ∧ t.bytes.getLsbD (a % 32) = true then mget 0 d.mem.hbm a
  else if t.bytes = BitVec.allOnes 32 ∧ ¬(t.key = key ∧ t.gen = d.keyGen key) then
    let v := BitVec.ofNat 256 (natOf ((List.range 32).map fun i => mget 0 d.mem.hbm (a / 32 * 32 + i)))
    (Config.recrypt t.key t.gen key (d.keyGen key) (a / 32) v).extractLsb' (8 * (a % 32)) 8
  else Config.freeByte a key (d.keyGen key)

/-- A 32-byte sector of HBM as a key shows it. -/
def Dev.readSector (d : Dev) (key sec : Nat) : Nat :=
  natOf ((List.range 32).map fun i => d.hbmByte key (32 * sec + i))

/-- Whether a sector reads poisoned: its poison bit (R215), or its stack is lost (R228). -/
def Dev.sectorPoison (d : Dev) (sec : Nat) : Bool :=
  d.stackLost (d.stackOf (32 * sec)) || (mget SectorTag.reset d.mem.tags sec).poison

/-- Write bytes of HBM memory, lowest address first. -/
def putBytes (m : List (Nat × BitVec 8)) (a : Nat) : List Byte → List (Nat × BitVec 8)
  | [] => m
  | b :: t => putBytes (mset 0 m a b) (a + 1) t

/-- Write the masked bytes of a sector under a key, with the poison the sector takes (R211, R216). Bytes of the sector
that an earlier write under another key or generation left are open from then on. A lost stack discards the write. -/
def Dev.writeSector (d : Dev) (key sec : Nat) (mask : BitVec 32) (v : Nat) (poison : Bool) : Dev :=
  if d.stackLost (d.stackOf (32 * sec)) then d
  else
    let t := mget SectorTag.reset d.mem.tags sec
    let gen := d.keyGen key
    let kept : BitVec 32 := if t.key = key ∧ t.gen = gen then t.bytes else 0
    let hbm := (List.range 32).foldl (fun m i =>
      if mask.getLsbD i then mset 0 m (32 * sec + i) (BitVec.ofNat 8 (v >>> (8 * i)))
      else if kept.getLsbD i then m else mset 0 m (32 * sec + i) 0) d.mem.hbm
    let d := d.bump (2 * d.stackOf (32 * sec) + 1) 32
    { d with mem := { d.mem with
      hbm := hbm
      tags := mput d.mem.tags sec { key := key, gen := gen, bytes := kept ||| mask, poison := poison } } }

/-- Set the poison of a sector and leave its data (R217, R222, R250). -/
def Dev.poisonSector (d : Dev) (sec : Nat) : Dev :=
  { d with mem := { d.mem with tags := mput d.mem.tags sec { mget SectorTag.reset d.mem.tags sec with poison := true } } }

/-- An error-log record about an HBM location. -/
def hbmErr (l : Loc) (cls src code berth addr detail : Nat) : ErlRec :=
  { ErlRec.reset with cls := cls, src := src, code := code, unit := 16 * l.stack + l.ch, berth := berth,
                      addr := BitVec.ofNat 64 addr, detail := detail }

/-- Whether a channel has logged uncorrectable errors at more than 256 distinct burst locations within 24 h (R228). -/
def Stack.uncLimit (s : Stack) (ch : Nat) : Bool := decide (256 < (s.unc.filter fun e => e.1 / 2 ^ 34 == ch).length)

/-- Count an uncorrectable burst toward R228's limit of its channel. -/
def Dev.countUnc (d : Dev) (k : Clock) (l : Loc) : Dev :=
  let burst := 2 ^ 33 * (2 * l.ch + l.b) + l.p / 32
  d.updStack l.stack fun s =>
    { s with unc := mput (s.unc.filter fun e => decide (k.tsc < e.2 + usec 86400000000)) burst k.tsc }

/-- Lose a stack (R228): from now on it answers with poison and discards writes; a Device-fatal record with its cause. -/
def Dev.loseStack (d : Dev) (k : Clock) (n ch cause : Nat) : Dev :=
  if (d.stack n).st = 3 then d
  else
    let d := d.updStack n fun s => { s with st := 3, failed := s.failed ||| (1#16 <<< ch) }
    logErr k { ErlRec.reset with cls := 4, src := 0x09, code := 0x0D, unit := 16 * n + ch, detail := cause } d

/-- A burst read that meets a storage fault (R217): corrected and rewritten, or poisoned, logged, and counted toward the
loss of its stack (R228). `src` is the reader: 0x09 a read, 0x0A the scrub. -/
def Dev.meetBurst (d : Dev) (k : Clock) (src berth sec : Nat) : Dev :=
  match d.locOf (32 * sec) with
  | none => d
  | some l =>
    match takeLatent 0 0 sec d with
    | (none, d) => d
    | (some false, d) => logErr k (hbmErr l 1 src 0x01 berth (32 * sec) 1) d
    | (some true, d) =>
      let d := logErr k (hbmErr l 2 src 0x02 berth (32 * sec) 0) (d.poisonSector sec)
      let d := d.countUnc k l
      if (d.stack l.stack).uncLimit l.ch then d.loseStack k l.stack l.ch 4 else d

/-- Read the sectors of a line from HBM: its data, the words poisoned, and the device after the faults it met. -/
def Dev.readHbm (d : Dev) (k : Clock) (key berth line : Nat) (want : BitVec 4) : Line × BitVec 16 × Dev :=
  let d := (List.range 4).foldl (fun d i =>
    if want.getLsbD i then (d.meetBurst k 0x09 berth (d.sectorNo line i)).bump (2 * d.stackOf (32 * d.sectorNo line i)) 32 else d) d
  let data := (List.range 4).foldl (fun l i => if want.getLsbD i then lineSet l (32 * i) 32 (d.readSector key (d.sectorNo line i)) else l) 0
  let poison := (List.range 4).foldl (fun p i => if want.getLsbD i && d.sectorPoison (d.sectorNo line i) then p ||| (0xF#16 <<< (4 * i)) else p) 0
  (data, poison, d)

/-! ### The mirror (R201, R262) -/

/-- The mask of a mirror index (R262). -/
def Dev.mirrorMask (d : Dev) (idx : Nat) : Option Nat := if idx = 0 then none else (mget? d.ctl.mirrors idx).map BitVec.toNat

/-- The line that holds the mirror of a global line, when its mask index is defined (R262). -/
def Dev.mirrorLine (d : Dev) (line idx : Nat) : Option Nat := (d.mirrorMask idx).map fun m => line ^^^ (m / 128 % 2 ^ 50)

/-- The place of a line's bytes in the line of the mirror: byte i lies at i XOR M[6:0] (R262). -/
def Dev.mirrorLow (d : Dev) (idx : Nat) : Nat := (d.mirrorMask idx).elim 0 fun m => m % 128

/-- Exchange the sectors of a mask as the low bits of a mirror mask do. -/
def flipSectors (lo : Nat) (m : BitVec 4) : BitVec 4 :=
  (List.range 4).foldl (fun (r : BitVec 4) i => if m.getLsbD i then r ||| (1#4 <<< (i ^^^ lo / 32)) else r) 0

/-- Exchange the words of a poison mask as the low bits of a mirror mask do. -/
def flipPoison (lo : Nat) (m : BitVec 16) : BitVec 16 :=
  (List.range 16).foldl (fun (r : BitVec 16) i => if m.getLsbD i then r ||| (1#16 <<< (i ^^^ lo / 8)) else r) 0

/-- Exchange the bytes of a line as the low bits of a mirror mask do. -/
def flipLine (lo : Nat) (v : Line) : Line :=
  if lo = 0 then v else (List.range 128).foldl (fun r i => lineSet r (i ^^^ lo) 1 (lineGet v i 1)) 0

/-- An untracked masked write as a packet (R200, R306). -/
def writeUPkt (d : Dev) (line : Nat) (agent berth key mtype : Nat) (mask : BitVec 128) (data : Line) (poison : BitVec 16) : Packet :=
  { Packet.reset with op := .writeU, dst := line / 2 ^ 38, src := d.id, agent := agent, line := line, berth := berth,
                      key := key, mtype := mtype, mask := mask, data := lineWords data, poison := poisonList poison }

/-- Clear whole sectors of a line from the taint list (R479). -/
def Dev.untaint (d : Dev) (line : Nat) (secs : BitVec 4) : Dev :=
  { d with erl := { d.erl with taint := (d.erl.taint.map fun t =>
      if t.line = line then { t with sectors := t.sectors &&& ~~~secs } else t).filter fun t => t.sectors != 0 } }

/-! ### Token buckets (R406) -/

/-- One token, in the unit in which a bucket is kept: at hbm_rate gigabytes per second and device, five units accrue per
sixteenth of a tick. -/
def tokenUnit : Nat := 131072

/-- Level of a berth's bucket at a slice now. A bucket never used is full. (DEDUCED, assumption 33.) -/
def Dev.bucket (d : Dev) (k : Clock) (n b : Nat) : Int :=
  let x := d.berth b
  let full : Int := Int.ofNat (32 * x.hbmDepth * tokenUnit)
  match mget? (d.slice n).tokens b with
  | none => full
  | some (t, since) => min full (t + Int.ofNat (5 * x.hbmRate * (k.tsc - since)))

/-- Charge a berth for sectors moved between a slice and HBM; the bucket may fall to the negative of its depth.
(DESIGN CHOICE, assumption 34.) -/
def Dev.charge (d : Dev) (k : Clock) (n b cost : Nat) : Dev :=
  let x := d.berth b
  if x.hbmRate = 0 ∨ cost = 0 then d
  else
    let v := max (-Int.ofNat (32 * x.hbmDepth * tokenUnit)) (d.bucket k n b - Int.ofNat (cost * tokenUnit))
    d.updSlice n fun s => { s with tokens := mput s.tokens b (v, k.tsc) }

/-- The berth that owns the key of a line (R406). -/
def Dev.keyBerth (d : Dev) (berth key : Nat) : Nat := if key = 0 then berth else (mget SharedKey.reset d.ctl.shared key).owner

/-- Send a read or a write of a slice's own, and reserve the landing buffer of its answer (R238, R307). (DESIGN CHOICE, assumption 27.) -/
def Dev.sliceOwn (d : Dev) (n : Nat) (p : Packet) : Packet × Dev :=
  let s := d.slice n
  let e := 720 + (lowestFree 300 (s.outs.map fun q => q.entry - 720)).getD 299
  let p := { p with src := d.id, agent := 512 + n, entry := e, gen := mget 0 s.gens e }
  (p, d.setSlice n { s with outs := s.outs ++ [p] })

/-- The slice's own request that an answer names (R307). -/
def Slice.ownOf (s : Slice) (p : Packet) : Option Packet := s.outs.find? fun q => q.entry == p.entry && q.gen == p.gen

/-- Release the landing buffer of a slice's own request (R307). -/
def Slice.ownDone (s : Slice) (q : Packet) : Slice :=
  { s with outs := s.outs.erase q, gens := mput s.gens q.entry ((mget 0 s.gens q.entry + 1) % 16) }

/-- Store whole sectors of a frame in HBM, under a key. -/
def Dev.putSectors (d : Dev) (key line : Nat) (secs : BitVec 4) (data : Line) (poison : BitVec 16) : Dev :=
  (List.range 4).foldl (fun d i =>
    if secs.getLsbD i then
      d.writeSector key (d.sectorNo line i) 0xFFFFFFFF#32 (lineGet data (32 * i) 32) (poison.extractLsb' (4 * i) 4 != 0)
    else d) d

/-- Sectors of a frame that were written without poison are tainted no longer. -/
def Dev.untaintSectors (d : Dev) (x : SLine) (secs : BitVec 4) : Dev :=
  (List.range 4).foldl (fun d i =>
    let s := d.sectorNo x.line i
    if secs.getLsbD i && x.poison.extractLsb' (4 * i) 4 == 0 then d.untaint (2 ^ 38 * d.id + s / 4) (1#4 <<< (s % 4)) else d) d

/-- Write sectors of a line to its mirror, if it has one, here or on the peer that holds it; there the write is done when its WriteAck
has come (R201, R262). -/
def Dev.writeMirror (d : Dev) (x : SLine) (secs : BitVec 4) : Dev :=
  let key := keyId x.berth x.key
  match d.mirrorLine x.line x.mirror with
  | none => d
  | some ml =>
    let lo := d.mirrorLow x.mirror
    let secs := flipSectors lo secs
    let data := flipLine lo x.data
    let poison := flipPoison lo x.poison
    if ml / 2 ^ 38 = d.id then d.putSectors key ml secs data poison
    else
      let r := d.sliceOwn (d.lineSlice x.line) (writeUPkt d ml 0 x.berth x.key 3 (sectorBytes secs) data poison)
      r.2.send r.1

/-- Write the dirty sectors of a line of this device to HBM, whole, and to the line's mirror (R201, R209, R216). -/
def Dev.writeBack (d : Dev) (k : Clock) (x : SLine) (secs : BitVec 4) : Dev :=
  let d := d.putSectors (keyId x.berth x.key) x.line secs x.data x.poison
  let d := d.charge k (d.lineSlice x.line) (d.keyBerth x.berth x.key) ((List.range 4).filter fun i => secs.getLsbD i).length
  (d.untaintSectors x secs).writeMirror x secs

/-! ### Patrol scrub, retraining (R222 to R228) -/

/-- Number of burst locations of a pseudo-channel (R222). -/
def scrubEnd : Nat := 150994944

/-- The address whose normal location is P of a pseudo-channel, used to name the burst that the scrub reads: the inverse
of R204 over its 8 pseudo-channel bits. -/
def normalAddr (stack ch b p : Nat) : Nat :=
  let hi := p / 512
  let pch := stack + 8 * ch + 128 * b
  let lo := pch ^^^ (hi % 256) ^^^ (bitsAt hi 8 8) ^^^ (bitsAt hi 16 8)
  2 ^ 17 * hi + 512 * lo + p % 512

/-- The address of any location of a pseudo-channel. -/
def Dev.addrOf (d : Dev) (stack ch b p : Nat) : Nat :=
  if p < d.normalEnd / 256 then normalAddr stack ch b p else narrowAddr d stack ch b p

end Sys2Proof.Machine
end

