-- ==== Sys2Proof/Machine/Entries.lean ====
section
/-! DEFINITION. Directory entries (R233 to R236), the lines that a slice holds, Puts (R242), and recalls (R247, R249). -/

namespace Sys2Proof.Machine

/-! ### Lines of a slice -/

/-- The frame of a slice that holds a line: its key 16 * set + way. -/
def Slice.frameOf (x : Slice) (set line : Nat) : Option Nat :=
  (List.range 16).map (fun w => 16 * set + w) |>.find? fun i =>
    match mget? x.frames i with
    | some f => f.line == line && (f.valid != 0 || f.present != 0)
    | none => false

/-- Whether the line is one of this device's own HBM. -/
def Dev.isHome (d : Dev) (line : Nat) : Bool := line / 2 ^ 38 == d.id

/-- The Put message that a holder sends for a state (R242). -/
def putOp : LState → PktOp
  | .m => .putM
  | .o => .putO
  | .e => .putE
  | _ => .putS

/-- A Put for a line, with its dirty sectors for PutO and PutM (R242, R306). -/
def putPkt (d : Dev) (line agent : Nat) (st : LState) (dirty : BitVec 4) (data : Line) (poison : BitVec 16) : Packet :=
  let carries := st == .m || st == .o
  { Packet.reset with
    op := putOp st, dst := line / 2 ^ 38, src := d.id, agent := agent, line := line,
    sectors := if carries then dirty else 0
    data := if carries then lineWords data else []
    poison := if carries then poisonList poison else [] }

/-- Whether an entry names a holder: an owner, a sharer, or a coarse vector (R233). -/
def DirEntry.held (e : DirEntry) : Bool := !e.sharers.isEmpty || e.coarse || e.owner != 0

/-- Remove a line from the frames or the victim cache of a slice. -/
def Slice.dropLine (x : Slice) (line : Nat) : Slice :=
  { x with frames := x.frames.filter fun f => f.2.line != line
           victim := x.victim.filter fun f => f.line != line }

/-! ### Directory entries (R233 to R236) -/

/-- Owner pointer of a core. -/
def ownCore (c : Nat) : Nat := 4096 + c
/-- Owner pointer of a device. -/
def ownDev (x : Nat) : Nat := 8192 + x
/-- Owner pointer of the home slice's atomic unit. -/
def ownAtom : Nat := 12288

/-- Directory entry of a line. -/
def Slice.dirOf (x : Slice) (line : Nat) : Option DirEntry := (x.dir.find? fun e => e.2.line == line).map Prod.snd

/-- Write back a line's directory entry, which counts as a use of it; an Uncached home entry is freed (R234), and so is a far entry in state I. -/
def Slice.dirPut (x : Slice) (e : DirEntry) : Slice :=
  if (!e.far && e.st == .uncached) || (e.far && e.devState == .i && e.st == .uncached) then
    { x with dir := x.dir.filter fun f => f.2.line != e.line }
  else
    let set := (x.dir.find? fun f => f.2.line == e.line).map fun f => (f.1 / 16, f.1 % 16)
    { x with dir := x.dir.map fun f => if f.2.line = e.line then (f.1, e) else f
             dirPlru := set.elim x.dirPlru fun w => mput x.dirPlru w.1 (plruTouch 4 1 (mget 0 x.dirPlru w.1) w.2) }

/-- Pointer under which a requester is named: a core of this device, or another device. -/
def sharerPtr (d : Dev) (p : Packet) : Nat := if p.src = d.id then p.agent else 4096 + p.src

/-- Owner pointer under which a requester is named. -/
def ownerPtr (d : Dev) (p : Packet) : Nat :=
  if p.src ≠ d.id then ownDev p.src else if p.agent < 512 then ownCore p.agent else ownAtom

/-- Cores and devices that an entry's coarse vector covers, as sharer pointers (R236). -/
def coveredBy (e : DirEntry) : List Nat :=
  ((List.range 32).flatMap fun g => if e.coreGroups.getLsbD g then (List.range 16).map fun i => 16 * g + i else []) ++
  ((List.range 32).flatMap fun k => if e.devGroups.getLsbD k then
      (List.range 128).map fun i => 4096 + 128 * k + i else [])

/-- The pointer form of an owner: a core or a device, as a sharer pointer. -/
def ownerAsPtr (o : Nat) : Option Nat :=
  if o / 4096 = 1 then some (o % 4096) else if o / 4096 = 2 then some (4096 + o % 4096) else none

/-- Every agent that an Inv of this entry goes to (R241): exact sharers or covered agents, except R and the owner. -/
def invTargets (e : DirEntry) (r : Nat) : List Nat :=
  let all := if e.coarse then coveredBy e else e.sharers
  all.filter fun x => x != r && ownerAsPtr e.owner != some x

/-- Add a sharer; a fifth one makes the entry coarse (R236). -/
def addSharer (e : DirEntry) (r : Nat) : DirEntry :=
  let bit := fun (e : DirEntry) (x : Nat) =>
    if x < 4096 then { e with coreGroups := e.coreGroups ||| (1#32 <<< (x / 16)) }
    else { e with devGroups := e.devGroups ||| (1#32 <<< ((x - 4096) / 128)) }
  if e.coarse then bit e r
  else if e.sharers.contains r then e
  else if e.sharers.length < 4 then { e with sharers := e.sharers ++ [r] }
  else { (e.sharers ++ [r]).foldl bit e with coarse := true, sharers := [] }

/-- Address a packet to a sharer pointer: a core of this device, or another device's far slice. -/
def toPtr (d : Dev) (line ptr : Nat) (p : Packet) : Packet :=
  if ptr < 4096 then { p with dst := d.id, tgt := ptr, src := d.id, line := line }
  else { p with dst := ptr - 4096, tgt := 512 + farSlice line, src := d.id, line := line }

/-- Landing buffers of a slice (R238): those of its far requests lie below these, the 16 of the recall buffer from here on, the 64 of the
atomic unit, and those of its own reads and writes. (DESIGN CHOICE, assumption 27.) -/
def recallEntry : Nat := 640
/-- First landing buffer of the atomic unit. -/
def atomEntry : Nat := 656

/-- Messages that recall a directory entry: Recall to the owner, Inv to every sharer or covered agent with the slice as the
ack target (R247). -/
def recallMsgs (d : Dev) (n : Nat) (r : Recall) : List Packet :=
  let e := r.ent
  let rc := match ownerAsPtr e.owner with
    | some o => [toPtr d e.line o { Packet.reset with op := .recall, agent := 512 + n, entry := r.entry, gen := r.gen }]
    | none => []
  rc ++ (invTargets e 999999).map fun x =>
    toPtr d e.line x { Packet.reset with op := .inv, agent := 512 + n, entry := r.entry, gen := r.gen, ackDev := d.id
                                         ackTag := (512 + n) + 2 ^ 10 * r.entry + 2 ^ 20 * r.gen }

/-- A line as a slice holds it, in the array or in the victim cache. -/
def Slice.lineOf (x : Slice) (set line : Nat) : Option SLine :=
  ((x.frameOf set line).bind fun i => mget? x.frames i).or (x.victim.find? fun f => f.line == line)

/-- The Put of a line goes to its home, and the line waits in the slice's eviction buffer (R242). -/
def Dev.farPut (d : Dev) (n line : Nat) (st : LState) (f : SLine) : Dev :=
  (d.updSlice n fun s => { s with evict := s.evict ++ [{ EvictBuf.reset with
    line := line, st := st, dirty := f.dirty, data := f.data, poison := f.poison, berth := f.berth, key := f.key, mtype := f.mtype
    mirror := f.mirror }] }).send { putPkt d line (512 + n) st f.dirty f.data f.poison with
      berth := f.berth, key := f.key, mtype := f.mtype, mirror := f.mirror }

/-- Whether a recall that has every answer may end: the Put of a far entry finds room in the eviction buffer (R242, R249). -/
def Slice.recallRoom (x : Slice) (r : Recall) : Bool := !r.putBack || r.ent.devState == .i || decide (x.evict.length < 16)

/-- A recall ends: its buffer is released, and the Put of a far entry follows with the dirty sectors of the frame and the L1s (R249). -/
def Dev.recallEnd (d : Dev) (n : Nat) (r : Recall) : Dev :=
  let d := d.updSlice n fun s => { s with
    recalls := s.recalls.filter fun x => x.ent.line != r.ent.line, gens := mput s.gens r.entry ((mget 0 s.gens r.entry + 1) % 16) }
  if !r.putBack || r.ent.devState == .i then d
  else
    let line := r.ent.line
    let now := (d.slice n).lineOf (d.setOfLine line) line
    let f := match now, r.kept with
      | some f, some g => { f with dirty := f.dirty ||| g.dirty }
      | some f, none => f
      | none, g => g.getD SLine.reset
    let st : LState := if f.dirty ≠ 0 ∧ r.ent.devState = .e then .m else r.ent.devState
    (d.updSlice n fun s => s.dropLine line).farPut n line st f

/-- Move an entry to the recall buffer and send its messages (R247); a recall that awaits nothing ends at once. `put` tells that the
device's own Put to the home follows (a far entry, R249), `kept` is the line when it has left the slice. -/
def Dev.startRecall (d : Dev) (n : Nat) (e : DirEntry) (put : Bool) (kept : Option SLine) : Dev :=
  let sl := d.slice n
  let b := recallEntry + (lowestFree 16 (sl.recalls.map fun r => r.entry - recallEntry)).getD 0
  let r : Recall := { Recall.reset with
    ent := e, acks := (invTargets e 999999).length, owner := (ownerAsPtr e.owner).isSome, putBack := put, entry := b
    gen := mget 0 sl.gens b, kept := kept }
  let sl := { sl with dir := sl.dir.filter fun f => f.2.line != e.line, recalls := sl.recalls ++ [r] }
  let d := (d.setSlice n sl).sendAll (recallMsgs d n r)
  if r.acks = 0 ∧ r.owner = false ∧ sl.recallRoom r = true then d.recallEnd n r else d

end Sys2Proof.Machine
end

