-- ==== Sys2Proof/Machine/SliceOps.lean ====
section
/-! DEFINITION. Basin slices: frames and the victim cache (R209, R210), write combining (R212, R213), storage errors and way
disable (R217 to R220), untracked copies of remote lines (R199). -/

namespace Sys2Proof.Machine

/-! ### Way disable (R218 to R220) -/

/-- A unit of a structure logs an error at a global time: a corrected one is kept for R218's four within 60 minutes. Answers whether the
unit qualifies, and the list of its structure's corrected errors. -/
def noteUnitErr (now : Nat) (errs : List (Nat × Nat)) (unit : Nat) (unc : Bool) : Bool × List (Nat × Nat) :=
  let recent := errs.filter fun e => decide (now < e.2 + usec 3600000000)
  let errs := if unc then recent else recent ++ [(unit, now)]
  (unc || decide (4 ≤ (errs.filter fun e => e.1 == unit).length), errs)

/-- Units of a slice that are disabled: those of the main array, and those of the victim cache. -/
def Slice.offCount (x : Slice) : Nat := x.off.length + x.vOff.length

/-- A slice is Degraded (R220). -/
def Slice.degraded (x : Slice) : Bool := decide (4 < x.offCount) || x.refused

/-- A record about a slice. -/
def sliceErr (n cls src code addr detail : Nat) : ErlRec :=
  { ErlRec.reset with cls := cls, src := src, code := code, unit := n, addr := BitVec.ofNat 64 addr, detail := detail }

/-- A line leaves a slice for good: the dirty sectors of an own line go to HBM and its mirror (R209, R210), the dirty bytes
of an untracked copy of a remote line go to its home as one masked write (R199), and a far line leaves with a Put (R242, R249): a dirty
one that local L1s hold recalls them first. -/
def Dev.dropFrame (d : Dev) (k : Clock) (n : Nat) (f : SLine) : Dev :=
  if d.isHome f.line then d.writeBack k f f.dirty
  else if f.mtype = 1 then
    if f.bytes = 0 then d
    else
      let r := d.sliceOwn n (writeUPkt d f.line 0 f.berth f.key 1 f.bytes f.data f.poison)
      r.2.send r.1
  else
    match (d.slice n).dir.find? fun e => e.2.line == f.line with
    | none => d
    | some e =>
      if e.2.held = true then (if f.dirty = 0 then d else d.startRecall n e.2 true (some f))
      else
        let st := if f.dirty ≠ 0 ∧ e.2.devState = .e then .m else e.2.devState
        (d.updSlice n fun s => { s with dir := s.dir.filter fun e => e.2.line != f.line }).farPut n f.line st f

/-- Whether a line may leave the victim cache now (R242, R249): a far line leaves with a Put, which needs room in the eviction buffer, or
through a recall of the local L1s that hold it; any waits while its home's answer is awaited. -/
def Slice.mayLeave (x : Slice) (own : Nat) (f : SLine) : Bool :=
  f.line / 2 ^ 38 == own || f.mtype == 1 ||
  (!(x.far.any fun r => r.line == f.line) &&
    match x.dir.find? fun e => e.2.line == f.line with
    | some e => if e.2.held then f.dirty == 0 || decide (x.recalls.length < 16) else decide (x.evict.length < 16)
    | none => true)

/-- A line enters the victim cache, in its lowest free entry that is in service; when none is free, the oldest line that may
leave is pushed out (R210). (DESIGN CHOICE, assumption 175.) -/
def Dev.victimPush (d : Dev) (k : Clock) (n : Nat) (f : SLine) : Dev :=
  let sl := d.slice n
  match lowestFree 32 (sl.vOff ++ sl.victim.map SLine.ventry) with
  | some e => d.setSlice n { sl with victim := { f with ventry := e } :: sl.victim }
  | none =>
    match (f :: sl.victim).reverse.find? fun g => sl.mayLeave d.id g with
    | none => d.setSlice n { sl with victim := { f with ventry := 32 } :: sl.victim }
    | some g =>
      if g = f then d.dropFrame k n f
      else (d.setSlice n { sl with victim := { f with ventry := g.ventry } :: sl.victim.erase g }).dropFrame k n g

/-- Put a line into the array: an invalid enabled way first, else the one that pseudo-LRU selects, whose line enters the
victim cache (R209, R210). At the most-recently-used position, or at the least with `lru` (R174). -/
def Dev.insertFrame (d : Dev) (k : Clock) (n : Nat) (f : SLine) (lru : Bool) : Dev :=
  let sl := d.slice n
  let set := d.setOfLine f.line
  let ok := fun w => !sl.off.contains (16 * (set / 64) + w)
  let free := (List.range 16).find? fun w => ok w && !mhas sl.frames (16 * set + w)
  let bits := mget 0 sl.plru set
  let w := free.getD (plruVictim 4 1 bits 0 ok)
  let old := mget? sl.frames (16 * set + w)
  let bits := if lru then plruAim 4 1 bits w else plruTouch 4 1 bits w
  let d := d.setSlice n { sl with frames := mput sl.frames (16 * set + w) f, plru := mput sl.plru set bits }
  match old with
  | some g => d.victimPush k n g
  | none => d

/-- The disable unit of a slice that a line lies in: of the main array, or 256 and the entry of the victim cache (R218). -/
def Slice.unitOf (x : Slice) (set line : Nat) : Option Nat :=
  match x.frameOf set line with
  | some i => some (16 * (i / 16 / 64) + i % 16)
  | none => (x.victim.find? fun f => f.line == line).map fun f => 256 + f.ventry

/-- The lines in disabled units of a slice that may leave them leave (R219). -/
def Dev.clearUnits (d : Dev) (k : Clock) (n : Nat) : Dev :=
  let sl := d.slice n
  let fs := sl.frames.filterMap fun e => if sl.off.contains (16 * (e.1 / 16 / 64) + e.1 % 16) then some e.2 else none
  (fs ++ sl.victim.filter fun f => sl.vOff.contains f.ventry).foldl (fun d f =>
    let s := d.slice n
    if s.mayLeave d.id f then (d.setSlice n (s.dropLine f.line)).dropFrame k n f else d) d

/-- Disable a unit of a slice's main array, or of its victim cache (`unit` 256 + entry): its lines leave, the disable goes
to the health record, and the log tells (R219). Refused at the set group's limit. (DEDUCED, assumption 147.) -/
def Dev.disableSliceUnit (k : Clock) (n unit : Nat) (d : Dev) : Dev :=
  let sl := d.slice n
  let vic := 256 ≤ unit
  let src := if vic then 0x06 else 0x05
  let code := if vic then unit - 256 else unit
  let count := if vic then sl.vOff.length else (sl.off.filter fun u => u / 16 == unit / 16).length
  let already := if vic then sl.vOff.contains (unit - 256) else sl.off.contains unit
  if already then d
  else if count < (if vic then 4 else 2) then
    let wasDegraded := sl.degraded
    let d := d.setSlice n { sl with
      off := if vic then sl.off else sl.off ++ [unit]
      vOff := if vic then sl.vOff ++ [unit - 256] else sl.vOff }
    let d := d.clearUnits k n
    let d := { d with healthDue := d.healthDue ++ [(if vic then 128 + n else n, unit)] }
    let d := logErr k (sliceErr n 1 src 0x03 0 code) d
    if (d.slice n).degraded && !wasDegraded then logErr k (sliceErr n 1 src 0x05 0 (d.slice n).offCount) d else d
  else
    let d := d.setSlice n { sl with refused := true }
    let d := logErr k (sliceErr n 1 src 0x04 0 code) d
    if sl.degraded then d else logErr k (sliceErr n 1 src 0x05 0 sl.offCount) d

/-- An error met in a unit of a slice: logged, counted, and the unit disabled when it qualifies (R217 to R219). -/
def Dev.sliceUnitErr (k : Clock) (n unit addr : Nat) (unc : Bool) (d : Dev) : Dev :=
  let src := if 256 ≤ unit then 0x06 else 0x05
  let d := logErr k (sliceErr n (if unc then 2 else 1) src (if unc then 0x02 else 0x01) addr (if unc then 0 else 1)) d
  let sl := d.slice n
  let (q, errs) := noteUnitErr (gtime k d) sl.errs unit unc
  let d := d.setSlice n { sl with errs := errs }
  if q then d.disableSliceUnit k n unit else d

/-- Words of a line that a byte mask covers whole, and those that it covers in part. -/
def maskWords (mask : BitVec 128) : List Nat × List Nat :=
  let ws := (List.range 16).filter fun w => mask.extractLsb' (8 * w) 8 != 0
  (ws.filter fun w => mask.extractLsb' (8 * w) 8 == 0xFF#8, ws.filter fun w => mask.extractLsb' (8 * w) 8 != 0xFF#8)

/-- Storage errors that an access to a line of a slice meets, in the array or in the victim cache (R217): one in a word that is read is
corrected, or drops a clean line, or poisons the word of a dirty one; a word written whole loses its error. -/
def Dev.sliceMeet (d : Dev) (k : Clock) (n line : Nat) (full reads : List Nat) : Dev :=
  let set := d.setOfLine line
  match (d.slice n).unitOf set line with
  | none => d
  | some unit =>
    let w := latentWord 1 n line d
    let addr := 32 * d.sectorNo line (w / 4)
    if full.contains w then (takeLatent 1 n line d).2
    else if !reads.contains w then d
    else
      match takeLatent 1 n line d with
      | (none, d) => d
      | (some false, d) => d.sliceUnitErr k n unit addr false
      | (some true, d) =>
        let s := d.slice n
        let dirty := (s.lineOf set line).any fun f => f.dirty != 0 || f.bytes != 0
        let s := if dirty then
            { s with frames := mmap s.frames fun _ f => if f.line = line then { f with poison := f.poison ||| (1#16 <<< w) } else f
                     victim := s.victim.map fun f => if f.line = line then { f with poison := f.poison ||| (1#16 <<< w) } else f }
          else s.dropLine line
        (d.setSlice n s).sliceUnitErr k n unit addr true

/-- Every word of a line. -/
def allWords : List Nat := List.range 16

/-- A storage error that a write-combining entry meets when it is read (R217): the entry's bytes in that word are poisoned. -/
def Dev.wcbMeet (d : Dev) (k : Clock) (n : Nat) (e : Wcb) : Wcb × Dev :=
  let w := latentWord 9 n e.line d
  match takeLatent 9 n e.line d with
  | (none, d) => (e, d)
  | (some unc, d) =>
    let addr := e.line % 2 ^ 38 * 128 + 8 * w
    (if unc then { e with poison := e.poison ||| (1#16 <<< w) } else e,
      logErr k (sliceErr n (if unc then 2 else 1) 0x07 (if unc then 0x02 else 0x01) addr (if unc then 0 else 1)) d)

/-- Find a line in a slice: a hit in the array is touched; a hit in the victim cache moves the line back into its set, and
the line it displaces takes its place (R210). -/
def Dev.sliceFind (d : Dev) (k : Clock) (n line : Nat) : Option SLine × Dev :=
  let sl := d.slice n
  let set := d.setOfLine line
  match sl.frameOf set line with
  | some i =>
    (mget? sl.frames i, d.setSlice n { sl with plru := mput sl.plru set (plruTouch 4 1 (mget 0 sl.plru set) (i % 16)) })
  | none =>
    match sl.victim.find? fun f => f.line == line with
    | some f =>
      let d := d.setSlice n { sl with victim := sl.victim.erase f }
      (some f, d.insertFrame k n f false)
    | none => (none, d)

/-- Replace the contents of a line that a slice holds. -/
def Dev.putFrame (d : Dev) (n : Nat) (f : SLine) : Dev :=
  let sl := d.slice n
  match sl.frameOf (d.setOfLine f.line) f.line with
  | some i => d.setSlice n { sl with frames := mput sl.frames i f }
  | none => d.setSlice n { sl with victim := sl.victim.map fun g => if g.line = f.line then f else g }

/-- A write-combining entry leaves the buffer to HBM: whole sectors directly, sectors covered in part by read, merge and
write, and a sector whose read is uncorrectable or poisoned is written poisoned (R213, R216). -/
def Dev.wcbFlush (d : Dev) (k : Clock) (e : Wcb) : Dev :=
  let key := keyId e.berth e.key
  let (e, d) := d.wcbMeet k (d.lineSlice e.line) e
  (List.range 4).foldl (fun d i =>
    let m := e.mask.extractLsb' (32 * i) 32
    if m = 0 then d
    else
      let sec := e.line % 2 ^ 38 * 4 + i
      let d := if m = 0xFFFFFFFF#32 then d
        else ((d.meetBurst k 0x09 e.berth sec).bump (2 * d.stackOf (32 * sec)) 32).bump (78 + d.stackOf (32 * sec) / 2) 1
          |>.charge k (d.lineSlice e.line) (d.keyBerth e.berth e.key) 1
      let oldP := if m = 0xFFFFFFFF#32 then false else d.sectorPoison sec
      let newP := e.poison.extractLsb' (4 * i) 4 != 0
      let old := d.readSector key sec
      let full := lineMerge (e.mask.extractLsb' (32 * i) 32 |>.setWidth 128) (BitVec.ofNat 1024 (lineGet e.data (32 * i) 32)) (BitVec.ofNat 1024 old)
      let x : SLine := { SLine.reset with
        line := e.line, data := lineSet 0 (32 * i) 32 (full.toNat % 2 ^ 256),
        poison := if oldP || newP then 0xF#16 <<< (4 * i) else 0, key := e.key, berth := e.berth, mirror := e.mirror }
      d.writeBack k x (1#4 <<< i)) d

/-- Read a line at its slice for a request (R209): from the array, the victim cache, the write-combining buffer overlaid
on HBM (R212), or HBM. `want` is the sectors to fetch on a miss: all four in normal memory, the addressed ones of a
narrow line (R207). A line that comes from HBM enters the array at the most-recently-used position, with `ins` 1 at the least, with 2 not at
all (R174). A storage error met here acts as R217 states. -/
def Dev.sliceRead (d : Dev) (k : Clock) (n line berth key mtype mirror : Nat) (want : BitVec 4) (ins : Nat) : SLine × Dev :=
  let had := ((d.slice n).unitOf (d.setOfLine line) line).isSome
  let d := d.bump ((if had then 70 else 71) + 2 * (n / 32)) 1
  let (hit, d) := (d.sliceMeet k n line [] allWords).sliceFind k n line
  match hit with
  | some f =>
    let miss := want &&& ~~~f.valid
    if miss = 0 then (f, d)
    else
      let (data, poison, d) := d.readHbm k (keyId berth key) berth line miss
      let m := sectorBytes miss
      let f := { f with data := lineMerge m data f.data, poison := mergePoison m poison f.poison, valid := f.valid ||| miss }
      (f, d.putFrame n f)
  | none =>
    let (data, poison, d) := d.readHbm k (keyId berth key) berth line want
    let sl := d.slice n
    match sl.wcb.find? fun e => e.line == line with
    | some e =>
      let (e, d) := (d.setSlice n { sl with wcb := sl.wcb.erase e }).wcbMeet k n e
      let f : SLine := { SLine.reset with
        line := line, data := lineMerge e.mask e.data data, poison := mergePoison e.mask e.poison poison
        valid := want ||| sectorsOf e.mask, dirty := sectorsOf e.mask
        key := key, berth := berth, mtype := mtype, mirror := mirror }
      (f, d.insertFrame k n f (ins == 1))
    | none =>
      let f : SLine := { SLine.reset with line := line, data := data, poison := poison, valid := want, key := key, berth := berth,
                                          mtype := mtype, mirror := mirror }
      (f, if ins = 2 then d else d.insertFrame k n f (ins == 1))

/-- Sectors that a byte mask covers whole. -/
def wholeSectors (mask : BitVec 128) : BitVec 4 :=
  (List.range 4).foldl (fun (m : BitVec 4) i => if mask.extractLsb' (32 * i) 32 = 0xFFFFFFFF#32 then m ||| (1#4 <<< i) else m) 0

/-- Sectors in a mask. -/
def sectorCount (m : BitVec 4) : Nat := ((List.range 4).filter fun i => m.getLsbD i).length

/-- A masked write at a line's home slice (R207, R212): merges into a held line; a whole line is allocated without a read;
part of a line of normal memory goes to the write-combining buffer; a narrow write reads a sector it covers in part. -/
def Dev.sliceWrite (d : Dev) (k : Clock) (n line berth key mtype mirror : Nat) (mask : BitVec 128) (data : Line) (poison : BitVec 16) : Dev :=
  let secs := sectorsOf mask
  let (hit, d) := (d.sliceMeet k n line (maskWords mask).1 (maskWords mask).2).sliceFind k n line
  let narrow := mtype == 2
  let whole := wholeSectors mask
  match hit with
  | some f =>
    let need := secs &&& ~~~f.valid &&& ~~~whole
    let (f, d) := if need = 0 then (f, d) else (d.charge k n berth (sectorCount need)).sliceRead k n line berth key mtype mirror need 0
    d.putFrame n { f with
      data := lineMerge mask data f.data, poison := mergePoison mask poison f.poison
      valid := f.valid ||| secs, dirty := f.dirty ||| secs, key := key, berth := berth, mirror := mirror }
  | none =>
    if narrow then
      let need := secs &&& ~~~whole
      let (f, d) := if need = 0 then
          let f : SLine := { SLine.reset with line := line, key := key, berth := berth, mtype := 2 }
          (f, d.insertFrame k n f false)
        else (d.charge k n berth (sectorCount need)).sliceRead k n line berth key mtype mirror need 0
      let f := { f with data := lineMerge mask data f.data, poison := mergePoison mask poison f.poison
                        valid := f.valid ||| secs, dirty := f.dirty ||| secs }
      let sl := d.slice n
      match (List.range 16).map (fun w => 16 * d.setOfLine line + w) |>.find? fun i => (mget? sl.frames i).any fun g => g.line == line with
      | some i => d.setSlice n { sl with frames := mput sl.frames i f }
      | none => d.insertFrame k n f false
    else
      let sl := d.slice n
      let old := sl.wcb.find? fun e => e.line == line
      let e : Wcb := match old with
        | some e => { e with data := lineMerge mask data e.data, mask := e.mask ||| mask
                             poison := mergePoison mask poison e.poison, last := k.tsc }
        | none => { Wcb.reset with line := line, data := data &&& bitMask mask, mask := mask, poison := poison, last := k.tsc
                                   key := key, berth := berth, mirror := mirror }
      let rest := match old with | some o => sl.wcb.erase o | none => sl.wcb
      if e.mask = BitVec.allOnes 128 then
        let d := d.setSlice n { sl with wcb := rest }
        d.insertFrame k n { SLine.reset with
          line := line, data := e.data, poison := e.poison, valid := 0xF#4, dirty := 0xF#4
          key := key, berth := berth, mtype := mtype, mirror := mirror } false
      else
        match old with
        | some _ => d.setSlice n { sl with wcb := sl.wcb.map fun x => if x.line = line then e else x }
        | none =>
          if rest.length < 64 then d.setSlice n { sl with wcb := rest ++ [e] }
          else
            let d := d.setSlice n { sl with wcb := rest.drop 1 ++ [e] }
            match rest.head? with
            | some o => d.wcbFlush k o
            | none => d

/-- A store into a device's untracked copy of a remote Streaming line: a dirty bit per byte (R199). A copy that no read fetched
holds only the bytes stored. -/
def Dev.copyWrite (d : Dev) (k : Clock) (n line berth key : Nat) (mask : BitVec 128) (data : Line) (poison : BitVec 16) : Dev :=
  let (hit, d) := (d.sliceMeet k n line (maskWords mask).1 (maskWords mask).2).sliceFind k n line
  match hit with
  | some f => d.putFrame n { f with data := lineMerge mask data f.data, poison := mergePoison mask poison f.poison
                                    bytes := f.bytes ||| mask, present := f.present ||| mask }
  | none => d.insertFrame k n { SLine.reset with
      line := line, data := data &&& bitMask mask, poison := poison, bytes := mask, present := mask, key := key, berth := berth, mtype := 1 } false

end Sys2Proof.Machine
end

