-- ==== Sys2Proof/Machine/Home.lean ====
section
/-! DEFINITION. L1 caches (R195, R196, R242), directories (R233 to R236, R247) and what device-internal agents do with lines:
drawing a line from its local holders, reading and writing own HBM coherently (R278, R241). -/

namespace Sys2Proof.Machine

/-! ### L1 (R195) -/

/-- L1 set of a line (R195). -/
def l1Set (line : Nat) : Nat := (line % 128) ^^^ (line / 128 % 128)

/-- The key 8 * set + way of a line that a core's L1 holds. -/
def Core.l1Find (k : Core) (line : Nat) : Option Nat :=
  (List.range 8).map (fun w => 8 * l1Set line + w) |>.find? fun i =>
    match mget? k.l1 i with
    | some f => f.line == line && f.st != .i
    | none => false

/-- State in which a core's L1 holds a line. -/
def Core.l1State (k : Core) (line : Nat) : LState := ((k.l1Find line).bind fun i => mget? k.l1 i).elim .i L1Line.st

/-- Mark a use of an L1 line. -/
def Core.l1Touch (k : Core) (i : Nat) : Core :=
  { k with l1Plru := mput k.l1Plru (i / 8) (plruTouch 3 1 (mget 0 k.l1Plru (i / 8)) (i % 8)) }

/-- Replace the L1 copy of a line. -/
def Core.l1Put (k : Core) (f : L1Line) : Core :=
  match k.l1Find f.line with
  | some i => if f.st = .i then { k with l1 := mdel k.l1 i } else { k with l1 := mput k.l1 i f }
  | none => k

/-- Send a line out of an L1 (R242): the matching Put to the home slice or the device's own far slice; the line waits in
the eviction buffer for its EvictAck. -/
def Dev.l1Evict (d : Dev) (c i : Nat) : Dev :=
  let k := d.core c
  match mget? k.l1 i with
  | none => d
  | some f =>
    let b : EvictBuf := { EvictBuf.reset with line := f.line, st := f.st, dirty := f.dirty, data := f.data, poison := f.poison,
                                              berth := f.berth, key := f.key, mtype := if f.mirror = 0 then 0 else 3, mirror := f.mirror }
    let k := { k with l1 := mdel k.l1 i, evict := k.evict ++ [b] }
    let p := { putPkt d f.line c f.st f.dirty f.data f.poison with
      dst := d.id, tgt := 512 + d.lineSlice f.line, berth := f.berth, key := f.key, mtype := if f.mirror = 0 then 0 else 3, mirror := f.mirror }
    (d.setCore c k).send p

/-- Put a line into an L1: an invalid enabled way first, else the one that pseudo-LRU selects, which is evicted. -/
def Dev.l1Insert (d : Dev) (c : Nat) (f : L1Line) : Dev :=
  let k := d.core c
  let set := l1Set f.line
  let ok := fun w => !k.l1Off.contains (8 * (set / 16) + w)
  let free := (List.range 8).find? fun w => ok w && !mhas k.l1 (8 * set + w)
  let w := free.getD (plruVictim 3 1 (mget 0 k.l1Plru set) 0 ok)
  let d := if mhas k.l1 (8 * set + w) then d.l1Evict c (8 * set + w) else d
  d.updCore c fun k => ({ k with l1 := mput k.l1 (8 * set + w) f }).l1Touch (8 * set + w)

/-- The outstanding transaction of a core on a line. -/
def Core.mshrOf (k : Core) (line : Nat) : Option (Nat × Mshr) :=
  k.mshrs.find? fun e => e.2.line == line && (e.2.kind == .getS || e.2.kind == .getM)

/-- The lines in disabled units of an L1 leave as its eviction buffer takes them (R219, R242). -/
def Dev.clearL1Units (d : Dev) (c : Nat) : Dev :=
  let co := d.core c
  (co.l1.filter fun e => co.l1Off.contains (8 * (e.1 / 8 / 16) + e.1 % 8)).foldl (fun d e =>
    if (d.core c).evict.length < 8 ∧ (co.mshrOf e.2.line).isNone then d.l1Evict c e.1 else d) d

/-- An error met in an L1 (R217 to R219): logged, counted, the unit disabled when it qualifies, its lines sent back. -/
def Dev.l1UnitErr (k : Clock) (c i : Nat) (unc : Bool) (line : Nat) (d : Dev) : Dev :=
  let unit := 8 * (i / 8 / 16) + i % 8
  let rec' := fun cls code detail => { ErlRec.reset with
    cls := cls, src := 0x03, code := code, unit := c, addr := BitVec.ofNat 64 (line % 2 ^ 38 * 128), detail := detail }
  let d := logErr k (rec' (if unc then 2 else 1) (if unc then 0x02 else 0x01) (if unc then 0 else 1)) d
  let co := d.core c
  let (q, errs) := noteUnitErr (gtime k d) co.l1Errs unit unc
  let d := d.setCore c { co with l1Errs := errs }
  let detail := unit / 8 * 16 + unit % 8
  if !q || co.l1Off.contains unit then d
  else if (co.l1Off.filter fun u => u / 8 == unit / 8).length < 2 then
    let d := (d.updCore c fun k => { k with l1Off := k.l1Off ++ [unit] }).clearL1Units c
    let d := { d with healthDue := d.healthDue ++ [(256 + c, unit)] }
    let d := logErr k (rec' 1 0x03 detail) d
    let n := (d.core c).l1Off.length
    if n = 5 then logErr k (rec' 1 0x05 n) d else d
  else
    let d := d.updCore c fun k => { k with l1Refused := true }
    let d := logErr k (rec' 1 0x04 detail) d
    if co.l1Refused || decide (4 < co.l1Off.length) then d else logErr k (rec' 1 0x05 co.l1Off.length) d

/-- Place a new entry in its directory set; when all 16 ways are valid, the one that pseudo-LRU selects is recalled, of
those whose line no request of this slice or of its atomic unit is out for. None while the recall buffer is full (R234, R247).
(DESIGN CHOICE, assumption 148.) -/
def Dev.dirAlloc (d : Dev) (n : Nat) (e : DirEntry) : Option Dev :=
  let sl := d.slice n
  let set := d.setOfLine e.line % 512
  let free := (List.range 16).find? fun w => !mhas sl.dir (16 * set + w)
  match free with
  | some w => some (d.setSlice n { sl with
      dir := mput sl.dir (16 * set + w) e, dirPlru := mput sl.dirPlru set (plruTouch 4 1 (mget 0 sl.dirPlru set) w) })
  | none =>
    if 16 ≤ sl.recalls.length then none
    else
      let ok := fun w => match mget? sl.dir (16 * set + w) with
        | some o => o.owner != ownAtom && !(sl.far.any fun r => r.line == o.line)
        | none => false
      let w := plruVictim 4 1 (mget 0 sl.dirPlru set) 0 ok
      match mget? sl.dir (16 * set + w) with
      | none => none
      | some old =>
        if !ok w then none
        else
        let d := (d.startRecall n old old.far none).bump (83 + 2 * (n / 32)) 1
        some (d.updSlice n fun sl => { sl with
          dir := mput sl.dir (16 * set + w) e, dirPlru := mput sl.dirPlru set (plruTouch 4 1 (mget 0 sl.dirPlru set) w) })

/-- Store an entry, allocating it if the line has none. None when the allocation must wait. -/
def Dev.dirSet (d : Dev) (n : Nat) (e : DirEntry) : Option Dev :=
  let sl := d.slice n
  match sl.dirOf e.line with
  | some _ => some (d.setSlice n (sl.dirPut e))
  | none => if (!e.far && e.st == .uncached) then some d else d.dirAlloc n e

/-! ### Drawing a line from local holders -/

/-- Whether some core of this device awaits an answer for a line. -/
def Dev.lineUnsettled (d : Dev) (line : Nat) : Bool := d.cores.any fun e => (e.2.mshrOf line).isSome

/-- The cores that hold a line, in L1 or in their eviction buffer. -/
def Dev.localHolders (d : Dev) (line : Nat) : List Nat :=
  d.cores.filterMap fun e =>
    if (e.2.l1Find line).isSome || e.2.evict.any (fun b => b.line == line && b.st != .i) then some e.1 else none

/-- The copy of a line that a core holds: state, dirty sectors, data, poison. -/
def Core.copyOf (k : Core) (line : Nat) : Option (LState × BitVec 4 × Line × BitVec 16) :=
  match (k.l1Find line).bind fun i => mget? k.l1 i with
  | some f => some (f.st, f.dirty, f.data, f.poison)
  | none => (k.evict.find? fun b => b.line == line && b.st != .i).map fun b => (b.st, b.dirty, b.data, b.poison)

/-- Set the state of a core's copy of a line, in L1 or in the eviction buffer; `clean` drops its dirty bits. -/
def Core.setCopy (k : Core) (line : Nat) (st : LState) (clean : Bool) : Core :=
  match (k.l1Find line).bind fun i => (mget? k.l1 i).map fun f => (i, f) with
  | some (i, f) => if st = .i then { k with l1 := mdel k.l1 i }
      else { k with l1 := mput k.l1 i { f with st := st, dirty := if clean then 0 else f.dirty } }
  | none => { k with evict := k.evict.map fun b => if b.line = line then { b with st := st, dirty := if clean then 0 else b.dirty } else b }

/-- Store whole sectors that a holder gives up into the slice's frame of the line (R212, R241). -/
def Dev.frameSectors (d : Dev) (k : Clock) (n line berth key mtype mirror : Nat) (secs : BitVec 4) (data : Line) (poison : BitVec 16) : Dev :=
  if secs = 0 then d
  else if d.isHome line then d.sliceWrite k n line berth key mtype mirror (sectorBytes secs) data poison
  else
    let (hit, d) := d.sliceFind k n line
    match hit with
    | some f => d.putFrame n { f with data := lineMerge (sectorBytes secs) data f.data, poison := mergePoison (sectorBytes secs) poison f.poison
                                      valid := f.valid ||| secs, dirty := f.dirty ||| secs }
    | none => d.insertFrame k n { SLine.reset with
        line := line, data := data, poison := poison, valid := 0xF#4, dirty := secs, berth := berth, key := key, mtype := mtype, mirror := mirror } false

/-- Draw a line from this device's L1s into the slice's frame: dirty sectors are written there; the copies become I, or
S when `keep`. (DESIGN CHOICE, assumption 25.) -/
def Dev.drawLocal (d : Dev) (k : Clock) (n line : Nat) (keep : Bool) : Dev :=
  (d.localHolders line).foldl (fun d c =>
    match (d.core c).copyOf line with
    | none => d
    | some (_, dirty, data, poison) =>
      let i := ((d.core c).l1Find line).bind fun i => mget? (d.core c).l1 i
      let d := d.frameSectors k n line (i.elim 0 L1Line.berth) (i.elim 0 L1Line.key) (i.elim 0 fun f => if f.mirror = 0 then 0 else 3) (i.elim 0 L1Line.mirror) dirty data poison
      d.updCore c fun co => co.setCopy line (if keep then .s else .i) true) d

/-- Obtain a line of own HBM for a device-internal agent, as the atomic unit does (R253, R278): true with the device after
its local holders gave it up, when no holder is elsewhere and nothing is on its way; false with a recall begun, or with
nothing changed while one runs. -/
def Dev.obtain (d : Dev) (k : Clock) (n line : Nat) : Bool × Dev :=
  let sl := d.slice n
  if sl.recalls.any (fun r => r.ent.line == line) || sl.atoms.any (fun a => a.line == line) then (false, d)
  else
    match sl.dirOf line with
    | none => (true, d)
    | some e =>
      let remote := 2 ≤ e.owner / 4096 || e.sharers.any (fun x => decide (4096 ≤ x)) || e.devGroups != 0
      if remote || d.lineUnsettled line then
        if sl.recalls.length < 16 && !d.lineUnsettled line then (false, d.startRecall n e false none) else (false, d)
      else
        let d := d.drawLocal k n line false
        (true, d.updSlice n fun s => { s with dir := s.dir.filter fun f => f.2.line != line })

/-! ### Reads and writes by the device's own engines -/

/-- A byte of own HBM as a coherent read finds it: an owner's L1 copy, the frame, the victim cache, the write-combining
buffer, or HBM. -/
def Dev.peekByte (d : Dev) (key a : Nat) : Byte :=
  let line := 2 ^ 38 * d.id + a / 128
  let n := d.lineSlice line
  let sl := d.slice n
  let i := a % 128
  let own := d.cores.findSome? fun e =>
    match e.2.copyOf line with
    | some (st, _, data, _) => if st = .m ∨ st = .o then some data else none
    | none => none
  let fr := sl.lineOf (d.setOfLine line) line
  match own with
  | some data => lineByte data i
  | none =>
    match fr.bind fun f => if f.valid.getLsbD (i / 32) then some f else none with
    | some f => lineByte f.data i
    | none =>
      match sl.wcb.find? fun e => e.line == line && e.mask.getLsbD i with
      | some e => lineByte e.data i
      | none => d.hbmByte key a

/-- Whether a coherent read of a byte finds poison. -/
def Dev.peekPoison (d : Dev) (a : Nat) : Bool :=
  let line := 2 ^ 38 * d.id + a / 128
  let sl := d.slice (d.lineSlice line)
  let i := a % 128
  let own := d.cores.findSome? fun e =>
    match e.2.copyOf line with
    | some (st, _, _, p) => if st = .m ∨ st = .o then some p else none
    | none => none
  let fr := sl.lineOf (d.setOfLine line) line
  match own with
  | some p => p.getLsbD (i / 8)
  | none =>
    match fr.bind fun f => if f.valid.getLsbD (i / 32) then some f else none with
    | some f => f.poison.getLsbD (i / 8)
    | none => d.sectorPoison (a / 32)

/-- `len` bytes of own HBM from an address, as a number (R7). -/
def Dev.peek (d : Dev) (key a len : Nat) : Nat := natOf ((List.range len).map fun i => d.peekByte key (a + i))

/-- Write bytes into own HBM coherently, line by line, as a device-internal agent's whole record (R241, R278). -/
def Dev.poke (d : Dev) (k : Clock) (berth a : Nat) (bs : List Byte) : Dev :=
  let first := a / 128
  let lines := if bs.isEmpty then [] else (List.range ((a + bs.length - 1) / 128 - first + 1)).map fun i => first + i
  lines.foldl (fun d ln =>
    let line := 2 ^ 38 * d.id + ln
    let n := d.lineSlice line
    let d := (d.obtain k n line).2
    let lo := if ln * 128 < a then a - ln * 128 else 0
    let hi := min 128 (a + bs.length - ln * 128)
    let part := (bs.drop (ln * 128 + lo - a)).take (hi - lo)
    d.sliceWrite k n line berth 0 0 0 (spanMask lo (hi - lo)) (lineSet 0 lo (hi - lo) (natOf part)) 0) d

end Sys2Proof.Machine
end

