-- ==== Sys2Proof/Machine/HostKeys.lean ====
section
/-! DEFINITION. The Olvis-E header and op header as bytes (R8, R335, R336), and the keys of a session (R339). -/

namespace Sys2Proof.Machine

/-- A number as `n` bytes in network order (R8). -/
def netBytes (n v : Nat) : List Byte := (bytesOf n v).reverse

/-- The 32-byte header of an Olvis-E packet whose payload has `len` bytes (R335). -/
def hostHeader (p : HostPkt) (len : Nat) : List Byte :=
  netBytes 1 1 ++ netBytes 1 p.typ ++ netBytes 2 (b2n p.reliable + 2 * b2n p.ackValid) ++ netBytes 2 p.session ++ netBytes 2 len ++
    netBytes 8 p.seq ++ netBytes 4 p.rseq ++ netBytes 4 p.ack ++ netBytes 8 p.sack.toNat

/-- The 32-byte op header (R336). -/
def opHeader (o : OpHdr) : List Byte :=
  netBytes 1 o.op ++ netBytes 1 o.status ++ netBytes 1 (b2n o.fence) ++ netBytes 1 o.berth ++ netBytes 2 o.device ++ netBytes 2 o.obj ++
    netBytes 1 o.form ++ netBytes 3 0 ++ netBytes 4 o.tag.toNat ++ netBytes 8 o.addr ++ netBytes 4 o.bytes ++ netBytes 4 o.pmap

/-- Bytes of the poison map of a number of data bytes (R336). -/
def poisonMapLen (bytes : Nat) : Nat := ceilDiv (ceilDiv bytes 8) 8

/-- The payload of JOIN (R339): identity key, X25519 key, nonce, berth mask. -/
def joinBytes (p : HostPkt) : List Byte := bytesOf 32 p.key.toNat ++ bytesOf 32 p.xkey.toNat ++ bytesOf 32 p.nonce.toNat ++ netBytes 4 p.mask.toNat

/-- The payload of JOIN_ACCEPT up to its signature (R339). -/
def acceptBytes (p : HostPkt) : List Byte := netBytes 2 p.session ++ bytesOf 32 p.xkey.toNat ++ bytesOf 32 p.nonce.toNat ++ netBytes 4 p.mask.toNat

/-- T (R339): SHA-512 of JOIN and of JOIN_ACCEPT up to the signature. (DESIGN CHOICE, assumption 12.) -/
def joinTranscript (join accept : HostPkt) : BitVec 512 :=
  Config.sha512Bytes (hostHeader join 100 ++ joinBytes join ++ hostHeader accept 162 ++ acceptBytes accept)

/-- The keys and IV prefixes of a session (R339): `wharf` says which side this is. -/
def Session.deriveKeys (s : Session) (wharf : Bool) (t : BitVec 512) : Session :=
  let okm := Config.hkdf (Config.x25519 s.xpriv s.peerX) t
  let toWharf := (okm.extractLsb' 0 256, okm.extractLsb' 512 32)
  let toHost := (okm.extractLsb' 256 256, okm.extractLsb' 544 32)
  let rx := if wharf then toWharf else toHost
  let tx := if wharf then toHost else toWharf
  { s with transcript := t, xpriv := 0, rxKey := rx.1, rxIv := rx.2, txKey := tx.1, txIv := tx.2 }

end Sys2Proof.Machine
end

