-- ==== Sys2Proof/Machine/Events.lean ====
section
/-! DEFINITION. What the device reports: packets to hosts (R335, R342), event rings and their records (R371, R410, R411), records
held for sessions (R349 to R352), notices (R474), ledger records (R497 to R499), fault records (R70, R284) and the fault
queue (R286, R287), and the parking of a group (R68 to R73). -/

namespace Sys2Proof.Machine

/-! ### Packets to hosts and appliances -/

/-- Largest number of data bytes of a packet at a frame size (R337). -/
def packetLimit (f : Nat) : Nat :=
  (((List.range 33).map fun i => 256 * i).filter fun n => decide (n + n / 64 + 150 ≤ f)).foldl max 0

/-- Whether a session is a Storage session. -/
def isStorage (n : Nat) : Bool := decide (256 ≤ n)

/-- Whether 4,096 reliable packets, counted from the oldest unacknowledged, are out (R342). -/
def Session.windowFull (s : Session) : Bool :=
  match s.unacked with
  | [] => false
  | u :: _ => decide (4096 ≤ (s.txRseq + 2 ^ 32 - u.rseq) % 2 ^ 32)

/-- Put a packet of a session on its port (R335): it takes the next seq, its GCM nonce is the IV prefix and the seq (R339), and a session that would send seq 2^63 is marked (R339). -/
def Dev.hostOut (d : Dev) (n : Nat) (p : HostPkt) : Dev :=
  let s := d.session n
  if 2 ^ 63 ≤ s.txSeq then d.updSession n fun s => { s with spent := true }
  else
    let p := { p with
      session := if isStorage n then 0 else n, port := s.port, addr := s.addr, sport := s.sport, seq := s.txSeq
      ackValid := true, ack := s.rxRseq, iv := s.txIv ++ BitVec.ofNat 64 s.txSeq
      sack := s.staged.foldl (fun (m : BitVec 64) o =>
        let i := (o.rseq + 2 ^ 32 - s.rxRseq - 1) % 2 ^ 32
        if i < 64 then m ||| (1#64 <<< i) else m) 0 }
    let d := d.updSession n fun s => { s with txSeq := s.txSeq + 1 }
    { d with whf := { d.whf with out := d.whf.out ++ [p] } }

/-- Send a packet of a session (R342): a reliable one takes the next rseq and a place among the unacknowledged, or waits while the
window is full. -/
def Dev.hostSend (d : Dev) (k : Clock) (n : Nat) (reliable : Bool) (p : HostPkt) : Dev :=
  let s := d.session n
  if !reliable then d.hostOut n { p with reliable := false, rseq := 0 }
  else if s.windowFull || !s.waitq.isEmpty || s.st == .moored then d.updSession n fun s => { s with waitq := s.waitq ++ [p] }
  else
    let p := { p with reliable := true, rseq := s.txRseq }
    let d := d.updSession n fun s => { s with
      txRseq := (s.txRseq + 1) % 2 ^ 32, unacked := s.unacked ++ [{ Unacked.reset with rseq := p.rseq, pkt := p, sentAt := k.tsc }] }
    d.hostOut n p

/-- D of the port that carries a session (R337). -/
def Dev.sessLimit (d : Dev) (n : Nat) : Nat := packetLimit (mget NetPort.reset d.whf.netPorts (d.session n).port).frame

/-- Most entries of an EVENT of a session (R350). -/
def Dev.eventMax (d : Dev) (n : Nat) : Nat := d.sessLimit n / 72

/-- Entry of a held record. -/
def entryOf (h : HeldRec) : EventEntry := { EventEntry.reset with dev := h.dev, berth := h.berth, ring := h.ring, index := h.index, recd := h.bytes }

/-- Send an EVENT with the records held for a session and berth, as many as it carries (R350, R351).
(DESIGN CHOICE, assumption 127.) -/
def Dev.sendEvent (d : Dev) (k : Clock) (n b : Nat) : Dev :=
  let s := d.session n
  let mine := (s.held.filter fun h => h.berth == b).take (d.eventMax n)
  if mine.isEmpty || s.windowFull || !s.waitq.isEmpty then d
  else
    let d := d.hostSend k n true { HostPkt.reset with typ := 0x12, events := mine.map entryOf }
    d.updSession n fun s => { s with held := s.held.filter fun h => !mine.contains h }

/-- A gap entry: the ring's prefix with the first index missed, and a record of byte 0xFF and the last index missed (R352). -/
def gapRecord (dev b ring first last : Nat) (t : Nat) : HeldRec :=
  { HeldRec.reset with dev := dev, berth := b, ring := ring, index := first, gap := true, heldAt := t
                       bytes := BitVec.ofNat 512 (0xFF + 2 ^ 32 * last) }

/-- Records that the wharf holds for a session, those that wait for window space among them (R352). -/
def Session.heldCount (s : Session) : Nat := s.held.length + sumNat (s.waitq.map fun p => p.events.length)

/-- Put gap entries where space is free (R352). -/
def Dev.fillGaps (d : Dev) (k : Clock) (n : Nat) : Dev :=
  let s := d.session n
  let room := s.gapFrom.take (1024 - s.heldCount)
  if room.isEmpty then d
  else d.updSession n fun s => { s with
    gapFrom := s.gapFrom.drop room.length
    held := s.held ++ room.map fun g => gapRecord (g.1 / 512) (g.1 / 16 % 32) (g.1 % 16) g.2.1 g.2.2 k.tsc }

/-- Hold a record of a ring of device `v` for a session that subscribes to it, or send it at once when it is urgent (R351); a full hold
remembers the gap (R352). -/
def Dev.holdFor (d : Dev) (k : Clock) (v n b ring index : Nat) (bytes : BitVec 512) (urgent : Bool) : Dev :=
  let h : HeldRec := { HeldRec.reset with dev := v, berth := b, ring := ring, index := index, bytes := bytes, heldAt := k.tsc }
  let s := d.session n
  let key := (v * 32 + b) * 16 + ring
  let full := decide (1024 ≤ s.heldCount)
  if urgent && !(full && (s.windowFull || !s.waitq.isEmpty)) then
    d.hostSend k n true { HostPkt.reset with typ := 0x12, events := [entryOf h] }
  else
    match s.gapFrom.find? fun g => g.1 == key with
    | some g => d.updSession n fun s => { s with gapFrom := s.gapFrom.map fun x => if x.1 = key then (key, g.2.1, index) else x }
    | none =>
      if full then d.updSession n fun s => { s with gapFrom := s.gapFrom ++ [(key, index, index)] }
      else
        let d := d.updSession n fun s => { s with held := s.held ++ [h] }
        if d.eventMax n ≤ ((d.session n).held.filter fun h => h.berth == b).length then (d.sendEvent k n b).fillGaps k n else d

/-! ### Event rings (R371, R410, R411) -/

/-- A 64-byte record from fields (low bit, width, value). -/
def record64 (fs : List (Nat × Nat × Nat)) : BitVec 512 := BitVec.ofNat 512 (packBits fs)

/-- The layout of R371: kind, status, opcode, class byte, context, queue, sequence, result, time, begin time. -/
def eventRec (kind status opcode cls ctx queue seq result time begin : Nat) : BitVec 512 :=
  record64 [(0, 8, kind), (8, 8, status), (16, 8, opcode), (24, 8, cls), (32, 16, ctx), (48, 16, queue), (64, 32, seq),
            (128, 64, result), (192, 64, time), (256, 64, begin)]

/-- A berth's ring. -/
def Dev.ring (d : Dev) (b r : Nat) : Ring := mget Ring.reset (d.berth b).rings r

/-- Change a berth's ring. -/
def Dev.updRing (d : Dev) (b r : Nat) (f : Ring → Ring) : Dev :=
  d.updBerth b fun x => { x with rings := mput x.rings r (f (mget Ring.reset x.rings r)) }

/-- Whether a ring is full (R411). -/
def Ring.full (x : Ring) : Bool := decide (2 ^ x.sizeLog2 ≤ (x.prod - x.cons).toNat)

/-- Hold a record for every Active session that subscribes to its ring (R349). -/
def Dev.deliverRecord (d : Dev) (k : Clock) (v b r i : Nat) (bytes : BitVec 512) (urgent : Bool) : Dev :=
  let subs := d.whf.sessions.filterMap fun e =>
    if e.2.st = .active ∧ e.2.subs.contains (v, b, r) = true then some e.1 else none
  subs.foldl (fun d n => d.holdFor k v n b r i bytes urgent) d

/-- Write a record to a ring that has room, and hand copies to the sessions that subscribe to it, or to the wharf that does (R349): a
management write with `aop` 7 carries the copy. (DESIGN CHOICE, assumption 127.) -/
def Dev.placeRecord (d : Dev) (k : Clock) (b r : Nat) (bytes : BitVec 512) (urgent : Bool) : Dev :=
  let x := d.ring b r
  let i := x.prod.toNat
  let d := d.poke k b (x.base + 64 * (i % 2 ^ x.sizeLog2)) (bytesOf 64 bytes.toNat)
  let d := d.updRing b r fun x => { x with prod := x.prod + 1 }
  let d := d.deliverRecord k d.id b r i bytes urgent
  (d.whf.mySubs.filter fun x => x.2 == (b, r)).foldl (fun d x => d.mgmtSend { Packet.reset with
    op := .mgmtWrite, dst := x.1, tgt := 708, agent := 704, aop := 7, berth := b, no := r, off := i, cnt := b2n urgent
    data := (List.range 8).map fun w => bytes.extractLsb' (64 * w) 64 }) d

/-- Write a record that belongs to no command (R410, R411): lost and counted when its ring is full, and counted in ring 0
when the ring is not enabled. Nothing is written while the berth is Resetting (R413). -/
def Dev.writeRing (d : Dev) (k : Clock) (b r : Nat) (bytes : BitVec 512) (urgent : Bool) : Dev :=
  let x := d.ring b r
  if (d.berth b).st = .resetting then d
  else if !x.enable then d.updRing b 0 fun x => { x with lost := satAdd (2 ^ 32 - 1) x.lost 1 }
  else if x.full then d.updRing b r fun x => { x with lost := satAdd (2 ^ 32 - 1) x.lost 1 }
  else d.placeRecord k b r bytes urgent

/-- The notice of a record (R474). -/
def noticeRec (n : Nat) (r : ErlRec) : BitVec 512 :=
  record64 [(0, 8, 0x26), (8, 8, r.cls), (16, 8, r.code), (24, 8, 1), (32, 16, r.berth), (128, 64, n), (192, 64, r.time)]

/-- Owner berth of a key (R474, R439). -/
def Dev.keyOwner (d : Dev) (id : Nat) : Nat := if id < 32 then id else (mget SharedKey.reset d.ctl.shared (id - 32)).owner

/-- Write the notices that are due (R474). -/
def Dev.flushNotices (d : Dev) (k : Clock) : Dev :=
  let ns := d.notices
  ns.foldl (fun d e =>
    let d := d.writeRing k 0 0 (noticeRec e.1 e.2.2) false
    if (e.2.2.code == 0x09 || e.2.2.code == 0x0A) && e.2.1 != 0 then d.writeRing k e.2.1 0 (noticeRec e.1 e.2.2) false
    else d) { d with notices := [] }

/-! ### Ledger records (R497 to R499) -/

/-- Agent word of a group (R498). -/
def awGroup (c s b lane : Nat) : BitVec 32 := BitVec.ofNat 32 (packBits [(29, 3, 1), (0, 9, c), (9, 6, s), (15, 5, b), (20, 5, lane)])
/-- Agent word of a queue. -/
def awQueue (q : Nat) : BitVec 32 := BitVec.ofNat 32 (2 ^ 30 + q)
/-- Agent word of a stream. -/
def awStream (n : Nat) : BitVec 32 := BitVec.ofNat 32 (3 * 2 ^ 29 + n)
/-- Agent word of a host session. -/
def awHost (n : Nat) : BitVec 32 := BitVec.ofNat 32 (4 * 2 ^ 29 + n)
/-- Agent word of the Lockkeeper. -/
def awLkp : BitVec 32 := BitVec.ofNat 32 (5 * 2 ^ 29)
/-- Agent word of a source of records: a core, a command processor or a barge group. -/
def awSource (n : Nat) : BitVec 32 := if n < 512 then BitVec.ofNat 32 (6 * 2 ^ 29 + n) else BitVec.ofNat 32 (7 * 2 ^ 29 + (n - 512))

/-- Make a ledger record at a source (R497, R499): only while the ledger is enabled, the context is recorded and its
berth is not Resetting. A full buffer drops and counts; the next record is preceded by a GAP. Answers whether a record
was made. -/
def Dev.ledger (d : Dev) (k : Clock) (src x kind : Nat) (waiter : BitVec 32) (obj : BitVec 64) (rel : BitVec 32) (relDev detail : Nat)
    (cross : Bool) (mark : Option (Nat × Nat)) : Dev :=
  let cx := d.ctx x
  if !d.ldg.enable || !cx.ledger || (d.berth cx.berth).st == .resetting then d
  else
    let buf := mget LdgBuf.reset d.ldg.bufs src
    let cap := if src < 512 then 32 else 64
    let r : LdgRec := { LdgRec.reset with
      time := gtime k d, kind := kind, flags := b2n cross + 2 * b2n (!d.tim.valid), ctx := x, waiter := waiter, obj := obj
      rel := rel, relDev := relDev, detail := detail, queue := mark, berth := cx.berth }
    let gap : List LdgRec := if buf.dropped = 0 then []
      else [{ LdgRec.reset with time := buf.dropAt, kind := 0x0F, waiter := awSource src, obj := BitVec.ofNat 64 buf.dropped, berth := cx.berth }]
    let buf := if buf.recs.length + gap.length < cap then { recs := buf.recs ++ gap ++ [r], dropped := 0, dropAt := 0 }
      else { buf with dropped := buf.dropped + 1, dropAt := if buf.dropped = 0 then gtime k d else buf.dropAt }
    { d with ldg := { d.ldg with bufs := mput d.ldg.bufs src buf } }

/-- Source of a queue's ledger records: its command processor (R17, R498). -/
def cpSource (q : Nat) : Nat := 512 + q % 2
/-- Source of a stream's ledger records: its barge-engine group (R17). -/
def bargeSource (n : Nat) : Nat := 514 + n / 64 / 16

/-! ### Fault records and the fault queue (R70, R284, R286, R287) -/

/-- Fault record of a parked group (R70). -/
def groupFault (d : Dev) (c s : Nat) : BitVec 512 :=
  let g := d.group c s
  let b := (d.core c).block g.block
  let p := g.park.getD ParkInfo.reset
  record64 [(0, 8, 1), (8, 8, p.code), (16, 16, p.tag), (32, 16, b.ctx), (48, 9, c), (57, 6, s), (63, 1, b2n p.pend), (64, 5, g.block),
    (80, 12, b.queue), (96, 32, b.seq.toNat), (128, 56, p.pc.toNat), (192, 32, p.completed.toNat), (224, 32, p.active.toNat),
    (256, 64, p.addr.toNat), (320, 32, p.detail), (352, 64, p.time)]

/-- Fault record of a stream (R284). -/
def streamFault (d : Dev) (n : Nat) : BitVec 512 :=
  let x := d.stream n
  let f := x.fault.getD SFault.reset
  record64 [(0, 8, 2), (8, 8, f.code), (16, 16, f.tag), (32, 16, x.ctx), (48, 12, n), (60, 1, b2n f.write), (61, 2, f.residency),
    (63, 1, b2n f.pend), (64, 12, x.queue), (80, 16, f.epoch), (96, 32, x.seq.toNat), (128, 32, f.desc), (160, 32, f.detail),
    (192, 64, f.va), (256, 64, 65536 * (f.va / 65536)), (320, 64, f.progress), (384, 64, f.time)]

/-- Whether a fault queue is full (R286). -/
def Berth.fqFull (b : Berth) : Bool := decide (2 ^ b.fqSize ≤ (b.fqProd - b.fqCons).toNat)

/-- Place a fault record in a berth's fault queue and its copy on ring 0 (R70, R284, R286, R371). -/
def Dev.placeFault (d : Dev) (k : Clock) (b : Nat) (bytes : BitVec 512) : Dev :=
  let x := d.berth b
  let d := d.poke k b (x.fqBase + 64 * (x.fqProd.toNat % 2 ^ x.fqSize)) (bytesOf 64 bytes.toNat)
  let d := d.updBerth b fun x => { x with fqProd := x.fqProd + 1 }
  d.writeRing k b 0 bytes false

/-- Whether a berth has a Pending record: of a stream, or of a group (R73, R287). -/
def Dev.hasPending (d : Dev) (b : Nat) : Bool :=
  (d.ctl.streams.any fun e => e.2.berth == b && e.2.fault.any fun f => f.pend) ||
  (d.cores.any fun e => e.2.groups.any fun g => g.2.st == .parked && g.2.park.any (fun p => p.pend) && (e.2.block g.2.block).berth == b)

/-- FAULT_OVERFLOW (R287): overflow sets, and an Urgent event goes to ring 0. -/
def Dev.raiseOverflow (d : Dev) (k : Clock) (b x : Nat) : Dev :=
  let d := d.updBerth b fun v => { v with overflow := true }
  d.writeRing k b 0 (eventRec 0x12 0 0 0 x 0 0 0 (gtime k d) 0) true

/-- Park a group (R68 to R70, R73): its record is posted, or held Pending when the fault queue is full. -/
def Dev.parkGroup (d : Dev) (k : Clock) (c s code : Nat) (pc : BitVec 64) (addr detail : Nat) (completed active : BitVec 32) : Dev :=
  let g := d.group c s
  let b := ((d.core c).block g.block).berth
  let x := ((d.core c).block g.block).ctx
  let full := (d.berth b).fqFull
  let first := !d.hasPending b
  let d := d.updBank ((d.core c).block g.block).queue fun v => { v with faults := v.faults + 1 }
  let info : ParkInfo := { ParkInfo.reset with
    code := code, tag := g.parks % 65536, pc := pc, completed := completed, active := active
    addr := BitVec.ofNat 64 addr, detail := detail, time := gtime k d, pend := full, resume := g.resume }
  let d := d.updCore c fun co => { co.setGroup s { g with
    st := .parked, park := some info, parks := g.parks + 1, pc := pc, active := active
    heldSince := none, bwHold := none, walkVa := none, fetching := none, replay := none } with walks := co.walks.filter fun w => w.who != s }
  if full then (if first then d.raiseOverflow k b x else d)
  else d.placeFault k b (groupFault d c s)

/-- Candidates for posting, in the cyclic order of R287: streams, then core group slots. (DEDUCED, assumption 130.) -/
def Dev.pendings (d : Dev) (b : Nat) : List Nat :=
  (d.ctl.streams.filterMap fun e => if e.2.berth = b ∧ e.2.fault.any (fun f => f.pend) = true then some e.1 else none) ++
  (d.cores.flatMap fun e => e.2.groups.filterMap fun g =>
    if g.2.st = .parked ∧ g.2.park.any (fun p => p.pend) = true ∧ (e.2.block g.2.block).berth = b then some (4096 + 64 * e.1 + g.1) else none)

/-- Post one Pending record of a berth, with pending_posted set (R73, R287). -/
def Dev.postPending (d : Dev) (k : Clock) (b n : Nat) : Dev :=
  let d := d.updBerth b fun x => { x with pendNext := n + 1 }
  if n < 4096 then
    let d := d.placeFault k b (streamFault d n)
    let d := d.updBank (d.stream n).queue fun v => { v with faults := v.faults + 1 }
    d.updStream n fun x => { x with st := .faulted, fault := x.fault.map fun f => { f with pend := false } }
  else
    let c := (n - 4096) / 64
    let s := (n - 4096) % 64
    let d := d.placeFault k b (groupFault d c s)
    d.updGroup c s fun g => { g with park := g.park.map fun p => { p with pend := false } }

/-- Post Pending records while the fault queue has room, at most `fuel` of them (R287). -/
def Dev.postPendings (k : Clock) (b : Nat) : Nat → Dev → Dev
  | 0, d => d
  | n + 1, d =>
    let ps := d.pendings b
    let from' := (d.berth b).pendNext
    if (d.berth b).fqFull then d
    else
      match (ps.filter fun p => decide (from' ≤ p)).head?.or ps.head? with
      | none => d.updBerth b fun x => { x with overflow := false }
      | some p => Dev.postPendings k b n (d.postPending k b p)

/-- overflow clears once no record of the berth is Pending (R287). -/
def Dev.settleOverflow (d : Dev) (b : Nat) : Dev :=
  if (d.berth b).overflow && !d.hasPending b then d.updBerth b fun x => { x with overflow := false } else d

/-- Taint a line (R478): the record of code 0x0A, and an entry of the taint list unless it is full. `id` is the key. -/
def Dev.taintLine (d : Dev) (k : Clock) (n line kidx berth : Nat) (secs : BitVec 4) : Dev :=
  let d := (logErr k { sliceErr n 2 0x05 0x0A (line % 2 ^ 38 * 128) secs.toNat with berth := berth } d).noticeOwner
    (d.keyOwner (keyId berth kidx))
  match d.erl.taint.find? fun t => t.line == line with
  | some t => { d with erl := { d.erl with taint := d.erl.taint.map fun x => if x = t then { x with sectors := x.sectors ||| secs } else x } }
  | none =>
    if d.erl.taint.length < 256 then
      { d with erl := { d.erl with taint := d.erl.taint ++ [{ line := line, key := kidx, sectors := secs }] } }
    else { d with erl := { d.erl with overflow := true } }

end Sys2Proof.Machine
end

