-- ==== Sys2Proof/Machine/Xlate.lean ====
section
/-! DEFINITION. Ranges (R258 to R263): range entries, the walk of a table (R268), range caches (R270), and the checks that a core
access or a barge access meets (R32, R35, R260, R261, R282). -/

namespace Sys2Proof.Machine

/-- Field of a range entry, by bit of the 256 (R259). -/
def reField (e : BitVec 256) (lo len : Nat) : Nat := bitsAt e.toNat lo len
/-- First page. -/
def reStart (e : BitVec 256) : Nat := reField e 0 44
/-- Permission bits: 1 R, 2 W, 4 X, 8 A. -/
def rePerm (e : BitVec 256) : Nat := reField e 44 4
/-- Memory type. -/
def reType (e : BitVec 256) : Nat := reField e 48 2
/-- Residency. -/
def reRes (e : BitVec 256) : Nat := reField e 50 2
/-- Withdrawing. -/
def reWithdrawing (e : BitVec 256) : Bool := reField e 52 1 == 1
/-- Pages. -/
def rePages (e : BitVec 256) : Nat := reField e 64 35 + 1
/-- key_index. -/
def reKey (e : BitVec 256) : Nat := reField e 99 5
/-- mirror_index. -/
def reMirror (e : BitVec 256) : Nat := reField e 104 8
/-- target_kind. -/
def reKind (e : BitVec 256) : Nat := reField e 128 2
/-- Target page: bits [56:12] of the target, or of the offset within a window. -/
def reTarget (e : BitVec 256) : Nat := reField e 140 45
/-- port_device. -/
def rePort (e : BitVec 256) : Nat := reField e 192 12
/-- session. -/
def reSession (e : BitVec 256) : Nat := reField e 204 8
/-- window. -/
def reWindow (e : BitVec 256) : Nat := reField e 212 6

/-- Whether an entry covers a virtual address (R258). -/
def reCovers (e : BitVec 256) (va : Nat) : Bool :=
  decide (reStart e ≤ va / 4096) && decide (va / 4096 < reStart e + rePages e)

/-- Global physical address, or window offset, of a virtual address (R258). -/
def reMap (e : BitVec 256) (va : Nat) : Nat := 4096 * reTarget e + (va - 4096 * reStart e)

/-- Device of a global physical address (R33). -/
def gaDev (ga : Nat) : Nat := ga / 2 ^ 45 % 4096
/-- Local physical address of a global one (R33). -/
def gaLocal (ga : Nat) : Nat := ga % 2 ^ 45
/-- Global line number of a global physical address. (DESIGN CHOICE, assumption 30.) -/
def gaLine (ga : Nat) : Nat := 2 ^ 38 * gaDev ga + gaLocal ga / 128

/-- First address of the local-memory windows (R34). -/
def lmWindow : Nat := 0x100000000000
/-- End of the local-memory windows. -/
def lmWindowEnd : Nat := 0x100040000000
/-- First address of register space (R34). -/
def regSpace : Nat := 0x1F0000000000
/-- End of register space. -/
def regSpaceEnd : Nat := 0x1F0100000000

/-- Whether a local address lies in a local-memory window. -/
def isLmWindow (a : Nat) : Bool := decide (lmWindow ≤ a) && decide (a < lmWindowEnd)
/-- Whether a local address lies in register space. -/
def isRegSpace (a : Nat) : Bool := decide (regSpace ≤ a) && decide (a < regSpaceEnd)

/-! ### Tables and walks (R267, R268) -/

/-- Local address of slot `i` of an image of a context's table (R267). -/
def tableSlot (x : Ctx) (image i : Nat) : Nat := x.area + image * 32 * 2 ^ x.cap + 32 * i

/-- Entry `i` of an image of a context's table. -/
def Dev.imageEntry (d : Dev) (x image i : Nat) : BitVec 256 :=
  let cx := d.ctx x
  BitVec.ofNat 256 (d.peek (keyId cx.berth 0) (tableSlot cx image i) 32)

/-- Entry `i` of the active image of a context's table. -/
def Dev.tableEntry (d : Dev) (x i : Nat) : BitVec 256 := d.imageEntry x (d.ctx x).image i

/-- Whether a probe of slot `i` of an image returns poison. -/
def Dev.tablePoison (d : Dev) (x image i : Nat) : Bool :=
  let a := tableSlot (d.ctx x) image i
  (List.range 4).any fun j => d.peekPoison (a + 8 * j)

/-- The entries of a context's active image, in order. -/
def Dev.table (d : Dev) (x : Nat) : List (BitVec 256) := (List.range (d.ctx x).count).map fun i => d.tableEntry x i

/-- What a walk returns. -/
inductive WalkRes where
  | hit (e : BitVec 256)
  | miss
  | poison
  deriving DecidableEq, Repr

/-- The binary search of R268 over bits c - 1 to 0 of an image of `count` entries, from `pos` with the last candidate. -/
def walkFrom (d : Dev) (x image count page : Nat) : Nat → Nat → Option (BitVec 256) → WalkRes
  | 0, _, cand =>
    match cand with
    | some e => if page < reStart e + rePages e then .hit e else .miss
    | none => .miss
  | b + 1, pos, cand =>
    let i := pos + 2 ^ b - 1
    if i < count then
      if d.tablePoison x image i then .poison
      else
        let e := d.imageEntry x image i
        if reStart e ≤ page then walkFrom d x image count page b (pos + 2 ^ b) (some e)
        else walkFrom d x image count page b pos cand
    else walkFrom d x image count page b pos cand

/-- Walk the active image of a context's table for a virtual address (R268). -/
def Dev.walk (d : Dev) (x va : Nat) : WalkRes := walkFrom d x (d.ctx x).image (d.ctx x).count (va / 4096) (d.ctx x).cap 0 none

/-- What a walk in progress returns: it completes on the image that it began on (R269). An entry that is no longer in the table was
Host, Absent or withdrawing there, and translates nothing (R265). (DEDUCED, assumption 152.) -/
def Dev.walked (d : Dev) (w : Walk) : WalkRes :=
  match w.old with
  | none => d.walk w.ctx w.va
  | some (image, count) =>
    match walkFrom d w.ctx image count (w.va / 4096) (d.ctx w.ctx).cap 0 none with
    | .hit e => if (d.table w.ctx).contains e then .hit e else .miss
    | r => r

/-! ### Walkers (R270, R271) -/

/-- Walks that a core's 8 walkers carry out; the others wait, in arrival order. -/
def Core.inWalk (k : Core) : List Walk := k.walks.take 8

/-- Walks of streams that the 32 walkers of a barge-engine group carry out. -/
def Ctl.inWalk (c : Ctl) (group : Nat) : List Walk := (c.bwalks.filter fun w => w.who / 64 / 16 == group).take 32

/-- Every walk that a walker carries out. -/
def Dev.inWalk (d : Dev) : List Walk := d.cores.flatMap (fun e => e.2.inWalk) ++ (List.range 4).flatMap d.ctl.inWalk

/-- Whether a walk of a context goes on upon an image that is no longer active (R269). -/
def Dev.oldWalks (d : Dev) (x : Nat) : Bool := d.inWalk.any fun w => w.ctx == x && w.old.isSome

/-- Change the walks of a context that walkers carry out. -/
def Dev.updWalks (d : Dev) (x : Nat) (f : Walk → Walk) : Dev :=
  let g := fun (now : List Walk) (l : List Walk) => l.map fun w => if w.ctx = x ∧ now.contains w = true then f w else w
  { d with
    cores := mmap d.cores fun _ k => { k with walks := g k.inWalk k.walks }
    ctl := { d.ctl with bwalks := g ((List.range 4).flatMap d.ctl.inWalk) d.ctl.bwalks } }

/-- The walks of a context in progress as another image becomes active. -/
def Dev.ageWalks (d : Dev) (x : Nat) : Dev :=
  let cx := d.ctx x
  d.updWalks x fun w => { w with old := w.old.or (some (cx.image, cx.count)) }

/-- A walk in progress begins again, on the active image (R290). -/
def Dev.restartWalks (d : Dev) (x : Nat) : Dev := d.updWalks x fun w => { w with old := none }

/-- A stream waits for no walk. -/
def Dev.endStreamWalk (d : Dev) (n : Nat) : Dev := { d with ctl := { d.ctl with bwalks := d.ctl.bwalks.filter fun w => w.who != n } }

/-! ### Range caches (R270) -/

/-- Look an address up in a cache. -/
def xcFind (l : List XCache) (x va : Nat) : Option (BitVec 256) :=
  (l.find? fun e => e.ctx == x && reCovers e.entry va).map XCache.entry

/-- Enter an entry at the front of a cache of `n` entries. -/
def xcPut (l : List XCache) (n x : Nat) (e : BitVec 256) : List XCache :=
  ({ ctx := x, entry := e } :: l.filter fun y => !(y.ctx == x && y.entry == e)).take n

/-- Basin quarter of a core, and of a stream (R270). -/
def coreQuarter (c : Nat) : Nat := c % 32 / 8
/-- Basin quarter of a stream: its barge-engine group. -/
def streamQuarter (n : Nat) : Nat := n / 64 / 16

/-- Enter an entry in a quarter's shared cache. -/
def Dev.quarterPut (d : Dev) (q x : Nat) (e : BitVec 256) : Dev :=
  { d with ctl := { d.ctl with quarter := mput d.ctl.quarter q (xcPut (mget [] d.ctl.quarter q) 16384 x e) } }

/-- Drop a context's cached entries that a predicate names, from every range cache of the device (R266, R290). -/
def Dev.dropXlat (d : Dev) (x : Nat) (p : BitVec 256 → Bool) : Dev :=
  let f := fun (l : List XCache) => l.filter fun e => !(e.ctx == x && p e.entry)
  { d with
    cores := mmap d.cores fun _ k => { k with xlat := f k.xlat, groups := mmap k.groups fun _ g => { g with absent := [] } }
    ctl := { d.ctl with streams := mmap d.ctl.streams fun _ s => { s with xlat := f s.xlat }
                        quarter := mmap d.ctl.quarter fun _ l => f l } }

/-- Translation of a core's address from the caches: the core's own, then its quarter's. -/
def Dev.coreLookup (d : Dev) (c x va : Nat) : Option (BitVec 256) :=
  (xcFind (d.core c).xlat x va).or (xcFind (mget [] d.ctl.quarter (coreQuarter c)) x va)

/-- Translation of a stream's address from the caches. -/
def Dev.streamLookup (d : Dev) (n x va : Nat) : Option (BitVec 256) :=
  (xcFind (d.stream n).xlat x va).or (xcFind (mget [] d.ctl.quarter (streamQuarter n)) x va)

/-- What a core's translation answers. -/
inductive XRes where
  | ok (e : BitVec 256) (ga : Nat)
  | fault (code detail : Nat)
  | wait
  deriving DecidableEq, Repr

/-- Checks of a translated core access that needs permission bit `need` (0 for none): residency and withdrawing (R260,
R261), targets that a core may not reach (R35, R260), permission (R69). -/
def coreCheck (e : BitVec 256) (va need : Nat) : XRes :=
  let ga := reMap e va
  if reWithdrawing e || reRes e != 0 then .fault 1 0
  else if reKind e ≠ 0 ∨ isLmWindow (gaLocal ga) = true ∨ isRegSpace (gaLocal ga) = true then .fault 2 need
  else if need ≠ 0 ∧ rePerm e &&& need = 0 then .fault 2 need
  else .ok e ga

/-- Translate an address for a group of a core (R32, R260, R270). -/
def Dev.coreXlate (d : Dev) (c s va need : Nat) : XRes :=
  let x := ((d.core c).blockOf s).ctx
  if 2 ^ 56 ≤ va then .fault 1 0
  else if (d.group c s).absent.contains (va / 4096) = true then .fault 1 0
  else
    match d.coreLookup c x va with
    | some e => coreCheck e va need
    | none => .wait

/-- Translate an address of a group afresh (R290): as a walk of the active image would (R270). -/
def Dev.coreAfresh (d : Dev) (x va need : Nat) : XRes :=
  match d.walk x va with
  | .hit e => coreCheck e va need
  | _ => .fault 1 0

/-- An access that waits, translated afresh: what it reaches now, or the code and detail of its fault. -/
def Dev.afresh (d : Dev) (x need : Nat) (a : LaneAcc) : Except (Nat × Nat) LaneAcc :=
  match d.coreAfresh x a.va need with
  | .ok e ga => .ok { a with
      ga := ga, mtype := reType e, key := reKey e, mirror := if reType e = 3 then reMirror e else 0, stale := false }
  | .fault code detail => .error (code, detail)
  | .wait => .error (1, 0)

/-- Begin a walk for a group (R271): the group presents nothing until it returns. -/
def Dev.startWalk (d : Dev) (c s va : Nat) : Dev :=
  let x := ((d.core c).blockOf s).ctx
  (d.updCore c fun k => { k with walks := k.walks ++ [{ Walk.reset with ctx := x, va := va, who := s }] }).updGroup c s
    fun g => { g with walkVa := some va }

end Sys2Proof.Machine
end

