-- ==== Sys2Proof/Machine/Groups.lean ====
section
/-! DEFINITION. The end of a group and of a block (R40, R41, R59, R60, R72, R75): barriers that an exit completes, cancellation of
array and bywash work (R139, R179), tile claims that pass on (R116, R117), and the completion of a LAUNCH (R369). -/

namespace Sys2Proof.Machine

/-! ### Commands -/

/-- A command finishes with a status and a result (R369): COMMAND_COMPLETION posts it in its turn. One that has finished
already stays as it is. -/
def Dev.finishCmd (d : Dev) (q n status result : Nat) : Dev :=
  d.updCmd q n fun m => if m.status = none then { m with status := some status, result := BitVec.ofNat 64 result } else m

/-- Word `i` of a command record. -/
def Cmd.word (m : Cmd) (i : Nat) : Nat := (m.q.getD i 0).toNat
/-- Opcode. -/
def Cmd.opcode (m : Cmd) : Nat := bitsAt (m.word 0) 0 8
/-- Context number. -/
def Cmd.ctx (m : Cmd) : Nat := bitsAt (m.word 0) 16 16
/-- Sequence number. -/
def Cmd.seq (m : Cmd) : Nat := bitsAt (m.word 0) 32 32
/-- Service class as written. -/
def Cmd.cls (m : Cmd) : Nat := bitsAt (m.word 1) 0 2
/-- Blocks of a LAUNCH. -/
def Cmd.blocks (m : Cmd) : Nat := bitsAt (m.word 5) 0 32 * bitsAt (m.word 5) 32 16 * bitsAt (m.word 5) 48 16

/-- A LAUNCH completes when its last block has retired (R369, R370): OK, or GROUPS_KILLED when KILL_GROUP ended a group; that of
an aborted context, when the blocks already placed have (R385, R388). -/
def Dev.launchDone (d : Dev) (q n : Nat) : Dev :=
  match d.cmd q n with
  | none => d
  | some m =>
    if m.opcode ≠ 1 then d
    else if (d.ctx m.ctx).st = .aborted then (if m.retired = m.nextBlock then d.finishCmd q n 0x11 m.killed else d)
    else if m.retired = m.blocks then d.finishCmd q n (if m.killed = 0 then 0 else 0x14) m.killed
    else d

/-! ### Tiles -/

/-- Change a tile. -/
def Core.updTile (k : Core) (t : Nat) (f : Tile → Tile) : Core := k.setTile t (f (k.tile t))

/-- The block of the group that has waited longest for a tile, of a block other than `b` (R117): the lower slot wins a tie. -/
def Core.nextClaim (k : Core) (t b : Nat) : Option Nat :=
  let ws := k.tileWait.filter fun w => w.1 == t && (k.group w.2.1).block != b && (k.group w.2.1).st == .running
  let best := ws.foldl (fun (o : Option (Nat × Nat × Nat)) w => match o with
    | none => some w
    | some v => if w.2.2 < v.2.2 ∨ (w.2.2 = v.2.2 ∧ w.2.1 < v.2.1) then some w else some v) none
  best.map fun w => (k.group w.2.1).block

/-- A block's claim on a tile ends (R116), and the block that has waited longest claims it next (R117). -/
def Core.endClaim (k : Core) (t b : Nat) : Core :=
  let x := k.tile t
  if x.claim = some b ∨ x.resv = some b then
    k.setTile t { x with claim := if x.claim = some b then none else x.claim, resv := k.nextClaim t b, issueKind := .unset }
  else k

/-- A group no longer waits for a tile: one that is kept for its block, none of whose groups waits any more, goes to the group of
another block that has waited longest (R114, R117). -/
def Core.leaveTile (k : Core) (s : Nat) : Core :=
  let b := (k.group s).block
  let k := { k with tileWait := k.tileWait.filter fun w => w.2.1 != s }
  [0, 1].foldl (fun k t =>
    if (k.tile t).resv = some b ∧ (k.tileWait.any fun w => w.1 == t && (k.group w.2.1).block == b) = false then
      k.updTile t fun x => { x with resv := k.nextClaim t b }
    else k) k

/-- Cancellation of a block's array work (R139): a running drain keeps the rows that it has written, the block's instructions leave
the queue with the regions that they held, and its claims end. -/
def Core.cancelMatrix (k : Core) (c acyc b : Nat) : Core :=
  let gone := k.mxq.filter fun e => e.2.block == b && !e.2.done
  let k := gone.foldl (fun k e => if e.2.phase = .drain then drainRows k c e.2 (e.2.rowsBy acyc) else k.endUpdates e.1 (acyc + 1)) k
  let k := { k with mxq := k.mxq.filter fun e => e.2.block != b || e.2.done
                    tileWait := k.tileWait.filter fun w => (k.group w.2.1).block != b }
  (k.endClaim 0 b).endClaim 1 b

/-! ### Slots -/

/-- Whether a load to an Exited group's registers, or a bywash slot of it, is outstanding (R41, R179). -/
def Core.awaits (k : Core) (s : Nat) : Bool :=
  (k.ops.any fun e => e.2.slot == s && e.2.dst != 255 && !e.2.lanes.isEmpty) || k.bw.any fun e => e.2.slot == s

/-- Group slots that a block occupies. -/
def Core.slotsOf (k : Core) (b : Nat) : List Nat := k.groups.filterMap fun e => if e.2.st ≠ .free ∧ e.2.block = b then some e.1 else none

/-- Registers that a group holds: 32 times 8 times r / 8 rounded up (R42). -/
def groupRegs (r : Nat) : Nat := 32 * (8 * ceilDiv r 8)

/-- The slot number that marks an instruction in flight whose group's slot is Free again. -/
def noSlot : Nat := 64

/-- Close the residence of a context on a core, and of the core, when none of its groups remains (R489, R491). -/
def Dev.endResidence (d : Dev) (k : Clock) (c x : Nat) : Dev :=
  let co := d.core c
  let here := co.groups.any fun e => e.2.st != .free && (co.block e.2.block).ctx == x
  let some' := co.groups.any fun e => e.2.st != .free
  let d := match here, co.ctxSince.find? fun e => e.1 == x with
    | false, some e => (d.updCtx x fun v => { v with coreTime := v.coreTime + (k.tsc - e.2) }).updCore c fun v =>
        { v with ctxSince := v.ctxSince.filter fun y => y.1 != x }
    | _, _ => d
  match some', co.resSince with
  | false, some t => d.updCore c fun v => { v with resSince := none, resident := v.resident + (k.ccyc - t) }
  | _, _ => d

/-- A block all of whose groups are Free is retired (R41): its slot and local memory are free, and its LAUNCH may complete. -/
def Dev.retireBlock (d : Dev) (c b : Nat) : Dev :=
  let co := d.core c
  match mget? co.blocks b with
  | none => d
  | some x =>
    if !(co.slotsOf b).isEmpty then d
    else
      let co := (co.endClaim 0 b).endClaim 1 b
      let d := d.setCore c { co with blocks := mdel co.blocks b, mxq := co.mxq.filter fun e => e.2.block != b }
      let d := d.updBank x.queue fun v => { v with blocks := v.blocks + 1 }
      (d.updCmd x.queue x.launch fun m => { m with retired := m.retired + 1 }).launchDone x.queue x.launch

/-- The slot of an Exited group with nothing outstanding returns to Free with its registers, and its block may retire (R41). -/
def Dev.freeGroup (d : Dev) (k : Clock) (c s : Nat) : Dev :=
  let co := d.core c
  let g := co.group s
  if g.st ≠ .exited ∨ co.awaits s = true then d
  else
    let b := co.block g.block
    let d := d.setCore c { co with
      groups := mdel co.groups s, freeRegs := co.freeRegs + groupRegs b.r
      ops := co.ops.map fun e => if e.2.slot = s then (e.1, { e.2 with slot := noSlot, flt := [], acq := false }) else e }
    let d := d.updBank b.queue fun v => { v with groupCycles := v.groupCycles + (k.ccyc - g.since) }
    (d.endResidence k c b.ctx).retireBlock c g.block

/-! ### Barriers -/

/-- Object of a barrier's ledger records (R497). -/
def barObj (b gen : Nat) : BitVec 64 := BitVec.ofNat 64 (b + 2 ^ 16 * gen)

/-- Whether a group counts as arrived (R40). -/
def Group.arrived (g : Group) : Bool := g.st == .barrier || g.st == .exited

/-- Release a block's barrier if every group of it has arrived and one waits (R59); `s` is the group whose arrival, exit or
kill may complete it. -/
def Dev.barCheck (d : Dev) (k : Clock) (c b s : Nat) : Dev :=
  let co := d.core c
  let ss := co.slotsOf b
  if (ss.all fun i => (co.group i).arrived) && ss.any fun i => (co.group i).st == .barrier then
    let blk := co.block b
    let d := d.ledger k c blk.ctx 0x02 0 (barObj b blk.barGen) (awGroup c s b 0) d.id 0 false none
    let co := ss.foldl (fun (co : Core) i =>
      let g := co.group i
      if g.st = .barrier then co.setGroup i { g with st := .running } else co) (d.core c)
    d.setCore c (co.setBlock b { blk with barGen := (blk.barGen + 1) % 65536 })
  else d

/-! ### Exit -/

/-- A group becomes Exited (R40, R56, R72, R75): its held fault record is withdrawn (R73), it counts as arrived (R60), the
block's array work is cancelled with its last group (R139), and the slot is freed when nothing is outstanding (R41). -/
def Dev.exitGroup (d : Dev) (k : Clock) (c s : Nat) : Dev :=
  let g := d.group c s
  let d := d.updCore c fun co =>
    let co := co.setGroup s { g with
      st := .exited, active := 0, live := 0, stack := [], park := none, replay := none, resume := none
      heldSince := none, bwHold := none, walkVa := none, fetching := none, absent := [], acqHeld := 0 }
    { co.leaveTile s with walks := co.walks.filter fun w => w.who != s }
  let d := d.settleOverflow ((d.core c).block g.block).berth
  let d := d.barCheck k c g.block s
  let last := ((d.core c).slotsOf g.block).all fun i => ((d.core c).group i).st == .exited
  let d := if last then d.updCore c fun co => co.cancelMatrix c k.acyc g.block else d
  d.freeGroup k c s

/-- Cancel a group's BWDOTs (R179): a slot none of whose requested lines is outstanding is free at once, another when they
have returned; lines not yet requested are requested no more. (DEDUCED, assumption 38.) -/
def Core.cancelBywash (k : Core) (s : Nat) : Core :=
  { k with bw := k.bw.filterMap fun e =>
      if e.2.slot ≠ s then some e
      else
        let out := e.2.wLines.filter fun a => k.mshrs.any fun m => m.2.bw == some e.1 && m.2.va == a.va && !m.2.orphan
        if out.isEmpty then none else some (e.1, { e.2 with cancelled := true, wLines := out }) }

/-- A context abort or a berth reset reaches a group (R75): it becomes Exited, and its bywash work is cancelled. -/
def Dev.endGroup (d : Dev) (k : Clock) (c s : Nat) : Dev :=
  let g := d.group c s
  if g.st = .exited ∨ g.st = .free then d
  else (d.updCore c fun co => co.cancelBywash s).exitGroup k c s

end Sys2Proof.Machine
end

