-- ==== Sys2Proof/Machine/Abort.lean ====
section
/-! DEFINITION. The bounded abort of a context (R384 to R391): groups, streams, fences, and the transactions that may be left as
orphans (R317, R386). -/

namespace Sys2Proof.Machine

/-! ### Fences -/

/-- The value ABORTED (R375). -/
def aborted : BitVec 64 := BitVec.allOnes 64

/-- Object of a fence's ledger records (R497). -/
def fenceObj (f dev : Nat) (v : BitVec 64) : BitVec 64 := BitVec.ofNat 64 (packBits [(0, 16, f), (16, 12, dev), (28, 36, v.toNat)])

/-- A FENCE_WAIT that waits completes (R377): with the value seen, and a ledger record. -/
def Dev.endWait (d : Dev) (k : Clock) (f fdev : Nat) (w : Waiter) (status : Nat) (value : BitVec 64) (rel : BitVec 32) (relDev : Nat) : Dev :=
  let d := d.ledger k (cpSource w.queue) w.ctx 0x04 (awQueue w.queue) (fenceObj f fdev w.target) rel relDev status (fdev != d.id) none
  d.finishCmd w.queue w.order status value.toNat

/-- A fence becomes ABORTED, and every waiter of this device with it (R379). -/
def Dev.abortFence (d : Dev) (k : Clock) (f : Nat) : Dev :=
  let ws := (d.fence f).waiters
  let d := d.updFence f fun x => { x with value := aborted, waiters := [] }
  ws.foldl (fun d w => d.endWait k f d.id w 0x0C aborted awLkp d.id) d

/-- Every fence that a context owns becomes ABORTED, and its entries leave this device's import table (R385). -/
def Dev.abortFences (d : Dev) (k : Clock) (x : Nat) : Dev :=
  let fs := d.ctl.fences.filterMap fun e => if e.2.valid = true ∧ e.2.owner = x then some e.1 else none
  let d := fs.foldl (fun d f => d.abortFence k f) d
  { d with ctl := { d.ctl with imports := d.ctl.imports.filter fun i => i.ctx != x } }

/-! ### Streams -/

/-- A stream stalls: a ledger record with its kind (R497). -/
def Dev.beginStall (d : Dev) (k : Clock) (n kind obj : Nat) : Dev :=
  let d := d.updStream n fun s => { s with stallKind := kind, stallObj := obj }
  d.ledger k (bargeSource n) (d.stream n).ctx 0x08 (awStream n) (BitVec.ofNat 64 obj) 0 0 kind false none

/-- A stream's stall ends: a ledger record (R497). -/
def Dev.endStall (d : Dev) (k : Clock) (n : Nat) (rel : BitVec 32) : Dev :=
  let s := d.stream n
  if s.stallKind = 0 then d
  else
    let d := d.updStream n fun s => { s with stallKind := 0, stallObj := 0 }
    d.ledger k (bargeSource n) s.ctx 0x09 (awStream n) (BitVec.ofNat 64 s.stallObj) rel (if rel = 0 then 0 else d.id) s.stallKind false none

/-- An access that waits for nothing but the release of its landing buffer (R317). -/
def BTxn.lost (t : BTxn) : Bool := t.orphan && t.dead

/-- A stream has nothing more to do: it is Idle, but for the landing buffers of its orphans (R317). -/
def Dev.idleStream (d : Dev) (n : Nat) : Dev :=
  d.updStream n fun s => { Stream.reset with xlat := s.xlat, txns := s.txns.filter fun t => t.lost }

/-- A cancelled stream whose issued accesses have completed ends, and its COPY with CONTEXT_ABORTED (R385, R388). -/
def Dev.settleStream (d : Dev) (n : Nat) : Dev :=
  let s := d.stream n
  if s.st = .cancelling ∧ s.txns.all (fun t => t.lost) = true then (d.finishCmd s.queue s.order 0x11 s.di).idleStream n else d

/-- Release a landing buffer of a stream with a new generation (R307). -/
def Dev.dropTxn (d : Dev) (n : Nat) (t : BTxn) : Dev :=
  let key := 1024 * (n / 64) + t.entry
  let d := { d with ctl := { d.ctl with bgens := mput d.ctl.bgens key ((mget 0 d.ctl.bgens key + 1) % 16) } }
  d.updStream n fun s => { s with txns := s.txns.filter fun x => x.entry != t.entry }

/-- Cancel a stream (R385, step 3): a stall ends at once, and its Pending record is withdrawn; accesses already issued
complete, but for those that a held region stops, whose data is dropped; no further access is issued. -/
def Dev.cancelStream (d : Dev) (k : Clock) (n : Nat) : Dev :=
  let s := d.stream n
  if s.st = .idle ∨ s.st = .cancelling then d
  else
    let d := (d.endStall k n 0).endStreamWalk n
    let d := d.updStream n fun s => { s with
      st := .cancelling, fault := none, walkVa := none, walkWrite := false, walkDesc := false }
    let blocked := (s.txns.find? fun t => !t.dead).any fun t => t.stage == 1
    let d := (s.txns.filter fun t => ((blocked && t.stage == 1) || t.retry) && !t.dead).foldl (fun d t => d.dropTxn n t) d
    (d.settleOverflow s.berth).settleStream n

/-! ### Transactions -/

/-- Transactions of a context outstanding at a core: those of landing buffers, and instructions of the memory pipe with an access
to come. `old` selects the epochs counted, by their low three bits. -/
def Core.outstanding (k : Core) (x : Nat) (old : Nat → Bool) : Nat :=
  (k.mshrs.filter fun e => e.2.ctx == x && !e.2.orphan && old e.2.epoch).length +
  sumNat (k.bw.map fun e => if e.2.ctx = x ∧ old (e.2.epoch % 8) = true then
    e.2.wLines.length - (k.mshrs.filter fun m => m.2.bw == some e.1 && !m.2.orphan).length else 0) +
  (k.ops.filter fun e => e.2.ctx == x && !e.2.lanes.isEmpty && old (e.2.epoch % 8)).length

/-- Accesses of a context that its streams have outstanding. -/
def Dev.streamOutstanding (d : Dev) (x : Nat) (old : Nat → Bool) : Nat :=
  sumNat (d.ctl.streams.map fun e => (e.2.txns.filter fun t => t.ctx == x && !t.orphan && old t.epoch).length)

/-- Whether a command is a result write of a context that awaits its answer (R537), of the epochs selected. -/
def Cmd.writing (m : Cmd) (x : Nat) (old : Nat → Bool) : Bool :=
  (m.opcode == 6 || m.opcode == 7) && m.ctx == x && m.reqs.any fun p => old p.epoch

/-- Result writes of a context that are outstanding (R537). -/
def Dev.cmdOutstanding (d : Dev) (x : Nat) (old : Nat → Bool) : Nat :=
  sumNat (d.ctl.queues.map fun e => (e.2.cmds.filter fun m => m.writing x old).length)

/-- Transactions of a context that are outstanding on the device (R289). -/
def Dev.outstanding (d : Dev) (x : Nat) (old : Nat → Bool) : Nat :=
  sumNat (d.cores.map fun e => e.2.outstanding x old) + d.streamOutstanding x old + d.cmdOutstanding x old

/-- Orphan a context's outstanding transactions of the epochs selected (R317, R386): their landing buffers stay reserved. At an
abort (`drop`), what waited for them waits no longer; at an UNMAP's bound (R292), the instructions of the Live context go on
waiting for the answers. Answers how many. -/
def Dev.orphan (d : Dev) (x : Nat) (old : Nat → Bool) (drop : Bool) : Nat × Dev :=
  let n := sumNat (d.cores.map fun e => (e.2.mshrs.filter fun m => m.2.ctx == x && !m.2.orphan && old m.2.epoch).length) + d.streamOutstanding x old +
    d.cmdOutstanding x old
  let writes := d.ctl.queues.flatMap fun e => (e.2.cmds.filter fun m => m.writing x old).flatMap fun m => m.reqs
  let queues := mmap d.ctl.queues fun _ q => { q with cmds := q.cmds.map fun m => if m.writing x old then { m with reqs := [] } else m }
  let cores := mmap d.cores fun _ k =>
    let hit := fun (o : MemOp) => drop && o.ctx == x && !o.lanes.isEmpty && old (o.epoch % 8)
    let gone := k.ops.filter fun e => hit e.2
    let regs := fun (o : MemOp) => if o.dst = 255 then [] else (List.range 4).map fun i => o.dst + i
    { k with
      mshrs := mmap k.mshrs fun _ m => if m.ctx = x ∧ old m.epoch = true then { m with orphan := true, ops := if drop then [] else m.ops, bw := if drop then none else m.bw } else m
      ops := k.ops.filter fun e => !hit e.2
      bw := k.bw.filterMap fun e => if drop && e.2.ctx == x then none else some e
      groups := mmap k.groups fun i g =>
        let rs := gone.flatMap fun e => if e.2.slot = i then 0x200 :: regs e.2 else []
        if rs.isEmpty then g else { g with await := g.await.filter fun r => !rs.contains r } }
  let streams := mmap d.ctl.streams fun _ s =>
    { s with txns := s.txns.map fun t => if t.ctx = x ∧ old t.epoch = true then { t with orphan := true, dead := t.dead || drop } else t }
  let d := { d with cores := cores, ctl := { d.ctl with
    streams := streams, queues := queues, lostWrites := d.ctl.lostWrites ++ writes.map fun (p : Packet) => (p.agent, p.entry, p.gen, x, p.dst) } }
  (n, d.updCtx x fun c => { c with orphans := satAdd 65535 c.orphans n })

/-- An Aborted context becomes Free when DESTROY_CONTEXT has been processed for it and it has no orphan (R359). -/
def Dev.freeCtx (d : Dev) (x : Nat) : Dev :=
  let c := d.ctx x
  if c.st = .aborted ∧ c.destroyed = true ∧ c.orphans = 0 ∧ c.abort = none then d.updCtx x fun _ => Ctx.reset else d

/-- An orphan's landing buffer is released (R317): the count falls. -/
def Dev.unorphan (d : Dev) (x : Nat) : Dev := (d.updCtx x fun c => { c with orphans := c.orphans - 1 }).freeCtx x

/-! ### The abort -/

/-- Steps 1 to 4 of R385 as far as they need no wait: admission stops, waits end, groups exit, streams are cancelled, the epoch
increments and every cached translation of the context is dropped. (DESIGN CHOICE, assumption 39.) -/
def Dev.startAbort (d : Dev) (k : Clock) (x reason : Nat) (silent : Bool) : Dev :=
  let cx := d.ctx x
  if cx.st ≠ .live then d
  else
    let d := d.updCtx x fun c => { c with
      st := .aborted, abort := some { AbortRec.reset with reason := reason, since := k.tsc, silent := silent }
      epoch := (c.epoch + 1) % 65536, coreTime := 0, arrayBusy := 0, hbmBytes := 0 }
    -- FENCE_WAITs of the context, here and elsewhere
    let waits := d.ctl.fences.flatMap fun e => (e.2.waiters.filter fun w => w.ctx == x).map fun w => (e.1, w)
    let d := waits.foldl (fun d e => (d.updFence e.1 fun f => { f with waiters := f.waiters.filter fun w => w.ctx != x }).endWait
      k e.1 d.id e.2 0x11 (d.fence e.1).value 0 0) d
    let cmds := d.ctl.queues.flatMap fun e => (e.2.cmds.filter fun m => m.ctx == x && m.status == none && m.opcode != 1 && m.opcode != 2
      && m.opcode != 0x40 && m.opcode != 0x41 && m.opcode != 0x43 && m.opcode != 0x48).map fun m => (e.1, m)
    let d := cmds.foldl (fun d e =>
      if e.2.waiting then
        d.endWait k (bitsAt (e.2.word 3) 0 16) (bitsAt (e.2.word 3) 16 12)
          { Waiter.reset with queue := e.1, order := e.2.order, ctx := x, target := BitVec.ofNat 64 (e.2.word 4) } 0x11 e.2.seen 0 0
      else d.finishCmd e.1 e.2.order 0x11 0) d
    -- groups
    let gs := d.cores.flatMap fun e => e.2.groups.filterMap fun g =>
      if g.2.st ≠ .free ∧ (e.2.block g.2.block).ctx = x then some (e.1, g.1) else none
    let d := gs.foldl (fun d e => d.endGroup k e.1 e.2) d
    let ls := d.ctl.queues.flatMap fun e => (e.2.cmds.filter fun m => m.ctx == x && m.opcode == 1).map fun m => (e.1, m.order)
    let d := ls.foldl (fun d e => d.launchDone e.1 e.2) d
    -- streams
    let ss := d.ctl.streams.filterMap fun e => if e.2.ctx = x ∧ e.2.st ≠ .idle then some e.1 else none
    let d := ss.foldl (fun d n => d.cancelStream k n) d
    d.dropXlat x fun _ => true

/-- The end of an abort (R385, steps 4 to 6): the range table is empty, UNMAPs complete, owned fences are ABORTED, the event is
written, and DESTROY_CONTEXT completes, with ORPHANED and the count when `n` transactions were orphaned. -/
def Dev.endAbort (d : Dev) (k : Clock) (x n : Nat) : Dev :=
  let cx := d.ctx x
  match cx.abort with
  | none => d
  | some a =>
    let status := if n = 0 then 0 else 5
    let d := cx.unmaps.foldl (fun d u => d.finishCmd u.queue u.order status n) d
    let d := d.updCtx x fun c => { c with count := 0, unmaps := [], abort := none }
    let d := d.abortFences k x
    let d := if a.silent then d else d.writeRing k cx.berth 0 (eventRec 0x13 a.reason 0 1 x 0 0 0 (gtime k d) 0) false
    let d := a.waits.foldl (fun d w => d.finishCmd w.1 w.2 status n) d
    d.freeCtx x

end Sys2Proof.Machine
end

