-- ==== Sys2Proof/Machine/Operands.lean ====
section
/-! DEFINITION. Fields of an instruction word (R81 to R84), reading and writing registers (R77, R78, R86), the checks of R87, and
what every instruction does around its own effect: it is fetched through an X range (R81), waits for its registers
(R50), parks on an illegal word (R87), and moves the group on (R81, R72). -/

namespace Sys2Proof

open Sys2Proof.Machine

/-! ### Fields -/

/-- Operand field D, bits [22:14]. -/
def InsF.d (f : InsF) : Nat := bitsAt f.body.toNat 0 9
/-- Operand field A, bits [31:23]. -/
def InsF.a (f : InsF) : Nat := bitsAt f.body.toNat 9 9
/-- Operand field B, bits [40:32]. -/
def InsF.b (f : InsF) : Nat := bitsAt f.body.toNat 18 9
/-- Operand field C, bits [49:41]. -/
def InsF.c (f : InsF) : Nat := bitsAt f.body.toNat 27 9
/-- imm18, bits [49:32]. -/
def InsF.imm18 (f : InsF) : Nat := bitsAt f.body.toNat 18 18
/-- Bits [hi:lo] of the word, within [63:14]. -/
def InsF.bits (f : InsF) (hi lo : Nat) : Nat := bitsAt f.body.toNat (lo - 14) (hi + 1 - lo)
/-- Type code, bits [54:50] (R84). -/
def InsF.ty (f : InsF) : Nat := f.bits 54 50
/-- Scope code, bits [57:55] (R84). -/
def InsF.scope (f : InsF) : Nat := f.bits 57 55
/-- Bytes of the instruction. -/
def InsF.len (f : InsF) : Nat := if f.wide then 16 else 8

end Sys2Proof

namespace Sys2Proof.Machine

/-! ### Registers -/

/-- Whether a field names a per-thread register. -/
def isV (r : Nat) : Bool := decide (r < 0xFF)
/-- Whether a field names zero. -/
def isZero (r : Nat) : Bool := r == 0xFF
/-- Whether a field names a uniform register. -/
def isU (r : Nat) : Bool := decide (0x100 ≤ r) && decide (r < 0x140)
/-- Whether a field names a predicate. -/
def isP (r : Nat) : Bool := decide (0x140 ≤ r) && decide (r < 0x148)

/-- A 32-bit register as a lane reads it (R77). -/
def Group.reg (g : Group) (r lane : Nat) : W32 :=
  if isV r then mget 0 g.v (32 * r + lane)
  else if isU r then mget 0 g.u (r - 0x100)
  else if isP r then (if (mget 0 g.p (r - 0x140)).getLsbD lane then 1 else 0)
  else 0

/-- An operand of `n` registers as a lane reads it, lowest register lowest (R78). -/
def Group.opnd (g : Group) (r n lane : Nat) : Nat :=
  if isZero r then 0 else (List.range n).foldl (fun acc i => acc + (g.reg (r + i) lane).toNat * 2 ^ (32 * i)) 0

/-- Write a 32-bit register of one lane (R77); a write to zero is discarded, and a predicate takes bit 0.
(DEDUCED, assumption 142.) -/
def Group.setReg (g : Group) (r lane : Nat) (v : W32) : Group :=
  if isV r then { g with v := mput g.v (32 * r + lane) v }
  else if isU r then { g with u := mput g.u (r - 0x100) v }
  else if isP r then
    let m := mget 0 g.p (r - 0x140)
    let bit : BitVec 32 := 1#32 <<< lane
    { g with p := mput g.p (r - 0x140) (if v.getLsbD 0 then m ||| bit else m &&& ~~~bit) }
  else g

/-- Write an operand of `n` registers of one lane. -/
def Group.setOpnd (g : Group) (r n lane v : Nat) : Group :=
  if isZero r then g
  else (List.range n).foldl (fun g i => g.setReg (r + i) lane (BitVec.ofNat 32 (v >>> (32 * i)))) g

/-- Write one value per lane of a mask. -/
def Group.writeLanes (g : Group) (m : BitVec 32) (r n : Nat) (f : Nat → Nat) : Group :=
  (lanesOf m).foldl (fun h l => h.setOpnd r n l (f l)) g

/-- Lanes of an instruction: the active lanes that its guard lets act (R85). -/
def Group.acting (g : Group) (f : InsF) : BitVec 32 :=
  if f.g then
    let p := mget 0 g.p f.gp.toNat
    g.active &&& (if f.gneg then ~~~p else p)
  else g.active

/-! ### Checks of R87 -/

/-- Whether a field may name an operand of `n` registers of a group with `r` per-thread registers (R42, R77, R78).
(DESIGN CHOICE, assumption 156.) -/
def regOk (r field n : Nat) : Bool :=
  if isZero field then true
  else if isV field then field % n == 0 && decide (field + n ≤ r)
  else if isU field then field % n == 0 && decide (field + n ≤ 0x140)
  else isP field && n == 1

/-- Whether a field may name a register tile, or a u row vector (R110, R188). -/
def tileRegOk (r field : Nat) : Bool :=
  if isZero field then true
  else if isV field then decide (field + 32 ≤ r)
  else isU field && decide (field + 32 ≤ 0x140)

/-- What an instruction's word must satisfy, and the registers that its issue waits for. -/
structure Shape where
  /-- Every check of R87 but the guard and W holds. -/
  legal : Bool
  /-- It has a wide form here. -/
  wideOk : Bool
  /-- It may be guarded. -/
  guardOk : Bool
  /-- Registers it reads or writes, as field values. -/
  regs : List Nat
  deriving DecidableEq, Repr

/-- Registers of an operand of `n`. -/
def regList (field n : Nat) : List Nat := if isZero field then [] else (List.range n).map fun i => field + i

/-- The guard predicate, when the word is guarded. -/
def guardRegs (f : InsF) : List Nat := if f.g then [0x140 + f.gp.toNat] else []

/-- A word that is not guarded has clear guard bits only in G: the predicate and negate fields of an unguarded word are
free. The checks of W and G (R83, R85, R87). -/
def Shape.ok (sh : Shape) (f : InsF) : Bool := sh.legal && (sh.wideOk || !f.wide) && (sh.guardOk || !f.g)

/-! ### Issue -/

/-- A at the instruction, as a fault record names it: a replay keeps the whole mask (R72). -/
def Group.whole (g : Group) : BitVec 32 := g.replay.getD g.active

/-- Lanes whose effect an earlier presentation of the instruction performed: those that a replay leaves out (R72). -/
def Group.before (g : Group) : BitVec 32 := g.whole &&& ~~~g.active

/-- Park with ILLEGAL_INSTRUCTION (R69): completed mask zero, fault address 0. -/
def Dev.illegal (d : Dev) (k : Clock) (c s detail : Nat) : Dev :=
  let g := d.group c s
  d.parkGroup k c s 7 g.pc 0 detail 0 g.whole

/-- The group goes on after an instruction (R81): at the next instruction, or, when a replay completes, with the mask and at
the place that the parking kept (R72). -/
def Group.advance (g : Group) (len : Nat) : Group :=
  let next := (g.pc + BitVec.ofNat 64 len, g.whole)
  let go := match g.replay with
    | some _ => g.resume.getD next
    | none => next
  { g with pc := go.1, active := go.2 &&& g.live, replay := none, resume := none, heldSince := none, absent := [] }

/-! ### Fetching (R81, R197) -/

/-- Global line of an access. -/
def LaneAcc.line (a : LaneAcc) : Nat := gaLine a.ga

/-- Outstanding transactions that a core counts (R52): a line of an instruction in flight, or an orphaned buffer.
(DEDUCED, assumption 167.) -/
def Core.used (k : Core) : Nat :=
  sumNat (k.ops.map fun e => (e.2.lanes.map LaneAcc.line).eraseDups.length) + (k.mshrs.filter fun e => (e.2.orphan && !e.2.ops.any fun n => mhas k.ops n) || e.2.bw.isSome).length

/-- Reserve a landing buffer and send a request (R238, R304, R307). -/
def Dev.landReq (d : Dev) (k : Clock) (c : Nat) (m : Mshr) (a : LaneAcc) (toHome : Bool) (p : Packet) : Dev :=
  let co := d.core c
  let e := (lowestFree 1024 (co.mshrs.map Prod.fst ++ d.quarantined k c)).getD 0
  let line := a.line
  let m : Mshr := { m with line := line, gen := mget 0 co.gens e, dev := line / 2 ^ 38, key := a.key, mirror := a.mirror }
  let p := { p with
    dst := if toHome then line / 2 ^ 38 else d.id
    src := d.id, tgt := 512 + d.lineSlice line, agent := c, entry := e, gen := m.gen, line := line, epoch := m.epoch
    berth := m.berth, key := a.key, mtype := a.mtype, mirror := a.mirror, ctx := m.ctx }
  (d.setCore c { co with mshrs := mput co.mshrs e { m with req := p } }).send p

/-- The line of a context that an instruction cache holds (R197). -/
def Core.icFind (k : Core) (line x : Nat) : Option ICLine := k.icache.find? fun e => e.line == line && e.ctx == x

/-- Drop a line from an instruction cache. -/
def Core.icDrop (k : Core) (line : Nat) : Core := { k with icache := k.icache.filter fun e => e.line != line }

/-- Enter an instruction-cache line: 128 sets of 4 ways (R197). (DESIGN CHOICE, assumption 164.) -/
def Core.icPut (k : Core) (l : ICLine) : Core :=
  let rest := k.icache.filter fun e => !(e.line == l.line && e.ctx == l.ctx)
  let same := rest.filter fun e => e.line % 128 == l.line % 128
  let drop := if 4 ≤ same.length then same.getLast? else none
  { k with icache := l :: rest.filter fun e => some e != drop }

/-- A storage error in the instruction cache (R217): corrected, or the line leaves and is fetched again. -/
def Dev.meetIc (d : Dev) (k : Clock) (c line a : Nat) : Dev :=
  match takeLatent 5 c line d with
  | (none, d) => d
  | (some unc, d) =>
    let d := logErr k { ErlRec.reset with
      cls := if unc then 2 else 1, src := 0x04, code := if unc then 2 else 1, unit := c, addr := BitVec.ofNat 64 a } d
    if unc then d.updCore c fun k => k.icDrop line else d

/-- The fetch of a line that the instruction cache does not hold: an untracked read at the line's home, which serves every group of
the context that waits for the line. -/
def Dev.fetchMiss (d : Dev) (k : Clock) (c s : Nat) (e : BitVec 256) (ga : Nat) : Dev :=
  let b := (d.core c).blockOf s
  let line := gaLine ga
  let d := if (d.core c).mshrs.any fun m => m.2.kind == .fetch && m.2.line == line && m.2.ctx == b.ctx && !m.2.orphan then d
    else d.landReq k c { Mshr.reset with kind := .fetch, ctx := b.ctx, epoch := (d.ctx b.ctx).epoch % 8, berth := b.berth }
      { LaneAcc.reset with ga := ga / 128 * 128, mtype := reType e, key := reKey e, mirror := if reType e = 3 then reMirror e else 0 } true
      { Packet.reset with op := .readU, sectors := 0xF#4 }
  d.updGroup c s fun g => { g with fetching := some line }

/-- What the fetch of an instruction word at `va` answers: whether the instruction may go on, and the device after it. The range
must give X (R260); a word that arrived poisoned parks the group, and its line is fetched again by a replay (R217).
(DESIGN CHOICE, assumption 5.) (DEDUCED, assumption 166.) -/
def Dev.fetchWord (d : Dev) (k : Clock) (c s va : Nat) : Bool × Dev :=
  let g := d.group c s
  match d.coreXlate c s va 4 with
  | .wait => (false, d.startWalk c s va)
  | .fault code detail => (false, d.parkGroup k c s code g.pc va detail g.before g.whole)
  | .ok e ga =>
    let line := gaLine ga
    let d := d.meetIc k c line (gaLocal ga)
    match (d.core c).icFind line ((d.core c).blockOf s).ctx with
    | none => (false, d.fetchMiss k c s e ga)
    | some l =>
      if l.poison.getLsbD (ga % 128 / 8) then
        (false, (d.updCore c fun k => k.icDrop line).parkGroup k c s 3 g.pc g.pc.toNat 2 g.before g.whole)
      else (true, d)

/-- The fetch of an instruction: its word, and the second word of a wide one (R83). -/
def Dev.fetch (d : Dev) (k : Clock) (c s : Nat) (wide : Bool) : Bool × Dev :=
  let pc := (d.group c s).pc.toNat
  let r := d.fetchWord k c s pc
  if r.1 && wide then r.2.fetchWord k c s (pc + 8) else r

/-- Groups of a context that wait for an instruction line. -/
def Core.fetchers (k : Core) (line x : Nat) : List Nat :=
  (k.groups.filter fun e => e.2.fetching == some line && (k.block e.2.block).ctx == x).map Prod.fst

/-- An instruction line reaches the cache, and the groups that waited for it go on. -/
def Core.fetched (k : Core) (l : ICLine) : Core :=
  (k.fetchers l.line l.ctx).foldl (fun k s => k.setGroup s { k.group s with fetching := none }) (k.icPut l)

/-- The fetch of an instruction line drew an error response: the groups that waited for it park with PERMISSION, detail 0x10 (R36). -/
def Dev.fetchRefused (d : Dev) (k : Clock) (c line x : Nat) : Dev :=
  ((d.core c).fetchers line x).foldl (fun d s =>
    let g := d.group c s
    d.parkGroup k c s 2 g.pc g.pc.toNat 0x10 g.before g.whole) d

/-- A storage error in a group's registers (R217): corrected, or the owning context is aborted. Answers whether the group is
still there. -/
def Dev.meetRegs (d : Dev) (k : Clock) (c s : Nat) : Bool × Dev :=
  let b := (d.core c).blockOf s
  match takeLatent 4 c s d with
  | (none, d) => (true, d)
  | (some unc, d) =>
    let d := logErr k { ErlRec.reset with cls := if unc then 2 else 1, src := 0x01, code := if unc then 2 else 1, unit := c, berth := b.berth
                                          detail := if unc then 0 else 1 } d
    if unc then (false, d.startAbort k b.ctx 3 false) else (true, d)

/-- Whether a group may present an instruction: it is Running, its block has started, it waits for nothing (R50, R46, R176,
R197, R271), and the clocks run (R462). -/
def Dev.mayPresent (d : Dev) (c s : Nat) : Bool :=
  let g := d.group c s
  g.st == .running && ((d.core c).blockOf s).started && g.walkVa.isNone && g.fetching.isNone && g.bwHold.isNone && !d.stopped

/-- Registers of a destination of a type code: one, a pair or a quad (R90). -/
def dstCount (ty : Nat) : Nat := if ty = 7 then 4 else if ty = 2 ∨ ty = 3 then 2 else 1

/-- The mark in a group's list of awaited registers that an acquire is outstanding (R95). -/
def acqMark : Nat := 0x200

/-- A memory instruction leaves the pipe: its destination awaits it no longer. -/
def Dev.dropOp (d : Dev) (c n : Nat) (op : MemOp) : Dev :=
  let regs := regList op.dst (dstCount op.ty) ++ (if op.acq then [acqMark] else [])
  d.updCore c fun k =>
    let g := k.group op.slot
    { k.setGroup op.slot { g with await := if op.adv then g.await.filter fun x => !regs.contains x else g.await } with
      ops := mdel k.ops n }

/-- Park a group for a memory instruction some of whose lanes faulted (R68, R69): the lowest lane's fault is reported. -/
def Dev.parkOp (d : Dev) (k : Clock) (c n : Nat) (op : MemOp) : Dev :=
  match op.flt with
  | [] => d
  | x :: t =>
    let low := t.foldl (fun a b => if b.1 < a.1 then b else a) x
    let d := d.dropOp c n op
    let d := if op.adv then d.updGroup c op.slot fun g => { g with resume := some (g.pc, g.active) } else d
    d.parkGroup k c op.slot low.2.1 op.pc low.2.2.1 low.2.2.2 op.done op.active

/-- A memory instruction of a group that faulted and keeps the group from presenting another one. (DESIGN CHOICE, assumption 18.) -/
def Dev.stuckOp (d : Dev) (c s : Nat) : Option (Nat × MemOp) :=
  (d.core c).ops.find? fun e => e.2.slot == s && !e.2.flt.isEmpty && (!e.2.adv || (d.group c s).replay.isNone)

/-- Issue one instruction of a group (R50): it is fetched, parks when its word is illegal (R87), waits while a register it
names awaits an earlier write, and then has its effect. A group one of whose earlier memory instructions faulted parks for
it first (R68). (DESIGN CHOICE, assumption 6.) -/
def issue (k : Clock) (c s : Nat) (f : InsF) (sh : Shape) (eff : Dev → Dev) (d : Dev) : Dev :=
  if !d.mayPresent c s then d
  else
    match d.stuckOp c s with
    | some e => if e.2.lanes.isEmpty then d.parkOp k c e.1 e.2 else d
    | none =>
      let r := d.fetch k c s (f.wide && sh.wideOk)
      let m := if r.1 then r.2.meetRegs k c s else r
      if !m.1 then m.2
      else
        let d := m.2
        if !sh.ok f then d.illegal k c s 0
        else if (sh.regs ++ guardRegs f).any (fun x => (d.group c s).await.contains x) then d
        else eff d

/-- An instruction whose effect is on its own group only. -/
def issueGroup (k : Clock) (c s : Nat) (f : InsF) (sh : Shape) (eff : Group → Group) (d : Dev) : Dev :=
  issue k c s f sh (fun d => d.updGroup c s fun g => (eff g).advance f.len) d

/-- The number of per-thread registers that a group's launch declared. -/
def Dev.rOf (d : Dev) (c s : Nat) : Nat := ((d.core c).blockOf s).r

end Sys2Proof.Machine
end

