-- ==== Sys2Proof/Machine/Retire.lean ====
section
/-! DEFINITION. What follows a command that met an error: notices (R474), the health record and the fatal log (R219, R473), and
the retirement of the device (R483). -/

namespace Sys2Proof.Machine

/-- Add a way disable to the health record, once (R219, R421). -/
def Perm.addWay (p : Perm) (e : Nat × Nat) : Perm := if p.wayOff.contains e then p else { p with wayOff := p.wayOff ++ [e] }

/-- Records that one half of the fatal log holds (R421, R473). -/
def fatalHalf : Nat := 16384

/-- Copy a Device-fatal record to the NVM fatal log (R473): when both halves are full, the older one is erased. -/
def Perm.addFatal (p : Perm) (r : ErlRec) : Perm :=
  let p := if 2 * fatalHalf ≤ p.fatal.length then { p with fatal := p.fatal.drop fatalHalf, fatalOld := p.fatalOld + fatalHalf } else p
  { p with fatal := p.fatal ++ [{ r with nvm := true }] }

/-- Whether an NVM update runs (R433, R434). (DEDUCED, assumption 102.) -/
def Dev.nvmUpdates (d : Dev) : Bool := d.lkp.busy && (d.lkp.cmd == 6 || d.lkp.cmd == 7)

/-- An NVM update that is cut short: its region's state stays Updating (R434). -/
def Perm.cutUpdate (p : Perm) (d : Dev) : Perm :=
  if !d.nvmUpdates then p else if d.lkp.cmd = 6 then { p with imgState := 2 } else { p with manState := 2 }

/-- Retire the device (R483): PeerDown over every Up peer port as far as its credit goes (R309), every peer port Down, every session ended, power removed but
for the always-on, security, Lockkeeper and gauge domains, LKP_STATE Retired. -/
def Dev.retire (d : Dev) : Dev :=
  let down := fun (nbr : Nat) => ({ Packet.reset with
    op := .peerDown, dst := nbr, src := d.id, tgt := 704, agent := 704, who := d.id, boot := d.lkp.boots, esc := true } : Packet)
  let ports := mmap d.fab.ports fun _ p =>
    if p.role = .peer then
      let credit := decide (mget 0 p.credits 9 + 2 ≤ 256)
      { Port.reset with role := p.role, encrypt := p.encrypt, fullWidth := p.fullWidth, nbrDev := p.nbrDev, nbrPort := p.nbrPort
                        st := .down, txq := if p.st = .up ∧ credit = true then [down p.nbrDev] else []
                        offered := if p.st = .up ∧ credit = false then [down p.nbrDev] else [] }
    else Port.reset
  { Dev.reset with
    cores := mmap d.cores fun _ c => { Core.reset with l1Refused := c.l1Refused }
    slices := mmap d.slices fun _ s => { Slice.reset with refused := s.refused }
    lkp := { d.lkp with st := .retired, busy := false }
    erl := d.erl, gau := d.gau, tim := d.tim
    fab := { Fabric.reset with ports := ports }
    whf := { Wharf.reset with out := d.whf.out }
    thermtrip := d.thermtrip, latent := d.latent, fresh := d.fresh }

/-- Act on the unit disables and the Device-fatal records that a command left (R219, R473, R483, R485).
(DESIGN CHOICE, assumption 135.) -/
def settle (d : Dev) (p : Perm) : Dev × Perm :=
  let p := d.healthDue.foldl Perm.addWay p
  let p := if d.fatalPend.isEmpty then p else p.cutUpdate d
  let d := if d.fatalPend.isEmpty ∨ d.nvmUpdates = false then d else { d with lkp := { d.lkp with busy := false, status := 5 } }
  let p := d.fatalPend.foldl Perm.addFatal p
  let fatal := d.fatalPend.any fun r => r.code != 0x0F
  let n := p.fatalOld + p.fatal.length
  let unread := d.erl.unread ++ (List.range d.fatalPend.length).map fun i => n - d.fatalPend.length + i
  let d := { d with erl := { d.erl with unread := unread }, healthDue := [], fatalPend := [] }
  if fatal && d.lkp.st != .retired then (d.retire, { p with retire := true }) else (d, p)

/-- Power domain of a core (R19, R29). -/
def coreDomain (c : Nat) : Nat := 8 * (c % 32 / 8) + c / 32 / 2

/-- Whether a core keeps its domain from being idle (R445): a resident group, an occupied bywash slot, or a unit being zeroed. -/
def Core.busy (k : Core) : Bool := (k.groups.any fun e => e.2.st != .free) || !k.bw.isEmpty || k.blocks.any fun e => !e.2.started

/-- Core domains that are not idle (R445). -/
def Dev.busyDomains (d : Dev) : List Nat := (d.cores.filterMap fun e => if e.2.busy then some (coreDomain e.1) else none).eraseDups

/-- Ports of which a direction holds a packet or an unacknowledged flit (R448). -/
def Dev.busyPorts (d : Dev) : List Nat :=
  d.fab.ports.filterMap fun e =>
    if !e.2.txq.isEmpty || !e.2.replay.isEmpty || !e.2.gmacRun.isEmpty || d.fab.net.any (fun p => p.via == some e.1) then some e.1 else none

/-- Core domains that a command left idle are so from now on (R445), and so are ports (R448). -/
def Dev.noteIdle (d0 d : Dev) (k : Clock) : Dev :=
  let busy := d.busyDomains
  let left := d0.busyDomains.filter fun pd => !busy.contains pd
  let d := { d with pwr := { d.pwr with idleSince := left.foldl (fun m pd => mput m pd k.tsc) d.pwr.idleSince } }
  ((d0.busyPorts ++ d.busyPorts).eraseDups).foldl (fun d q => d.updPort q fun x => { x with idleSince := k.tsc }) d

/-- Whether a loop of higher rank keeps a policy from holding (R467), by its reason and, for reason 6, its port. -/
def Dev.policyBroken (d : Dev) (key : Nat) : Bool :=
  let w := d.pwr
  match key % 8 with
  | 1 => decide (d.gau.ceiling < w.floor)
  | 2 => decide (w.thermal < w.floor)
  | 3 => decide (min w.current w.timing < w.floor)
  | 4 => decide (w.capLvl < w.floor)
  | 5 => w.coreLimit == 0 && decide (w.cap < w.avgW)
  | 6 => (d.port (key / 8)).unmet
  | _ => false

/-- Note since when a policy is broken, or holds again (R467). -/
def Dev.trackPolicy (k : Clock) (d : Dev) (key : Nat) : Dev :=
  let u := mget Unmet.reset d.pwr.unmet key
  let u' : Unmet := if d.policyBroken key then { u with since := some (u.since.getD k.tsc), held := none }
    else if u.since.isSome then { u with since := none, held := some k.tsc } else u
  if u' = u then d else { d with pwr := { d.pwr with unmet := mput d.pwr.unmet key u' } }

/-- Note the state of every policy. -/
def Dev.trackPolicies (d : Dev) (k : Clock) : Dev :=
  ([1, 2, 3, 4, 5] ++ d.fab.ports.map (fun (e : Nat × Port) => 6 + 8 * e.1)).foldl (Dev.trackPolicy k) d

/-- A meaning that acts on the device and can meet an error: its notices are written, and the Lockkeeper acts on what is
fatal. -/
def onMem (s : State) (f : Dev → Dev) : Out :=
  let r := settle ((Dev.noteIdle s.dev ((f s.dev).flushNotices s.clk) s.clk).trackPolicies s.clk) s.perm
  .next { s with dev := r.1, perm := r.2 }

end Sys2Proof.Machine
end

