-- ==== Sys2Proof/Machine/Flags.lean ====
section
/-! DEFINITION. What predicates take (the block has no other flags of this kind): the conditions of SETP (R184, R185), the truth
table of PLOP (R183) and the votes of VOTE (R184). -/

namespace Sys2Proof.Machine

/-- Whether a type code names a 64-bit type (R84). -/
def is64 (ty : Nat) : Bool := ty == 2 || ty == 3

/-- Width of an integer type (R84). -/
def intWidth (ty : Nat) : Nat := if is64 ty then 64 else 32

/-- The integer that a register value stands for in a type: U32 0, S32 1, U64 2, S64 3 (R84). -/
def intVal (ty x : Nat) : Int :=
  if ty = 1 ∨ ty = 3 then toSigned (intWidth ty) x else Int.ofNat (x % 2 ^ intWidth ty)

/-- A condition of SETP on an ordering: less, equal or greater (R88). -/
def condOf (cond : Nat) (o : Ordering) : Bool :=
  match cond with
  | 0 => o == .eq
  | 1 => o != .eq
  | 2 => o == .lt
  | 3 => o != .gt
  | 4 => o == .gt
  | 5 => o != .lt
  | _ => false

/-- SETP on an integer type (R183, R184). -/
def intCond (ty cond a b : Nat) : Bool := condOf cond (compare (intVal ty a) (intVal ty b))

/-- SETP on F32 (R185): with a NaN only NE and unordered hold. -/
def fltCond (cond a b : Nat) : Bool :=
  let x := fdecode fp32 a
  let y := fdecode fp32 b
  if x.isNan || y.isNan then cond == 1 || cond == 6
  else if cond = 7 then true
  else condOf cond (compare (fcmp x y) 0)

/-- PLOP (R183): bit 4a + 2b + c of the truth table. (DEDUCED, assumption 36.) -/
def plopBit (table a b c : Nat) : Nat := bitsAt table (4 * (a % 2) + 2 * (b % 2) + c % 2) 1

/-- VOTE (R184): 0 ANY, 1 ALL, 2 BALLOT over the active lanes. -/
def voteOf (mode : Nat) (active p : BitVec 32) : BitVec 32 :=
  let hit := active &&& p
  if mode = 0 then (if hit = 0 then 0 else 1)
  else if mode = 1 then (if hit = active then 1 else 0)
  else hit

end Sys2Proof.Machine
end

