-- ==== Sys2Proof/Machine/Vector.lean ====
section
/-! DEFINITION. The integer, logic, predicate and lane instructions (R183, R184, R80), and the forms that they share with the
floating-point ones: lane by lane, on the uniform path (R86, R181), and over register tiles (R187 to R189). -/

namespace Sys2Proof.Machine

/-! ### The common form -/

/-- Bits [63:55] of the word, in which an opcode may own some. -/
def modBits (f : InsF) : Nat := f.bits 63 55

/-- Whether a word asks for the tile form (R110). -/
def tiled (tile : Bool) (f : InsF) : Bool := tile && f.bits 58 58 == 1

/-- Operand form of a source of a tile instruction (R188, R189): a column vector when marked, else a tile, a row vector or
zero; a tile may not partly overlap the destination. (DEDUCED, assumption 141.) -/
def tileSrcOk (r : Nat) (d field : Nat) (mark : Bool) : Bool :=
  if mark then isV field && regOk r field 1
  else tileRegOk r field && (!isV field || field == d || decide (field + 32 ≤ d) || decide (d + 32 ≤ field))

/-- The checks of R87 for a vector instruction: its types, the mod bits it owns (a mask over bits [63:55]), its number of
sources, whether it has tile and wide forms; `cPred` that C is a predicate, `bOne` that B is one register (R184), `dOne`
that D is. -/
def vecShape (r : Nat) (f : InsF) (types : List Nat) (allow uses : Nat) (tile wide cPred bOne dOne more : Bool) : Shape :=
  let n := if is64 f.ty then 2 else 1
  let bn := if bOne then 1 else n
  let dn := if dOne then 1 else n
  let markB := tile && f.bits 59 59 == 1
  let markC := tile && f.bits 60 60 == 1
  let unused := (decide (1 ≤ uses) || f.a == 0xFF) && (decide (2 ≤ uses) || f.b == 0xFF) && (decide (3 ≤ uses) || f.c == 0xFF)
  let wideB := !f.wide || f.b == 0xFF
  let plain := !markB && !markC && regOk r f.d dn && regOk r f.a n && regOk r f.b bn &&
    (if cPred then isP f.c else regOk r f.c n) &&
    (!isU f.d || ((isZero f.a || isU f.a) && (isZero f.b || isU f.b) && (isZero f.c || isU f.c)))
  let asTile := !is64 f.ty && isV f.d && decide (f.d + 32 ≤ r) && tileSrcOk r f.d f.a false && tileSrcOk r f.d f.b markB &&
    (if cPred then isP f.c && !markC else tileSrcOk r f.d f.c markC)
  let span := if tiled tile f then 32 else n
  { legal := types.contains f.ty && modBits f &&& allow == modBits f && unused && wideB && (if tiled tile f then asTile else plain) && more
    wideOk := wide
    guardOk := !isU f.d
    regs := regList f.d span ++ regList f.a span ++ regList f.b span ++ regList f.c span }

/-- One lane of an element operation on operands of `n` registers, B being `bn` or the second word (R83). -/
def laneEval (g : Group) (f : InsF) (n bn : Nat) (op : Nat → Nat → Nat → Nat) (l : Nat) : Nat :=
  op (g.opnd f.a n l) (if f.wide then f.ext.toNat % 2 ^ (32 * bn) else g.opnd f.b bn l) (g.opnd f.c n l)

/-- Element (t, j) of a tile operand (R188). -/
def tileElem (g : Group) (field : Nat) (mark : Bool) (t j : Nat) : Nat :=
  if isZero field then 0 else if mark || isP field then (g.reg field t).toNat else (g.reg (field + j) t).toNat

/-- Write a result: once on the uniform path for a u destination (R86, R181), else in the lanes that act. -/
def putResult (g : Group) (f : InsF) (n : Nat) (val : Nat → Nat) : Group :=
  if isU f.d then g.setOpnd f.d n 0 (val 0) else g.writeLanes (g.acting f) f.d n val

/-- Write a destination tile in the rows whose lanes act (R189). -/
def putTile (g : Group) (f : InsF) (op : Nat → Nat → Nat → Nat) : Group :=
  (lanesOf (g.acting f)).foldl (fun h t => (List.range 32).foldl (fun h j =>
    h.setReg (f.d + j) t (BitVec.ofNat 32 (op (tileElem g f.a false t j)
      (if f.wide then f.ext.toNat % 2 ^ 32 else tileElem g f.b (f.bits 59 59 == 1) t j)
      (tileElem g f.c (f.bits 60 60 == 1) t j)))) h) g

/-- The effect of an element operation on a group. -/
def vecEffect (g : Group) (f : InsF) (tile bOne dOne : Bool) (op : Nat → Nat → Nat → Nat) : Group :=
  let n := if is64 f.ty then 2 else 1
  if tiled tile f then putTile g f op else putResult g f (if dOne then 1 else n) (laneEval g f n (if bOne then 1 else n) op)

/-- A vector instruction of a group (R183). -/
def vecIns (c s : Nat) (f : InsF) (types : List Nat) (allow uses : Nat) (tile wide cPred bOne dOne : Bool) (more : Bool)
    (op : Nat → Nat → Nat → Nat) (st : State) : Out :=
  onMem st fun d => issueGroup st.clk c s f (vecShape (d.rOf c s) f types allow uses tile wide cPred bOne dOne more)
    (fun g => vecEffect g f tile bOne dOne op) d

/-! ### Integer operations (R183, R184) -/

/-- All integer types. -/
def intTypes : List Nat := [0, 1, 2, 3]

/-- An exact result narrowed to its type: wrapped, or limited when bit [57] is set (R184). -/
def narrow (f : InsF) (v : Int) : Nat :=
  if f.bits 57 57 = 1 then
    if f.ty = 1 then ofSigned 32 (max (-(2 ^ 31)) (min (2 ^ 31 - 1) v)) else ofSigned 32 (max 0 (min (2 ^ 32 - 1) v))
  else ofSigned (intWidth f.ty) v

/-- Saturation is for the 32-bit types only (R184). -/
def satOk (f : InsF) : Bool := f.bits 57 57 == 0 || !is64 f.ty

/-- IADD (R183, R184): A + B. -/
def execIadd (c : Fin 512) (gs : Fin 64) (f : InsF) (st : State) : Out :=
  vecIns c gs f intTypes 0b000111100 2 true true false false false (satOk f)
    (fun a b _ => narrow f (intVal f.ty a + intVal f.ty b)) st

/-- ISUB (R183, R184): A − B. -/
def execIsub (c : Fin 512) (gs : Fin 64) (f : InsF) (st : State) : Out :=
  vecIns c gs f intTypes 0b000111100 2 true true false false false (satOk f)
    (fun a b _ => narrow f (intVal f.ty a - intVal f.ty b)) st

/-- IMUL (R183, R184): low 32 bits of A × B. -/
def execImul (c : Fin 512) (gs : Fin 64) (f : InsF) (st : State) : Out :=
  vecIns c gs f [0, 1] 0b000111100 2 true true false false false true
    (fun a b _ => narrow f (intVal f.ty a * intVal f.ty b)) st

/-- IMAD (R183, R184): low 32 bits of A × B + C, formed exactly. -/
def execImad (c : Fin 512) (gs : Fin 64) (f : InsF) (st : State) : Out :=
  vecIns c gs f [0, 1] 0b000111100 3 true true false false false true
    (fun a b x => narrow f (intVal f.ty a * intVal f.ty b + intVal f.ty x)) st

/-- IMIN (R183): the smaller, compared as the type. -/
def execImin (c : Fin 512) (gs : Fin 64) (f : InsF) (st : State) : Out :=
  vecIns c gs f intTypes 0b000111000 2 true true false false false true
    (fun a b _ => if intVal f.ty b < intVal f.ty a then b else a) st

/-- IMAX (R183): the larger, compared as the type. -/
def execImax (c : Fin 512) (gs : Fin 64) (f : InsF) (st : State) : Out :=
  vecIns c gs f intTypes 0b000111000 2 true true false false false true
    (fun a b _ => if intVal f.ty a < intVal f.ty b then b else a) st

/-- AND (R183). -/
def execAnd (c : Fin 512) (gs : Fin 64) (f : InsF) (st : State) : Out :=
  vecIns c gs f intTypes 0b000111000 2 true true false false false true (fun a b _ => a &&& b) st

/-- OR (R183). -/
def execOr (c : Fin 512) (gs : Fin 64) (f : InsF) (st : State) : Out :=
  vecIns c gs f intTypes 0b000111000 2 true true false false false true (fun a b _ => a ||| b) st

/-- XOR (R183). -/
def execXor (c : Fin 512) (gs : Fin 64) (f : InsF) (st : State) : Out :=
  vecIns c gs f intTypes 0b000111000 2 true true false false false true (fun a b _ => a ^^^ b) st

/-- NOT (R183): the complement of A. -/
def execNot (c : Fin 512) (gs : Fin 64) (f : InsF) (st : State) : Out :=
  vecIns c gs f intTypes 0b000001000 1 true false false false false true
    (fun a _ _ => 2 ^ intWidth f.ty - 1 - a % 2 ^ intWidth f.ty) st

/-- SHL (R183, R184): an amount at or above the width gives 0. -/
def execShl (c : Fin 512) (gs : Fin 64) (f : InsF) (st : State) : Out :=
  vecIns c gs f intTypes 0b000111000 2 true true false true false true
    (fun a b _ => a * 2 ^ (b % 256) % 2 ^ intWidth f.ty) st

/-- SHR (R183, R184): arithmetic for the signed types. -/
def execShr (c : Fin 512) (gs : Fin 64) (f : InsF) (st : State) : Out :=
  vecIns c gs f intTypes 0b000111000 2 true true false true false true
    (fun a b _ => ofSigned (intWidth f.ty) (intVal f.ty a / 2 ^ (b % 256))) st

/-- POPC (R183): the number of set bits of A, as U32. -/
def execPopc (c : Fin 512) (gs : Fin 64) (f : InsF) (st : State) : Out :=
  vecIns c gs f [0, 2] 0 1 false false false false true true
    (fun a _ _ => ((List.range 64).filter fun i => bitAt a i).length) st

/-- CLZ (R183): leading zeros of A, the width when A is 0. -/
def execClz (c : Fin 512) (gs : Fin 64) (f : InsF) (st : State) : Out :=
  vecIns c gs f [0, 2] 0 1 false false false false true true (fun a _ _ => intWidth f.ty - bitLen a) st

/-- The checks of MOV (R87, R183). -/
def movShape (r : Nat) (f : InsF) : Shape :=
  let n := if is64 f.ty then 2 else 1
  { legal := (f.ty == 0 || f.ty == 2) && modBits f == 0 && f.a == 0xFF && (!f.wide || f.imm18 == 0) && regOk r f.d n
    wideOk := true
    guardOk := !isU f.d
    regs := regList f.d n }

/-- MOV (R183): imm18 sign-extended, or the second word. -/
def execMov (c : Fin 512) (gs : Fin 64) (f : InsF) (st : State) : Out :=
  let n := if is64 f.ty then 2 else 1
  let imm := if f.wide then f.ext.toNat else ofSigned 64 (toSigned 18 f.imm18)
  onMem st fun d => issueGroup st.clk c gs f (movShape (d.rOf c gs) f) (fun g => putResult g f n fun _ => imm) d

/-! ### Select, predicates -/

/-- SEL (R183): A where predicate C is 1, else B. -/
def execSel (c : Fin 512) (gs : Fin 64) (f : InsF) (st : State) : Out :=
  vecIns c gs f [0, 1, 4, 5, 6] 0b000011000 3 true true true false false true (fun a b p => if p % 2 = 1 then a else b) st

/-- SETP (R183 to R185): predicate D takes A condition B. -/
def execSetp (c : Fin 512) (gs : Fin 64) (f : InsF) (st : State) : Out :=
  let cond := f.bits 62 59
  vecIns c gs f [0, 1, 2, 3, 4] 0b011110000 2 false true false false true
    (isP f.d && decide (cond < (if f.ty = 4 then 8 else 6)))
    (fun a b _ => b2n (if f.ty = 4 then fltCond cond a b else intCond f.ty cond a b)) st

/-- PLOP (R183): predicate logic on A, B and C by a truth table. -/
def execPlop (c : Fin 512) (gs : Fin 64) (f : InsF) (st : State) : Out :=
  vecIns c gs f [0] 0b011111111 3 false false false false true (isP f.d) (fun a b x => plopBit (f.bits 62 55) a b x) st

/-! ### Lane exchange (R184) -/

/-- Source lane of SHFL: 0 IDX, 1 UP, 2 DOWN, 3 XOR (R184). -/
def shflLane (mode b l : Nat) : Nat :=
  if mode = 0 then b % 32
  else if mode = 1 then (if b ≤ l then l - b else l)
  else if mode = 2 then (if l + b ≤ 31 then l + b else l)
  else l ^^^ (b % 32)

/-- SHFL (R184): A from the source lane, active or not. -/
def execShfl (c : Fin 512) (gs : Fin 64) (f : InsF) (st : State) : Out :=
  onMem st fun d => issueGroup st.clk c gs f (vecShape (d.rOf c gs) f [0] 0b000110000 2 false false false false false true)
    (fun g => putResult g f 1 fun l => (g.reg f.a (shflLane (f.bits 60 59) (g.reg f.b l).toNat l)).toNat) d

/-- The checks of VOTE (R87, R184). -/
def voteShape (f : InsF) : Shape :=
  { legal := f.ty == 0 && modBits f &&& 0b000110000 == modBits f && f.bits 60 59 != 3 && isU f.d && isP f.a && f.b == 0xFF && f.c == 0xFF
    wideOk := false
    guardOk := false
    regs := [f.d, f.a] }

/-- VOTE (R184): a u register takes ANY, ALL or BALLOT of predicate A over the active lanes. -/
def execVote (c : Fin 512) (gs : Fin 64) (f : InsF) (st : State) : Out :=
  onMem st fun d => issueGroup st.clk c gs f (voteShape f)
    (fun g => g.setReg f.d 0 (voteOf (f.bits 60 59) g.active (mget 0 g.p (f.a - 0x140)))) d

/-! ### Special values (R80) -/

/-- The value of a special index as a lane reads it (R80). -/
def rdsv (k : Clock) (d : Dev) (c s idx a l : Nat) : Nat :=
  let co := d.core c
  let g := co.group s
  let b := co.block g.block
  match idx with
  | 0x00 => l
  | 0x01 => c
  | 0x02 => s
  | 0x03 => g.block
  | 0x04 => d.id
  | 0x05 => b.ctx
  | 0x06 => b.berth
  | 0x07 => g.active.toNat
  | 0x08 => b.barGen
  | 0x09 => k.setting
  | 0x0A => k.tsc % 2 ^ 64
  | 0x0B => gtime k d
  | 0x0C => (k.ccyc - co.ccBase) % 2 ^ 64
  | _ => match b.units[a]? with
    | some u => u
    | none => 0xFFFFFFFF

/-- Registers of a special value. -/
def rdsvCount (f : InsF) : Nat := if 0x0A ≤ f.imm18 % 256 ∧ f.imm18 % 256 ≤ 0x0C then 2 else 1

/-- The checks of RDSV (R80, R87). -/
def rdsvShape (r : Nat) (f : InsF) : Shape :=
  let idx := f.imm18 % 256
  let n := rdsvCount f
  { legal := f.bits 63 50 == 0 && f.imm18 / 256 == 0 && decide (idx ≤ 0x0D) && regOk r f.d n &&
      (idx != 0 || isV f.d) &&
      (if idx = 0x0D then regOk r f.a 1 && (!isU f.d || isZero f.a || isU f.a) else f.a == 0xFF)
    wideOk := false
    guardOk := !isU f.d
    regs := regList f.d n ++ regList f.a 1 }

/-- RDSV (R80). -/
def execRdsv (c : Fin 512) (gs : Fin 64) (f : InsF) (st : State) : Out :=
  onMem st fun d => issueGroup st.clk c gs f (rdsvShape (d.rOf c gs) f)
    (fun g => putResult g f (rdsvCount f) fun l => rdsv st.clk d c gs (f.imm18 % 256) (g.reg f.a l).toNat l) d

/-- The checks of NOP (R87, R88). -/
def nopShape (f : InsF) : Shape :=
  { legal := f.bits 63 50 == 0 && f.d == 0xFF && f.a == 0xFF && f.b == 0xFF && f.c == 0xFF
    wideOk := false
    guardOk := true
    regs := [] }

/-- NOP (R88): nothing. -/
def execNop (c : Fin 512) (gs : Fin 64) (f : InsF) (st : State) : Out :=
  onMem st fun d => issueGroup st.clk c gs f (nopShape f) id d

end Sys2Proof.Machine
end

