-- ==== Sys2Proof/Machine/FloatOps.lean ====
section
/-! DEFINITION. The floating-point instructions (R185, R186, R99), CVT (R106) and CVT.AMAX (R107). -/

namespace Sys2Proof.Machine

/-- Apply an operation to the elements of a register: one F32, or two halves of BF16x2 (type 5) or F16x2 (type 6) (R185). -/
def onParts (ty : Nat) (op : Fmt → Nat → Nat → Nat → Nat) (a b c : Nat) : Nat :=
  if ty = 4 then op fp32 a b c
  else
    let f := if ty = 5 then bf16 else fp16
    op f (a % 65536) (b % 65536) (c % 65536) + 65536 * op f (a / 65536) (b / 65536) (c / 65536)

/-- Rounding of bits [56:55] (R185). -/
def fRound (f : InsF) : RMode := if f.bits 56 55 = 1 then .zero else .rne

/-- FADD, FSUB, FMUL and FFMA on values, before rounding. -/
def fIns (c s : Nat) (f : InsF) (uses : Nat) (op : FVal → FVal → FVal → FVal) (st : State) : Out :=
  vecIns c s f [4, 5, 6] 0b000111011 uses true true false false false (decide (f.bits 56 55 ≤ 1))
    (onParts f.ty fun m a b x => farith m (fRound f) (op (fdecode m a) (fdecode m b) (fdecode m x))) st

/-- FADD (R183, R185): A + B. -/
def execFadd (c : Fin 512) (gs : Fin 64) (f : InsF) (st : State) : Out := fIns c gs f 2 (fun a b _ => fadd a b) st

/-- FSUB (R183, R185): A − B. -/
def execFsub (c : Fin 512) (gs : Fin 64) (f : InsF) (st : State) : Out := fIns c gs f 2 (fun a b _ => fadd a (fneg b)) st

/-- FMUL (R183, R185): A × B. -/
def execFmul (c : Fin 512) (gs : Fin 64) (f : InsF) (st : State) : Out := fIns c gs f 2 (fun a b _ => fmul a b) st

/-- FFMA (R183, R185): A × B + C, rounded once. -/
def execFfma (c : Fin 512) (gs : Fin 64) (f : InsF) (st : State) : Out := fIns c gs f 3 (fun a b x => fadd (fmul a b) x) st

/-- FMIN and FMAX (R99): an operation without rounding. -/
def fMinMax (mx : Bool) (c s : Nat) (f : InsF) (st : State) : Out :=
  vecIns c s f [4, 5, 6] 0b000111000 2 true true false false false true
    (onParts f.ty fun m a b _ => farith m .rne (fminmax mx (fdecode m a) (fdecode m b))) st

/-- FMIN (R99, R183). -/
def execFmin (c : Fin 512) (gs : Fin 64) (f : InsF) (st : State) : Out := fMinMax false c gs f st

/-- FMAX (R99, R183). -/
def execFmax (c : Fin 512) (gs : Fin 64) (f : InsF) (st : State) : Out := fMinMax true c gs f st

/-- The transcendentals (R186): operation 0 EXP2, 1 LOG2, 2 RSQRT, 3 RCP. -/
def transIns (op c s : Nat) (f : InsF) (st : State) : Out :=
  vecIns c s f [4, 5] 0b000001000 1 true false false false false true (onParts f.ty fun m a _ _ => transOp m op a) st

/-- EXP2 (R186). -/
def execExp2 (c : Fin 512) (gs : Fin 64) (f : InsF) (st : State) : Out := transIns 0 c gs f st

/-- LOG2 (R186). -/
def execLog2 (c : Fin 512) (gs : Fin 64) (f : InsF) (st : State) : Out := transIns 1 c gs f st

/-- RSQRT (R186). -/
def execRsqrt (c : Fin 512) (gs : Fin 64) (f : InsF) (st : State) : Out := transIns 2 c gs f st

/-- RCP (R186). -/
def execRcp (c : Fin 512) (gs : Fin 64) (f : InsF) (st : State) : Out := transIns 3 c gs f st

/-! ### Conversions -/

/-- Elements of a type that one operand holds (R106). -/
def ETy.count (t : ETy) : Nat := if t.place < 32 then 32 / t.place else 1

/-- Registers of an operand of a type. -/
def ETy.nreg (t : ETy) : Nat := if t.place = 64 then 2 else 1

/-- Rounding of bits [61:60] with the draw of a lane (R106, R162). -/
def cvtMode (f : InsF) (core n : Nat) : RMode :=
  match f.bits 61 60 with
  | 0 => .rne
  | 1 => .zero
  | _ => .stochastic (Config.stochastic core n % 65536)

/-- The mod bits of R106 that CVT and CVT.AMAX share: bit [63] is 0, the rounding is not reserved and not stochastic for E8M0
(R164), and IEEE overflow has a destination with infinities. -/
def cvtModOk (f : InsF) (t : ETy) : Bool :=
  f.bits 63 63 == 0 && f.bits 61 60 != 3 && (f.bits 62 62 == 0 || t.hasInf) && (t != .e8m0 || f.bits 61 60 != 2)

/-- Draws that an instruction takes (R162): one for each lane that it converts, in the stochastic mode. -/
def drawCount (f : InsF) (g : Group) : Nat :=
  if f.bits 61 60 != 2 then 0 else if isU f.d then 1 else (lanesOf (g.acting f)).length

/-- The place of a lane in the order of draws. -/
def drawPlace (f : InsF) (g : Group) (l : Nat) : Nat :=
  if isU f.d then 0 else ((lanesOf (g.acting f)).filter fun i => decide (i < l)).length

/-- Destination type of CVT and CVT.AMAX. -/
def cvtDst (f : InsF) : ETy := (etyOf f.ty).getD .e8m0

/-- Source type of CVT. -/
def cvtSrc (f : InsF) : ETy := (etyOf (f.bits 59 55)).getD .e8m0

/-- The checks of CVT (R87, R106). -/
def cvtShape (r : Nat) (f : InsF) : Shape :=
  let td := cvtDst f
  let ts := cvtSrc f
  { legal := (etyOf f.ty).isSome && (etyOf (f.bits 59 55)).isSome && cvtModOk f td && f.imm18 / 64 == 0 &&
      decide (f.imm18 % 8 < ts.count) && decide (f.imm18 / 8 % 8 < td.count) &&
      regOk r f.d td.nreg && regOk r f.a ts.nreg && (!isU f.d || isZero f.a || isU f.a)
    wideOk := false
    guardOk := !isU f.d
    regs := regList f.d td.nreg ++ regList f.a ts.nreg }

/-- What CVT writes to D in a lane (R106): element se of A, rounded, at place de of D, whose other elements stay. -/
def cvtVal (g : Group) (f : InsF) (core n0 l : Nat) : Nat :=
  let td := cvtDst f
  let ts := cvtSrc f
  let x := edecode ts (bitsAt (g.opnd f.a ts.nreg l) (f.imm18 % 8 * ts.place) ts.place)
  let e := eround td (cvtMode f core (n0 + drawPlace f g l)) (f.bits 62 62 == 1) x
  if td.place < 32 then setBits (g.opnd f.d 1 l) (f.imm18 / 8 % 8 * td.place) td.place e else e

/-- CVT (R106): one element of A to one element of D. -/
def execCvt (c : Fin 512) (gs : Fin 64) (f : InsF) (st : State) : Out :=
  onMem st fun d => issue st.clk c gs f (cvtShape (d.rOf c gs) f)
    (fun d =>
      let n0 := (d.core c).draws
      let g := d.group c gs
      d.updCore c fun k => { k.setGroup gs ((putResult g f (cvtDst f).nreg (cvtVal g f c n0)).advance f.len) with
        draws := n0 + drawCount f g }) d

/-- The maximum of a word and of |A| over some lanes (R107, R99): a NaN gives the quiet NaN. -/
def amaxOf (cur : Nat) (vals : List Nat) : Nat :=
  farith fp32 .rne (vals.foldl (fun m a => fminmax true m (fabs (fdecode fp32 a))) (fdecode fp32 cur))

/-- The checks of CVT.AMAX (R87, R107). (DEDUCED, assumption 21.) -/
def cvtAmaxShape (r : Nat) (f : InsF) : Shape :=
  let td := cvtDst f
  { legal := (etyOf f.ty).isSome && f.bits 59 55 == 4 && cvtModOk f td && regOk r f.d td.nreg && regOk r f.a 1 &&
      regOk r f.b 1 && isU f.c && (!isU f.d || ((isZero f.a || isU f.a) && (isZero f.b || isU f.b)))
    wideOk := false
    guardOk := !isU f.d
    regs := regList f.d td.nreg ++ [f.a, f.b, f.c] }

/-- What CVT.AMAX writes to D in a lane (R107). -/
def cvtAmaxVal (g : Group) (f : InsF) (core n0 l : Nat) : Nat :=
  eround (cvtDst f) (cvtMode f core (n0 + drawPlace f g l)) (f.bits 62 62 == 1)
    (fmul (fdecode fp32 (g.reg f.a l).toNat) (fdecode fp32 (g.reg f.b l).toNat))

/-- What CVT.AMAX writes to u register C (R107). -/
def cvtAmaxMax (g : Group) (f : InsF) : W32 :=
  let lanes := if isU f.d then [0] else lanesOf (g.acting f)
  BitVec.ofNat 32 (amaxOf (g.reg f.c 0).toNat (lanes.map fun l => (g.reg f.a l).toNat))

/-- CVT.AMAX (R107): D takes round(A × B), and u register C the maximum of C and |A| over the active lanes.
(DESIGN CHOICE, assumption 157.) -/
def execCvtAmax (c : Fin 512) (gs : Fin 64) (f : InsF) (st : State) : Out :=
  onMem st fun d => issue st.clk c gs f (cvtAmaxShape (d.rOf c gs) f)
    (fun d =>
      let n0 := (d.core c).draws
      let g := d.group c gs
      let g' := (putResult g f (cvtDst f).nreg (cvtAmaxVal g f c n0)).setReg f.c 0 (cvtAmaxMax g f)
      d.updCore c fun k => { k.setGroup gs (g'.advance f.len) with draws := n0 + drawCount f g }) d

end Sys2Proof.Machine
end

