-- ==== Sys2Proof/Machine/Control.lean ====
section
/-! DEFINITION. Control: branches and the mask stack (R54 to R57, R82, R89), calls, EXIT and its unwinding (R56), the block barrier
(R58 to R61), and the end of a group (R40, R72, R75). -/

namespace Sys2Proof.Machine

/-- Registers that a control instruction of Reg class names: A only, or none (R87). -/
def ctlShape (f : InsF) (useA : Bool) : Shape :=
  { legal := f.bits 63 50 == 0 && f.d == 0xFF && f.b == 0xFF && f.c == 0xFF &&
      (if useA then isU f.a && f.a % 2 == 0 else f.a == 0xFF)
    wideOk := false
    guardOk := false
    regs := if useA then regList f.a 2 else [] }

/-- The checks of a branch: reserved bits are zero, and bits [18:14] too where the branch takes no predicate (R81, R82). -/
def braShape (f : InsF) (pred : Bool) (regs : List Nat) : Shape :=
  { legal := f.bits 63 50 == 0 && f.bits 19 19 == 0 && (pred || f.bits 18 14 == 0)
    wideOk := false
    guardOk := false
    regs := regs }

/-- Target of a branch (R82): the instruction's own address plus 8 times offset30. -/
def braTarget (pc : BitVec 64) (f : InsF) : BitVec 64 := pc + BitVec.ofInt 64 (8 * toSigned 30 (f.bits 49 20))

/-- The address of the following instruction. -/
def Group.nextPc (g : Group) : BitVec 64 := g.pc + 8

/-- The group goes on at an address with a mask; what a replay kept is spent (R72). -/
def Group.goTo (g : Group) (pc : BitVec 64) (a : BitVec 32) : Group :=
  { g with pc := pc, active := a, replay := none, resume := none, heldSince := none, absent := [] }

/-- The unwinding of R56: the mask, place and stack with which the group goes on; none when the stack runs out. -/
def unwind : List MaskEntry → Option (BitVec 32 × BitVec 64 × List MaskEntry)
  | [] => none
  | e :: t =>
    if e.mask = 0 then unwind t
    else if e.kind = .deferred then some (e.mask, e.addr.setWidth 64, t)
    else some (e.mask, e.addr.setWidth 64, e :: t)

/-! ### Going on, or exiting -/

/-- A group whose mask may have become zero goes on, unwinds its stack, or exits (R56). -/
def Dev.resumeOrUnwind (d : Dev) (k : Clock) (c s : Nat) (g : Group) : Dev :=
  if g.active ≠ 0 then d.setGroup c s g
  else
    match unwind g.stack with
    | some (a, pc, st) => d.setGroup c s { g with active := a, pc := pc, stack := st }
    | none => (d.setGroup c s g).exitGroup k c s

/-! ### Branches (R54, R82, R89) -/

/-- BRA (R82). -/
def execBra (c : Fin 512) (gs : Fin 64) (f : InsF) (st : State) : Out :=
  onMem st fun d => issue st.clk c gs f (braShape f false [])
    (fun d => d.updGroup c gs fun g => g.goTo (braTarget g.pc f) g.active) d

/-- The lanes of a branch's predicate (R81): its bit, inverted when the negate bit is set. -/
def braPred (g : Group) (f : InsF) : BitVec 32 :=
  let p := mget 0 g.p (f.bits 16 14)
  if f.bits 17 17 = 1 then ~~~p else p

/-- BRX (R54). -/
def execBrx (c : Fin 512) (gs : Fin 64) (f : InsF) (st : State) : Out :=
  onMem st fun d => issue st.clk c gs f (braShape f true [0x140 + f.bits 16 14])
    (fun d =>
      let g := d.group c gs
      let t := g.active &&& braPred g f
      if t = g.active then d.setGroup c gs (g.goTo (braTarget g.pc f) g.active)
      else if t = 0 then d.setGroup c gs (g.goTo g.nextPc g.active)
      else if 16 ≤ g.stack.length then d.parkGroup st.clk c gs 4 g.pc 0 16 0 g.active
      else
        let e : MaskEntry := { kind := .deferred, mask := g.active &&& ~~~t, addr := g.nextPc.setWidth 56 }
        d.setGroup c gs { g.goTo (braTarget g.pc f) t with stack := e :: g.stack }) d

/-- BRX.ANY (R89). -/
def execBrxAny (c : Fin 512) (gs : Fin 64) (f : InsF) (st : State) : Out :=
  onMem st fun d => issue st.clk c gs f (braShape f true [0x140 + f.bits 16 14])
    (fun d =>
      let g := d.group c gs
      let t := g.active &&& braPred g f
      let top := g.stack.head?.filter fun e => e.kind == .deferred && e.addr.setWidth 64 == g.nextPc
      if t = 0 then
        match top with
        | some e => d.setGroup c gs { g.goTo g.nextPc (g.active ||| e.mask) with stack := g.stack.tail }
        | none => d.setGroup c gs (g.goTo g.nextPc g.active)
      else if t = g.active then d.setGroup c gs (g.goTo (braTarget g.pc f) g.active)
      else
        match top with
        | some e =>
          d.setGroup c gs { g.goTo (braTarget g.pc f) t with
            stack := { e with mask := e.mask ||| (g.active &&& ~~~t) } :: g.stack.tail }
        | none =>
          if 16 ≤ g.stack.length then d.parkGroup st.clk c gs 4 g.pc 0 16 0 g.active
          else
            let e : MaskEntry := { kind := .deferred, mask := g.active &&& ~~~t, addr := g.nextPc.setWidth 56 }
            d.setGroup c gs { g.goTo (braTarget g.pc f) t with stack := e :: g.stack }) d

/-- PUSHM (R54, R55). (DEDUCED, assumption 139.) -/
def execPushm (c : Fin 512) (gs : Fin 64) (f : InsF) (st : State) : Out :=
  onMem st fun d => issue st.clk c gs f (braShape f false [])
    (fun d =>
      let g := d.group c gs
      if 16 ≤ g.stack.length then d.parkGroup st.clk c gs 4 g.pc 0 16 0 g.active
      else
        let e : MaskEntry := { kind := .reconverge, mask := g.active, addr := (braTarget g.pc f).setWidth 56 }
        d.setGroup c gs { g.goTo g.nextPc g.active with stack := e :: g.stack }) d

/-- POPM (R54): an empty stack parks the group with ILLEGAL_INSTRUCTION, detail 1. -/
def execPopm (c : Fin 512) (gs : Fin 64) (f : InsF) (st : State) : Out :=
  onMem st fun d => issue st.clk c gs f (ctlShape f false)
    (fun d =>
      let g := d.group c gs
      match g.stack with
      | [] => d.illegal st.clk c gs 1
      | e :: t =>
        let pc := if e.kind = .deferred then e.addr.setWidth 64 else g.nextPc
        d.resumeOrUnwind st.clk c gs { g.goTo pc e.mask with stack := t }) d

/-- SWAPM (R54): a swap that changes the stack resets the spin counts (R62). -/
def execSwapm (c : Fin 512) (gs : Fin 64) (f : InsF) (st : State) : Out :=
  onMem st fun d => issue st.clk c gs f (ctlShape f false)
    (fun d =>
      let g := d.group c gs
      match g.stack with
      | e :: t =>
        if e.kind = .deferred then
          let top : MaskEntry := { kind := .deferred, mask := g.active, addr := g.nextPc.setWidth 56 }
          d.resumeOrUnwind st.clk c gs { g.goTo (e.addr.setWidth 64) e.mask with stack := top :: t, spins := [] }
        else d.setGroup c gs (g.goTo g.nextPc g.active)
      | [] => d.setGroup c gs (g.goTo g.nextPc g.active)) d

/-! ### Calls (R88) -/

/-- CALL (R88): next goes to u62 and u63. -/
def execCall (c : Fin 512) (gs : Fin 64) (f : InsF) (st : State) : Out :=
  onMem st fun d => issue st.clk c gs f (braShape f false [0x13E, 0x13F])
    (fun d => d.updGroup c gs fun g =>
      (g.setOpnd 0x13E 2 0 g.nextPc.toNat).goTo (braTarget g.pc f) g.active) d

/-- RET (R88): the target is the u pair in A; the fetch from it parks the group where bits [63:56] are set (R32).
(DEDUCED, assumption 165.) -/
def execRet (c : Fin 512) (gs : Fin 64) (f : InsF) (st : State) : Out :=
  onMem st fun d => issue st.clk c gs f (ctlShape f true)
    (fun d => d.updGroup c gs fun g => g.goTo (BitVec.ofNat 64 (g.opnd f.a 2 0)) g.active) d

/-- BRI (R88): the target is the u pair in A; the fetch from it parks the group where bits [63:56] are set (R32). -/
def execBri (c : Fin 512) (gs : Fin 64) (f : InsF) (st : State) : Out :=
  onMem st fun d => issue st.clk c gs f (ctlShape f true)
    (fun d => d.updGroup c gs fun g => g.goTo (BitVec.ofNat 64 (g.opnd f.a 2 0)) g.active) d

/-! ### EXIT and BAR -/

/-- EXIT (R56): the active lanes exit, and the stack unwinds. -/
def execExit (c : Fin 512) (gs : Fin 64) (f : InsF) (st : State) : Out :=
  onMem st fun d => issue st.clk c gs f (ctlShape f false)
    (fun d =>
      let g := d.group c gs
      let keep := ~~~g.active
      d.resumeOrUnwind st.clk c gs { g.goTo g.nextPc 0 with
        live := g.live &&& keep, stack := g.stack.map fun e => { e with mask := e.mask &&& keep } }) d

/-- BAR (R58, R59): the group arrives, or parks with BAR_DIVERGED when a lane that has not exited is inactive. -/
def execBar (c : Fin 512) (gs : Fin 64) (f : InsF) (st : State) : Out :=
  onMem st fun d => issue st.clk c gs f (ctlShape f false)
    (fun d =>
      let g := d.group c gs
      let b := (d.core c).block g.block
      if g.active ≠ g.live then d.parkGroup st.clk c gs 5 g.pc 0 b.barGen 0 g.active
      else
        let d := d.setGroup c gs { g.goTo g.nextPc g.active with st := .barrier }
        let e := d.barCheck st.clk c g.block gs
        if (e.group c gs).st = .barrier then
          d.ledger st.clk c b.ctx 0x01 (awGroup c gs g.block 0) (barObj g.block b.barGen) 0 0 0 false none
        else e) d

end Sys2Proof.Machine
end

