-- ==== Sys2Proof/Machine/AtomicEval.lean ====
section
/-! DEFINITION. What an atomic does to a location: the operations of R98 to R100 over the operands of a partition of lanes, and
the lock word (R102, R103). The same evaluation serves near, far, local and device atomics. -/

namespace Sys2Proof.Machine

/-- The combining operation of an atomic: 0 ADD, 1 MIN, 2 MAX, 3 AND, 4 OR, 5 XOR (R98, R99). -/
def atomOp (op ty a b : Nat) : Nat :=
  let flt := ty == 4 || ty == 5
  let two := fun (h : Fmt → FVal → FVal → FVal) =>
    onParts ty (fun m x y _ => farith m .rne (h m (fdecode m x) (fdecode m y))) a b 0
  match op with
  | 0 => if flt then two fun _ => fadd else (a + b) % 2 ^ intWidth ty
  | 1 => if flt then two fun _ => fminmax false else if intVal ty b < intVal ty a then b else a
  | 2 => if flt then two fun _ => fminmax true else if intVal ty a < intVal ty b then b else a
  | 3 => a &&& b
  | 4 => a ||| b
  | _ => a ^^^ b

/-- The prefixes of R100: for operands a1, a2, … the values before each lane's own operand is added, none before the first. -/
def atomPrefixes (op ty : Nat) : Option Nat → List Nat → List (Option Nat) × Option Nat
  | acc, [] => ([], acc)
  | acc, a :: t =>
    let r := atomPrefixes op ty (some (acc.elim a fun s => atomOp op ty s a)) t
    (acc :: r.1, r.2)

/-- A combining atomic (R100): the new value, and what each lane receives. -/
def atomCombine (op ty x : Nat) (ops : List Nat) : Nat × List Nat :=
  let r := atomPrefixes op ty none ops
  let put := fun (s : Option Nat) => s.elim x fun v => atomOp op ty x v
  (put r.2, r.1.map put)

/-- EXCH: the lanes act one after another (R100). -/
def atomExch : Nat → List Nat → Nat × List Nat
  | x, [] => (x, [])
  | x, a :: t => let r := atomExch a t; (r.1, x :: r.2)

/-- CAS on (compare, swap) pairs, one lane after another (R100). -/
def atomCas : Nat → List Nat → Nat × List Nat
  | x, a :: b :: t => let r := atomCas (if x = a then b else x) t; (r.1, x :: r.2)
  | x, _ => (x, [])

/-! ### Lock words -/

/-- The holder's identity in a lock word, with held set (R102). -/
def lockId (lane slot core dev fill : Nat) : Nat :=
  packBits [(0, 1, 1), (1, 5, lane), (6, 6, slot), (12, 9, core), (21, 12, dev), (33, 8, fill)]

/-- Lane of a lock word's holder. -/
def lockLane (w : Nat) : Nat := bitsAt w 1 5
/-- Group slot of a lock word's holder. -/
def lockSlot (w : Nat) : Nat := bitsAt w 6 6
/-- Core of a lock word's holder. -/
def lockCore (w : Nat) : Nat := bitsAt w 12 9
/-- Device of a lock word's holder. -/
def lockDev (w : Nat) : Nat := bitsAt w 21 12

/-- One lane's ACQ (R102): the new word and the status. -/
def lockAcq (x id : Nat) : Nat × Nat :=
  if x % 2 = 0 then (id + 2 ^ 48 * ((bitsAt x 48 16 + 1) % 65536), 0)
  else if bitsAt x 6 35 = bitsAt id 6 35 then (x, 2 + lockLane x * 256)
  else (x, 1)

/-- One lane's REL (R103). -/
def lockRel (x id : Nat) : Nat × Nat :=
  if x % 2 = 1 ∧ bitsAt x 1 40 = bitsAt id 1 40 then (2 ^ 48 * (x / 2 ^ 48), 0) else (x, 3)

/-- ACQ of several lanes in turn: each gets its status and the word it found. -/
def lockAcqs : Nat → List Nat → Nat × List Nat
  | x, [] => (x, [])
  | x, a :: t => let r := lockAcqs (lockAcq x a).1 t; (r.1, (lockAcq x a).2 :: x :: r.2)

/-- REL of several lanes in turn. -/
def lockRels : Nat → List Nat → Nat × List Nat
  | x, [] => (x, [])
  | x, a :: t => let r := lockRels (lockRel x a).1 t; (r.1, (lockRel x a).2 :: r.2)

/-- An atomic on a location that holds `x`: operations 0 to 7 as R98 orders them, 8 ACQ, 9 REL. CAS takes compare and swap per
lane, ACQ and REL take each lane's identity; ACQ answers status and word per lane. -/
def atomEval (op ty x : Nat) (ds : List Nat) : Nat × List Nat :=
  match op with
  | 6 => atomExch x ds
  | 7 => atomCas x ds
  | 8 => lockAcqs x ds
  | 9 => lockRels x ds
  | _ => atomCombine op ty x ds

/-- Bytes of an atomic's location. (DESIGN CHOICE, assumption 180.) -/
def atomWidth (op ty : Nat) : Nat := if 8 ≤ op then 8 else accWidth ty

/-- The operation and type pairs that R98 allows. -/
def atomOk (op ty : Nat) : Bool :=
  if op = 3 ∨ op = 4 ∨ op = 5 then [0, 1, 2].contains ty else [0, 1, 2, 4, 5].contains ty

end Sys2Proof.Machine
end

