-- ==== Sys2Proof/Machine/MemPipe.lean ====
section
/-! DEFINITION. The memory pipe of a core: what an instruction in flight does to a line, from the L1 or by a request to a slice
(R52, R90 to R103, R195, R196, R199, R200, R242, R252 to R255). -/

namespace Sys2Proof.Machine

/-- Offset of an access in its line. -/
def LaneAcc.off (a : LaneAcc) : Nat := a.ga % 128

/-- Whether a memory type is tracked by the directory (R198). -/
def isTracked (mtype : Nat) : Bool := mtype == 0 || mtype == 3

/-- Whether an operation reads, modifies and writes. -/
def isAtomic (k : MemKind) : Bool := k == .atomic || k == .acq || k == .rel

/-- Code of an operation in flight, as `atomEval` takes it. -/
def MemOp.code (o : MemOp) : Nat := match o.kind with
  | .acq => 8
  | .rel => 9
  | _ => o.aop

/-- Change an instruction in flight. -/
def Dev.updOp (d : Dev) (c n : Nat) (f : MemOp → MemOp) : Dev :=
  d.updCore c fun k => { k with ops := k.ops.map fun e => if e.1 = n then (e.1, f e.2) else e }

/-- The effect of some lanes is performed. -/
def MemOp.finish (o : MemOp) (ls : List Nat) : MemOp :=
  { o with lanes := o.lanes.filter fun a => !ls.contains a.lane
           done := if isU o.dst then o.done else o.done ||| maskOf ls }

/-- Some lanes fault. -/
def MemOp.fail (o : MemOp) (xs : List (Nat × Nat × Nat × Nat)) : MemOp :=
  let ls := xs.map Prod.fst
  { o with lanes := o.lanes.filter fun a => !ls.contains a.lane, flt := o.flt ++ xs }

/-- Value that a load writes for the bytes it read (R90). -/
def loadValue (ty raw : Nat) : Nat :=
  if ty = 9 then ofSigned 32 (toSigned 8 raw) else if ty = 11 then ofSigned 32 (toSigned 16 raw) else raw

/-- Whether an access of `w` bytes meets a poisoned word. -/
def accPoison (p : BitVec 16) (off w : Nat) : Bool :=
  (List.range ((w + 7) / 8)).any fun i => p.getLsbD (off / 8 + i)

/-- Write a result into a lane's destination. -/
def Dev.putLane (d : Dev) (c : Nat) (o : MemOp) (l n v : Nat) : Dev :=
  d.updGroup c o.slot fun g => g.setOpnd o.dst n l v

/-- Bind the loads of an instruction on a line to the line's bytes (R90, R69). -/
def Dev.bindLoads (d : Dev) (c n : Nat) (o : MemOp) (mine : List LaneAcc) (data : Line) (p : BitVec 16) : Dev :=
  let w := accWidth o.ty
  let bad := mine.filter fun a => accPoison p a.off w
  let good := mine.filter fun a => !accPoison p a.off w
  let d := good.foldl (fun d a => d.putLane c o a.lane (dstCount o.ty) (loadValue o.ty (lineGet data a.off w))) d
  d.updOp c n fun o => (o.finish (good.map LaneAcc.lane)).fail (bad.map fun a => (a.lane, 3, a.va, 0))

/-- The bytes that the stores of an instruction put into a line: mask and data, the highest lane last (R92). -/
def storeBytes (o : MemOp) (mine : List LaneAcc) : BitVec 128 × Line :=
  let w := accWidth o.ty
  mine.foldl (fun r a => (r.1 ||| spanMask a.off w, lineSet r.2 a.off w a.data.toNat)) (0, 0)

/-- Operands of the lanes of one partition, as `atomEval` takes them. -/
def atomOperands (o : MemOp) (mine : List LaneAcc) : List Nat :=
  mine.flatMap fun a => if o.aop = 7 ∧ o.kind = .atomic then [a.data.toNat, a.data2.toNat] else [a.data.toNat]

/-- Object and holder of a lock's ledger record (R497). -/
def Dev.lockRecord (d : Dev) (k : Clock) (c : Nat) (o : MemOp) (kind : Nat) (a : LaneAcc) (word status : Nat) : Dev :=
  let b := (d.group c o.slot).block
  let held := kind == 0x06
  d.ledger k c o.ctx kind (awGroup c o.slot b a.lane) (BitVec.ofNat 64 a.va)
    (if held then awGroup (lockCore word) (lockSlot word) 0 (lockLane word) else 0) (if held then lockDev word else 0)
    (if held then status % 256 else 0) (gaDev a.ga != d.id || (held && lockDev word != d.id)) none

/-- One lane's result of an ACQ: status, spin count (R62), ledger (R497). -/
def Dev.acqResult (d : Dev) (k : Clock) (c : Nat) (o : MemOp) (a : LaneAcc) (status word : Nat) : Dev :=
  let d := d.putLane c o a.lane 1 status
  let bit : BitVec 32 := 1#32 <<< a.lane
  let g := d.group c o.slot
  let spin := if status % 256 = 2 then (mget 0 g.spins a.lane / 32 + 1) * 32 + status / 256 else 0
  let g := { g with spins := mset 0 g.spins a.lane spin }
  if status = 0 then
    let d' := d.setGroup c o.slot { g with acqHeld := g.acqHeld &&& ~~~bit }
    if g.acqHeld &&& bit ≠ 0 then d'.lockRecord k c o 0x07 a word 0 else d'
  else (d.setGroup c o.slot { g with acqHeld := g.acqHeld ||| bit }).lockRecord k c o 0x06 a word status

/-- Hand the results of one partition to its lanes (R98, R102, R103). -/
def Dev.atomResults (d : Dev) (k : Clock) (c n : Nat) (o : MemOp) (mine : List LaneAcc) (res : List Nat) : Dev :=
  let d := (mine.zipIdx).foldl (fun d ai =>
    let a := ai.1
    let i := ai.2
    match o.kind with
    | .acq => d.acqResult k c o a (res.getD (2 * i) 0) (res.getD (2 * i + 1) 0)
    | .rel => d.putLane c o a.lane 1 (res.getD i 0)
    | _ => d.putLane c o a.lane (dstCount o.ty) (res.getD i 0)) d
  d.updOp c n fun o => o.finish (mine.map LaneAcc.lane)

/-! ### The contention predictor (R254) -/

/-- Entry of a line. -/
def predIdx (line : Nat) : Nat := (line % 256) ^^^ (line / 256 % 256)

/-- Change a counter, saturating at 0 and 7. -/
def Core.predict (k : Core) (line : Nat) (delta : Int) : Core :=
  let v : Int := Int.ofNat (mget 0 k.predictor (predIdx line)) + delta
  { k with predictor := mset 0 k.predictor (predIdx line) (max 0 (min 7 v)).toNat }

/-- Whether an atomic, an ACQ or a REL runs far (R101, R105, R254, R255). -/
def Core.runsFar (k : Core) (mtype hint line : Nat) : Bool :=
  !isTracked mtype || hint == 2 || (hint == 0 && decide (4 ≤ mget 0 k.predictor (predIdx line)))

/-! ### Atomics on an L1 line (R252) -/

/-- Near atomics of an instruction on a line that the L1 holds in M or E, one partition after another. `how` tells whether a
GetM answer just came, and its contended bit. -/
def Dev.nearAtomics (k : Clock) (c n : Nat) (how : Option Bool) : Nat → Dev → Nat → Dev
  | 0, d, _ => d
  | fuel + 1, d, line =>
    match mget? (d.core c).ops n with
    | none => d
    | some o =>
      match o.lanes.find? fun a => a.line == line with
      | none => d
      | some a0 =>
        let mine := o.lanes.filter fun a => a.ga == a0.ga
        let w := atomWidth o.code o.ty
        match ((d.core c).l1Find line).bind fun i => mget? (d.core c).l1 i with
        | none => d
        | some f =>
          let d :=
            if accPoison f.poison a0.off w then
              d.updOp c n fun o => o.fail (mine.map fun a => (a.lane, 3, a.va, 0))
            else
              let (v, res) := atomEval o.code o.ty (lineGet f.data a0.off w) (atomOperands o mine)
              let m := spanMask a0.off w
              let d := d.updCore c fun co => co.l1Put { f with
                st := .m, dirty := f.dirty ||| sectorsOf m, data := lineSet f.data a0.off w v
                poison := mergePoison m 0 f.poison }
              d.atomResults k c n o mine res
          let delta : Int := match how with
            | some true => 2
            | _ => -1
          let d := d.updCore c fun co => co.predict line delta
          Dev.nearAtomics k c n none fuel d line

/-! ### Requests -/

/-- Bytes that a request moves beyond the L1 (R492). -/
def movedBytes (p : Packet) : Nat :=
  match p.op with
  | .getS => 128
  | .getM => if p.hasCopy then 0 else 128
  | .readU => 32 * ((List.range 4).filter fun i => p.sectors.getLsbD i).length
  | .writeU => ((List.range 128).filter fun i => p.mask.getLsbD i).length
  | .atomF => p.lanes * atomWidth p.aop p.aty
  | _ => 0

/-- The request of a group's instruction: its bytes count in its queue's bank (R492). -/
def Dev.coreReq (d : Dev) (k : Clock) (c n : Nat) (o : MemOp) (a : LaneAcc) (kind : ReqKind) (toHome : Bool) (p : Packet) : Dev :=
  let q := ((d.core c).blockOf o.slot).queue
  let d := if o.slot < 64 then d.updBank q fun v => { v with memBytes := v.memBytes + movedBytes p } else d
  d.landReq k c { Mshr.reset with kind := kind, ops := [n], ctx := o.ctx, epoch := o.epoch % 8, berth := o.berth } a toHome p

/-- Room in an L1 set for a line to come (R195, R242): a free enabled way beyond those that outstanding misses will fill; else
a line is evicted if the eviction buffer has room. None when the miss must wait. -/
def Dev.missRoom (d : Dev) (c line : Nat) : Option Dev :=
  let k := d.core c
  let set := l1Set line
  let ok := fun w => !k.l1Off.contains (8 * (set / 16) + w)
  let free := ((List.range 8).filter fun w => ok w && !mhas k.l1 (8 * set + w)).length
  let coming := (k.mshrs.filter fun e => l1Set e.2.line == set && (e.2.kind == .getS || e.2.kind == .getM) && (k.l1Find e.2.line).isNone).length
  if coming < free then some d
  else
    let may := fun w => ok w && match mget? k.l1 (8 * set + w) with
      | some f => (k.mshrOf f.line).isNone
      | none => false
    if 8 ≤ k.evict.length || !(List.range 8).any may then none
    else some (d.l1Evict c (8 * set + plruVictim 3 1 (mget 0 k.l1Plru set) 0 may))

/-- Landing kind of a tracked miss. -/
def Dev.trackedMiss (d : Dev) (k : Clock) (c n : Nat) (o : MemOp) (a : LaneAcc) (copy : Bool) : Dev :=
  match (if copy then some d else d.missRoom c a.line) with
  | none => d
  | some d =>
    if o.kind = .load then d.coreReq k c n o a .getS false { Packet.reset with op := .getS }
    else d.coreReq k c n o a .getM false { Packet.reset with op := .getM, hasCopy := copy }

/-- CFLUSH or CINV of a line (R93, R199): on another device than the home, a Streaming line's dirty bytes go home as one masked
write, or its copy is discarded; else nothing. (DEDUCED, assumption 29.) -/
def Dev.cacheOp (d : Dev) (k : Clock) (c n : Nat) (o : MemOp) (a : LaneAcc) (ls : List Nat) : Dev :=
  let line := a.line
  let sl := d.lineSlice line
  let done := fun (d : Dev) => d.updOp c n fun o => o.finish ls
  if d.isHome line || a.mtype != 1 then done d
  else if o.kind = .cinv then done (d.updSlice sl fun x => x.dropLine line)
  else
    let (hit, d) := d.sliceFind k sl line
    match hit with
    | none => done d
    | some f =>
      if f.bytes = 0 then done d
      else
        let d := d.putFrame sl { f with bytes := 0 }
        d.coreReq k c n o a .flush true (writeUPkt d line c o.berth a.key 1 f.bytes f.data f.poison)

/-- A storage error that an access to an L1 line meets (R217): whether the line still serves the access. One in a word written whole is
gone; a clean line with an uncorrectable word leaves, once the eviction buffer has room, and is fetched again. -/
def Dev.meetL1 (d : Dev) (k : Clock) (c i : Nat) (f : L1Line) (full reads : List Nat) : Bool × Dev :=
  let w := latentWord 2 c f.line d
  let x := takeLatent 2 c f.line d
  if full.contains w then (true, x.2)
  else if !reads.contains w then (true, d)
  else
    match x with
    | (none, d) => (true, d)
    | (some false, d) => (true, d.l1UnitErr k c i false f.line)
    | (some true, e) =>
      if f.dirty = 0 then
        if 8 ≤ (d.core c).evict.length then (false, d) else (false, (e.l1Evict c i).l1UnitErr k c i true f.line)
      else
        let e := (e.updCore c fun co => co.l1Put { f with poison := f.poison ||| (1#16 <<< w) }).l1UnitErr k c i true f.line
        (((e.core c).l1Find f.line).isSome, e)

/-- Words of a line that an instruction's accesses write whole, and those that they read, or write in part. -/
def lineUses (o : MemOp) (mine : List LaneAcc) : List Nat × List Nat :=
  if o.kind = .store then maskWords (storeBytes o mine).1
  else ([], (mine.flatMap fun a => (List.range (accWidth o.ty)).map fun i => (a.off + i) / 8).eraseDups)

/-- Permission bit that the accesses of an instruction need (R69). -/
def MemOp.need (o : MemOp) : Nat := match o.kind with
  | .load => 1
  | .store => 2
  | .cflush => 0
  | .cinv => 0
  | _ => 8

/-- Translate afresh the accesses of an instruction to a line that an UNMAP overtook (R290); those that now fault fail. -/
def Dev.retake (d : Dev) (c n line : Nat) : Dev :=
  match mget? (d.core c).ops n with
  | none => d
  | some o =>
    let mine := (o.lanes.filter fun a => a.line == line && a.stale).map fun a => (a, d.afresh o.ctx o.need a)
    let bad := mine.filterMap fun r => match r.2 with
      | .error x => some (r.1.lane, x.1, r.1.va, x.2)
      | .ok _ => none
    let swap := fun (a : LaneAcc) => match (mine.find? fun r => r.1 == a).map Prod.snd with
      | some (.ok b) => b
      | _ => a
    d.updOp c n fun o => ({ o with lanes := o.lanes.map swap }).fail bad

/-- Whether an instruction's access to a line must wait: an earlier instruction of the core has yet to act on the line, a request for it
is out, or it is in the eviction buffer. -/
def Core.lineBusy (k : Core) (n line : Nat) : Bool :=
  k.ops.any (fun e => decide (e.1 < n) && e.2.lanes.any fun a => a.line == line) ||
    k.mshrs.any (fun e => e.2.line == line && e.2.bw.isNone && e.2.kind != .fetch) || k.evict.any fun b => b.line == line

/-- Do what an instruction in flight can do to one line now. -/
def Dev.opLineNow (k : Clock) (c n line : Nat) (how : Option Bool) (d : Dev) : Dev :=
  let co := d.core c
  match mget? co.ops n with
  | none => d
  | some o =>
    match o.lanes.find? fun a => a.line == line with
    | none => d
    | some a =>
      let mine := o.lanes.filter fun a => a.line == line
      if co.lineBusy n line then d
      else if o.kind = .cflush ∨ o.kind = .cinv then d.cacheOp k c n o a (mine.map LaneAcc.lane)
      else if isTracked a.mtype && !(isAtomic o.kind && a.far) then
        match co.l1Find line with
        | none => d.trackedMiss k c n o a false
        | some i =>
          match mget? co.l1 i with
          | none => d
          | some f =>
            let (ok, d) := d.meetL1 k c i f (lineUses o mine).1 (lineUses o mine).2
            let f := (((d.core c).l1Find line).bind fun i => mget? (d.core c).l1 i).getD f
            if !ok then d
            else
              let d := d.updCore c fun co => co.l1Touch i
              if o.kind = .load then d.bindLoads c n o mine f.data f.poison
              else if f.st = .m ∨ f.st = .e then
                if o.kind = .store then
                  let (m, v) := storeBytes o mine
                  let d := d.updCore c fun co => co.l1Put { f with
                    st := .m, dirty := f.dirty ||| sectorsOf m, data := lineMerge m v f.data, poison := mergePoison m 0 f.poison }
                  d.updOp c n fun o => o.finish (mine.map LaneAcc.lane)
                else Dev.nearAtomics k c n how 32 d line
              else d.trackedMiss k c n o a true
      else
        match o.kind with
        | .load =>
          let secs := if a.mtype = 2 then mine.foldl (fun (m : BitVec 4) a => m ||| sectorsOf (spanMask a.off (accWidth o.ty))) 0 else 0xF#4
          d.coreReq k c n o a .readU (a.mtype == 2) { Packet.reset with op := .readU, sectors := secs }
        | .store =>
          let (m, v) := storeBytes o mine
          d.coreReq k c n o a .writeU (a.mtype == 2) { Packet.reset with op := .writeU, mask := m, data := lineWords v }
        | _ =>
          let part := o.lanes.filter fun x => x.ga == a.ga
          d.coreReq k c n o a .atomF true { Packet.reset with
            op := .atomF, aop := o.code, aty := o.ty, lanes := part.length, off := a.off
            data := (atomOperands o part).map (BitVec.ofNat 64) }

/-- Do what an instruction in flight can do to one line now: an access that an UNMAP overtook is translated afresh first (R290). -/
def Dev.opLine (k : Clock) (c n line : Nat) (how : Option Bool) (d : Dev) : Dev :=
  match mget? (d.core c).ops n with
  | none => d
  | some o =>
    let vas := (o.lanes.filter fun (a : LaneAcc) => a.line == line && a.stale).map LaneAcc.va
    if vas.isEmpty || (d.core c).lineBusy n line then Dev.opLineNow k c n line how d
    else
      let d := d.retake c n line
      let lines := match mget? (d.core c).ops n with
        | some o => ((o.lanes.filter fun (a : LaneAcc) => vas.contains a.va).map LaneAcc.line).eraseDups
        | none => []
      lines.foldl (fun d l => Dev.opLineNow k c n l how d) d

/-- An instruction whose lanes are all done leaves the pipe; a group that ran on parks for its faults. It does so once it is Running
and waits for no weight line: not in a Barrier, and not while it is parked for an earlier fault (R68, R176).
(DESIGN CHOICE, assumption 153.) -/
def Dev.endOp (d : Dev) (k : Clock) (c n : Nat) : Dev :=
  match mget? (d.core c).ops n with
  | none => d
  | some o =>
    if !o.lanes.isEmpty then d
    else if o.flt.isEmpty then (if o.adv then d.dropOp c n o else d)
    else
      let g := d.group c o.slot
      if g.st = .exited ∨ g.st = .free then d.dropOp c n o
      else if g.st = .running ∧ g.bwHold = none ∧ (!o.adv ∨ g.replay = none) then d.parkOp k c n o
      else d

/-- Try every instruction in flight of a core again, in order. (DESIGN CHOICE, assumption 17.) -/
def Dev.pump (d : Dev) (k : Clock) (c : Nat) : Dev :=
  let ns := (d.core c).ops.map Prod.fst
  let d := ns.foldl (fun d n =>
    match mget? (d.core c).ops n with
    | none => d
    | some o => ((o.lanes.map LaneAcc.line).eraseDups).foldl (fun d line => d.opLine k c n line none) d) d
  ns.foldl (fun d n => d.endOp k c n) d

end Sys2Proof.Machine
end

