-- ==== Sys2Proof/Machine/MemAccess.lean ====
section
/-! DEFINITION. The global memory instructions: LD, ST, CFLUSH, CINV (R90 to R93), MFENCE (R95), ACQ and REL (R102, R103) and ATOM
(R98 to R101). -/

namespace Sys2Proof.Machine

/-- Lanes of a memory instruction: lane 0 once on the uniform path (R86), else the lanes that act. -/
def memLanes (g : Group) (f : InsF) (uniform : Bool) : List Nat := if uniform then [0] else lanesOf (g.acting f)

/-- Offset of an address operand (R83, R90): imm18 sign-extended, or the second word. -/
def memImm (f : InsF) : Nat := if f.wide then f.ext.toNat else ofSigned 64 (toSigned 18 f.imm18)

/-- Virtual address of a lane, aligned to the access (R90, R91). -/
def laneVa (g : Group) (a imm w l : Nat) : Nat := (g.opnd a 2 l + imm) % 2 ^ 64 / w * w

/-- Run a memory instruction that has been translated (R50, R52, R68): it enters the pipe, does what it can at once, and the
group goes on, unless a lane faulted. -/
def Dev.runOp (d : Dev) (k : Clock) (c s : Nat) (len : Nat) (o : MemOp) : Dev :=
  let co := d.core c
  let lines := (o.lanes.map LaneAcc.line).eraseDups
  if 192 < co.used + lines.length then d
  else
    let n := co.nextOp
    let d := d.setCore c { co with ops := mput co.ops n o, nextOp := n + 1 }
    let d := lines.foldl (fun d line => d.opLine k c n line none) d
    let d := d.endOp k c n
    match mget? (d.core c).ops n with
    | none => d
    | some o =>
      if !o.flt.isEmpty then d
      else if o.lanes.isEmpty then (d.dropOp c n o).updGroup c s fun g => g.advance len
      else
        let regs := regList o.dst (dstCount o.ty) ++ (if o.acq then [acqMark] else [])
        (d.updOp c n fun o => { o with adv := true }).updGroup c s fun g =>
          { g with await := g.await ++ regs }.advance len

/-- What a memory instruction does when it is presented: it translates its lanes' addresses (R32, R260), starting a walk on the
first miss, and runs. `acc` gives a lane's data from its access. -/
def memPresent (k : Clock) (c s : Nat) (f : InsF) (o : MemOp) (addrA imm need : Nat) (uniform : Bool)
    (fill : Group → Nat → LaneAcc → LaneAcc) (d : Dev) : Dev :=
  let g := d.group c s
  let b := (d.core c).block g.block
  let w := if o.kind = .acq ∨ o.kind = .rel then 8 else if o.kind = .cflush ∨ o.kind = .cinv then 1 else accWidth o.ty
  let xs := (memLanes g f uniform).map fun l => (l, laneVa g addrA imm w l)
  let rs := xs.map fun x => (x, d.coreXlate c s x.2 need)
  match rs.find? fun r => r.2 == .wait with
  | some r => d.startWalk c s r.1.2
  | none =>
    let flt := rs.filterMap fun r => match r.2 with
      | .fault code detail => some (r.1.1, code, r.1.2, detail)
      | _ => none
    let lanes := rs.filterMap fun r => match r.2 with
      | .ok e ga =>
        let a : LaneAcc := { LaneAcc.reset with
          lane := r.1.1, va := r.1.2, ga := ga, mtype := reType e, key := reKey e, mirror := if reType e = 3 then reMirror e else 0 }
        some (fill g r.1.1 { a with far := (d.core c).runsFar a.mtype o.hint a.line })
      | _ => none
    d.runOp k c s f.len { o with
      slot := s, queue := b.queue, launch := b.launch, pc := g.pc, active := g.whole, lanes := lanes, flt := flt, ctx := b.ctx
      berth := b.berth
      epoch := (d.ctx b.ctx).epoch
      done := if uniform then 0 else g.before ||| (g.active &&& ~~~(g.acting f)) }

/-- Whether a group has a memory instruction outstanding: a release waits for it (R95, R246). -/
def Dev.hasOps (d : Dev) (c s : Nat) : Bool := (d.core c).ops.any fun e => e.2.slot == s

/-- Scope codes in use (R84). -/
def scopeOk (f : InsF) : Bool := decide (f.scope ≤ 4)

/-- Types that LD, ST, LDL and STL take (R90). -/
def memTypes : List Nat := [0, 1, 2, 3, 4, 7, 8, 9, 10, 11]

/-- The checks of LD (R87, R90). (DEDUCED, assumption 20.) -/
def ldShape (r : Nat) (f : InsF) : Shape :=
  let n := dstCount f.ty
  { legal := memTypes.contains f.ty && f.bits 63 60 == 0 && scopeOk f && decide (f.bits 59 58 ≤ 1) &&
      regOk r f.d n && regOk r f.a 2 && !isP f.a && (!isU f.d || isU f.a || isZero f.a) && (!f.wide || f.imm18 == 0)
    wideOk := true
    guardOk := !isU f.d
    regs := regList f.d n ++ regList f.a 2 ++ [acqMark] }

/-- LD (R90). -/
def execLd (c : Fin 512) (gs : Fin 64) (f : InsF) (st : State) : Out :=
  onMem st fun d => issue st.clk c gs f (ldShape (d.rOf c gs) f)
    (memPresent st.clk c gs f { MemOp.reset with kind := .load, ty := f.ty, dst := f.d, acq := f.bits 59 58 == 1 } f.a (memImm f) 1 (isU f.d)
      fun _ _ a => a) d

/-- The checks of ST (R87, R90). -/
def stShape (r : Nat) (f : InsF) : Shape :=
  let n := dstCount f.ty
  { legal := memTypes.contains f.ty && f.bits 63 60 == 0 && scopeOk f && (f.bits 59 58 == 0 || f.bits 59 58 == 2) &&
      regOk r f.d n && regOk r f.a 2 && !isP f.a && (!f.wide || f.imm18 == 0)
    wideOk := true
    guardOk := true
    regs := regList f.d n ++ regList f.a 2 ++ [acqMark] }

/-- ST (R90): D is the data. -/
def execSt (c : Fin 512) (gs : Fin 64) (f : InsF) (st : State) : Out :=
  onMem st fun d => issue st.clk c gs f (stShape (d.rOf c gs) f)
    (fun d =>
      if f.bits 59 58 = 2 ∧ d.hasOps c gs = true then d
      else memPresent st.clk c gs f { MemOp.reset with kind := .store, ty := f.ty } f.a (memImm f) 2 false
        (fun g l a => { a with data := BitVec.ofNat 128 (g.opnd f.d (dstCount f.ty) l) }) d) d

/-- The checks of CFLUSH and CINV (R93). -/
def cacheShape (r : Nat) (f : InsF) : Shape :=
  { legal := f.bits 63 50 == 0 && f.d == 0xFF && regOk r f.a 2 && !isP f.a
    wideOk := false
    guardOk := true
    regs := regList f.a 2 ++ [acqMark] }

/-- CFLUSH (R93). -/
def execCflush (c : Fin 512) (gs : Fin 64) (f : InsF) (st : State) : Out :=
  onMem st fun d => issue st.clk c gs f (cacheShape (d.rOf c gs) f)
    (memPresent st.clk c gs f { MemOp.reset with kind := .cflush } f.a (memImm f) 0 false fun _ _ a => a) d

/-- CINV (R93). -/
def execCinv (c : Fin 512) (gs : Fin 64) (f : InsF) (st : State) : Out :=
  onMem st fun d => issue st.clk c gs f (cacheShape (d.rOf c gs) f)
    (memPresent st.clk c gs f { MemOp.reset with kind := .cinv } f.a (memImm f) 0 false fun _ _ a => a) d

/-- The checks of MFENCE (R87, R95). -/
def mfenceShape (f : InsF) : Shape :=
  { legal := f.ty == 0 && f.bits 63 58 == 0 && scopeOk f && f.d == 0xFF && f.a == 0xFF && f.b == 0xFF && f.c == 0xFF
    wideOk := false
    guardOk := false
    regs := [] }

/-- MFENCE (R95): the group goes on once every earlier access of it is performed. (DESIGN CHOICE, assumption 19.) -/
def execMfence (c : Fin 512) (gs : Fin 64) (f : InsF) (st : State) : Out :=
  onMem st fun d => issue st.clk c gs f (mfenceShape f)
    (fun d => if d.hasOps c gs then d else d.updGroup c gs fun g => g.advance 8) d

/-! ### Locks (R102, R103, R62, R63) -/

/-- The checks of ACQ and REL. -/
def lockShape (r : Nat) (f : InsF) : Shape :=
  { legal := f.ty == 0 && f.bits 63 62 == 0 && f.bits 61 60 != 3 && f.bits 59 58 == 0 && scopeOk f &&
      regOk r f.d 1 && regOk r f.a 2 && !isP f.a && f.b == 0xFF && f.c == 0xFF && (!isU f.d || isU f.a || isZero f.a)
    wideOk := false
    guardOk := !isU f.d
    regs := regList f.d 1 ++ regList f.a 2 ++ [acqMark] }

/-- A lane's identity for a lock word (R102). -/
def lockFill (d : Dev) (c s l : Nat) (a : LaneAcc) : LaneAcc :=
  { a with data := BitVec.ofNat 128 (lockId l s c d.id (mget 0 (d.core c).fills s % 256)) }

/-- ACQ (R102): a lane that retried 64 times behind its own group parks it with INTRA_GROUP_SPIN (R63). -/
def execAcq (c : Fin 512) (gs : Fin 64) (f : InsF) (st : State) : Out :=
  onMem st fun d => issue st.clk c gs f (lockShape (d.rOf c gs) f)
    (fun d =>
      let g := d.group c gs
      match (memLanes g f (isU f.d)).find? fun l => decide (64 ≤ mget 0 g.spins l / 32) with
      | some l => d.parkGroup st.clk c gs 6 g.pc (laneVa g f.a 0 8 l) (mget 0 g.spins l % 32) 0 g.whole
      | none =>
        memPresent st.clk c gs f { MemOp.reset with kind := .acq, dst := f.d, hint := f.bits 61 60, acq := true } f.a 0 8 (isU f.d)
          (fun _ l a => lockFill d c gs l a) d) d

/-- REL (R103): it waits for the group's earlier accesses, and resets the spin counts (R62). -/
def execRel (c : Fin 512) (gs : Fin 64) (f : InsF) (st : State) : Out :=
  onMem st fun d => issue st.clk c gs f (lockShape (d.rOf c gs) f)
    (fun d =>
      if d.hasOps c gs then d
      else
        let d := if (memLanes (d.group c gs) f (isU f.d)).isEmpty then d else d.updGroup c gs fun g => { g with spins := [] }
        memPresent st.clk c gs f { MemOp.reset with kind := .rel, dst := f.d, hint := f.bits 61 60 } f.a 0 8 (isU f.d)
          (fun _ l a => lockFill d c gs l a) d) d

/-! ### ATOM (R98) -/

/-- The checks of ATOM and, with `loc`, of ATOML (R87, R98). -/
def atomShape (op r : Nat) (loc : Bool) (f : InsF) : Shape :=
  let n := dstCount f.ty
  let uni := fun x => isU x || isZero x
  { legal := atomOk op f.ty && (if loc then f.bits 63 60 == 0 else f.bits 63 62 == 0 && f.bits 61 60 != 3) && scopeOk f &&
      regOk r f.d n && regOk r f.a (if loc then 1 else 2) && (loc || !isP f.a) && regOk r f.b n && (if op = 7 then regOk r f.c n else f.c == 0xFF) &&
      (!isU f.d || (uni f.a && uni f.b && uni f.c))
    wideOk := false
    guardOk := !isU f.d
    regs := regList f.d n ++ regList f.a (if loc then 1 else 2) ++ regList f.b n ++ regList f.c n ++ [acqMark] }

/-- Operands of a lane of an ATOM. -/
def atomFill (f : InsF) (g : Group) (l : Nat) (a : LaneAcc) : LaneAcc :=
  { a with data := BitVec.ofNat 128 (g.opnd f.b (dstCount f.ty) l), data2 := BitVec.ofNat 64 (g.opnd f.c (dstCount f.ty) l) }

/-- An ATOM instruction: operations 0 ADD, 1 MIN, 2 MAX, 3 AND, 4 OR, 5 XOR, 6 EXCH, 7 CAS. -/
def atomIns (op c s : Nat) (f : InsF) (st : State) : Out :=
  onMem st fun d => issue st.clk c s f (atomShape op (d.rOf c s) false f)
    (fun d =>
      if 2 ≤ f.bits 59 58 ∧ d.hasOps c s = true then d
      else memPresent st.clk c s f { MemOp.reset with
          kind := .atomic, ty := f.ty, dst := f.d, aop := op, hint := f.bits 61 60, acq := f.bits 59 58 % 2 == 1 }
        f.a 0 8 (isU f.d) (atomFill f) d) d

/-- ATOM.ADD (R98, R100). -/
def execAtomAdd (c : Fin 512) (gs : Fin 64) (f : InsF) (st : State) : Out := atomIns 0 c gs f st
/-- ATOM.MIN (R98, R100). -/
def execAtomMin (c : Fin 512) (gs : Fin 64) (f : InsF) (st : State) : Out := atomIns 1 c gs f st
/-- ATOM.MAX (R98, R100). -/
def execAtomMax (c : Fin 512) (gs : Fin 64) (f : InsF) (st : State) : Out := atomIns 2 c gs f st
/-- ATOM.AND (R98, R100). -/
def execAtomAnd (c : Fin 512) (gs : Fin 64) (f : InsF) (st : State) : Out := atomIns 3 c gs f st
/-- ATOM.OR (R98, R100). -/
def execAtomOr (c : Fin 512) (gs : Fin 64) (f : InsF) (st : State) : Out := atomIns 4 c gs f st
/-- ATOM.XOR (R98, R100). -/
def execAtomXor (c : Fin 512) (gs : Fin 64) (f : InsF) (st : State) : Out := atomIns 5 c gs f st
/-- ATOM.EXCH (R98, R100). -/
def execAtomExch (c : Fin 512) (gs : Fin 64) (f : InsF) (st : State) : Out := atomIns 6 c gs f st
/-- ATOM.CAS (R98, R100). -/
def execAtomCas (c : Fin 512) (gs : Fin 64) (f : InsF) (st : State) : Out := atomIns 7 c gs f st

end Sys2Proof.Machine
end

