-- ==== Sys2Proof/Machine/LocalMem.lean ====
section
/-! DEFINITION. The local-memory instructions: LDL, STL (R90, R91, R96) and ATOML (R98), with bounds (R45), held regions (R65, R66)
and poison (R216, R217). -/

namespace Sys2Proof.Machine

/-- Storage errors that a read of local memory meets (R217): corrected, or the word is poisoned. -/
def Dev.meetLm (d : Dev) (k : Clock) (c : Nat) (b : Block) (off len : Nat) : Dev :=
  let words := ((List.range len).map fun i => b.phys (off + i) / 8).eraseDups
  words.foldl (fun d w =>
    match takeLatent 3 c w d with
    | (none, d) => d
    | (some unc, d) =>
      let d := logErr k { ErlRec.reset with
        cls := if unc then 2 else 1, src := 0x02, code := if unc then 2 else 1, unit := c, berth := b.berth
        addr := BitVec.ofNat 64 (lmWindow + 2 ^ 21 * c + 8 * w), detail := if unc then 0 else 1 } d
      if unc then d.updCore c fun co => { co with lmPoison := if co.lmPoison.contains w then co.lmPoison else co.lmPoison ++ [w] } else d) d

/-- Local-memory offset of a lane: the 32-bit register in A plus an immediate, aligned to the access (R90, R91).
(DEDUCED, assumption 23.) -/
def lmOff (g : Group) (a imm w l : Nat) : Nat := ((g.reg a l).toNat + imm) % 2 ^ 32 / w * w

/-- The first of a group's waiting local-memory accesses that overlaps a held region now, and the matrix queue entry that holds
the region (R65, R66). -/
def Core.heldHit (k : Core) (b w : Nat) (offs : List Nat) : Option (Nat × Nat) :=
  offs.findSome? fun o => (k.heldBy b o w).map fun e => (o, e)

/-- The checks before a local-memory access: a lane outside the block's allocation parks the group, and no lane that acts
completes (R45, R85); a store waits while a lane overlaps a held region (R65). -/
def lmPresent (k : Clock) (c s : Nat) (f : InsF) (w : Nat) (xs : List (Nat × Nat)) (store : Bool) (eff : Dev → Dev) (d : Dev) : Dev :=
  let co := d.core c
  let g := co.group s
  let b := co.block g.block
  match xs.find? fun x => decide (b.lmSize ≤ x.2) with
  | some x => d.parkGroup k c s 9 g.pc x.2 b.lmUnits (g.before ||| (g.active &&& ~~~(g.acting f))) g.whole
  | none =>
    if store && (co.heldHit g.block w (xs.map Prod.snd)).isSome then
      d.setGroup c s { g with heldSince := some (g.heldSince.getD k.ccyc), heldAccs := xs.map Prod.snd, heldWidth := w }
    else eff d

/-- A local-memory load or atomic ends: the group goes on, or parks for the lanes that met poison (R69). -/
def Dev.endLocal (d : Dev) (k : Clock) (c s : Nat) (f : InsF) (bad : List (Nat × Nat)) : Dev :=
  let g := d.group c s
  match bad with
  | [] => d.setGroup c s (g.advance f.len)
  | x :: _ =>
    let lost := maskOf (bad.map Prod.fst)
    let done := if isU f.d then 0 else g.before ||| (g.active &&& ~~~lost)
    d.parkGroup k c s 3 g.pc x.2 1 done g.whole

/-- The checks of LDL and STL (R87, R88, R90). (DEDUCED, assumption 22.) -/
def lmShape (r : Nat) (f : InsF) (load : Bool) : Shape :=
  let n := dstCount f.ty
  let order := f.bits 59 58
  { legal := [0, 1, 2, 3, 4, 7, 8, 9, 10, 11].contains f.ty && f.bits 63 60 == 0 && scopeOk f &&
      (if load then decide (order ≤ 1) else order == 0 || order == 2) &&
      regOk r f.d n && regOk r f.a 1 && (!load || !isU f.d || isU f.a || isZero f.a)
    wideOk := false
    guardOk := !load || !isU f.d
    regs := regList f.d n ++ regList f.a 1 ++ [acqMark] }

/-- LDL (R90). -/
def execLdl (c : Fin 512) (gs : Fin 64) (f : InsF) (st : State) : Out :=
  onMem st fun d => issue st.clk c gs f (lmShape (d.rOf c gs) f true)
    (fun d =>
      let g := d.group c gs
      let w := accWidth f.ty
      let xs := (memLanes g f (isU f.d)).map fun l => (l, lmOff g f.a (memImm f) w l)
      lmPresent st.clk c gs f w xs false (fun d =>
        let b := (d.core c).block g.block
        let d := xs.foldl (fun d x => d.meetLm st.clk c b x.2 w) d
        let co := d.core c
        let bad := xs.filter fun x => co.lmBad b x.2 w
        let good := xs.filter fun x => !co.lmBad b x.2 w
        let d := d.updGroup c gs fun g => good.foldl (fun g x => g.setOpnd f.d (dstCount f.ty) x.1 (loadValue f.ty (co.lmGet b x.2 w))) g
        d.endLocal st.clk c gs f bad) d) d

/-- Offsets of the stores of an instruction that write part of a 64-bit word: the word is read first, unless the lanes together
cover it (R194). -/
def partWords (bytes : List (Nat × Byte)) (xs : List (Nat × Nat)) : List Nat :=
  (xs.map Prod.snd).filter fun o => !(List.range 8).all fun i => bytes.any fun e => e.1 == o / 8 * 8 + i

/-- STL (R65, R90, R194): D is the data; the highest lane's store stays where lanes overlap. -/
def execStl (c : Fin 512) (gs : Fin 64) (f : InsF) (st : State) : Out :=
  onMem st fun d => issue st.clk c gs f (lmShape (d.rOf c gs) f false)
    (fun d =>
      let g := d.group c gs
      let w := accWidth f.ty
      let xs := (memLanes g f false).map fun l => (l, lmOff g f.a (memImm f) w l)
      if f.bits 59 58 = 2 ∧ d.hasOps c gs = true then d
      else lmPresent st.clk c gs f w xs true (fun d =>
        let b := (d.core c).block g.block
        let bytes := xs.flatMap fun x => bytesAt x.2 w (g.opnd f.d (dstCount f.ty) x.1)
        let d := (partWords bytes xs).foldl (fun d o => d.meetLm st.clk c b o w) d
        let d := d.updCore c fun co => co.lmPut b bytes false
        d.updGroup c gs fun g => g.advance f.len) d) d

/-! ### ATOML -/

/-- One location of an ATOML: the lanes that name it act together (R100). -/
def atomlOne (c s : Nat) (op : Nat) (f : InsF) (b : Block) (off : Nat) (ls : List Nat) (d : Dev) : Dev :=
  let g := d.group c s
  let n := dstCount f.ty
  let w := accWidth f.ty
  let ops := ls.flatMap fun l => if op = 7 then [g.opnd f.b n l, g.opnd f.c n l] else [g.opnd f.b n l]
  let r := atomEval op f.ty ((d.core c).lmGet b off w) ops
  let d := d.updCore c fun co => co.lmPut b (bytesAt off w r.1) false
  d.updGroup c s fun g => (ls.zipIdx).foldl (fun g e => g.setOpnd f.d n e.1 (r.2.getD e.2 0)) g

/-- An ATOML instruction (R98): as ATOM, on a local-memory offset. -/
def atomlIns (op c s : Nat) (f : InsF) (st : State) : Out :=
  onMem st fun d => issue st.clk c s f (atomShape op (d.rOf c s) true f)
    (fun d =>
      let g := d.group c s
      let w := accWidth f.ty
      let xs := (memLanes g f (isU f.d)).map fun l => (l, lmOff g f.a 0 w l)
      if 2 ≤ f.bits 59 58 ∧ d.hasOps c s = true then d
      else lmPresent st.clk c s f w xs true (fun d =>
        let b := (d.core c).block g.block
        let d := xs.foldl (fun d x => d.meetLm st.clk c b x.2 w) d
        let bad := xs.filter fun x => (d.core c).lmBad b x.2 w
        let good := xs.filter fun x => !(d.core c).lmBad b x.2 w
        let offs := (good.map Prod.snd).eraseDups
        let d := offs.foldl (fun d off => atomlOne c s op f b off ((good.filter fun x => x.2 == off).map Prod.fst) d) d
        d.endLocal st.clk c s f bad) d) d

/-- ATOML.ADD (R98, R100). -/
def execAtomlAdd (c : Fin 512) (gs : Fin 64) (f : InsF) (st : State) : Out := atomlIns 0 c gs f st
/-- ATOML.MIN (R98, R100). -/
def execAtomlMin (c : Fin 512) (gs : Fin 64) (f : InsF) (st : State) : Out := atomlIns 1 c gs f st
/-- ATOML.MAX (R98, R100). -/
def execAtomlMax (c : Fin 512) (gs : Fin 64) (f : InsF) (st : State) : Out := atomlIns 2 c gs f st
/-- ATOML.AND (R98, R100). -/
def execAtomlAnd (c : Fin 512) (gs : Fin 64) (f : InsF) (st : State) : Out := atomlIns 3 c gs f st
/-- ATOML.OR (R98, R100). -/
def execAtomlOr (c : Fin 512) (gs : Fin 64) (f : InsF) (st : State) : Out := atomlIns 4 c gs f st
/-- ATOML.XOR (R98, R100). -/
def execAtomlXor (c : Fin 512) (gs : Fin 64) (f : InsF) (st : State) : Out := atomlIns 5 c gs f st
/-- ATOML.EXCH (R98, R100). -/
def execAtomlExch (c : Fin 512) (gs : Fin 64) (f : InsF) (st : State) : Out := atomlIns 6 c gs f st
/-- ATOML.CAS (R98, R100). -/
def execAtomlCas (c : Fin 512) (gs : Fin 64) (f : InsF) (st : State) : Out := atomlIns 7 c gs f st

end Sys2Proof.Machine
end

