-- ==== Sys2Proof/Machine/MatrixIssue.lean ====
section
/-! DEFINITION. The matrix instructions at issue (R108, R109, R118 to R131): claims (R114 to R117), validation, tokens, and MXWAIT
(R123). -/

namespace Sys2Proof.Machine

/-- The four words of a descriptor in local memory (R124). (DESIGN CHOICE, assumption 159.) -/
def descWords (k : Core) (b : Block) (off : Nat) : List Nat := (List.range 4).map fun i => k.lmGet b (off + 8 * i) 8

/-- A matrix operand or output descriptor from its words. -/
def mxDesc (ws : List Nat) : MxDesc :=
  let q0 := ws.getD 0 0
  let q1 := ws.getD 1 0
  let q2 := ws.getD 2 0
  let mode := bitsAt q0 0 4
  { mode := mode, fmt := bitsAt q0 4 5, base := bitsAt q0 16 21, scaleBase := bitsAt q0 37 21, stride := bitsAt q1 0 21
    scaleStride := bitsAt q1 21 21, count := if mode = 2 then bitsAt q2 36 8 else bitsAt q1 42 8
    q1 := BitVec.ofNat 64 q1, q2 := BitVec.ofNat 64 q2 }

/-- A fusion descriptor from its words (R129). -/
def mxFuse (ws : List Nat) : MxFuse :=
  let q0 := ws.getD 0 0
  { rowmax := if bitAt q0 0 then some (bitsAt q0 16 21) else none
    rowsum := if bitAt q0 1 then some (bitsAt q0 37 21) else none
    amax := if bitAt q0 2 then some (bitsAt (ws.getD 1 0) 0 21) else none }

/-- Roles of a descriptor. -/
inductive MxRole where
  | streamA
  | streamB
  | diag
  | out
  deriving DecidableEq, Repr

/-- Whether a reserved field of an operand or output descriptor is not zero, or its rounding is 0b11 (R131).
(DEDUCED, assumption 43.) -/
def descRsvd (role : MxRole) (ws : List Nat) : Bool :=
  let q0 := ws.getD 0 0
  let q1 := ws.getD 1 0
  let q2 := ws.getD 2 0
  let q3 := ws.getD 3 0
  let mode := bitsAt q0 0 4
  let head := bitsAt q0 9 7 != 0 || bitsAt q0 58 6 != 0 || q3 != 0
  let rest :=
    if role = .out then bitsAt q1 50 14 != 0 || bitsAt q2 43 21 != 0 || bitsAt q2 40 2 == 3
    else if mode = 2 then bitsAt q1 60 4 != 0 || bitsAt q2 44 20 != 0
    else if mode < 2 then bitsAt q1 50 14 != 0 || q2 != 0
    else false
  head || rest

/-- Whether a role accepts a mode (R124, R126, R128). -/
def modeOk : MxRole → Nat → Bool
  | .streamA, m => decide (m ≤ 2)
  | .streamB, m => decide (m ≤ 1)
  | .diag, m => m == 0
  | .out, m => m == 0

/-- Whether a role accepts a format (R141). -/
def fmtOk : MxRole → Nat → Bool
  | .streamA, f => fmtStream f
  | .streamB, f => fmtStream f
  | .diag, f => fmtDiag f
  | .out, f => (fmtBits f).isSome

/-- Whether base or stride breaks its alignment (R125, R126). -/
def descSkew (x : MxDesc) : Bool :=
  x.base % 32 != 0 || (x.mode == 0 && x.stride % 32 != 0) || (x.mode == 1 && x.stride % 8 != 0)

/-- Whether a count, cols or Window field is in range (R125, R126, R128). -/
def descRange (role : MxRole) (x : MxDesc) : Bool :=
  decide (1 ≤ x.count) && decide (x.count ≤ 128) &&
  (if role = .out then decide (1 ≤ x.cols) && decide (x.cols ≤ 128)
   else x.mode != 2 || (decide (1 ≤ x.inH) && decide (1 ≤ x.inW) && decide (1 ≤ x.cBlocks) && decide (1 ≤ x.w2 0 12)))

/-- The first reason of R131 for which a descriptor is invalid. -/
def descReason (role : MxRole) (off : Nat) (ws : List Nat) : Option Nat :=
  let x := mxDesc ws
  if off % 32 ≠ 0 then some 2
  else if descRsvd role ws then some 6
  else if !modeOk role x.mode then some 1
  else if !fmtOk role x.fmt then some 0
  else if descSkew x then some 2
  else if !descRange role x then some 3
  else none

/-- The first reason for which a fusion descriptor is invalid (R129, R131). (DESIGN CHOICE, assumption 158.) -/
def fuseReason (off : Nat) (ws : List Nat) : Option Nat :=
  let q0 := ws.getD 0 0
  let q1 := ws.getD 1 0
  let f := mxFuse ws
  let skew := fun (o : Option Nat) => match o with | some x => x % 4 != 0 | none => false
  if off % 32 ≠ 0 then some 2
  else if bitsAt q0 3 13 != 0 || bitsAt q0 58 6 != 0 || bitsAt q1 21 43 != 0 || ws.getD 2 0 != 0 || ws.getD 3 0 != 0 then some 6
  else if skew f.rowmax || skew f.rowsum || skew f.amax then some 2
  else none

/-- Whether an operand family suits a tile's kind (R120). -/
def kindSuits (fmt : Nat) : TileKind → Bool
  | .unset => true
  | .int32 => fmtInt fmt
  | _ => !fmtInt fmt

/-- The kind that an instruction on operands leaves (R120). -/
def kindAfter (fmt : Nat) : TileKind → TileKind
  | .unset => if fmtInt fmt then .int32 else .fp32
  | x => x

/-! ### Acceptance (R52, R114 to R116) -/

/-- Whether the matrix queue accepts an instruction of a block for a tile: the tile is the block's, or free for it, and an entry is
free (R52, R114, R117). -/
def Core.mxAccepts (k : Core) (t b : Nat) : Bool :=
  let x := k.tile t
  (x.claim == some b || (x.claim == none && (x.resv == none || x.resv == some b))) &&
    decide ((k.mxq.filter fun e => !e.2.done).length < 8)

/-- A group waits for a tile that another block claims (R117). -/
def Core.waitTile (k : Core) (t s now : Nat) : Core :=
  let b := (k.group s).block
  let x := k.tile t
  let other := (x.claim.isSome && x.claim != some b) || (x.claim.isNone && x.resv.isSome && x.resv != some b)
  if other && !k.tileWait.any (fun w => w.1 == t && w.2.1 == s) then { k with tileWait := k.tileWait ++ [(t, s, now)] } else k

/-- Accept an instruction: the lowest free entry, the next serial, the claim, the token (R52, R109, R114). -/
def Core.mxAccept (k : Core) (s : Nat) (e : MxEntry) : Nat × Core :=
  let b := (k.group s).block
  let blk := k.block b
  let n := (lowestFree 8 ((k.mxq.filter fun e => !e.2.done).map Prod.fst)).getD 0
  let x := k.tile e.tile
  let claims := x.claim != some b
  let e := { e with serial := k.mxSerial, block := b, ctx := blk.ctx, claims := claims, queue := blk.queue }
  let kind := if claims then .unset else x.issueKind
  let x := { x with claim := some b, resv := if claims then none else x.resv
                    issueKind := match e.op with
                      | .zero => e.kindArg
                      | .drain => kind
                      | _ => kindAfter e.da.fmt kind }
  let k := { k.setTile e.tile x with
    mxq := mput k.mxq n e, mxSerial := (k.mxSerial + 1) % 2 ^ 29
    tileWait := k.tileWait.filter fun w => !(w.1 == e.tile && w.2.1 == s) }
  (n + e.serial * 8, k)

/-- An accepted instruction's token goes to D, and the group goes on; a drain with mod bit [51] ends the claim (R116).
(DESIGN CHOICE, assumption 42.) -/
def Dev.mxIssue (d : Dev) (c s : Nat) (f : InsF) (e : MxEntry) (release : Bool) : Dev :=
  let co := d.core c
  let b := (co.group s).block
  let r := co.mxAccept s e
  let co := if release then r.2.endClaim e.tile b else r.2
  (d.setCore c co).updGroup c s fun g => (g.setReg f.d 0 (BitVec.ofNat 32 r.1)).advance f.len

/-- What a matrix instruction does when it is presented: it waits, parks for the first failure of R131, or is accepted. `check`
answers code, fault address and detail of a failure. -/
def mxPresent (k : Clock) (c s : Nat) (f : InsF) (t : Nat) (check : Core → Block → Option (Nat × Nat × Nat)) (make : Core → Block → MxEntry)
    (release : Bool) (d : Dev) : Dev :=
  let co := d.core c
  let g := co.group s
  let b := co.block g.block
  if !co.mxAccepts t g.block then d.setCore c (co.waitTile t s k.ccyc)
  else
    match check co b with
    | some (code, addr, detail) => (d.setCore c (co.leaveTile s)).parkGroup k c s code g.pc addr detail 0 g.whole
    | none => d.mxIssue c s f { make co b with tile := t } release

/-- Local-memory offset of a descriptor operand: a u register plus its ext field (R83, R108). -/
def mxOff (g : Group) (f : InsF) (field lo : Nat) : Nat :=
  ((g.reg field 0).toNat + (if f.wide then bitsAt f.ext.toNat lo 21 else 0)) % 2 ^ 32

/-- The checks of a matrix instruction's word (R87, R108): `mods` is a mask over bits [63:50]; the flags tell which operands are
descriptors, and whether C is a count. -/
def mxShape (f : InsF) (mods : Nat) (aDesc bDesc cCount : Bool) : Shape :=
  let ext := f.ext.toNat
  { legal := (f.bits 63 50) &&& mods == f.bits 63 50 && isU f.d &&
      (if aDesc then isU f.a else f.a == 0xFF) && (if bDesc then isU f.b else f.b == 0xFF) && (if cCount then isU f.c else f.c == 0xFF) &&
      (!f.wide || (bitsAt ext 63 1 == 0 && bitsAt ext 42 21 == 0 && (aDesc || bitsAt ext 0 21 == 0) && (bDesc || bitsAt ext 21 21 == 0)))
    wideOk := true
    guardOk := false
    regs := regList f.d 1 ++ regList f.a 1 ++ regList f.b 1 ++ regList f.c 1 }

/-- Detail of ILLEGAL_FORMAT (R131). -/
def fmtDetail (a b reason : Nat) : Nat := a + 256 * b + 65536 * reason

/-- First span that reaches beyond a block's allocation. -/
def spanOut (size : Nat) (ss : List (Nat × Nat)) : Bool := ss.any fun s => decide (size < s.2)

/-- Validation of MXSTREAM and MXDIAG (R131). -/
def checkOperands (diag : Bool) (kind : TileKind) (offA offB steps : Nat) (k : Core) (b : Block) : Option (Nat × Nat × Nat) :=
  let size := b.lmSize
  let wa := descWords k b offA
  let wb := descWords k b offB
  let xa := mxDesc wa
  let xb := mxDesc wb
  let bad := fun (off reason : Nat) => some (8, off, fmtDetail xa.fmt xb.fmt reason)
  if size < offA + 32 then some (9, offA, b.lmUnits)
  else if size < offB + 32 then some (9, offB, b.lmUnits)
  else
    match descReason (if diag then .diag else .streamA) offA wa with
    | some r => bad offA r
    | none =>
      match descReason (if diag then .diag else .streamB) offB wb with
      | some r => bad offB r
      | none =>
        if xa.fmt ≠ xb.fmt then bad offA 0
        else if steps < 1 ∨ 2 ^ 24 < steps ∨ (xa.mode = 2 ∧ xa.kh * xa.kw * xa.chans < steps) then bad offA 3
        else if diag ∧ xa.count ≠ xb.count then bad offA 5
        else if !kindSuits xa.fmt kind then bad offA 4
        else if spanOut size (xa.spans steps) then some (9, offA, b.lmUnits)
        else if spanOut size (xb.spans steps) then some (9, offB, b.lmUnits)
        else none

/-- The kind that counts at issue (R120): Unset when the instruction will claim the tile. -/
def issueKindOf (k : Core) (t b : Nat) : TileKind := if (k.tile t).claim = some b then (k.tile t).issueKind else .unset

/-! ### The instructions -/

/-- MXZERO (R119): kind in mod bits [52:51]. -/
def execMxzero (c : Fin 512) (gs : Fin 64) (f : InsF) (st : State) : Out :=
  onMem st fun d => issue st.clk c gs f (mxShape f 0b111 false false false)
    (mxPresent st.clk c gs f (f.bits 50 50) (fun _ _ => none)
      (fun _ _ => { MxEntry.reset with op := .zero, kindArg := match f.bits 52 51 with
        | 0 => .unset
        | 1 => .fp32
        | 2 => .bf16
        | _ => .int32 }) false) d

/-- MXSTREAM (R111, R120). -/
def execMxstream (c : Fin 512) (gs : Fin 64) (f : InsF) (st : State) : Out :=
  onMem st fun d => issue st.clk c gs f (mxShape f 0b1 true true true)
    (fun d =>
      let g := d.group c gs
      let offA := mxOff g f f.a 0
      let offB := mxOff g f f.b 21
      let steps := (g.reg f.c 0).toNat
      let t := f.bits 50 50
      mxPresent st.clk c gs f t (fun k b => checkOperands false (issueKindOf k t g.block) offA offB steps k b)
        (fun k b => { MxEntry.reset with op := .stream, da := mxDesc (descWords k b offA), db := mxDesc (descWords k b offB), k := steps }) false d) d

/-- MXDIAG (R121). -/
def execMxdiag (c : Fin 512) (gs : Fin 64) (f : InsF) (st : State) : Out :=
  onMem st fun d => issue st.clk c gs f (mxShape f 0b1 true true true)
    (fun d =>
      let g := d.group c gs
      let offA := mxOff g f f.a 0
      let offB := mxOff g f f.b 21
      let steps := (g.reg f.c 0).toNat
      let t := f.bits 50 50
      mxPresent st.clk c gs f t (fun k b => checkOperands true (issueKindOf k t g.block) offA offB steps k b)
        (fun k b => { MxEntry.reset with op := .diag, da := mxDesc (descWords k b offA), db := mxDesc (descWords k b offB), k := steps }) false d) d

/-- Validation of MXDRAIN (R131): the output descriptor, then the fusion descriptor when there is one. -/
def checkDrain (off : Nat) (foff : Option Nat) (k : Core) (b : Block) : Option (Nat × Nat × Nat) :=
  let size := b.lmSize
  let wo := descWords k b off
  let x := mxDesc wo
  let wf := foff.map fun o => (o, descWords k b o)
  let bad := fun (at' reason : Nat) => some (8, at', fmtDetail x.fmt 0xFF reason)
  let outBounds := match foff with | some o => decide (size < o + 32) | none => false
  if size < off + 32 then some (9, off, b.lmUnits)
  else if outBounds then some (9, foff.getD 0, b.lmUnits)
  else
    match descReason .out off wo with
    | some r => bad off r
    | none =>
      match wf.bind fun e => (fuseReason e.1 e.2).map fun r => (e.1, r) with
      | some (o, r) => bad o r
      | none =>
        if spanOut size (drainSpans x MxFuse.reset) then some (9, off, b.lmUnits)
        else
          match wf with
          | some (o, ws) => if spanOut size (drainSpans x (mxFuse ws)) then some (9, o, b.lmUnits) else none
          | none => none

/-- MXDRAIN (R122): mod bits [51] release and [52] zero each row. -/
def execMxdrain (c : Fin 512) (gs : Fin 64) (f : InsF) (st : State) : Out :=
  onMem st fun d => issue st.clk c gs f (mxShape f 0b111 true (f.b != 0xFF) false)
    (fun d =>
      let g := d.group c gs
      let off := mxOff g f f.a 0
      let foff := if f.b = 0xFF then none else some (mxOff g f f.b 21)
      mxPresent st.clk c gs f (f.bits 50 50) (fun k b => checkDrain off foff k b)
        (fun k b => { MxEntry.reset with
          op := .drain, da := mxDesc (descWords k b off), zeroAfter := f.bits 52 52 == 1
          fuse := match foff with | some o => mxFuse (descWords k b o) | none => MxFuse.reset }) (f.bits 51 51 == 1) d) d

/-- The status word that MXWAIT returns for a token (R123); none while the token has not completed. -/
def mxStatus (k : Core) (b token : Nat) : Option Nat :=
  match mget? k.mxq (token % 8) with
  | some e =>
    if e.serial ≠ token / 8 ∨ e.block ≠ b then some 5
    else if e.done then some (e.status + 256 * e.replays) else none
  | none => some 5

/-- The checks of MXWAIT (R87, R123). -/
def mxwaitShape (f : InsF) : Shape :=
  { legal := f.bits 63 50 == 0 && isU f.d && isU f.a && f.b == 0xFF && f.c == 0xFF
    wideOk := false
    guardOk := false
    regs := [f.d, f.a] }

/-- MXWAIT (R123): the group stalls until the token completes. -/
def execMxwait (c : Fin 512) (gs : Fin 64) (f : InsF) (st : State) : Out :=
  onMem st fun d => issue st.clk c gs f (mxwaitShape f)
    (fun d =>
      let g := d.group c gs
      match mxStatus (d.core c) g.block (g.reg f.a 0).toNat with
      | none => d
      | some w => d.setGroup c gs ((g.setReg f.d 0 (BitVec.ofNat 32 w)).advance 8)) d

end Sys2Proof.Machine
end

