-- ==== Sys2Proof/Machine/MatrixRun.lean ====
section
/-! DEFINITION. The outer-product array at work: phases (R133, R134), a pass of rank-1 updates (R111, R121, R145 to R151), scale replay
(R152 to R156), drains with conversion and fusion (R157 to R160), and tokens (R136). -/

namespace Sys2Proof.Machine

/-! ### Elements (R125 to R127) -/

/-- One element as the array reads it: its code, its scale byte (127 where it has none), and whether a word read is poisoned. -/
structure MxElem where
  /-- Element code. -/
  code : Nat
  /-- E8M0 byte. -/
  scale : Nat
  /-- A poisoned word was read. -/
  bad : Bool
  deriving DecidableEq, Repr

/-- Read `e` bits of a block's local memory from a bit position. -/
def readBits (k : Core) (b : Block) (pos e : Nat) : Nat × Bool :=
  let n := (pos % 8 + e + 7) / 8
  ((k.lmGet b (pos / 8) n >>> (pos % 8)) % 2 ^ e, k.lmBad b (pos / 8) n)

/-- Pixel and channel of a Window element (R126): none for padding. -/
def windowAt (x : MxDesc) (i kk : Nat) : Option (Nat × Nat) :=
  let o := x.w2 12 12 * x.w2 0 12 + x.w2 24 12 + i
  let oh := o / x.w2 0 12
  let ow := o % x.w2 0 12
  let ch := x.chans
  let r := kk / (x.kw * ch)
  let s := kk / ch % x.kw
  let ih : Int := Int.ofNat (oh * (x.w1 40 3 + 1) + r * (x.w1 46 3 + 1)) - Int.ofNat (x.w1 52 4)
  let iw : Int := Int.ofNat (ow * (x.w1 43 3 + 1) + s * (x.w1 49 3 + 1)) - Int.ofNat (x.w1 56 4)
  if ih < 0 ∨ iw < 0 ∨ Int.ofNat x.inH ≤ ih ∨ Int.ofNat x.inW ≤ iw then none
  else some (ih.toNat * x.inW + iw.toNat, kk % ch)

/-- Bit position and scale offset of element `i` of k-step `kk` (R125, R127); none for padding. -/
def elemAt (x : MxDesc) (i kk : Nat) : Option (Nat × Nat) :=
  let e := fmtE x.fmt
  match x.mode with
  | 0 => some (8 * (x.base + kk * x.stride) + i * e, x.scaleBase + kk / 32 * x.scaleStride + i)
  | 1 => some (8 * (x.base + i * x.stride) + kk * e, x.scaleBase + kk / 32 * x.scaleStride + i)
  | _ => (windowAt x i kk).map fun w => (8 * x.base + (w.1 * x.chans + w.2) * e, x.scaleBase + w.1 * x.cBlocks + w.2 / 32)

/-- Element `i` of k-step `kk` of an operand. -/
def readElem (k : Core) (b : Block) (x : MxDesc) (i kk : Nat) : MxElem :=
  match elemAt x i kk with
  | none => { code := 0, scale := 127, bad := false }
  | some (pos, so) =>
    let v := readBits k b pos (fmtE x.fmt)
    if fmtMx x.fmt then
      let s := readBits k b (8 * so) 8
      { code := v.1, scale := s.1, bad := v.2 || s.2 }
    else { code := v.1, scale := 127, bad := v.2 }

/-! ### A cell (R146 to R151) -/

/-- Code of the largest finite magnitude with a sign. -/
def limitCode (m : Fmt) (neg : Bool) : Nat := b2n neg * 2 ^ (m.eb + m.mb) + m.maxCode

/-- Exact floating-point product of two elements at a replay level (R146, R152). -/
def fltProduct (fmt level : Nat) (a b : MxElem) : FVal :=
  if a.scale = 255 ∨ b.scale = 255 then .nan
  else
    fmul (fmul (edecode (fmtTy fmt) a.code) (edecode (fmtTy fmt) b.code))
      (pow2 (Int.ofNat a.scale + Int.ofNat b.scale - 254 - 8 * Int.ofNat level))

/-- Add one product to a floating-point cell (R146, R148, R149, R151): the new code, and whether it overflowed. A finite cell whose
product or sum overflows holds the largest finite value with the sign of the exact result. (DEDUCED, assumption 40.) -/
def fltCell (m : Fmt) (t : Nat) (p : FVal) : Nat × Bool :=
  let pc := fround m .rne true p
  if p.isFin && !(fdecode m pc).isFin then ((if (fdecode m t).isFin then limitCode m p.isNeg else t), true)
  else
    let s := fadd (fdecode m t) (fdecode m pc)
    let sc := fround m .rne true s
    if s.isFin && !(fdecode m sc).isFin then (limitCode m s.isNeg, true) else (sc, false)

/-- An integer divided by a power of two, rounded to nearest even. -/
def shiftRne (v : Int) (n : Nat) : Int := signed (decide (v < 0)) (roundAt .rne v.natAbs (-Int.ofNat n) 0)

/-- Limits of INT32. -/
def int32Lo : Int := -(2 ^ 31)
/-- Limits of INT32. -/
def int32Hi : Int := 2 ^ 31 - 1

/-- Exact integer product at a replay level (R150, R152); a NaN scale saturates with the sign of a × b.
(DESIGN CHOICE, assumption 161.) -/
def intProduct (fmt level : Nat) (a b : MxElem) : Int :=
  let w := fmtE fmt
  let x := toSigned w a.code
  let y := toSigned w b.code
  if a.scale = 255 ∨ b.scale = 255 then (if x * y < 0 then int32Lo - 1 else int32Hi + 1)
  else
    let p := shiftRne x (4 * level) * y
    let e : Int := Int.ofNat a.scale + Int.ofNat b.scale - 254
    signed (decide (p < 0)) (roundAt .rne p.natAbs e 0)

/-- Add one product to an integer cell (R148, R150, R151). -/
def intCell (t : Nat) (p : Int) : Nat × Bool :=
  let lim := fun (neg : Bool) => ofSigned 32 (if neg then int32Lo else int32Hi)
  if p < int32Lo ∨ int32Hi < p then (lim (decide (p < 0)), true)
  else
    let s := toSigned 32 t + p
    if s < int32Lo ∨ int32Hi < s then (lim (decide (s < 0)), true) else (ofSigned 32 s, false)

/-- Add the product of two elements to a cell of a tile of a kind and level. -/
def cellStep (kind : TileKind) (level fmt : Nat) (t : Nat) (a b : MxElem) : Nat × Bool :=
  match kind with
  | .int32 => intCell t (intProduct fmt level a b)
  | .bf16 => fltCell bf16 t (fltProduct fmt level a b)
  | _ => fltCell fp32 t (fltProduct fmt level a b)

/-! ### A pass (R111, R121, R130) -/

/-- What a pass has done: the accumulators, whether a pass flag is set, whether poison was read. -/
structure PassRes where
  /-- Accumulators. -/
  acc : List (Nat × BitVec 32)
  /-- A pass flag is set. -/
  flag : Bool
  /-- A poisoned word was read. -/
  bad : Bool

/-- One cell's update. -/
def passCell (kind : TileKind) (level fmt : Nat) (key : Nat) (a b : MxElem) (r : PassRes) : PassRes :=
  let v := cellStep kind level fmt (mget 0 r.acc key).toNat a b
  { acc := mset 0 r.acc key (BitVec.ofNat 32 v.1), flag := r.flag || v.2, bad := r.bad || a.bad || b.bad }

/-- One k-step of MXSTREAM: every active cell adds a[i] × b[j] (R111). -/
def streamStep (k : Core) (blk : Block) (e : MxEntry) (kind : TileKind) (level : Nat) (r : PassRes) (kk : Nat) : PassRes :=
  let as := (List.range e.da.count).map fun i => readElem k blk e.da i kk
  let bs := (List.range e.db.count).map fun j => readElem k blk e.db j kk
  as.zipIdx.foldl (fun r a => bs.zipIdx.foldl (fun r b => passCell kind level e.da.fmt (128 * a.2 + b.2) a.1 b.1 r) r) r

/-- One step of MXDIAG: row s mod 128 adds a_s[j] × b_s[j] (R121). -/
def diagStep (k : Core) (blk : Block) (e : MxEntry) (kind : TileKind) (level : Nat) (r : PassRes) (s : Nat) : PassRes :=
  (List.range e.da.count).foldl (fun r j =>
    passCell kind level e.da.fmt (128 * (s % 128) + j) (readElem k blk e.da j s) (readElem k blk e.db j s) r) r

/-- A whole pass over the operands, from the tile's contents. -/
def runPass (k : Core) (blk : Block) (e : MxEntry) (t : Tile) : PassRes :=
  let start : PassRes := { acc := t.acc, flag := false, bad := false }
  (List.range e.k).foldl (fun r s =>
    if e.op = .diag then diagStep k blk e t.kind t.level r s else streamStep k blk e t.kind t.level r s) start

/-- The snapshot rescaled by `n` levels, with one rounding (R153). -/
def rescale (kind : TileKind) (n : Nat) (acc : List (Nat × BitVec 32)) : List (Nat × BitVec 32) :=
  let one := fun (v : Nat) => match kind with
    | .int32 => ofSigned 32 (shiftRne (toSigned 32 v) (4 * n))
    | .bf16 => fround bf16 .rne false (fmul (fdecode bf16 v) (pow2 (-8 * Int.ofNat n)))
    | _ => fround fp32 .rne false (fmul (fdecode fp32 v) (pow2 (-8 * Int.ofNat n)))
  acc.foldl (fun m e => mset 0 m e.1 (BitVec.ofNat 32 (one e.2.toNat))) []

/-! ### Phases (R133, R134) -/

/-- Whether an instruction was accepted before another (R109). -/
def earlier (a b : MxEntry) : Bool := a.serial != b.serial && decide ((b.serial + 2 ^ 29 - a.serial) % 2 ^ 29 < 2 ^ 28)

/-- Whether two lists of spans overlap. -/
def spanLists (a b : List (Nat × Nat)) : Bool := a.any fun x => b.any fun y => spansMeet x y

/-- Conditions 1, 2 and 4 of R134 for an instruction's first phase. Condition 3 holds at once, since a store is performed as it
issues; condition 5 is timing. -/
def Core.mxReady (k : Core) (e : MxEntry) : Bool :=
  k.mxq.all fun x =>
    let o := x.2
    o.done || !earlier o e ||
      (o.tile != e.tile &&
        !(o.block == e.block && (spanLists (o.held ++ o.written) e.written || spanLists o.written e.held)) &&
        !(e.op == .drain && o.phase == .drain))

/-- Whether the drain path is free (R134, condition 4). -/
def Core.drainFree (k : Core) : Bool := k.mxq.all fun x => x.2.done || x.2.phase != .drain

/-- Change a matrix queue entry. -/
def Core.updMx (k : Core) (n : Nat) (f : MxEntry → MxEntry) : Core := { k with mxq := k.mxq.map fun e => if e.1 = n then (e.1, f e.2) else e }

/-- Begin the lead-in of an instruction whose tile is as `t`, when the multipliers will be free for its update (R134, condition 5), or
leave it as it is; the lead-in begins in the A-cycle `at'`. -/
def Core.leadIn (k : Core) (n : Nat) (t : Tile) (x : MxEntry) (at' : Nat) : Core :=
  if at' + x.lead < k.mulEnd then k
  else
    { (k.setTile x.tile { t with kind := kindAfter x.da.fmt t.kind }).updMx n fun y => { y with
        phase := .pass, leadAt := at', n0 := t.level, snap := t.acc } with mulq := k.mulq ++ [n] }

/-- MATRIX_PHASE_START (R134): the zero phase of a claim runs, and the instruction's own first phase begins; for a pass, which begins
with its lead-in, at the A-cycle that condition 5 allows. (DESIGN CHOICE, assumption 160.) -/
def execMatrixPhaseStart (c : Fin 512) (e : Fin 8) (st : State) : Out :=
  onMem st fun d =>
    let co := d.core c
    match mget? co.mxq e with
    | none => d
    | some x =>
      if x.done || d.stopped then d
      else if x.phase = .zero ∧ (x.op = .stream ∨ x.op = .diag) then
        d.setCore c (co.leadIn e (co.tile x.tile) x (max st.clk.acyc x.ownAt))
      else if x.phase != .queued || !co.mxReady x || (x.op == .drain && !co.drainFree) then d
      else
        let b := co.block x.block
        let t := co.tile x.tile
        let t := if x.claims then t.zeroed .unset else t
        let since := fun (y : MxEntry) => { y with since := st.clk.acyc }
        match x.op with
        | .zero => d.setCore c ((co.setTile x.tile (t.zeroed x.kindArg)).updMx e fun y => { since y with phase := .zero })
        | .drain =>
          let amax := match x.fuse.amax with | some o => co.lmGet b o 4 | none => 0
          d.setCore c ((co.setTile x.tile t).updMx e fun y => { since y with phase := .drain, amax := BitVec.ofNat 32 amax })
        | _ =>
          let zeroed := if x.claims then (co.setTile x.tile t).updMx e fun y => { since y with phase := .zero } else co
          let k := zeroed.leadIn e t x (since x).ownAt
          d.setCore c (k.updMx e fun y => if y.phase = .pass then since y else y)

/-- MATRIX_PASS_END (R138, R153): the pass settles, and the array tests overflow: the instruction ends, or a replay pass runs. -/
def execMatrixPassEnd (c : Fin 512) (e : Fin 8) (st : State) : Out :=
  onMem st fun d =>
    match mget? (d.core c).mxq e with
    | none => d
    | some x =>
      if x.done || x.phase != .pass || (d.core c).mulq.head? != some e.val || d.stopped then d
      else
        let b := (d.core c).block x.block
        let d := x.held.foldl (fun d s => d.meetLm st.clk c b s.1 (s.2 - s.1)) d
        let co := (d.core c).endUpdates e st.clk.acyc
        let t := co.tile x.tile
        let r := runPass co b x t
        let t' := { t with acc := r.acc }
        let stop := fun (t : Tile) (status : Nat) => d.setCore c ((co.setTile x.tile t).updMx e fun y => { y with phase := .done, status := status })
        if r.bad then stop { t' with poison := true } 4
        else if !r.flag then stop t' (if x.replays = 0 then 0 else 1)
        else if b.scalePinned then stop { t' with sat := if t.sat = .exhausted then .exhausted else .pinned } 3
        else if t.level = 3 then stop { t' with sat := .exhausted } 2
        else
          d.setCore c (((co.setTile x.tile { t with level := t.level + 1, acc := rescale t.kind (t.level + 1 - x.n0) x.snap }).updMx e
            fun y => { y with replays := y.replays + 1, leadAt := st.clk.acyc }).replayFirst e st.clk.acyc)

/-- MATRIX_TOKEN_COMPLETE (R136): the final phase ends, what the instruction held is free, and its token is complete. -/
def execMatrixTokenComplete (c : Fin 512) (e : Fin 8) (st : State) : Out :=
  onMem st fun d =>
    let co := d.core c
    match mget? co.mxq e with
    | none => d
    | some x =>
      if x.done || d.stopped || !((x.phase == .zero && x.op == .zero) || x.phase == .drain || x.phase == .done) then d
      else
        let status := if x.op = .drain then drainStatus (co.tile x.tile) else x.status
        let co := if x.op = .drain then drainAll co c x else co
        let busy := st.clk.acyc - x.since
        let d := d.setCore c (co.updMx e fun y => { y with phase := .done, done := true, status := status, snap := [] })
        let d := d.updCtx x.ctx fun v => { v with arrayBusy := v.arrayBusy + busy }
        d.updBank x.queue fun v => { v with arrayBusy := v.arrayBusy + busy }

end Sys2Proof.Machine
end

