-- ==== Sys2Proof/Machine/Bywash.lean ====
section
/-! DEFINITION. The bywash path (R167 to R180): BWDOT, its weight lines, and its completion. -/

namespace Sys2Proof.Machine

/-! ### The weight panel (R171, R172) -/

/-- Bytes P of a panel row (R172). -/
def bwRow (fmt : Nat) : Nat := 4 * fmtE fmt

/-- Formats that BWDOT accepts (R171). -/
def bwFmtOk (fmt : Nat) : Bool := fmt == 0 || fmt == 1 || fmt == 4 || fmt == 0x0C

/-- The span of virtual addresses that a slot's weights take: first and end (R174). -/
def BwSlot.wSpan (b : BwSlot) : Nat × Nat :=
  (b.wva + b.k0 * bwRow b.fmt, b.wva + (b.k0 + 64 * b.chunks) * bwRow b.fmt)

/-- The span of the scales, empty for formats without them (R174). -/
def BwSlot.sSpan (b : BwSlot) : Nat × Nat :=
  if b.fmt = 0x0C then (b.sva + b.k0 / 32 * 32, b.sva + b.k0 / 32 * 32 + 64 * b.chunks) else (0, 0)

/-- The addresses of the lines of a span, each at the span's first byte on it. -/
def spanLines (s : Nat × Nat) : List Nat :=
  if s.2 ≤ s.1 then []
  else (List.range ((s.2 - 1) / 128 - s.1 / 128 + 1)).map fun i => max s.1 ((s.1 / 128 + i) * 128)

/-- Sectors of a line that a slot needs. -/
def BwSlot.sectors (b : BwSlot) (va : Nat) : BitVec 4 :=
  (List.range 4).foldl (fun m i =>
    let s := (va / 128 * 128 + 32 * i, va / 128 * 128 + 32 * i + 32)
    if spansMeet s b.wSpan || spansMeet s b.sSpan then m ||| (1#4 <<< i) else m) 0

/-- A byte of a slot's weight buffer. -/
def BwSlot.byte (b : BwSlot) (va : Nat) : Nat := (lineByte (mget 0 b.weights (va / 128)) (va % 128)).toNat

/-- Weight W[k][n] (R172, R173). -/
def BwSlot.weight (b : BwSlot) (k n : Nat) : FVal :=
  let pos := n * fmtE b.fmt
  let a := b.wva + k * bwRow b.fmt + pos / 8
  let v := b.byte a + 256 * (if fmtE b.fmt = 16 then b.byte (a + 1) else 0)
  edecode (fmtTy b.fmt) (bitsAt v (pos % 8) (fmtE b.fmt))

/-- Scale factor of element (k, n) (R144, R172). -/
def BwSlot.scale (b : BwSlot) (k n : Nat) : FVal :=
  if b.fmt = 0x0C then edecode .e8m0 (b.byte (b.sva + k / 32 * 32 + n)) else pow2 0

/-- Activation x_j[i] (R168). -/
def BwSlot.actOf (b : BwSlot) (j i : Nat) : FVal :=
  let w := (mget 0 b.act (32 * (j * b.chunks + i / 64) + i % 64 / 2)).toNat
  fdecode bf16 (bitsAt w (16 * (i % 2)) 16)

/-- One accumulator y[j][n] after the rows of the instruction (R167, R173). -/
def BwSlot.dot (b : BwSlot) (j n : Nat) (start : Nat) : Nat :=
  (List.range (64 * b.chunks)).foldl (fun acc i =>
    let p := farith fp32 .rne (fmul (fmul (b.weight (b.k0 + i) n) (b.scale (b.k0 + i) n)) (b.actOf j i))
    farith fp32 .rne (fadd (fdecode fp32 acc) (fdecode fp32 p))) start

/-! ### Issue (R175 to R177) -/

/-- The slot that a BWDOT would take, from its registers and its descriptor. -/
def bwSlotOf (g : Group) (f : InsF) (ws : List Nat) : BwSlot :=
  let cr := (g.reg f.c 0).toNat
  { BwSlot.reset with
    pc := g.pc, active := g.active, d := f.d, vcount := bitsAt cr 0 5, k0 := bitsAt cr 8 24
    chunks := bitsAt (ws.getD 2 0) 8 2 + 1, cols := bitsAt (ws.getD 2 0) 10 6, fmt := bitsAt (ws.getD 2 0) 0 5
    fresh := f.bits 50 50 == 1, len := f.len, noAlloc := f.bits 51 51 == 1
    wva := bitsAt (ws.getD 0 0) 0 56, sva := bitsAt (ws.getD 1 0) 0 56 }

/-- Checks 2 and 3 of R175: code, fault address and detail of the first failure. (DESIGN CHOICE, assumption 162.) -/
def bwCheck (g : Group) (f : InsF) (size units off : Nat) (ws : List Nat) (b : BwSlot) : Option (Nat × Nat × Nat) :=
  let bad := fun reason => some (8, off, fmtDetail b.fmt 4 reason)
  if size < off + 32 then some (9, off, units)
  else if bitsAt (ws.getD 0 0) 56 8 ≠ 0 ∨ bitsAt (ws.getD 1 0) 56 8 ≠ 0 ∨ bitsAt (ws.getD 2 0) 5 3 ≠ 0 ∨ bitsAt (ws.getD 2 0) 16 48 ≠ 0
      ∨ ws.getD 3 0 ≠ 0 ∨ bitsAt (g.reg f.c 0).toNat 5 3 ≠ 0 ∨ (b.fmt ≠ 0x0C ∧ b.sva ≠ 0) then bad 6
  else if !bwFmtOk b.fmt then bad 0
  else if off % 32 ≠ 0 ∨ b.wva % 128 ≠ 0 ∨ b.sva % 32 ≠ 0 ∨ b.k0 % 64 ≠ 0 then bad 2
  else if b.vcount < 1 ∨ 16 < b.vcount ∨ b.cols < 1 ∨ 32 < b.cols then bad 3
  else none

/-- Check 1 of R175: a register beyond the group's, or accumulators and activations that overlap. -/
def bwRegsBad (r d b v c : Nat) : Bool :=
  decide (0 < v) && (decide (r < d + v) || decide (r < b + v * c) || (decide (d < b + v * c) && decide (b < d + v)))

/-- The slots in use, in acceptance order (R177). -/
def Core.bwOldest (k : Core) : List (Nat × BwSlot) :=
  k.bw.foldl (fun (l : List (Nat × BwSlot)) e =>
    (l.filter fun x => decide (x.2.order < e.2.order)) ++ [e] ++ l.filter fun x => decide (e.2.order < x.2.order)) []

/-- Rows that a slot holds without a gap from its first: every weight and scale line of theirs has arrived (R177). -/
def BwSlot.rowsHere (b : BwSlot) : Nat :=
  ((List.range (64 * b.chunks)).takeWhile fun i =>
    let r := b.k0 + i
    let w := (b.wva + r * bwRow b.fmt, b.wva + (r + 1) * bwRow b.fmt)
    let s := (b.sva + r / 32 * 32, b.sva + r / 32 * 32 + 32)
    !b.wLines.any fun a => spansMeet (a.va, a.va + 128) w || (b.fmt == 0x0C && spansMeet (a.va, a.va + 128) s)).length

/-- Give the multipliers the rows that have arrived. The slots compute one at a time, in acceptance order: a slot's rows follow every
row of the slots before it, and each takes its share of the compute cycles of R178 (R177). (DEDUCED, assumption 178.) -/
def Core.bwRows (k : Core) (ccyc : Nat) : Core :=
  let r := (k.bwOldest.filter fun e => !e.2.cancelled).foldl (fun (r : Core × Option Nat) e =>
    match r.2 with
    | none => r
    | some t =>
      let here := e.2.rowsHere
      let till := if e.2.rowsIn < here then max (max ccyc t) e.2.busyTo + (here - e.2.rowsIn) * (fmtE e.2.fmt / 4) else e.2.busyTo
      ({ r.1 with bw := mput r.1.bw e.1 { e.2 with rowsIn := max e.2.rowsIn here, busyTo := till } },
        if here = 64 * e.2.chunks then some till else none)) (k, some 0)
  r.1

/-- Whether a BWDOT slot computes: it has rows with the multipliers, and the slots accepted before it have none (R177, R180). -/
def Core.bwComputes (k : Core) (ccyc : Nat) (b : BwSlot) : Bool :=
  !b.cancelled && decide (ccyc < b.busyTo) &&
    k.bw.all fun e => e.2.cancelled || decide (b.order ≤ e.2.order) || decide (e.2.busyTo ≤ ccyc)

/-- Whether a slot's accumulators are written back: its last row is computed, and 8 + V C-cycles have passed (R177). -/
def BwSlot.written (b : BwSlot) (ccyc : Nat) : Bool := b.rowsIn == 64 * b.chunks && decide (b.busyTo + 8 + b.vcount ≤ ccyc)

/-- Whether an access of a group's own earlier instruction that writes memory is still to come on a line (R95). -/
def Core.writesFirst (k : Core) (slot line : Nat) : Bool :=
  k.ops.any fun e => e.2.slot == slot && e.2.kind != .load && e.2.lanes.any fun a => a.line == line

/-- Change a bywash slot. -/
def Dev.updBw (d : Dev) (c n : Nat) (f : BwSlot → BwSlot) : Dev :=
  d.updCore c fun co => { co with bw := co.bw.map fun e => if e.1 = n then (n, f e.2) else e }

/-- Request a slot's weight lines that are due, at most 96 of the core's at once (R177). One that an earlier instruction of the group has
yet to write waits for it (R95, R174); one that an UNMAP overtook is translated afresh, and may fault (R290). -/
def Dev.bwAsk (d : Dev) (k : Clock) (c : Nat) : Dev :=
  (d.core c).bwOldest.foldl (fun d e => e.2.wLines.foldl (fun d a =>
    let co := d.core c
    if co.mshrs.any (fun m => m.2.bw == some e.1 && m.2.va == a.va) || e.2.cancelled || co.writesFirst e.2.slot a.line then d
    else if 96 ≤ (co.mshrs.filter fun m => m.2.bw.isSome).length || 192 ≤ co.used then d
    else
      match (if a.stale then d.afresh e.2.ctx 1 a else .ok a) with
      | .error x => d.updBw c e.1 fun b => { b with wLines := b.wLines.filter fun y => y.va != a.va, bad := mput b.bad a.va (if x.1 = 1 then 2 else 3) }
      | .ok a =>
      let d := d.updBw c e.1 fun b => { b with wLines := b.wLines.map fun y => if y.va = a.va then a else y }
      let home := d.isHome a.line
      let p : Packet := { Packet.reset with op := .readU, sectors := e.2.sectors a.va
                                            alloc := if !home then 0 else if e.2.noAlloc then 2 else 1 }
      let d := if e.2.slot < 64 then d.updBank (co.blockOf e.2.slot).queue fun v => { v with memBytes := v.memBytes + movedBytes p } else d
      d.landReq k c { Mshr.reset with kind := .readU, ctx := e.2.ctx, epoch := e.2.epoch % 8, berth := e.2.berth, bw := some e.1, va := a.va }
        a true p) d) d

/-- A group's BWDOT ends without writing a register (R176). -/
def Dev.bwDrop (d : Dev) (c n : Nat) (b : BwSlot) : Dev :=
  let d := d.updCore c fun k => { k with bw := mdel k.bw n }
  if b.slot < 64 then
    d.updGroup c b.slot fun g => { g with bwHold := none, await := g.await.filter fun r => !(decide (b.d ≤ r) && decide (r < b.d + b.vcount)) }
  else d

/-- Code and detail of the fault of a weight line that came poisoned (0), with an error response (1), or whose fresh translation faulted
(2, 3) (R36, R69, R176, R290). -/
def bwFault (why : Nat) : Nat × Nat := match why with
  | 0 => (3, 0)
  | 1 => (2, 0x10)
  | 2 => (1, 0)
  | _ => (2, 1)

/-- A slot whose lines have all come: a cancelled one is free; a group that waits for it goes on, or parks for the lowest line that
could not be read (R176, R179). -/
def Dev.bwEnd (d : Dev) (k : Clock) (c n : Nat) : Dev :=
  match mget? (d.core c).bw n with
  | none => d
  | some b =>
    if !b.wLines.isEmpty then d
    else if b.cancelled then d.updCore c fun co => { co with bw := mdel co.bw n }
    else
      match b.bad.head? with
      | some (a, why) =>
        let d := d.bwDrop c n b
        let g := d.group c b.slot
        if g.st = .running then d.parkGroup k c b.slot (bwFault why).1 b.pc a (bwFault why).2 0 g.whole else d
      | none =>
        if (d.group c b.slot).bwHold = some n then d.updGroup c b.slot fun g => { g with bwHold := none }.advance b.len else d

/-- The slots of a core go on: due lines are requested, slots with every line end their wait, and the multipliers take the rows that are
there. -/
def Dev.bwPump (d : Dev) (k : Clock) (c : Nat) : Dev :=
  let d := d.bwAsk k c
  let d := ((d.core c).bw.map Prod.fst).foldl (fun d n => d.bwEnd k c n) d
  d.updCore c fun co => co.bwRows k.ccyc

/-- Acceptance of a BWDOT (R175 to R177). (DESIGN CHOICE, assumption 163.) -/
def bwPresent (k : Clock) (c s : Nat) (f : InsF) (d : Dev) : Dev :=
  let co := d.core c
  let g := co.group s
  let blk := co.block g.block
  let off := mxOff g f f.a 0
  let ws := descWords co blk off
  let b := bwSlotOf g f ws
  let chunksNow := if blk.lmSize < off + 32 then 1 else b.chunks
  match lowestFree 4 (co.bw.map Prod.fst) with
  | none => d
  | some n =>
    if bwRegsBad blk.r f.d f.b b.vcount chunksNow then d.illegal k c s 0
    else
      match bwCheck g f blk.lmSize blk.lmUnits off ws b with
      | some (code, addr, detail) => d.parkGroup k c s code g.pc addr detail 0 g.whole
      | none =>
        let vas := (spanLines b.wSpan ++ spanLines b.sSpan)
        let rs := vas.map fun va => (va, d.coreXlate c s va 1)
        match rs.find? fun r => r.2 == .wait with
        | some r => d.startWalk c s r.1
        | none =>
          let flts := rs.filterMap fun r => match r.2 with
            | .fault code detail => some (r.1, code, detail)
            | _ => none
          match flts with
          | x :: t =>
            let low := t.foldl (fun a b => if b.1 < a.1 then b else a) x
            d.parkGroup k c s low.2.1 g.pc low.1 low.2.2 0 g.whole
          | [] =>
            let lines := rs.foldl (fun (l : List LaneAcc) r => match r.2 with
              | .ok e ga =>
                let va := r.1 / 128 * 128
                if l.any (fun a => a.va == va) then l
                else l ++ [{ LaneAcc.reset with va := va, ga := ga / 128 * 128, mtype := reType e, key := reKey e
                                                mirror := if reType e = 3 then reMirror e else 0 }]
              | _ => l) []
            let act := (List.range (b.vcount * b.chunks)).flatMap fun i =>
              (List.range 32).map fun l => (32 * i + l, g.reg (f.b + i) l)
            let b := { b with slot := s, order := co.bwOrder, act := act, wLines := lines, ctx := blk.ctx, berth := blk.berth
                              epoch := (d.ctx blk.ctx).epoch }
            let d := d.setCore c { co with bw := mput co.bw n b, bwOrder := co.bwOrder + 1 }
            let d := d.updGroup c s fun g => { g with bwHold := some n, await := g.await ++ (List.range b.vcount).map fun j => f.d + j }
            d.bwPump k c

/-- The checks of BWDOT (R87, R108), and the registers it names: as many as C and the descriptor say (R168). -/
def bwShape (f : InsF) (v chunks : Nat) : Shape :=
  { legal := f.bits 63 52 == 0 && isV f.d && isV f.b && isU f.a && isU f.c && (!f.wide || bitsAt f.ext.toNat 21 43 == 0)
    wideOk := true
    guardOk := false
    regs := regList f.a 1 ++ regList f.c 1 ++ (List.range v).map (fun j => f.d + j) ++
      (List.range (v * chunks)).map (fun j => f.b + j) ++ [acqMark] }

/-- The slot that a group's BWDOT would take (R168, R170). -/
def Dev.bwSlot (d : Dev) (c s : Nat) (f : InsF) : BwSlot :=
  let g := d.group c s
  bwSlotOf g f (descWords (d.core c) ((d.core c).blockOf s) (mxOff g f f.a 0))

/-- BWDOT (R108, R170, R175). -/
def execBwdot (c : Fin 512) (gs : Fin 64) (f : InsF) (st : State) : Out :=
  onMem st fun d => issue st.clk c gs f (bwShape f (d.bwSlot c gs f).vcount (d.bwSlot c gs f).chunks) (bwPresent st.clk c gs f) d

/-! ### Lines and completion -/

/-- Try the instructions in flight of a core again, then the weight lines that wait for transactions or for stores, and what waited for
those lines (R52, R95, R177). -/
def Dev.corePump (d : Dev) (k : Clock) (c : Nat) : Dev :=
  let d := (d.pump k c).bwPump k c
  ((d.core c).ops.map Prod.fst).foldl (fun d n => d.endOp k c n) d

/-- A weight or scale line returns to its slot (R176, R179): `err` tells an error response. The lowest line that cannot be used decides
what the group parks with. (DESIGN CHOICE, assumption 154.) -/
def Dev.bwArrive (d : Dev) (k : Clock) (c n va : Nat) (data : Line) (poison : BitVec 16) (err : Bool) : Dev :=
  (d.updBw c n fun b => { b with
    wLines := b.wLines.filter fun a => a.va != va
    weights := if b.cancelled then b.weights else mput b.weights (va / 128) data
    bad := if err then mput b.bad va 1 else if poison = 0 then b.bad else mput b.bad va 0 }).corePump k c

/-- BWDOT_COMPLETE (R177): the oldest slot has computed every row, and its accumulators are written back in the lanes below cols that A held
(R168), and the slot is free. -/
def execBwdotComplete (c : Fin 512) (b : Fin 4) (st : State) : Out :=
  onMem st fun d =>
    match mget? (d.core c).bw b with
    | none => d
    | some x =>
      let first := (d.core c).bw.all fun e => e.2.cancelled || decide (x.order ≤ e.2.order)
      if !x.written st.clk.ccyc || x.cancelled || !first || d.stopped then d
      else
        let d := d.updGroup c x.slot fun g =>
          let lanes := (List.range x.cols).filter fun n => x.active.getLsbD n
          let g' := (List.range x.vcount).foldl (fun (h : Group) j => lanes.foldl (fun (h : Group) n =>
            h.setReg (x.d + j) n (BitVec.ofNat 32 (x.dot j n (if x.fresh then 0 else (g.reg (x.d + j) n).toNat)))) h) g
          { g' with await := g'.await.filter fun r => !(decide (x.d ≤ r) && decide (r < x.d + x.vcount)) }
        (d.updCore c fun co => { co with bw := mdel co.bw b }).corePump st.clk c

end Sys2Proof.Machine
end

