-- ==== Sys2Proof/Machine/Directory.lean ====
section
/-! DEFINITION. What a slice does with requests (R36, R198 to R201, R207, R212, R237 to R242, R247 to R253, R398, R406): as the home of a
line, and as the far slice of a line homed on another device. -/

namespace Sys2Proof.Machine

/-! ### Packets -/

/-- VC2 opcodes (R237, R306). -/
def isVc2 : PktOp → Bool
  | .fwdGetS | .fwdGetM | .inv | .recall | .evictAck | .routeMark => true
  | _ => false

/-- A packet of the given opcode that waits in the mesh for an agent of this device is taken and acted on. `f` answers none when it
must wait. VC2 messages of one sender to one receiver about one line are taken in the order sent (R239). -/
def Dev.onPkt (d : Dev) (p : Packet) (op : PktOp) (f : Dev → Option Dev) : Dev :=
  let earlier := (d.fab.net.takeWhile fun q => q != p).any fun q =>
    isVc2 q.op && q.line == p.line && q.src == p.src && q.dst == p.dst && q.tgt == p.tgt
  if p.op = op ∧ p.dst = d.id ∧ d.fab.net.contains p = true ∧ d.stopped = false ∧ (isVc2 op = true → earlier = false) then
    (f (d.take p)).getD d
  else d

/-- A packet back to a request's landing buffer (R304). -/
def answerPkt (d : Dev) (p : Packet) (op : PktOp) : Packet :=
  { Packet.reset with op := op, dst := p.src, src := d.id, tgt := p.agent, agent := p.agent, entry := p.entry, gen := p.gen, line := p.line }

/-- A Data packet that answers a request (R237, R306). -/
def dataAnswer (d : Dev) (p : Packet) (grant acks : Nat) (contended : Bool) (data : Line) (poison : BitVec 16) : Packet :=
  { answerPkt d p .data with grant := grant, acks := acks, contended := contended, data := lineWords data, poison := poisonList poison }

/-- HBM bytes moved so far (R488, words 0 to 15). -/
def Dev.hbmMoved (d : Dev) : Nat := sumNat ((List.range 16).map fun i => mget 0 d.cnt.words i)

/-- Do a request's work and add the HBM bytes that it moved to the figures of its context (R491). (DEDUCED, assumption 31.) -/
def Dev.forCtx (d : Dev) (p : Packet) (f : Dev → Option Dev) : Option Dev :=
  (f d).map fun e =>
    if p.src = d.id ∧ (e.ctx p.ctx).st = .live then e.updCtx p.ctx fun c => { c with hbmBytes := c.hbmBytes + (e.hbmMoved - d.hbmMoved) } else e

/-! ### Checks at the home -/

/-- Answer a request with an error response (R36, R398); an unpopulated address is logged. -/
def Dev.errorTo (d : Dev) (k : Clock) (p : Packet) (reason : Nat) : Dev :=
  let d := if reason = 1 then
      logErr k { sliceErr (d.lineSlice p.line) 2 0x05 0x0C (p.line % 2 ^ 38 * 128) 0 with berth := p.berth } d
    else d
  d.send { answerPkt d p .errorResp with reason := reason, off := p.off }

/-- Owner berth of a page of HBM (R396). (DESIGN CHOICE, assumption 59.) -/
def Dev.pageOwner (d : Dev) (a : Nat) : Nat := bitsAt (mget 0 d.mem.owner (a / 65536)) 0 5

/-- Whether a berth's request may reach an address (R398). -/
def Dev.mayAccess (d : Dev) (berth key a : Nat) (read : Bool) : Bool :=
  let o := d.pageOwner a
  let sk := mget SharedKey.reset d.ctl.shared key
  o == berth || (read && key != 0 && sk.owner == o && sk.readers.getLsbD berth)

/-- Whether a packet is a write-back to a mirror location, which is not checked (R398, R201). -/
def isMirrorWrite (p : Packet) : Bool := p.op == .writeU && decide (512 ≤ p.agent) && p.mtype == 3

/-- The error response that a request to own HBM draws, if any (R36, R264, R398). (DEDUCED, assumption 32.) -/
def Dev.homeError (d : Dev) (p : Packet) : Option Nat :=
  let bad := fun (i : Nat) =>
    let a := (p.line + i) % 2 ^ 38 * 128
    if (d.locOf a).isNone || (p.mtype == 2) != (d.narrowAt a).isSome then some 1
    else if isMirrorWrite p || d.mayAccess p.berth p.key a (p.op == .getS || p.op == .readU || p.op == .bulkRead) then none
    else some 3
  (List.range (max 1 p.lines)).findSome? bad

/-- Whether the channel of a line of this device is being retrained (R227). -/
def Dev.lineRetrains (d : Dev) (a : Nat) : Bool :=
  match d.locOf a with
  | some l => (d.stack l.stack).retraining.getLsbD l.ch
  | none => false

/-! ### The home's own copy -/

/-- Put a request aside at a slice until tokens accrue; a full hold answers HeldRetry (R406, R407). -/
def Dev.holdReq (d : Dev) (n : Nat) (p : Packet) : Dev :=
  let h := mget [] (d.slice n).held p.berth
  if 32 ≤ h.length then d.send (answerPkt d p .heldRetry)
  else d.updSlice n fun s => { s with held := mput s.held p.berth (h ++ [p]) }

/-- Ask a peer for the mirror sectors of a repair (R476). -/
def Dev.repairAsk (d : Dev) (n : Nat) (r : Repair) : Dev :=
  let x := d.sliceOwn n { Packet.reset with
    op := .readU, dst := r.mline / 2 ^ 38, tgt := 512, line := r.mline, berth := r.req.berth, key := r.req.key, mtype := r.req.mtype
    sectors := flipSectors (d.mirrorLow r.req.mirror) r.sectors }
  x.2.send x.1

/-- First sector of a mask. -/
def firstSector (m : BitVec 4) : Nat := ((List.range 4).find? fun i => m.getLsbD i).getD 0

/-- Read sectors of a frame at its home for a request (R209, R406, R476, R478). None when the request was put aside: for tokens,
for a channel that retrains, or for a mirror repair. -/
def Dev.homeRead (d : Dev) (k : Clock) (n line : Nat) (p : Packet) (want : BitVec 4) (ins : Nat) : Option (Line × BitVec 16) × Dev :=
  let sl := d.slice n
  let held := sl.lineOf (d.setOfLine line) line
  let miss := want &&& ~~~(held.elim 0 SLine.valid)
  let cost := ((List.range 4).filter fun i => miss.getLsbD i).length
  let rate := (d.berth p.berth).hbmRate
  if sl.repairs.any fun r => r.line == p.line && r.sectors &&& want != 0 then
    (none, d.setSlice n { sl with repairs := sl.repairs.map fun r => if r.line = p.line then { r with waiting := r.waiting ++ [p] } else r })
  else if cost ≠ 0 ∧ d.lineRetrains (32 * d.sectorNo line (firstSector miss)) = true then (none, d.setSlice n { sl with stalled := sl.stalled ++ [p] })
  else if cost ≠ 0 ∧ rate ≠ 0 ∧ d.bucket k n p.berth < Int.ofNat (cost * tokenUnit) then (none, d.holdReq n p)
  else
    let d := d.charge k n p.berth cost
    let (f, d) := d.sliceRead k n line p.berth p.key p.mtype p.mirror want ins
    let bad := poisonSectors f.poison &&& want
    match d.mirrorLine p.line p.mirror with
    | some ml =>
      if bad &&& miss = 0 then (some (f.data, f.poison), d)
      else
        let r : Repair := { Repair.reset with line := p.line, sectors := bad &&& miss, mline := ml, req := p }
        let d := d.updSlice n fun s => { s with repairs := s.repairs ++ [r] }
        (none, if ml / 2 ^ 38 = d.id then d else d.repairAsk n r)
    | none =>
      if bad ≠ 0 ∧ p.key ≠ 0 then (some (f.data, f.poison), d.taintLine k n p.line p.key p.berth bad) else (some (f.data, f.poison), d)

/-- The data that a far slice has of a line (R249): its frame, else a local L1's copy. -/
def Dev.farRead (d : Dev) (k : Clock) (n line : Nat) : Option (Line × BitVec 16) × Dev :=
  let (hit, d) := (d.sliceMeet k n line [] allWords).sliceFind k n line
  match hit with
  | some f => (some (f.data, f.poison), d)
  | none =>
    match (d.localHolders line).findSome? fun c => (d.core c).copyOf line with
    | some (_, _, data, poison) => (some (data, poison), d)
    | none => (none, d)

/-! ### Supply from the nearest sharer (R240) -/

/-- Steps on the grid between two stops (R19). -/
def gridDist (r1 c1 r2 c2 : Nat) : Nat := (max r1 r2 - min r1 r2) + (max c1 c2 - min c1 c2)

/-- Row and column of the edge stop that serves a slice (R21, R24). -/
def sliceStop (n : Nat) : Nat × Nat := (if n / 16 % 2 = 0 then 0 else 15, 8 * (n / 32) + n % 16 / 2)

/-- Distance from a requester to a device (R240). -/
def Dev.devDist (d : Dev) (r x : Nat) : Nat :=
  1 + 2 * mget 0xF d.fab.hops (128 * (mget 0x80 d.fab.reach r % 128) + mget 0x80 d.fab.reach x % 128)

/-- The sharer that supplies a GetS on a Shared line; none for the home itself (R240). -/
def Dev.supplier (d : Dev) (n : Nat) (e : DirEntry) (p : Packet) : Option Nat :=
  if e.coarse then none
  else
    let near := decide (p.src = d.id)
    let cand := e.sharers.filter fun x => decide (x < 4096) == near
    let held := ((d.slice n).lineOf (d.setOfLine e.line) e.line).isSome
    let dist := fun x => if near then gridDist (p.agent / 32) (p.agent % 32) (x / 32) (x % 32) else d.devDist p.src (x - 4096)
    let home := if near then gridDist (p.agent / 32) (p.agent % 32) (sliceStop n).1 (sliceStop n).2 else d.devDist p.src d.id
    let best := cand.foldl (fun (o : Option Nat) x => match o with
      | none => some x
      | some y => if dist x < dist y then some x else some y) none
    match best with
    | some x => if held && decide (home ≤ dist x) then none else some x
    | none => none

/-! ### GetS and GetM (R241) -/

/-- Send a forward to a holder, or to the home's atomic unit (R241, R253). -/
def Dev.forward (d : Dev) (n : Nat) (e : DirEntry) (ptr : Option Nat) (p : Packet) (op : PktOp) (acks : Nat) : Dev :=
  let f : Packet := { Packet.reset with op := op, agent := p.agent, entry := p.entry, gen := p.gen, reqDev := p.src, acks := acks, line := e.line }
  let d := d.bump (82 + 2 * (n / 32)) 1
  match ptr with
  | some x => d.send (toPtr d e.line x f)
  | none => d.updSlice n fun s => { s with atoms := s.atoms.map fun a => if a.line = e.line then { a with fwds := a.fwds ++ [{ f with src := d.id, dst := d.id }] } else a }

/-- Send the Invs of a GetM to sharers or covered agents, with R as the ack target (R241). -/
def Dev.sendInvs (d : Dev) (e : DirEntry) (ts : List Nat) (p : Packet) : Dev :=
  d.sendAll (ts.map fun x => toPtr d e.line x { Packet.reset with
    op := .inv, agent := p.agent, entry := p.entry, gen := p.gen, reqDev := p.src, ackDev := p.src
    ackTag := p.agent + 2 ^ 10 * p.entry + 2 ^ 20 * p.gen })

/-- Whether a slice answers a GetS or GetM with data of its own (R240, R241). -/
def Dev.suppliesSelf (d : Dev) (n : Nat) (e : DirEntry) (p : Packet) : Bool :=
  match e.st with
  | .uncached => true
  | .shared => if p.op == .getM then e.coarse || !e.sharers.contains (sharerPtr d p) else (d.supplier n e p).isNone
  | _ => false

/-- A directory's action on a GetS or GetM (R241, R249): none when a new entry must wait for the recall buffer.
(DEDUCED, assumption 26.) -/
def Dev.serveGet (d : Dev) (k : Clock) (n : Nat) (p : Packet) : Option Dev :=
  let far := !d.isHome p.line
  let e := ((d.slice n).dirOf p.line).getD { DirEntry.reset with line := p.line, far := far }
  let r := sharerPtr d p
  let o := ownerPtr d p
  let getM := p.op == .getM
  let named := !e.coarse && e.sharers.contains r
  let pick := if getM then none else d.supplier n e p
  let (got, d) := if !d.suppliesSelf n e p then (some (0, 0), d) else if far then d.farRead k n p.line else d.homeRead k n p.line p 0xF#4 0
  match got with
  | none => some d
  | some (data, poison) =>
    if getM then
      let ts := invTargets e r
      let e' := { e with st := .exclusive, owner := o, sharers := [], coarse := false, coreGroups := 0, devGroups := 0
                         devState := if far then .m else e.devState }
      (d.dirSet n e').map fun d =>
        let d := d.sendInvs e ts p
        let grant : Packet := { answerPkt d p .grant with grant := 3, acks := ts.length, contended := decide (0 < ts.length) }
        match e.st with
        | .uncached => d.send (dataAnswer d p 3 0 false data poison)
        | .shared => if named then d.send grant else d.send (dataAnswer d p 3 ts.length (decide (0 < ts.length)) data poison)
        | _ => if e.owner = o then d.send grant else d.forward n e (ownerAsPtr e.owner) p .fwdGetM ts.length
    else
      match e.st with
      | .uncached =>
        if !far || e.devState == .e || e.devState == .m then
          (d.dirSet n { e with st := .exclusive, owner := o }).map fun d => d.send (dataAnswer d p 2 0 false data poison)
        else (d.dirSet n (addSharer { e with st := .shared } r)).map fun d => d.send (dataAnswer d p 1 0 false data poison)
      | .shared =>
        (d.dirSet n (addSharer e r)).map fun d => match pick with
          | some x => d.forward n e (some x) p .fwdGetS 0
          | none => d.send (dataAnswer d p 1 0 false data poison)
      | .owned => (d.dirSet n (addSharer e r)).map fun d => d.forward n e (ownerAsPtr e.owner) p .fwdGetS 0
      | .exclusive =>
        (d.dirSet n (addSharer { e with st := .owned } r)).map fun d => d.forward n e (ownerAsPtr e.owner) p .fwdGetS 0

/-! ### Requests of a far slice to the home (R249) -/

/-- Send a request to a line's home device for a local request (R249, R199). -/
def Dev.farSend (d : Dev) (n : Nat) (p : Packet) (kind : ReqKind) (hasCopy : Bool) : Dev :=
  let sl := d.slice n
  let e := (lowestFree 640 (sl.far.map FarReq.entry)).getD 0
  let r : FarReq := { FarReq.reset with line := p.line, kind := kind, entry := e, gen := mget 0 sl.gens e, waiting := [p], berth := p.berth, key := p.key }
  (d.setSlice n { sl with far := sl.far ++ [r] }).send { Packet.reset with
    op := match kind with | .getM => .getM | .readU => .readU | _ => .getS
    dst := p.line / 2 ^ 38, src := d.id, tgt := 512 + n, agent := 512 + n, entry := e, gen := r.gen, line := p.line, epoch := p.epoch
    berth := p.berth, key := p.key, mtype := p.mtype, mirror := p.mirror, hasCopy := hasCopy, sectors := 0xF#4 }

/-- A GetS or GetM of a local L1 at the far slice (R249): served locally as dev_state allows, else sent to the home. A line of which the
device has no data left, though its state would serve it, is given up first, and the request waits (R247, R248). None while the
line is in the eviction buffer or its entry cannot be allocated. -/
def Dev.serveFar (d : Dev) (k : Clock) (n : Nat) (p : Packet) : Option Dev :=
  let sl := d.slice n
  if sl.evict.any fun b => b.line == p.line then none
  else if sl.far.any fun r => r.line == p.line then
    some (d.setSlice n { sl with far := sl.far.map fun r => if r.line = p.line then { r with waiting := r.waiting ++ [p] } else r })
  else
    let e := (sl.dirOf p.line).getD { DirEntry.reset with line := p.line, far := true }
    let ok := if p.op = .getM then e.devState == .e || e.devState == .m else e.devState != .i
    let lacks := d.suppliesSelf n e p && (d.farRead k n p.line).1.isNone
    if ok && !lacks then d.serveGet k n p
    else if ok && lacks then
      if 16 ≤ sl.recalls.length then none
      else
        let d := d.startRecall n e true none
        if (d.slice n).recalls.any fun r => r.ent.line == p.line then
          some (d.updSlice n fun s => { s with recalls := s.recalls.map fun r => if r.ent.line = p.line then { r with waiting := r.waiting ++ [p] } else r })
        else some (d.send p)
    else
      match (if (sl.dirOf p.line).isSome then some d else d.dirAlloc n e) with
      | none => none
      | some d => some (d.farSend n p (if p.op = .getM then .getM else .getS) (e.devState == .s || e.devState == .o))

/-! ### Puts (R241, R248, R249) -/

/-- The device gives up a far line that no local L1 holds and that its slice does not hold either: it sends the Put, once its eviction
buffer has room (R242). -/
def Dev.farIdle (d : Dev) (n line : Nat) : Dev :=
  let sl := d.slice n
  match sl.dirOf line with
  | none => d
  | some e =>
    if !e.far || e.held || (sl.lineOf (d.setOfLine line) line).isSome || sl.far.any (fun r => r.line == line) then d
    else if e.devState = .i then d.setSlice n { sl with dir := sl.dir.filter fun f => f.2.line != line }
    else if 16 ≤ sl.evict.length then d
    else (d.setSlice n { sl with dir := sl.dir.filter fun f => f.2.line != line }).farPut n line e.devState SLine.reset

/-- A directory's action on a Put (R241, R248): the entry loses X, the data of an owner goes to the frame, and an EvictAck
answers. (DEDUCED, assumption 126.) -/
def Dev.servePut (d : Dev) (k : Clock) (n : Nat) (p : Packet) : Dev :=
  let ack : Packet := answerPkt d p .evictAck
  match (d.slice n).dirOf p.line with
  | none => d.send ack
  | some e =>
    let x := sharerPtr d p
    let o := ownerPtr d p
    let e' := if p.op = .putS then
        (if !e.coarse && e.sharers.contains x then
          let s := e.sharers.filter fun y => y != x
          { e with sharers := s, st := if s.isEmpty && e.owner == 0 then .uncached else e.st }
        else e)
      else if e.owner = o then { e with owner := 0, st := if e.sharers.isEmpty && !e.coarse then .uncached else .shared }
      else e
    let d := if e.owner = o ∧ (p.op = .putO ∨ p.op = .putM) then
        d.frameSectors k n p.line p.berth p.key p.mtype p.mirror p.sectors (lineOfWords p.data) (poisonMask p.poison)
      else d
    let d := d.updSlice n fun s => s.dirPut (if e.far ∧ e.owner = o ∧ p.op = .putM then { e' with devState := .m } else e')
    (d.send ack).farIdle n p.line

/-! ### Untracked accesses (R174, R199, R200, R212) -/

/-- The slice of a sector of a line of this device (R205, R207). -/
def Dev.sectorSlice (d : Dev) (line i : Nat) : Nat := ((d.locOf (line % 2 ^ 38 * 128 + 32 * i)).map Loc.slice).getD 0

/-- Move a sector of a line to its place in a frame: data, poison and byte mask (R207). -/
def sectorMove (i j : Nat) (data : Line) (poison : BitVec 16) (mask : BitVec 128) : Line × BitVec 16 × BitVec 128 :=
  (lineSet 0 (32 * j) 32 (lineGet data (32 * i) 32), (poison.extractLsb' (4 * i) 4).setWidth 16 <<< (4 * j),
    (mask.extractLsb' (32 * i) 32).setWidth 128 <<< (32 * j))

/-- Read narrow sectors of a line for a request, each at its slice and in its frame (R200, R207). None when the request was put aside. -/
def Dev.narrowRead (d : Dev) (k : Clock) (line : Nat) (p : Packet) (secs : BitVec 4) (ins : Nat) : Option (Line × BitVec 16) × Dev :=
  (List.range 4).foldl (fun (r : Option (Line × BitVec 16) × Dev) i =>
    match r.1 with
    | none => r
    | some (data, poison) =>
      if !secs.getLsbD i then r
      else
        let (fl, j) := r.2.frameLine line i
        match r.2.homeRead k (r.2.sectorSlice line i) fl p (1#4 <<< j) ins with
        | (none, d) => (none, d)
        | (some (x, y), d) =>
          let (x, y, _) := sectorMove j i x y 0
          (some (lineMerge (spanMask (32 * i) 32) x data, mergePoison (spanMask (32 * i) 32) y poison), d)) (some (0, 0), d)

/-- Write the masked bytes of narrow sectors of a line, each at its slice and in its frame (R200, R207). -/
def Dev.narrowWrite (d : Dev) (k : Clock) (p : Packet) (line : Nat) (mask : BitVec 128) (data : Line) (poison : BitVec 16) : Dev :=
  (List.range 4).foldl (fun d i =>
    if mask.extractLsb' (32 * i) 32 = 0 then d
    else
      let (fl, j) := d.frameLine line i
      let (x, y, m) := sectorMove i j data poison mask
      let n := d.sectorSlice line i
      let hold := (d.slice n).lineOf (d.setOfLine fl) fl
      let d := d.sliceWrite k n fl p.berth p.key p.mtype p.mirror m x y
      -- a write that is not to allocate leaves no frame behind (R274)
      if p.alloc = 2 ∧ hold.isNone = true then
        match (d.slice n).lineOf (d.setOfLine fl) fl with
        | some f => (d.updSlice n fun s => s.dropLine fl).writeBack k f f.dirty
        | none => d
      else d) d

/-- ReadU at the home (R174, R198, R200): a tracked line is supplied by its owner where it has one. -/
def Dev.serveReadU (d : Dev) (k : Clock) (n : Nat) (p : Packet) : Dev :=
  let give := fun (r : Option (Line × BitVec 16) × Dev) =>
    match r with
    | (none, d) => d
    | (some (data, poison), d) => d.send { answerPkt d p .readData with data := lineWords data, poison := poisonList poison, sectors := p.sectors }
  if p.mtype = 2 then give (d.narrowRead k p.line p p.sectors p.alloc)
  else
    match (d.slice n).dirOf p.line with
    | some e =>
      if e.owner ≠ 0 then
        let d := d.updSlice n fun s => s.dirPut { e with st := .owned }
        d.forward n e (ownerAsPtr e.owner) p .fwdGetS 0
      else give (d.homeRead k n p.line p 0xF#4 p.alloc)
    | none => give (d.homeRead k n p.line p 0xF#4 p.alloc)

/-- ReadU of a Streaming line homed elsewhere, at the device's own copy (R199). -/
def Dev.serveCopyRead (d : Dev) (k : Clock) (n : Nat) (p : Packet) : Dev :=
  let (hit, d) := (d.sliceMeet k n p.line [] allWords).sliceFind k n p.line
  match hit.bind fun f => if sectorBytes p.sectors &&& ~~~f.present = 0 then some f else none with
  | some f => d.send { answerPkt d p .readData with data := lineWords f.data, poison := poisonList f.poison, sectors := p.sectors }
  | none =>
    if (d.slice n).far.any fun r => r.line == p.line then
      d.updSlice n fun s => { s with far := s.far.map fun r => if r.line = p.line then { r with waiting := r.waiting ++ [p] } else r }
    else d.farSend n p .readU false

/-- Whether a masked write must wait for a mirror repair: it covers part of a sector under repair (R477). -/
def Slice.writeWaits (x : Slice) (line : Nat) (mask : BitVec 128) : Bool :=
  x.repairs.any fun r => r.line == line && r.sectors &&& sectorsOf mask &&& ~~~(wholeSectors mask) != 0

/-- A write over whole sectors cancels their rewrite (R477). -/
def Slice.cancelRepair (x : Slice) (line : Nat) (mask : BitVec 128) : Slice :=
  { x with repairs := x.repairs.map fun r => if r.line = line then { r with cancel := r.cancel ||| wholeSectors mask } else r }

/-- Whether a narrow write must wait for tokens: it reads a sector that it covers in part (R207, R406). -/
def Dev.writeStarved (d : Dev) (k : Clock) (p : Packet) (line : Nat) (mask : BitVec 128) : Bool :=
  p.mtype == 2 && (d.berth p.berth).hbmRate != 0 && (List.range 4).any fun i =>
    let n := d.sectorSlice line i
    let part := (sectorsOf mask &&& ~~~(wholeSectors mask)).getLsbD i
    let (fl, j) := d.frameLine line i
    part && !(((d.slice n).lineOf (d.setOfLine fl) fl).any fun f => f.valid.getLsbD j) && decide (d.bucket k n p.berth < Int.ofNat tokenUnit)

/-- WriteU at the home (R200, R201, R212). -/
def Dev.serveWriteU (d : Dev) (k : Clock) (n : Nat) (p : Packet) : Dev :=
  let data := lineOfWords p.data
  let poison := poisonMask p.poison
  if (d.slice n).writeWaits p.line p.mask then
    d.updSlice n fun s => { s with repairs := s.repairs.map fun r => if r.line = p.line then { r with waiting := r.waiting ++ [p] } else r }
  else if d.writeStarved k p p.line p.mask then d.holdReq n p
  else
    let d := d.updSlice n fun s => s.cancelRepair p.line p.mask
    let d := if p.mtype = 2 then d.narrowWrite k p p.line p.mask data poison
      else d.sliceWrite k n p.line p.berth p.key p.mtype p.mirror p.mask data poison
    (d.untaint p.line (wholeSectors p.mask)).send (answerPkt d p .writeAck)

/-! ### Atomics at the home (R253) -/

/-- Apply one AtomF to the bytes of a line: the line, and the AtomResp (R100, R253). A poisoned operand in memory is returned
poisoned and nothing is written (R69). -/
def atomApply (d : Dev) (p : Packet) (data : Line) (poison : BitVec 16) : Option (BitVec 128 × Line) × Packet :=
  let w := atomWidth p.aop p.aty
  let r := { answerPkt d p .atomResp with aop := p.aop, aty := p.aty, lanes := p.lanes, contended := p.contended, off := p.off }
  if accPoison poison p.off w then (none, { r with poison := [0] })
  else
    let (v, res) := atomEval p.aop p.aty (lineGet data p.off w) (p.data.map BitVec.toNat)
    (some (spanMask p.off w, lineSet 0 p.off w v), { r with data := res.map (BitVec.ofNat 64) })

/-- An AtomF on the frame of a line with no owner and no sharer (R253). -/
def Dev.atomFrame (d : Dev) (k : Clock) (n : Nat) (p : Packet) : Dev :=
  match (if p.mtype = 2 then d.narrowRead k p.line p (1#4 <<< (p.off / 32)) 0 else d.homeRead k n p.line p 0xF#4 0) with
  | (none, d) => d
  | (some (data, poison), d) =>
    let r := atomApply d p data poison
    match r.1 with
    | none => d.send r.2
    | some (m, v) =>
      (if p.mtype = 2 then d.narrowWrite k p p.line m v 0 else d.sliceWrite k n p.line p.berth p.key p.mtype p.mirror m v 0).send r.2

/-- Slots of the atomic unit that AtomFs take (R253, R257). -/
def Slice.atomSlots (x : Slice) : Nat := sumNat (x.atoms.map fun a => a.reqs.length)

/-- An AtomF at the home slice (R253): none while the unit has no free slot. -/
def Dev.serveAtom (d : Dev) (k : Clock) (n : Nat) (p : Packet) : Option Dev :=
  let sl := d.slice n
  if 64 ≤ sl.atomSlots then none
  else
    match sl.atoms.find? fun a => a.line == p.line with
    | some a =>
      let p := { p with contended := !a.reqs.isEmpty }
      some (d.setSlice n { sl with atoms := sl.atoms.map fun x => if x.line = p.line then { x with reqs := x.reqs ++ [p] } else x })
    | none =>
      let p := { p with contended := false }
      match sl.dirOf p.line with
      | none => some (d.atomFrame k n p)
      | some e =>
        if !e.held then some (d.atomFrame k n p)
        else
          let b := atomEntry + (lowestFree 64 (sl.atoms.map fun a => a.entry - atomEntry)).getD 0
          let gen := mget 0 sl.gens b
          let d := d.setSlice n { sl with atoms := sl.atoms ++ [{ AtomLine.reset with
            line := p.line, reqs := [{ p with contended := true }], entry := b, gen := gen }] }
          d.serveGet k n { p with op := .getM, src := d.id, agent := 512 + n, entry := b, gen := gen, hasCopy := false }

/-! ### Bulk accesses to HBM (R277, R278, R306) -/

/-- Make a line ready for a bulk access: a tracked line is drawn from its holders as the atomic unit draws it (R278). -/
def Dev.bulkGet (d : Dev) (k : Clock) (p : Packet) (line : Nat) : Bool × Dev :=
  let n := d.lineSlice line
  if isTracked p.mtype then d.obtain k n line else (true, d)

/-- Bytes of a bulk write on line `i` of its packet: mask, data, poison. -/
def bulkPart (p : Packet) (i : Nat) : BitVec 128 × Line × BitVec 16 :=
  let lo := max p.off (128 * i)
  let hi := min (p.off + p.cnt) (128 * i + 128)
  (if lo < hi then spanMask (lo - 128 * i) (hi - lo) else 0, lineOfWords (p.data.drop (16 * i)),
    poisonMask ((p.poison.filter fun w => decide (16 * i ≤ w)).map fun w => w - 16 * i))

/-- Add 32-bit words as a reducing copy does (R277, R99): rtype 0 F32, 1 BF16 pairs, 2 S32. -/
def reduceWord (rtype a b : Nat) : Nat :=
  match rtype with
  | 0 => farith fp32 .rne (fadd (fdecode fp32 a) (fdecode fp32 b))
  | 1 => farith bf16 .rne (fadd (fdecode bf16 (a % 65536)) (fdecode bf16 (b % 65536))) +
      65536 * farith bf16 .rne (fadd (fdecode bf16 (a / 65536)) (fdecode bf16 (b / 65536)))
  | _ => (a + b) % 2 ^ 32

/-- A line after the words of a mask were reduced into it, and its poison: a word with a poisoned side is written poisoned (R280). -/
def reduceLine (rtype : Nat) (m : BitVec 128) (src old : Line) (srcP oldP : BitVec 16) : Line × BitVec 16 :=
  (List.range 32).foldl (fun (r : Line × BitVec 16) i =>
    if m.getLsbD (4 * i) then
      let p := if srcP.getLsbD (i / 2) || oldP.getLsbD (i / 2) then r.2 ||| (1#16 <<< (i / 2)) else r.2
      (lineSet r.1 (4 * i) 4 (reduceWord rtype (lineGet old (4 * i) 4) (lineGet src (4 * i) 4)), p)
    else r) (old, oldP)

/-- Whether a slice holds a line in its array, its victim cache or its write-combining buffer. -/
def Slice.holds (x : Slice) (set line : Nat) : Bool :=
  (x.frameOf set line).isSome || (x.victim.any fun f => f.line == line) || x.wcb.any fun w => w.line == line

/-- Write one line's part of a bulk write (R200, R201, R212, R274). -/
def Dev.bulkPut (d : Dev) (k : Clock) (p : Packet) (line : Nat) (m : BitVec 128) (data : Line) (poison : BitVec 16) : Dev :=
  let n := d.lineSlice line
  let d := (d.updSlice n fun s => s.cancelRepair line m).untaint line (wholeSectors m)
  if p.mtype = 2 then d.narrowWrite k p line m data poison
  else if p.alloc = 2 ∧ m = BitVec.allOnes 128 ∧ (d.slice n).holds (d.setOfLine line) line = false then
    d.writeBack k { SLine.reset with line := line, data := data, poison := poison, key := p.key, berth := p.berth, mirror := p.mirror } 0xF#4
  else d.sliceWrite k n line p.berth p.key p.mtype p.mirror m data poison

/-- Read a line for an access of another kind that waits in the mesh until it is there: the slice's own read takes its place where the read
must wait, and its answer is dropped (R278). -/
def Dev.fillRead (d : Dev) (k : Clock) (p : Packet) (line : Nat) : Option (Line × BitVec 16) × Dev :=
  let n := d.lineSlice line
  if (d.slice n).outs.any fun q => q.op == .bulkRead && q.line == line then (none, d)
  else
    let (q, e) := d.sliceOwn n { p with op := .bulkRead, line := line, lines := 1, off := 0, cnt := 128, dst := d.id }
    let r := if p.mtype = 2 then e.narrowRead k line q 0xF#4 p.alloc else e.homeRead k n line q 0xF#4 p.alloc
    match r with
    | (some x, e) => (some x, e.updSlice n fun s => s.ownDone q)
    | r => r

/-- Read the lines of a bulk access, in order: none when one must wait. A bulk read of one line is put aside itself; for another
access the line is fetched, and the access waits in the mesh. -/
def Dev.bulkRead (d : Dev) (k : Clock) (p : Packet) : Option (List (BitVec 64) × List Nat) × Dev :=
  (List.range p.lines).foldl (fun (r : Option (List (BitVec 64) × List Nat) × Dev) i =>
    match r.1 with
    | none => r
    | some (ws, ps) =>
      let line := p.line + i
      let x := if p.op ≠ .bulkRead ∨ p.lines ≠ 1 then r.2.fillRead k p line
        else if p.mtype = 2 then r.2.narrowRead k line p 0xF#4 p.alloc
        else r.2.homeRead k (r.2.lineSlice line) line p 0xF#4 p.alloc
      match x with
      | (some (l, y), d) => (some (ws ++ lineWords l, ps ++ (poisonList y).map fun w => 16 * i + w), d)
      | (none, d) => (none, d)) (some ([], []), d)

/-- Reduce the words of a bulk access into the lines read before, and write them (R277). -/
def Dev.bulkReducePut (d : Dev) (k : Clock) (p : Packet) (ws : List (BitVec 64)) (ps : List Nat) : Dev :=
  (List.range (max 1 p.lines)).foldl (fun d i =>
    let (m, data, poison) := bulkPart p i
    if m = 0 then d
    else
      let old := lineOfWords (ws.drop (16 * i))
      let oldP := poisonMask ((ps.filter fun w => decide (16 * i ≤ w)).map fun w => w - 16 * i)
      let (l, y) := reduceLine p.rtype m data old poison oldP
      d.bulkPut k p (p.line + i) m l (y &&& poisonMask ((List.range 16).filter fun w => (m.extractLsb' (8 * w) 8) != 0))) d

/-- A bulk access to own HBM (R278): none when it must stay in the mesh. -/
def Dev.serveBulk (d : Dev) (k : Clock) (p : Packet) : Option Dev :=
  let lines := (List.range (max 1 p.lines)).map fun i => p.line + i
  let r := lines.foldl (fun (r : Bool × Dev) line => if r.1 then r.2.bulkGet k p line else r) (true, d)
  let d' := r.2
  if !r.1 then
    match lines.find? fun line => (d'.slice (d'.lineSlice line)).recalls.any fun x => x.ent.line == line with
    | some line => some (d'.updSlice (d'.lineSlice line) fun s => { s with
        recalls := s.recalls.map fun x => if x.ent.line = line then { x with waiting := x.waiting ++ [p] } else x })
    | none => none
  else
    match p.op with
    | .bulkRead =>
      match d'.bulkRead k p with
      | (some (ws, ps), d) => some (d.send { answerPkt d p .readData with data := ws, poison := ps, lines := p.lines })
      | (none, d) => if p.lines = 1 then some d else some (d.send p)
    | _ =>
      if lines.any fun line => (d'.slice (d'.lineSlice line)).writeWaits line (bulkPart p (line - p.line)).1 then none
      else if p.op = .bulkWrite then
        if lines.any fun line => d'.writeStarved k p line (bulkPart p (line - p.line)).1 then some (d'.holdReq (d'.lineSlice p.line) p)
        else
          let d := lines.foldl (fun d line =>
            let (m, data, poison) := bulkPart p (line - p.line)
            if m = 0 then d else d.bulkPut k p line m data poison) d'
          some (d.send (answerPkt d p .writeAck))
      else
        match d'.bulkRead k p with
        | (some (ws, ps), d) => some ((d.bulkReducePut k p ws ps).send (answerPkt d p .writeAck))
        | (none, d) => some (d.send p)

/-! ### Any request at a slice -/

/-- Serve a request at the slice that this device has for its line: none when it must stay in the mesh. A request for a line under
recall waits at the slice (R248). -/
def Dev.serveReq (d : Dev) (k : Clock) (p : Packet) : Option Dev :=
  let n := d.lineSlice p.line
  let sl := d.slice n
  if (p.op == .getS || p.op == .getM || p.op == .atomF || p.op == .readU) && sl.recalls.any (fun r => r.ent.line == p.line) then
    some (d.setSlice n { sl with recalls := sl.recalls.map fun r => if r.ent.line = p.line then { r with waiting := r.waiting ++ [p] } else r })
  else if d.isHome p.line then
    match d.homeError p with
    | some reason => some (d.errorTo k p reason)
    | none =>
      d.forCtx p fun d => match p.op with
        | .getS | .getM => d.serveGet k n p
        | .atomF => d.serveAtom k n p
        | .readU => some (d.serveReadU k n p)
        | .writeU => some (d.serveWriteU k n p)
        | _ => d.serveBulk k p
  else
    match p.op with
    | .getS | .getM => d.serveFar k n p
    | .readU => some (d.serveCopyRead k n p)
    | .writeU => some ((d.copyWrite k n p.line p.berth p.key p.mask (lineOfWords p.data) (poisonMask p.poison)).send (answerPkt d p .writeAck))
    | _ => some d

/-- Serve requests that waited, in order; one that must wait again goes back to the mesh. -/
def Dev.serveAll (d : Dev) (k : Clock) (ps : List Packet) : Dev :=
  ps.foldl (fun d p => (d.serveReq k p).getD (d.send p)) d

/-- Storage errors in the two words of a line's directory entry (R256). -/
def Dev.meetDir (d : Dev) (k : Clock) (line : Nat) : Dev :=
  let n := d.lineSlice line
  let rec' := fun cls code => { ErlRec.reset with cls := cls, src := 0x08, code := code, unit := n, addr := BitVec.ofNat 64 (line % 2 ^ 38 * 128)
                                                  detail := if cls = 1 then 1 else 0 }
  let d := match takeLatent 6 n line d with
    | (none, d) => d
    | (some unc, d) => if unc then logErr k (rec' 4 2) d else logErr k (rec' 1 1) d
  match takeLatent 7 n line d with
  | (none, d) => d
  | (some unc, d) =>
    if unc then
      (logErr k (rec' 2 2) d).updSlice n fun s => { s with dir := s.dir.map fun f =>
        if f.2.line = line then (f.1, { f.2 with coarse := true, sharers := [], coreGroups := BitVec.allOnes 32
                                                 devGroups := if f.2.far then 0 else BitVec.allOnes 32 }) else f }
    else logErr k (rec' 1 1) d

/-- A request packet arrives at its slice. -/
def reqIns (op : PktOp) (p : Packet) (st : State) : Out :=
  onMem st fun d => d.onPkt p op fun d => (d.meetDir st.clk p.line).serveReq st.clk p

/-- GET_S (R241, R249). -/
def execGetS (p : Packet) (st : State) : Out := reqIns .getS p st
/-- GET_M (R241, R249). -/
def execGetM (p : Packet) (st : State) : Out := reqIns .getM p st
/-- ATOM_F (R253). -/
def execAtomF (p : Packet) (st : State) : Out := reqIns .atomF p st
/-- READ_U (R174, R199, R200). -/
def execReadU (p : Packet) (st : State) : Out := reqIns .readU p st
/-- WRITE_U (R199 to R201, R212). -/
def execWriteU (p : Packet) (st : State) : Out := reqIns .writeU p st

/-- A Put arrives at the directory (R241). -/
def putIns (op : PktOp) (p : Packet) (st : State) : Out :=
  onMem st fun d => d.onPkt p op fun d =>
    let d := d.meetDir st.clk p.line
    some (d.servePut st.clk (d.lineSlice p.line) p)

/-- PUT_S (R241). -/
def execPutS (p : Packet) (st : State) : Out := putIns .putS p st
/-- PUT_E (R241). -/
def execPutE (p : Packet) (st : State) : Out := putIns .putE p st
/-- PUT_O (R241). -/
def execPutO (p : Packet) (st : State) : Out := putIns .putO p st
/-- PUT_M (R241). -/
def execPutM (p : Packet) (st : State) : Out := putIns .putM p st

end Sys2Proof.Machine
end

