-- ==== Sys2Proof/Machine/Holders.lean ====
section
/-! DEFINITION. What holders and requesters do with the messages that reach them (R243 to R250, R253, R254, R307, R407, R476): cores,
far slices, the atomic unit and the recall buffer. -/

namespace Sys2Proof.Machine

/-! ### Landing buffers of a core (R307, R317) -/

/-- Count a response that no buffer awaits (R307). -/
def Dev.stray (d : Dev) : Dev := { d with fab := { d.fab with stray := satAdd (2 ^ 32 - 1) d.fab.stray 1 } }

/-- Release a landing buffer of a core: its generation increments (R307), and an orphan's context counts one less (R317). -/
def Dev.release (d : Dev) (c e : Nat) : Dev :=
  match mget? (d.core c).mshrs e with
  | none => d
  | some m =>
    let d := d.updCore c fun k => { k with mshrs := mdel k.mshrs e, gens := mput k.gens e ((mget 0 k.gens e + 1) % 16) }
    if m.orphan then d.unorphan m.ctx else d

/-- The landing buffer that a packet names, if it awaits it (R307). -/
def Core.landing (k : Core) (p : Packet) : Option Mshr :=
  (mget? k.mshrs p.entry).bind fun m => if m.gen = p.gen ∧ m.line = p.line then some m else none

/-- Change a landing buffer. -/
def Dev.updMshr (d : Dev) (c e : Nat) (f : Mshr → Mshr) : Dev :=
  d.updCore c fun k => { k with mshrs := k.mshrs.map fun x => if x.1 = e then (e, f x.2) else x }

/-! ### Forwards at a core (R243, R245) -/

/-- Whether a core has a GetS or GetM outstanding for a line. -/
def Core.asking (k : Core) (line : Nat) : Bool := (k.mshrOf line).isSome

/-- Send the data of a copy to the requester that a forward names (R245). -/
def Dev.forwardData (d : Dev) (p : Packet) (grant : Nat) (dirty : BitVec 4) (data : Line) (poison : BitVec 16) : Dev :=
  d.send { Packet.reset with
    op := .data, dst := p.reqDev, src := d.id, tgt := p.agent, agent := p.agent, entry := p.entry, gen := p.gen, line := p.line
    grant := grant, acks := if grant = 3 then p.acks else 0, contended := true, sectors := dirty, data := lineWords data, poison := poisonList poison }

/-- State of a copy after a FwdGetS (R245). -/
def afterFwdGetS : LState → LState
  | .m => .o
  | .e => .o
  | x => x

/-- Answer of an owner to a Recall (R245, R247). -/
def Dev.recallAnswer (d : Dev) (p : Packet) (st : LState) (dirty : BitVec 4) (data : Line) (poison : BitVec 16) : Packet :=
  let has := st == .m || st == .o
  { Packet.reset with
    op := if has then .recallData else .recallAck
    dst := p.line / 2 ^ 38, src := d.id, tgt := 512 + d.lineSlice p.line, agent := p.agent, entry := p.entry, gen := p.gen, line := p.line
    sectors := if has then dirty else 0, data := if has then lineWords data else [], poison := if has then poisonList poison else [] }

/-- A storage error that a forward meets in an L1 line (R217): an uncorrectable word is poisoned, and the forward passes the poison on.
(DESIGN CHOICE, assumption 149.) -/
def Dev.meetCopy (d : Dev) (k : Clock) (c line : Nat) : Dev :=
  match (d.core c).l1Find line with
  | none => d
  | some i =>
    let w := latentWord 2 c line d
    match takeLatent 2 c line d with
    | (none, d) => d
    | (some false, d) => d.l1UnitErr k c i false line
    | (some true, d) =>
      (d.updCore c fun co => { co with l1 := co.l1.map fun e =>
        if e.1 = i then (i, { e.2 with poison := e.2.poison ||| (1#16 <<< w) }) else e }).l1UnitErr k c i true line

/-- The data of a copy that a core lost with the line's home is poisoned (R250). (DEDUCED, assumption 176.) -/
def Dev.lostAnswer (d : Dev) (p : Packet) : Dev :=
  match p.op with
  | .fwdGetS => d.forwardData p 1 0 0 (BitVec.allOnes 16)
  | .fwdGetM => d.forwardData p 3 0 0 (BitVec.allOnes 16)
  | _ => d.send { d.recallAnswer p .e 0 0 0 with tgt := 512 + d.lineSlice p.line, dst := d.id }

/-- Answer a forward or Recall from a core's copy (R245). A core that holds none has lost it with the line's home (R250). -/
def Dev.coreAnswer (d : Dev) (k : Clock) (c : Nat) (p : Packet) : Dev :=
  let d := d.meetCopy k c p.line
  match (d.core c).copyOf p.line with
  | none => d.lostAnswer p
  | some (st, dirty, data, poison) =>
    let b : EvictBuf := match ((d.core c).l1Find p.line).bind fun i => mget? (d.core c).l1 i with
      | some f => { EvictBuf.reset with berth := f.berth, key := f.key, mtype := if f.mirror = 0 then 0 else 3, mirror := f.mirror }
      | none => ((d.core c).evict.find? fun b => b.line == p.line && b.st != .i).getD EvictBuf.reset
    match p.op with
    | .fwdGetS => (d.forwardData p 1 0 data poison).updCore c fun k => k.setCopy p.line (afterFwdGetS st) false
    | .fwdGetM => (d.forwardData p 3 dirty data poison).updCore c fun k => k.setCopy p.line .i true
    | _ => (d.send { d.recallAnswer p st dirty data poison with
              tgt := 512 + d.lineSlice p.line, dst := d.id, berth := b.berth, key := b.key, mtype := b.mtype
              mirror := b.mirror }).updCore c fun k => k.setCopy p.line .i true

/-- Whether a holder that has its own GetS or GetM outstanding queues a forward (R243, R245): once its answer has come, while an earlier
forward of the line waits, and for a FwdGetM or Recall of a copy in S, which the home sends only to an owner. (DEDUCED, assumption 24.) -/
def mustQueue (granted earlier : Bool) (st : LState) (op : PktOp) : Bool := granted || earlier || (op != .fwdGetS && st == .s)

/-- A forward or Recall reaches a core (R243, R245). None while the forward queue is full. -/
def Dev.coreForward (d : Dev) (k : Clock) (c : Nat) (p : Packet) : Option Dev :=
  let co := d.core c
  let queue := d.setCore c { co with fwdq := co.fwdq ++ [p] }
  if 16 ≤ co.fwdq.length then none
  else
    match co.copyOf p.line, co.mshrOf p.line with
    | none, some _ => some queue
    | some (st, _), some m =>
      if mustQueue m.2.granted (co.fwdq.any fun q => q.line == p.line) st p.op then some queue else some (d.coreAnswer k c p)
    | _, none => some (d.coreAnswer k c p)

/-- Serve the forwards that waited for a line (R243). -/
def Dev.serveFwds (d : Dev) (k : Clock) (c line : Nat) : Dev :=
  let co := d.core c
  if co.asking line then d
  else
    let qs := co.fwdq.filter fun q => q.line == line
    let d := d.setCore c { co with fwdq := co.fwdq.filter fun q => q.line != line }
    qs.foldl (fun d q => d.coreAnswer k c q) d

/-! ### Far slices as holders (R245, R249) -/

/-- Whether messages about a line are on their way between this device's own agents, or a core of it has its answer and not yet
every InvAck. -/
def Dev.localBusy (d : Dev) (line : Nat) : Bool :=
  (d.fab.net.any fun q => q.line == line && q.dst == d.id && decide (q.tgt < 512) &&
    (isVc2 q.op && q.op != .evictAck || q.op == .data || q.op == .grant || q.op == .invAck)) ||
  d.cores.any fun e => (e.2.mshrs.any fun m => m.2.line == line && m.2.granted) || e.2.fwdq.any fun q => q.line == line

/-- The device's copy of a far line (R249): owner's L1 copy, else the frame, else any local copy. -/
def Dev.farCopy (d : Dev) (n line : Nat) : BitVec 4 × Line × BitVec 16 :=
  let sl := d.slice n
  let fr := sl.lineOf (d.setOfLine line) line
  let copies := (d.localHolders line).filterMap fun c => (d.core c).copyOf line
  let fd := fr.elim 0 SLine.dirty
  match copies.find? fun x => x.1 == .m || x.1 == .o || x.1 == .e with
  | some (_, dirty, data, poison) => (dirty ||| fd, data, poison)
  | none =>
    match fr with
    | some f => (fd, f.data, f.poison)
    | none =>
      match copies.head? with
      | some (_, _, data, poison) => (0, data, poison)
      | none => (0, 0, 0)

/-- A core loses its copy of a line; a Data(S) on its way to it serves the loads that wait now, and no other (R244). -/
def Core.farLose (k : Core) (line : Nat) : Core :=
  let k := if (k.copyOf line).isSome then k.setCopy line .i true else k
  let loads := (k.ops.filter fun e => e.2.kind == .load && e.2.lanes.any fun a => a.line == line).map Prod.fst
  { k with mshrs := mmap k.mshrs fun _ m =>
      if m.line = line ∧ m.kind = .getS ∧ m.granted = false ∧ m.invSeen = false then { m with invSeen := true, ops := loads } else m }

/-- A far slice loses a line: its frame, and its entry unless an answer of the home is awaited. -/
def Slice.farLose (s : Slice) (line : Nat) : Slice :=
  let s := s.dropLine line
  { s with dir := if s.far.any fun r => r.line == line then
      s.dir.map fun f => if f.2.line = line then (f.1, { DirEntry.reset with line := line, far := true }) else f
    else s.dir.filter fun f => f.2.line != line }

/-- Invalidate every local copy of a far line, and the frame (R249). A core whose Data(S) is on its way will use it once (R244). -/
def Dev.farInvalidate (d : Dev) (n line : Nat) : Dev :=
  let d := { d with cores := mmap d.cores fun _ k => k.farLose line }
  d.updSlice n fun s => s.farLose line

/-- Answer a forward or Recall of the home for the device's state (R249), from the eviction buffer or the far entry. -/
def Dev.farAnswer (d : Dev) (k : Clock) (n : Nat) (p : Packet) : Dev :=
  let d := d.sliceMeet k n p.line [] allWords
  let sl := d.slice n
  match sl.evict.find? fun b => b.line == p.line && b.st != .i with
  | some b =>
    let upd := fun (st : LState) (d : Dev) => d.updSlice n fun s => { s with evict := s.evict.map fun x => if x = b then { b with st := st } else x }
    match p.op with
    | .fwdGetS => upd (afterFwdGetS b.st) (d.forwardData p 1 0 b.data b.poison)
    | .fwdGetM => upd .i (d.forwardData p 3 b.dirty b.data b.poison)
    | _ => upd .i (d.send { d.recallAnswer p b.st b.dirty b.data b.poison with
        dst := p.src, berth := b.berth, key := b.key, mtype := b.mtype, mirror := b.mirror })
  | none =>
    match sl.dirOf p.line with
    | none => d
    | some e =>
      let (dirty, data, poison) := d.farCopy n p.line
      let st : LState := if dirty ≠ 0 ∧ e.devState = .e then .m else e.devState
      match p.op with
      | .fwdGetS =>
        let d := (d.forwardData p 1 0 data poison).updSlice n fun s =>
          s.dirPut { e with devState := afterFwdGetS st, st := if e.st = .exclusive then .owned else e.st }
        { d with cores := mmap d.cores fun _ k => match k.copyOf p.line with
          | some (x, _, _, _) => k.setCopy p.line (afterFwdGetS x) false
          | none => k }
      | .fwdGetM => (d.forwardData p 3 dirty data poison).farInvalidate n p.line
      | _ =>
        let fr := sl.lineOf (d.setOfLine p.line) p.line
        (d.send { d.recallAnswer p st dirty data poison with
          dst := p.src, berth := fr.elim 0 SLine.berth, key := fr.elim 0 SLine.key, mirror := fr.elim 0 SLine.mirror
          mtype := fr.elim 0 SLine.mtype }).farInvalidate n p.line

/-- A forward or Recall of the home reaches a far slice (R243, R249). None while the forward queue is full. -/
def Dev.farForward (d : Dev) (k : Clock) (n : Nat) (p : Packet) : Option Dev :=
  let sl := d.slice n
  let queue := d.setSlice n { sl with fwdq := sl.fwdq ++ [p] }
  let st := ((sl.dirOf p.line).map DirEntry.devState).getD .i
  let earlier := sl.fwdq.any fun q => q.line == p.line
  if 64 ≤ sl.fwdq.length then none
  else if sl.evict.any fun b => b.line == p.line && b.st != .i then some (d.farAnswer k n p)
  else if st = .i && sl.recalls.all fun r => r.ent.line != p.line then (if sl.far.any fun r => r.line == p.line then some queue else some d)
  else if st = .i || d.localBusy p.line then some queue
  else
    match sl.far.find? fun r => r.line == p.line with
    | some r => if mustQueue r.granted earlier st p.op then some queue else some (d.farAnswer k n p)
    | none => if earlier then some queue else some (d.farAnswer k n p)

/-- Serve a far slice's queued forwards about a line once its own and its cores' messages have settled (R243, R249): each is looked at
again in its order. -/
def Dev.farSettle (d : Dev) (k : Clock) (line : Nat) : Dev :=
  if d.isHome line then d
  else
    let n := d.lineSlice line
    let sl := d.slice n
    let qs := sl.fwdq.filter fun q => q.line == line
    if qs.isEmpty || d.localBusy line then d
    else qs.foldl (fun d q => (d.farForward k n q).getD d) (d.setSlice n { sl with fwdq := sl.fwdq.filter fun q => q.line != line })

/-! ### Inv (R244, R245) -/

/-- The InvAck that answers an Inv. -/
def Dev.invAckFor (d : Dev) (p : Packet) : Packet :=
  { Packet.reset with
    op := .invAck, dst := p.ackDev, src := d.id, tgt := p.ackTag % 1024, agent := p.ackTag % 1024, entry := p.ackTag / 1024 % 1024
    gen := p.ackTag / 2 ^ 20 % 16, line := p.line }

/-- An Inv reaches a core (R244, R245). -/
def Dev.coreInv (d : Dev) (c : Nat) (p : Packet) : Dev := (d.updCore c fun k => k.farLose p.line).send (d.invAckFor p)

/-- An Inv of the home reaches a far slice (R244, R249). A home that a coarse vector covers with its own device's group holds no far line
(R236). -/
def Dev.farInv (d : Dev) (n : Nat) (p : Packet) : Dev :=
  if d.isHome p.line then d.send (d.invAckFor p)
  else
    let d := d.updSlice n fun s => { s with
      far := s.far.map fun r => if r.line = p.line ∧ r.kind = .getS ∧ r.granted = false ∧ r.invSeen = false then
          { r with invSeen := true, early := r.waiting.length } else r
      evict := s.evict.map fun b => if b.line = p.line then { b with st := .i } else b }
    (d.farInvalidate n p.line).send (d.invAckFor p)

/-! ### A core's answers (R243, R244, R246) -/

/-- A core has its answer and every InvAck: the buffer is released, the waiting accesses are performed, then the queued forwards are
served (R243). With an Inv seen, a Data(S) serves only the loads that waited (R244). -/
def Dev.coreDone (d : Dev) (k : Clock) (c e : Nat) : Dev :=
  match mget? (d.core c).mshrs e with
  | none => d
  | some m =>
    if !m.granted || m.need != some m.got then d
    else
      let d := d.release c e
      let d := m.ops.foldl (fun d n => d.opLine k c n m.line (some m.contended)) d
      let d := if m.invSeen ∧ (d.core c).l1State m.line = .s then d.updCore c fun k => k.setCopy m.line .i true else d
      let d := (d.clearL1Units c).corePump k c
      ((d.serveFwds k c m.line).corePump k c).farSettle k m.line

/-- Data reaches a core (R243). -/
def Dev.coreData (d : Dev) (k : Clock) (c : Nat) (p : Packet) (m : Mshr) : Dev :=
  let st : LState := match p.grant with
    | 3 => .m
    | 2 => .e
    | _ => .s
  let f : L1Line := { L1Line.reset with
    line := p.line, st := st, dirty := if st = .m then p.sectors else 0, data := lineOfWords p.data, poison := poisonMask p.poison
    berth := m.berth, key := m.key, mirror := m.mirror }
  let d := if ((d.core c).l1Find p.line).isSome then d.updCore c fun k => k.l1Put f else d.l1Insert c f
  (d.updMshr c p.entry fun x => { x with granted := true, need := some (if p.grant = 3 then p.acks else 0), contended := p.contended }).coreDone k c p.entry

/-- Grant reaches a core (R241): its copy becomes M. A copy that a forward took meanwhile is asked for again once the InvAcks are in. -/
def Dev.coreGrant (d : Dev) (k : Clock) (c : Nat) (p : Packet) : Dev :=
  let d := d.updCore c fun co => match (co.l1Find p.line).bind fun i => mget? co.l1 i with
    | some f => co.l1Put { f with st := .m }
    | none => co
  (d.updMshr c p.entry fun x => { x with granted := true, need := some p.acks, contended := p.contended }).coreDone k c p.entry

/-- Untracked data reaches a core: an instruction line (R197), a BWDOT's line (R176), or the loads of an instruction. -/
def Dev.coreRead (d : Dev) (k : Clock) (c : Nat) (p : Packet) (m : Mshr) : Dev :=
  let d := d.release c p.entry
  let data := lineOfWords p.data
  let poison := poisonMask p.poison
  if m.kind = .fetch then d.updCore c fun k => k.fetched { line := p.line, ctx := m.ctx, poison := poison }
  else match m.bw with
  | some b => d.bwArrive k c b m.va data poison false
  | none =>
    match m.ops.head?.bind fun n => (mget? (d.core c).ops n).map fun o => (n, o) with
    | none => d.corePump k c
    | some (n, o) => ((d.bindLoads c n o (o.lanes.filter fun a => a.line == p.line) data poison).corePump k c)

/-- An instruction's accesses to a line, or to one atomic's address, end (R246). (DEDUCED, assumption 28.) -/
def Dev.coreWritten (d : Dev) (k : Clock) (c : Nat) (p : Packet) (m : Mshr) : Dev :=
  let d := d.release c p.entry
  match m.ops.head?.bind fun n => (mget? (d.core c).ops n).map fun o => (n, o) with
  | none => d.corePump k c
  | some (n, o) => (d.updOp c n fun x => x.finish ((o.lanes.filter fun a => a.line == p.line).map LaneAcc.lane)).corePump k c

/-- An AtomResp reaches a core (R100, R254). -/
def Dev.coreAtom (d : Dev) (k : Clock) (c : Nat) (p : Packet) (m : Mshr) : Dev :=
  let d := d.release c p.entry
  match m.ops.head?.bind fun n => (mget? (d.core c).ops n).map fun o => (n, o) with
  | none => d.corePump k c
  | some (n, o) =>
    let mine := o.lanes.filter fun a => a.line == p.line && a.off == p.off
    let d := if p.poison.isEmpty then d.atomResults k c n o mine (p.data.map BitVec.toNat)
      else d.updOp c n fun x => x.fail (mine.map fun a => (a.lane, 3, a.va, 0))
    let d := if mine.any (fun a => isTracked a.mtype) then d.updCore c fun co => co.predict p.line (if p.contended then 1 else -1) else d
    d.corePump k c

/-- An error response reaches a core (R36, R69, R398): the accesses of the request fault with PERMISSION, detail 0x10. -/
def Dev.coreError (d : Dev) (k : Clock) (c : Nat) (p : Packet) (m : Mshr) : Dev :=
  let d := d.release c p.entry
  if m.kind = .fetch then d.fetchRefused k c p.line m.ctx
  else match m.bw with
  | some b => d.bwArrive k c b m.va 0 0 true
  | none =>
    match m.ops.head?.bind fun n => (mget? (d.core c).ops n).map fun o => (n, o) with
    | none => d.corePump k c
    | some (n, o) =>
      let mine := o.lanes.filter fun a => a.line == p.line && (m.kind != .atomF || a.off == p.off)
      (d.updOp c n fun x => x.fail (mine.map fun a => (a.lane, 2, a.va, 0x10))).corePump k c

/-! ### A far slice's answers (R249) -/

/-- Remove a far request and release its buffer. -/
def Slice.farEnd (x : Slice) (r : FarReq) : Slice :=
  { x with far := x.far.filter fun y => y != r, gens := mput x.gens r.entry ((mget 0 x.gens r.entry + 1) % 16) }

/-- A far slice has its answer and every InvAck: the waiting requests of its L1s are served (R249). With an Inv seen, Data(S) serves
only the GetS that waited when the Inv came, and the local copies are recalled, once the recall buffer has room (R244, R247). -/
def Dev.farDone (d : Dev) (k : Clock) (n : Nat) (r : FarReq) : Dev :=
  let once := r.invSeen && r.grant == 1
  if !r.granted || r.need != some r.got || (once && decide (16 ≤ (d.slice n).recalls.length)) then d
  else
    let d := d.updSlice n fun s => s.farEnd r
    let d := if once then
        let first := (r.waiting.take r.early).filter fun p => p.op == .getS
        let d := first.foldl (fun d p => (d.serveGet k n p).getD (d.send p)) d
        let d := match (d.slice n).dirOf r.line with
          | some e => d.startRecall n { e with devState := .i } false none
          | none => d
        let d := d.updSlice n fun s => s.dropLine r.line
        d.serveAll k (((r.waiting.take r.early).filter fun p => p.op != .getS) ++ r.waiting.drop r.early)
      else d.serveAll k r.waiting
    (d.farIdle n r.line).farSettle k r.line

/-- Change the far request of a slice that a packet answers. Answers it as changed. -/
def Dev.updFar (d : Dev) (n : Nat) (p : Packet) (f : FarReq → FarReq) : Option (FarReq × Dev) :=
  match (d.slice n).far.find? fun r => r.entry == p.entry && r.gen == p.gen && r.line == p.line with
  | none => none
  | some r => some (f r, d.updSlice n fun s => { s with far := s.far.map fun y => if y = r then f r else y })

/-- Set the device's state of a far line. -/
def Slice.setDevState (x : Slice) (line : Nat) (st : LState) : Slice :=
  { x with dir := x.dir.map fun f => if f.2.line = line then (f.1, { f.2 with devState := st }) else f }

/-- Data reaches a far slice: the line enters its frame (R231, R249). -/
def Dev.farData (d : Dev) (k : Clock) (n : Nat) (p : Packet) : Dev :=
  match d.updFar n p fun r => { r with granted := true, grant := p.grant, need := some (if p.grant = 3 then p.acks else 0) } with
  | none => d.stray
  | some (r, d) =>
    let f : SLine := { SLine.reset with
      line := p.line, data := lineOfWords p.data, poison := poisonMask p.poison, valid := 0xF#4, dirty := if p.grant = 3 then p.sectors else 0
      berth := r.berth, key := r.key, mtype := (r.waiting.head?.elim 0 Packet.mtype), mirror := (r.waiting.head?.elim 0 Packet.mirror) }
    let (hit, d) := d.sliceFind k n p.line
    let d := match hit with
      | some _ => d.putFrame n f
      | none => d.insertFrame k n f false
    let d := d.updSlice n fun s => s.setDevState p.line (match p.grant with | 3 => .m | 2 => .e | _ => .s)
    d.farDone k n r

/-- Grant reaches a far slice: the device's state becomes M, unless a forward took the line meanwhile. -/
def Dev.farGrant (d : Dev) (k : Clock) (n : Nat) (p : Packet) : Dev :=
  match d.updFar n p fun r => { r with granted := true, grant := 3, need := some p.acks } with
  | none => d.stray
  | some (r, d) =>
    let had := ((d.slice n).dirOf p.line).any fun e => e.devState != .i
    let d := if had then d.updSlice n fun s => s.setDevState p.line .m else d
    d.farDone k n r

/-- Data of a Streaming line homed elsewhere reaches the device's copy (R199): dirty bytes of the copy stay. -/
def Dev.farReadData (d : Dev) (k : Clock) (n : Nat) (p : Packet) : Dev :=
  match d.updFar n p fun r => r with
  | none => d.stray
  | some (r, d) =>
    let d := d.updSlice n fun s => s.farEnd r
    let (hit, d) := d.sliceFind k n p.line
    let keep : BitVec 128 := hit.elim 0 SLine.bytes
    let data := lineMerge keep (hit.elim 0 SLine.data) (lineOfWords p.data)
    let poison := mergePoison keep (hit.elim 0 SLine.poison) (poisonMask p.poison)
    let d := match hit with
      | some f => d.putFrame n { f with data := data, poison := poison, present := BitVec.allOnes 128 }
      | none => d.insertFrame k n { SLine.reset with line := p.line, data := data, poison := poison, present := BitVec.allOnes 128, berth := r.berth, key := r.key, mtype := 1 } false
    d.serveAll k r.waiting

/-- An error response or HeldRetry reaches a far slice: it is passed on to the requests that wait for it (R36, R407). -/
def Dev.farRefuse (d : Dev) (n : Nat) (p : Packet) : Dev :=
  match d.updFar n p fun r => r with
  | none => d.stray
  | some (r, d) =>
    let d := d.updSlice n fun s => s.farEnd r
    (d.sendAll (r.waiting.map fun q => { answerPkt d q p.op with reason := p.reason, off := q.off })).farIdle n r.line

/-! ### The atomic unit (R253) -/

/-- Run the atomics that the unit holds for a line once it owns it, answer the forwards that waited, and return the line. -/
def Dev.atomRun (d : Dev) (k : Clock) (n line : Nat) : Dev :=
  match (d.slice n).atoms.find? fun a => a.line == line with
  | none => d
  | some a =>
    match a.data with
    | none => d
    | some data =>
      if a.need ≠ some a.got then d
      else
        let d := d.updSlice n fun s => { s with atoms := s.atoms.filter fun x => x.line != line }
        let r := a.reqs.foldl (fun (r : Line × BitVec 16 × Dev) p =>
          let x := atomApply r.2.2 p r.1 r.2.1
          match x.1 with
          | none => (r.1, r.2.1, r.2.2.send x.2)
          | some (m, v) => (lineMerge m v r.1, mergePoison m 0 r.2.1, r.2.2.send x.2)) (data, a.poison, d)
        let data := r.1
        let poison := r.2.1
        let s := a.fwds.foldl (fun (s : LState × Dev) p =>
          if s.1 = .i then s
          else if p.op = .fwdGetS then (.o, s.2.forwardData p 1 0 data poison)
          else (.i, s.2.forwardData p 3 0xF#4 data poison)) (.m, r.2.2)
        let d := s.2
        let d := d.updSlice n fun s => { s with gens := mput s.gens a.entry ((mget 0 s.gens a.entry + 1) % 16) }
        match a.reqs.head?, (d.slice n).dirOf line with
        | some p, some e =>
          if e.owner ≠ ownAtom then d
          else
            let d := d.frameSectors k n line p.berth p.key p.mtype p.mirror 0xF#4 data poison
            d.updSlice n fun s => s.dirPut { e with owner := 0, st := if e.sharers.isEmpty && !e.coarse then .uncached else .shared }
        | _, _ => d

/-- Change the atomic unit's work on a line, and run it if it may. -/
def Dev.updAtom (d : Dev) (k : Clock) (n line : Nat) (f : AtomLine → AtomLine) : Dev :=
  (d.updSlice n fun s => { s with atoms := s.atoms.map fun a => if a.line = line then f a else a }).atomRun k n line

/-! ### Recalls (R247, R248) -/

/-- A recall completes when the owner's answer and every InvAck have arrived: a far line's Put follows, once the eviction buffer has room
(R249), the requests that waited are served (R248), and so are those that waited for room in the recall buffer. -/
def Dev.recallCheck (d : Dev) (k : Clock) (n line : Nat) : Dev :=
  let sl := d.slice n
  match sl.recalls.find? fun r => r.ent.line == line with
  | none => d
  | some r =>
    if r.acks ≠ 0 ∨ r.owner = true ∨ sl.recallRoom r = false then d
    else
      let d := (d.recallEnd n r).serveAll k r.waiting
      (d.slice n).far.foldl (fun d r => d.farDone k n r) (d.farSettle k line)

/-- The owner's answer to a Recall reaches the slice: its sectors are written as a PutM's (R247). -/
def Dev.recallAnswered (d : Dev) (k : Clock) (n : Nat) (p : Packet) : Dev :=
  match (d.slice n).recalls.find? fun r => r.entry == p.entry && r.gen == p.gen && r.ent.line == p.line && r.owner with
  | none => d.stray
  | some _ =>
    let d := if p.op = .recallData then
        d.frameSectors k n p.line p.berth p.key p.mtype p.mirror p.sectors (lineOfWords p.data) (poisonMask p.poison)
      else d
    (d.updSlice n fun s => { s with recalls := s.recalls.map fun r => if r.ent.line = p.line then { r with owner := false } else r }).recallCheck k n p.line

/-- An InvAck reaches a slice: for a recall, for the atomic unit, or for a far request, by its tag (R307). -/
def Dev.sliceInvAck (d : Dev) (k : Clock) (n : Nat) (p : Packet) : Dev :=
  let sl := d.slice n
  if sl.recalls.any fun r => r.entry == p.entry && r.gen == p.gen && r.acks != 0 then
    (d.updSlice n fun s => { s with recalls := s.recalls.map fun r => if r.entry = p.entry then { r with acks := r.acks - 1 } else r }).recallCheck k n p.line
  else if sl.atoms.any fun a => a.entry == p.entry && a.gen == p.gen then d.updAtom k n p.line fun a => { a with got := a.got + 1 }
  else
    match d.updFar n p fun r => { r with got := r.got + 1 } with
    | none => d.stray
    | some (r, d) => d.farDone k n r

/-- What waited at a slice for room in its eviction buffer goes on (R242): recalls that have every answer, far lines that nothing holds, and
lines in disabled units. -/
def Dev.evictRoom (d : Dev) (k : Clock) (n : Nat) : Dev :=
  let d := (d.slice n).recalls.foldl (fun d r => d.recallCheck k n r.ent.line) d
  let d := (d.slice n).dir.foldl (fun d e => if e.2.far then d.farIdle n e.2.line else d) d
  d.clearUnits k n

/-! ### A slice's own reads and writes (R201, R307, R476) -/

/-- The answer to a slice's own write or read: its buffer is released (R307). -/
def Dev.ownAnswer (d : Dev) (n : Nat) (p : Packet) : Dev :=
  match (d.slice n).ownOf p with
  | none => d.stray
  | some q => d.updSlice n fun s => s.ownDone q

/-- HeldRetry for a slice's own access (R407): it is sent again; a line fetched for an access that waits in the mesh is fetched again when
that access is tried. -/
def Dev.ownHold (d : Dev) (n : Nat) (p : Packet) : Dev :=
  match (d.slice n).ownOf p with
  | none => d.stray
  | some q => if q.op = .bulkRead then d.updSlice n fun s => s.ownDone q else d.send q

/-! ### The rows -/

/-- FWD_GET_S, FWD_GET_M and RECALL at their receiver. -/
def fwdIns (op : PktOp) (p : Packet) (st : State) : Out :=
  onMem st fun d => d.onPkt p op fun d => if p.tgt < 512 then d.coreForward st.clk p.tgt p else d.farForward st.clk (p.tgt - 512) p

/-- FWD_GET_S (R243, R245, R249). -/
def execFwdGetS (p : Packet) (st : State) : Out := fwdIns .fwdGetS p st
/-- FWD_GET_M (R243, R245, R249). -/
def execFwdGetM (p : Packet) (st : State) : Out := fwdIns .fwdGetM p st
/-- RECALL (R243, R245, R247, R249). -/
def execRecall (p : Packet) (st : State) : Out := fwdIns .recall p st

/-- INV (R244, R245, R249): refused while the receiver's forward queue is full (R243). -/
def execInv (p : Packet) (st : State) : Out :=
  onMem st fun d => d.onPkt p .inv fun d =>
    if p.tgt < 512 then (if 16 ≤ (d.core p.tgt).fwdq.length then none else some (d.coreInv p.tgt p))
    else if 64 ≤ (d.slice (p.tgt - 512)).fwdq.length then none else some (d.farInv (p.tgt - 512) p)

/-- EVICT_ACK (R242): the buffered line leaves, and what waited for it goes on. -/
def execEvictAck (p : Packet) (st : State) : Out :=
  onMem st fun d => d.onPkt p .evictAck fun d =>
    if p.tgt < 512 then
      some (((d.updCore p.tgt fun k => { k with evict := k.evict.filter fun b => b.line != p.line }).clearL1Units p.tgt).corePump st.clk p.tgt)
    else
      some ((d.updSlice (p.tgt - 512) fun s => { s with evict := s.evict.filter fun b => b.line != p.line }).evictRoom st.clk (p.tgt - 512))

/-- A response reaches a core's landing buffer, or is discarded and counted (R307). -/
def Dev.coreResp (d : Dev) (p : Packet) (f : Mshr → Dev) : Dev :=
  match (d.core p.tgt).landing p with
  | none => d.stray
  | some m => f m

/-- DATA (R243, R244). -/
def execData (p : Packet) (st : State) : Out :=
  onMem st fun d => d.onPkt p .data fun d => some <|
    if p.tgt < 512 then d.coreResp p fun m => if m.kind = .readU ∨ m.kind = .fetch then d.coreRead st.clk p.tgt p m else d.coreData st.clk p.tgt p m
    else if (d.slice (p.tgt - 512)).atoms.any fun a => a.entry == p.entry && a.gen == p.gen then
      d.updAtom st.clk (p.tgt - 512) p.line fun a => { a with data := some (lineOfWords p.data), poison := poisonMask p.poison, need := some p.acks }
    else d.farData st.clk (p.tgt - 512) p

/-- GRANT (R241). -/
def execGrant (p : Packet) (st : State) : Out :=
  onMem st fun d => d.onPkt p .grant fun d => some <|
    if p.tgt < 512 then d.coreResp p fun _ => d.coreGrant st.clk p.tgt p else d.farGrant st.clk (p.tgt - 512) p

/-- INV_ACK (R246, R247). -/
def execInvAck (p : Packet) (st : State) : Out :=
  onMem st fun d => d.onPkt p .invAck fun d => some <|
    if p.tgt < 512 then d.coreResp p fun _ => (d.updMshr p.tgt p.entry fun x => { x with got := x.got + 1 }).coreDone st.clk p.tgt p.entry
    else d.sliceInvAck st.clk (p.tgt - 512) p

/-- RECALL_DATA (R247). -/
def execRecallData (p : Packet) (st : State) : Out :=
  onMem st fun d => d.onPkt p .recallData fun d => some (d.recallAnswered st.clk (d.lineSlice p.line) p)

/-- RECALL_ACK (R247). -/
def execRecallAck (p : Packet) (st : State) : Out :=
  onMem st fun d => d.onPkt p .recallAck fun d => some (d.recallAnswered st.clk (d.lineSlice p.line) p)

/-- ATOM_RESP (R253, R254). -/
def execAtomResp (p : Packet) (st : State) : Out :=
  onMem st fun d => d.onPkt p .atomResp fun d => some <|
    if p.tgt < 512 then d.coreResp p fun m => d.coreAtom st.clk p.tgt p m else d.stray

end Sys2Proof.Machine
end

