-- ==== Sys2Proof/Machine/Barge.lean ====
section
/-! DEFINITION. Barge engines and streams (R272 to R285), and local-memory windows (R193, R399, R446). -/

namespace Sys2Proof.Machine

/-! ### Descriptors (R274 to R276) -/

/-- Word `i` of a descriptor. -/
def qw (q : List (BitVec 64)) (i : Nat) : Nat := (q.getD i 0).toNat
/-- Kind: 0 LINEAR, 1 STRIDED, 2 GATHER, 3 SCATTER, 4 FILL, 5 REDUCE. -/
def dKind (q : List (BitVec 64)) : Nat := bitsAt (qw q 0) 0 4
/-- fence. -/
def dFence (q : List (BitVec 64)) : Bool := bitAt (qw q 0) 8
/-- no_allocate. -/
def dNoAlloc (q : List (BitVec 64)) : Bool := bitAt (qw q 0) 9
/-- rtype. -/
def dRtype (q : List (BitVec 64)) : Nat := bitsAt (qw q 0) 10 3
/-- Whether a kind goes by elements. -/
def dIndexed (q : List (BitVec 64)) : Bool := dKind q == 2 || dKind q == 3
/-- Bytes of a run: the whole of LINEAR, FILL and REDUCE, a row of STRIDED, an element of GATHER and SCATTER. -/
def dRun (q : List (BitVec 64)) : Nat :=
  match dKind q with
  | 1 => bitsAt (qw q 3) 0 32
  | 2 => bitsAt (qw q 3) 0 13
  | 3 => bitsAt (qw q 3) 0 13
  | _ => bitsAt (qw q 3) 0 41
/-- Runs of a descriptor. -/
def dRuns (q : List (BitVec 64)) : Nat :=
  match dKind q with
  | 1 => bitsAt (qw q 4) 0 32 * bitsAt (qw q 4) 32 32
  | 2 => bitsAt (qw q 4) 0 32
  | 3 => bitsAt (qw q 4) 0 32
  | _ => 1
/-- Bytes that a descriptor moves. -/
def dTotal (q : List (BitVec 64)) : Nat := dRun q * dRuns q

/-- The conditions of R276 that the descriptor's own words show. -/
def descInvalid (q : List (BitVec 64)) : Bool :=
  let k := dKind q
  let el := dRun q
  let rsvd := bitsAt (qw q 0) 4 4 != 0 || bitsAt (qw q 0) 13 51 != 0 || qw q 7 != 0 ||
    (match k with
      | 1 => bitsAt (qw q 3) 32 32 != 0
      | 2 => bitsAt (qw q 3) 13 51 != 0 || bitsAt (qw q 4) 32 32 != 0 || bitsAt (qw q 6) 32 32 != 0
      | 3 => bitsAt (qw q 3) 13 51 != 0 || bitsAt (qw q 4) 32 32 != 0 || bitsAt (qw q 6) 32 32 != 0
      | _ => bitsAt (qw q 3) 41 23 != 0 || qw q 4 != 0 || qw q 5 != 0 || qw q 6 != 0)
  decide (5 < k) || rsvd || dTotal q == 0 || (k != 5 && dRtype q != 0) ||
    ((k == 0 || k == 4 || k == 5) && decide (2 ^ 40 < el)) ||
    (dIndexed q && (el % 4 != 0 || decide (4096 < el) || qw q 5 % 4 != 0)) ||
    (k == 5 && (decide (2 < dRtype q) || qw q 1 % 4 != 0 || qw q 2 % 4 != 0 || el % 4 != 0))

/-- A signed 32-bit stride (R275). -/
def dStride (w lo : Nat) : Int := toSigned 32 (bitsAt w lo 32)

/-- Source and destination addresses of byte `cur` of a descriptor, and the bytes left in its run (R273, R275). `x` is the index of
the element for GATHER and SCATTER. -/
def dPlace (q : List (BitVec 64)) (cur x : Nat) : Nat × Nat × Nat :=
  let run := dRun q
  let j := cur / run
  let off := cur % run
  match dKind q with
  | 1 =>
    let i1 : Int := Int.ofNat (j % bitsAt (qw q 4) 0 32)
    let i2 : Int := Int.ofNat (j / bitsAt (qw q 4) 0 32)
    (ofSigned 64 (Int.ofNat (qw q 1 + off) + i1 * dStride (qw q 5) 0 + i2 * dStride (qw q 5) 32),
      ofSigned 64 (Int.ofNat (qw q 2 + off) + i1 * dStride (qw q 6) 0 + i2 * dStride (qw q 6) 32), run - off)
  | 2 => ((qw q 1 + x * bitsAt (qw q 6) 0 32 + off) % 2 ^ 64, (qw q 2 + cur) % 2 ^ 64, run - off)
  | 3 => ((qw q 1 + cur) % 2 ^ 64, (qw q 2 + x * bitsAt (qw q 6) 0 32 + off) % 2 ^ 64, run - off)
  | 4 => (0, (qw q 2 + cur) % 2 ^ 64, run - off)
  | _ => ((qw q 1 + cur) % 2 ^ 64, (qw q 2 + cur) % 2 ^ 64, run - off)

/-- Whether a virtual address is a source byte of a LINEAR, STRIDED or REDUCE descriptor (R273). -/
def dReads (q : List (BitVec 64)) (va : Nat) : Bool :=
  match dKind q with
  | 0 => decide ((va + 2 ^ 64 - qw q 1) % 2 ^ 64 < dRun q)
  | 5 => decide ((va + 2 ^ 64 - qw q 1) % 2 ^ 64 < dRun q)
  | 1 => (List.range (bitsAt (qw q 4) 32 32)).any fun i2 => (List.range (bitsAt (qw q 4) 0 32)).any fun i1 =>
      decide (ofSigned 64 (Int.ofNat va - Int.ofNat (qw q 1) - Int.ofNat i1 * dStride (qw q 5) 0 - Int.ofNat i2 * dStride (qw q 5) 32) < dRun q)
  | _ => false

/-! ### Translation of a stream's accesses (R260, R261, R270, R282) -/

/-- What a stream's translation answers. -/
inductive SRes where
  | ok (e : BitVec 256)
  | fault (code residency detail : Nat)
  | wait
  deriving DecidableEq, Repr

/-- Check a range entry for a barge access that needs the permission bits `need` (R282). -/
def bargeCheck (e : BitVec 256) (need : Nat) : SRes :=
  let lack := need &&& (15 - rePerm e)
  if reWithdrawing e then .fault 1 3 0
  else if 2 ≤ reRes e then .fault 1 (reRes e) 0
  else if lack ≠ 0 then .fault 2 (reRes e) (if lack % 2 = 1 then 1 else if lack / 2 % 2 = 1 then 2 else 8)
  else .ok e

/-- Translate an address for a stream. -/
def Dev.streamXlate (d : Dev) (n va need : Nat) : SRes :=
  if 2 ^ 56 ≤ va then .fault 1 3 0
  else
    match d.streamLookup n (d.stream n).ctx va with
    | some e => bargeCheck e need
    | none => .wait

/-- A stream faults (R282 to R287): it stalls, and its record is posted, or held Pending when the fault queue is full. -/
def Dev.bargeFault (d : Dev) (k : Clock) (n code va residency detail desc : Nat) (write : Bool) : Dev :=
  let s := d.stream n
  let full := (d.berth s.berth).fqFull
  let first := !d.hasPending s.berth
  let progress := match s.desc with
    | some q => if dIndexed q then s.cur / dRun q else s.cur
    | none => 0
  let f : SFault := { SFault.reset with
    code := code, tag := s.faults % 65536, va := va, write := write, residency := residency, desc := desc, detail := detail
    progress := if desc = 0xFFFFFFFF then 0 else progress, time := gtime k d, epoch := (d.ctx s.ctx).epoch, pend := full }
  let d := (d.endStreamWalk n).updStream n fun s => { s with
    st := if full then .pending else .faulted, fault := some f, faults := s.faults + 1, walkVa := none
    xlat := s.xlat.filter fun y => !(y.ctx == s.ctx && reCovers y.entry va) }
  let d := d.beginStall k n (if full then 2 else 1) va
  if full then (if first then d.raiseOverflow k s.berth s.ctx else d)
  else
    let d := d.updBank s.queue fun v => { v with faults := v.faults + 1 }
    d.placeFault k s.berth (streamFault d n)

/-- A stream waits for a walk, in arrival order among its group's (R271). -/
def Dev.streamWalk (d : Dev) (n va : Nat) (write desc : Bool) : Dev :=
  let w : Walk := { Walk.reset with ctx := (d.stream n).ctx, va := va, who := n }
  { d with ctl := { d.ctl with bwalks := d.ctl.bwalks ++ [w] } }.updStream n fun s => { s with st := .translating, walkVa := some va, walkWrite := write, walkDesc := desc }

/-! ### Transactions of an engine (R278, R307) -/

/-- Streams of an engine. -/
def engineStreams (e : Nat) : List Nat := (List.range 64).map fun i => 64 * e + i

/-- Landing buffers of an engine in use. -/
def Dev.engineUsed (d : Dev) (e : Nat) : List Nat := (engineStreams e).flatMap fun n => (d.stream n).txns.map BTxn.entry

/-- Change a stream's transaction by its landing buffer. -/
def Dev.updTxn (d : Dev) (n e : Nat) (f : BTxn → BTxn) : Dev :=
  d.updStream n fun s => { s with txns := s.txns.map fun t => if t.entry = e then f t else t }

/-- A transaction ends: its buffer is released with a new generation (R307, R317). -/
def Dev.freeTxn (d : Dev) (n : Nat) (t : BTxn) : Dev :=
  let d := d.dropTxn n t
  if t.orphan then d.unorphan t.ctx else d

/-- The transaction that a response of an engine's agent names. -/
def Dev.bargeTxn (d : Dev) (p : Packet) : Option (Nat × BTxn) :=
  (engineStreams (p.tgt - 640)).findSome? fun n => ((d.stream n).txns.find? fun t => t.entry == p.entry && t.gen == p.gen).map fun t => (n, t)

/-- A request packet of a stream's access to one part (R278, R306); a window access goes to the host bridge of the device that carries
the window (R346). (DESIGN CHOICE, assumption 170.) -/
def Dev.bargePkt (d : Dev) (n : Nat) (t : BTxn) (g : BSeg) (op : PktOp) : Packet :=
  let s := d.stream n
  let e := g.entry
  let base : Packet := { Packet.reset with
    op := op, src := d.id, agent := 640 + n / 64, entry := t.entry, gen := t.gen, epoch := t.epoch % 8, berth := s.berth, ctx := s.ctx, cnt := g.len }
  if reKind e = 0 then
    let ga := reMap e g.va
    { base with dst := gaDev ga, tgt := 512, line := gaLine ga, off := ga % 128, key := reKey e, mtype := reType e
                mirror := if reType e = 3 then reMirror e else 0, rtype := dRtype t.q, alloc := if dNoAlloc t.q then 2 else 0 }
  else { base with dst := rePort e, tgt := 705, aty := reKind e, who := reSession e, no := reWindow e, off := reMap e g.va }

/-- Send the reads of a transaction. -/
def Dev.bargeRead (d : Dev) (n : Nat) (t : BTxn) : Dev :=
  let d := d.updTxn n t.entry fun t => { t with retry := false, dev := (t.src.head?.elim 0 fun g => (d.bargePkt n t g .bulkRead).dst) }
  d.sendAll (t.src.map fun g => d.bargePkt n t g .bulkRead)

/-! ### Local memory through a window (R34, R44, R193) -/

/-- Begin to wake a gated core domain (R446). -/
def Dev.beginWake (d : Dev) (k : Clock) (pd : Nat) : Dev :=
  if d.pwr.gated.getLsbD pd && !mhas d.pwr.waking pd then { d with pwr := { d.pwr with waking := mput d.pwr.waking pd k.tsc } } else d

/-- Core and physical offset of a window address. -/
def lmCore (a : Nat) : Nat × Nat := ((a - lmWindow) / 0x200000, (a - lmWindow) % 0x200000)

/-- Block slot and logical offset that own a physical offset of a core's local memory. -/
def Core.unitOwner (k : Core) (x : Nat) : Option (Nat × Nat) :=
  k.blocks.findSome? fun e => (e.2.units.zipIdx.find? fun u => u.1 == x / 8192).map fun u => (e.1, 8192 * u.2 + x % 8192)

/-- The block-local offset at which a write through a window would meet a held region (R67). -/
def Core.windowHeld (k : Core) (x len : Nat) : Option Nat :=
  (k.unitOwner x).bind fun o => (k.heldBy o.1 o.2 len).map fun _ => o.2

/-- An access through a local-memory window at its target (R193, R399, R67): none when it must wait for a wake. -/
def Dev.serveWindow (d : Dev) (k : Clock) (p : Packet) : Option Dev :=
  let a := p.line % 2 ^ 38 * 128
  let (c, x) := lmCore a
  if d.pwr.gated.getLsbD (coreDomain c) then some ((d.beginWake k (coreDomain c)).send p)
  else
    let co := d.core c
    match co.unitOwner x with
    | none => some (d.errorTo k p 3)
    | some (b, off) =>
      let blk := co.block b
      let d := { d with pwr := { d.pwr with idleSince := mput d.pwr.idleSince (coreDomain c) k.tsc } }
      if blk.berth ≠ p.berth then some (d.errorTo k p 3)
      else
        match p.op with
        | .bulkRead =>
          let d := d.meetLm k c blk off 128
          let co := d.core c
          let poison := (List.range 16).filter fun w => co.lmPoison.contains (x / 8 + w)
          some (d.send { answerPkt d p .readData with
            data := (List.range 16).map fun w => BitVec.ofNat 64 (natOf ((List.range 8).map fun i => mget 0 co.lm (x + 8 * w + i))), poison := poison })
        | .bulkWrite =>
          let (m, data, poison) := bulkPart p 0
          if (co.windowHeld (x + p.off) p.cnt).isSome then some (d.send (answerPkt d p .heldRetry))
          else
            let lm := (List.range 128).foldl (fun l i => if m.getLsbD i then mset 0 l (x + i) (lineByte data i) else l) co.lm
            let old := poisonMask ((List.range 16).filter fun w => co.lmPoison.contains (x / 8 + w))
            let now := mergePoison m poison old
            let co := { co with lm := lm, lmPoison := (co.lmPoison.filter fun w => decide (w < x / 8) || decide (x / 8 + 16 ≤ w)) ++
              (poisonList now).map fun w => x / 8 + w }
            some ((d.setCore c co).send (answerPkt d p .writeAck))
        | _ => some (d.errorTo k p 3)

/-! ### Writing the destination, in order (R283) -/

/-- The packet that writes the next part of a transaction's data: its parts go one at a time, in order, so that none is performed after
one that fails, and no word of a REDUCE is added twice (R273, R283). -/
def Dev.bargeWrites (d : Dev) (n : Nat) (t : BTxn) : List Packet :=
  (t.dst.take 1).map fun g =>
    let op := if dKind t.q = 5 then PktOp.bulkReduce else .bulkWrite
    let p := d.bargePkt n t g op
    let bad := fun i => t.poison.contains (g.off + i)
    if reKind g.entry = 0 then
      let o := g.va % 128
      let line := (List.range g.len).foldl (fun l i => lineSet l (o + i) 1 (mget 0 t.data (g.off + i)).toNat) 0
      { p with data := lineWords line, poison := (List.range 16).filter fun w => (List.range g.len).any fun i => (o + i) / 8 == w && bad i }
    else
      { p with data := (List.range ((g.len + 7) / 8)).map fun w => BitVec.ofNat 64 (natOf ((List.range 8).map fun i => mget 0 t.data (g.off + 8 * w + i)))
               poison := (List.range ((g.len + 7) / 8)).filter fun w => (List.range 8).any fun i => bad (8 * w + i) }

/-- A held region of this device that the next write of a transaction would meet (R67). -/
def Dev.bargeHeld (d : Dev) (t : BTxn) : Option Nat :=
  (t.dst.take 1).findSome? fun g =>
    let ga := reMap g.entry g.va
    if reKind g.entry = 0 ∧ gaDev ga = d.id ∧ isLmWindow (gaLocal ga) = true then
      let (c, x) := lmCore (gaLocal ga)
      (d.core c).windowHeld x g.len
    else none

/-- Send the next write of a stream's oldest access once its data is there, unless a held region stalls the stream (R67, R281). -/
def Dev.bargeCommit (d : Dev) (k : Clock) (n : Nat) : Dev :=
  let s := d.stream n
  match s.txns.find? fun t => !t.dead with
  | none => d
  | some t =>
    if t.stage ≠ 1 then d
    else
      match d.bargeHeld t with
      | some off =>
        if s.st = .running then (d.updStream n fun s => { s with st := .held, heldAt := off }).beginStall k n 3 off
        else if s.st = .cancelling then (s.txns.filter fun t => t.stage == 1 && !t.dead).foldl (fun d t => d.dropTxn n t) d
        else d
      | none =>
        let d := if s.st = .held then (d.endStall k n 0).updStream n fun s => { s with st := .running } else d
        let ps := d.bargeWrites n t
        (d.updTxn n t.entry fun t => { t with stage := 2, retry := false, dev := ps.head?.elim 0 Packet.dst }).sendAll ps

/-! ### Faults and failures of an access in flight (R282, R283) -/

/-- Accesses after one that failed: data read for them is discarded. -/
def Stream.dropAfter (s : Stream) (t : BTxn) : Stream :=
  let before := s.txns.takeWhile fun x => x.entry != t.entry
  let after := (s.txns.dropWhile fun x => x.entry != t.entry).drop 1
  { s with txns := before ++ (after.filter fun x => x.stage == 0).map fun x => { x with dead := true } }

/-- An error response to a stream's access: it faults there, and goes back to that access, past the parts performed (R282, R283). -/
def Dev.bargeError (d : Dev) (k : Clock) (n : Nat) (t : BTxn) (va : Nat) (write : Bool) : Dev :=
  let s := d.stream n
  let d := d.freeTxn n t
  let d := d.updStream n fun _ => s.dropAfter t
  if s.st = .cancelling then d.settleStream n
  else
    let e := (t.src ++ t.dst).find? fun g => g.va == va
    let done := if write then e.elim 0 BSeg.off else 0
    let d := d.updStream n fun s => if t.what = 2 then s else { s with desc := some t.q, di := t.desc, cur := t.cur + done, idx := none }
    d.bargeFault k n 2 va (e.elim 3 fun g => reRes g.entry) 0x10 (if t.what = 2 then 0xFFFFFFFF else t.desc) write

/-- Whether place `cur` of descriptor `di` comes before the point at which a failed COPY ends (R276, R282); every place of one that has not
failed does. -/
def Stream.before (s : Stream) (di cur : Nat) : Bool :=
  s.failed.isNone || decide (di < s.failedAt) || (di == s.failedAt && decide (cur < s.failedCur))

/-- An access cannot be performed, and its COPY ends with a status once the accesses before it are performed (R276, R282, R322). -/
def Dev.bargeFail (d : Dev) (n status desc cur : Nat) : Dev :=
  d.updStream n fun s => if s.before desc cur then { s with failed := some status, failedAt := desc, failedCur := cur } else s

/-! ### Issue (R273, R275, R278, R279) -/

/-- The parts of a span that lie on one line each. -/
def lineParts (va len : Nat) : List (Nat × Nat × Nat) :=
  if len = 0 then []
  else (List.range ((va + len - 1) / 128 - va / 128 + 1)).map fun i =>
    let lo := max va ((va / 128 + i) * 128)
    let hi := min (va + len) ((va / 128 + i) * 128 + 128)
    (lo, lo - va, hi - lo)

/-- What the translation of an access's side gives: its parts, a fault at an address, or a wait. -/
inductive Sides where
  | ok (gs : List BSeg)
  | fault (va code residency detail : Nat)
  | wait (va : Nat)
  deriving DecidableEq, Repr

/-- Translate one side of an access: a window run as a whole (R279), device memory line by line, as far as it does not run on into a
window. -/
def Dev.bargeSide (d : Dev) (n va len need : Nat) (first : BitVec 256) : Sides :=
  if reKind first ≠ 0 then .ok [{ BSeg.reset with entry := first, va := va, off := 0, len := len }]
  else
    (lineParts va len).foldl (fun (r : Sides) x => match r with
      | .ok gs =>
        match d.streamXlate n x.1 need with
        | .ok e =>
          let short := gs.any fun g => reKind g.entry != 0
          .ok (if short then gs else gs ++ [{ BSeg.reset with entry := e, va := x.1, off := x.2.1, len := if reKind e = 0 then x.2.2 else 0 }])
        | .fault code residency detail => .fault x.1 code residency detail
        | .wait => .wait x.1
      | r => r) (.ok [])

/-- Bytes that a side covers. -/
def sideLen (gs : List BSeg) : Nat := sumNat (gs.map BSeg.len)

/-- The parts of a side cut to a length. -/
def sideCut (gs : List BSeg) (len : Nat) : List BSeg :=
  gs.filterMap fun g => if g.off < len ∧ 0 < g.len then some { g with len := min g.len (len - g.off) } else none

/-- Longest access at an address (R278, R279): within one line of device memory, or within one window run; `other` tells that the other
side is a window, which then sets the length. -/
def sideLimit (e : BitVec 256) (va : Nat) (other : Bool) : Nat :=
  if reKind e ≠ 0 then min (8192 - reMap e va % 8192) (4096 * (reStart e + rePages e) - va)
  else if other then 8192
  else 128 - va % 128

/-- Whether a window side of a descriptor breaks R279's multiples of 4: `src` selects the side. -/
def windowSkew (q : List (BitVec 64)) (src : Bool) : Bool :=
  let a := if src then qw q 1 else qw q 2
  let st := if src then qw q 5 else qw q 6
  a % 4 != 0 || dRun q % 4 != 0 ||
    (dKind q == 1 && (bitsAt st 0 32 % 4 != 0 || bitsAt st 32 32 % 4 != 0)) ||
    (((dKind q == 2 && src) || (dKind q == 3 && !src)) && bitsAt (qw q 6) 0 32 % 4 != 0)

/-- Open a transaction of a stream: a landing buffer of its engine (R278). -/
def Dev.openTxn (d : Dev) (k : Clock) (n : Nat) (t : BTxn) : BTxn × Dev :=
  let s := d.stream n
  let e := (lowestFree 1024 (d.engineUsed (n / 64) ++ d.quarantined k (640 + n / 64))).getD 0
  let t := { t with entry := e, gen := mget 0 d.ctl.bgens (1024 * (n / 64) + e), ctx := s.ctx, epoch := (d.ctx s.ctx).epoch % 8 }
  (t, d.updStream n fun s => { s with txns := s.txns ++ [t] })

/-- Remember the spans that an access touches (R273). -/
def Stream.touch (s : Stream) (va len desc : Nat) (written : Bool) : Stream :=
  match s.hazard with
  | (a, l, x, w) :: t =>
    if a + l = va ∧ x = desc ∧ w = written then { s with hazard := (a, l + len, x, w) :: t }
    else { s with hazard := (va, len, desc, written) :: s.hazard }
  | [] => { s with hazard := [(va, len, desc, written)] }

/-- Whether a byte lies in a span that R273 leaves unspecified for a source byte of descriptor `desc`. -/
def Stream.srcHazard (s : Stream) (va desc : Nat) : Bool :=
  s.hazard.any fun h => h.2.2.2 && decide (h.2.2.1 < desc) && decide (h.1 ≤ va) && decide (va < h.1 + h.2.1)

/-- Whether a destination byte of a descriptor is left unspecified (R273): an earlier descriptor wrote it without a fence between, or
it is a source byte of the same descriptor. -/
def Stream.dstHazard (s : Stream) (q : List (BitVec 64)) (va desc : Nat) : Bool :=
  (s.hazard.any fun h => h.2.2.2 && decide (h.2.2.1 < desc) && decide (h.1 ≤ va) && decide (va < h.1 + h.2.1)) || dReads q va ||
  (dIndexed q && s.hazard.any fun h => !h.2.2.2 && h.2.2.1 == desc && decide (h.1 ≤ va) && decide (va < h.1 + h.2.1))

/-- The run of a span's bytes, first and length, that the same GATHER or SCATTER wrote before: its element overlaps the destination of an
earlier one, and those bytes are left unspecified (R273). -/
def Stream.lateOverlap (s : Stream) (va len desc : Nat) : Option (Nat × Nat) :=
  match (List.range len).filter fun i => s.hazard.any fun h => h.2.2.2 && h.2.2.1 == desc && decide (h.1 ≤ va + i) && decide (va + i < h.1 + h.2.1) with
  | [] => none
  | i :: t => some (i, t.getLast?.getD i - i + 1)

/-- Bytes of an access with those that R273 leaves unspecified replaced by free values. -/
def Dev.drawHazards (d : Dev) (n : Nat) (t : BTxn) (hasSrc : Bool) (data : List (Nat × BitVec 8)) : List (Nat × BitVec 8) × Dev :=
  let s := d.stream n
  let hit := (List.range t.len).filter fun i => (hasSrc && s.srcHazard (t.srcVa + i) t.desc) || (t.what == 0 && s.dstHazard t.q (t.dstVa + i) t.desc)
  let r := hit.foldl (fun (r : List (Nat × BitVec 8) × Nat) i => (mput r.1 i (Config.copyByte r.2), r.2 + 1)) (data, d.fresh)
  (r.1, { d with fresh := r.2 })

/-- Write free values over the destination bytes of earlier elements that an element of the same descriptor reads (R273).
(DESIGN CHOICE, assumption 177.) -/
def Dev.bargeScramble (d : Dev) (k : Clock) (n : Nat) (q : List (BitVec 64)) (srcVa len : Nat) : Dev :=
  let s := d.stream n
  match s.lateOverlap srcVa len s.di with
  | none => d
  | some (i, l) =>
    match d.streamXlate n (srcVa + i) 2 with
    | .ok e =>
      match d.bargeSide n (srcVa + i) l 2 e with
      | .ok gs =>
        let t : BTxn := { BTxn.reset with what := 3, cur := s.cur, desc := s.di, q := q, dst := sideCut gs l, len := l, stage := 1 }
        let t := { t with data := (List.range l).map fun j => (j, Config.copyByte (d.fresh + j)) }
        ((({ d with fresh := d.fresh + l }.openTxn k n t).2).bargeCommit k n)
      | _ => d
    | _ => d

/-- Issue the access at a stream's cursor: both sides are translated, then its source is read, or its destination written (R275, R278
to R280). -/
def Dev.bargeAccess (d : Dev) (k : Clock) (n : Nat) (q : List (BitVec 64)) (x : Option Nat) : Dev :=
  let s := d.stream n
  let (srcVa, dstVa, lim) := dPlace q s.cur (x.getD 0)
  let noSrc := dKind q == 4 || x == none && dKind q == 2
  let needD := if dKind q = 5 then 10 else 2
  let fault := fun (va code residency detail : Nat) (write : Bool) => d.bargeFault k n code va residency detail s.di write
  match (if noSrc then SRes.ok 0 else d.streamXlate n srcVa 1), d.streamXlate n dstVa needD with
  | .fault code residency detail, _ => fault srcVa code residency detail false
  | .wait, _ => d.streamWalk n srcVa false false
  | .ok _, .fault code residency detail => fault dstVa code residency detail true
  | .ok _, .wait => d.streamWalk n dstVa true false
  | .ok eS, .ok eD =>
    let wS := !noSrc && reKind eS != 0
    let wD := reKind eD != 0
    let len := min lim (min (if noSrc then lim else sideLimit eS srcVa wD) (sideLimit eD dstVa wS))
    if (wS && windowSkew q true) || (wD && windowSkew q false) then d.bargeFail n 9 s.di 0
    else
      match (if noSrc then Sides.ok [] else d.bargeSide n srcVa len 1 eS), d.bargeSide n dstVa len needD eD with
      | .fault va code residency detail, _ => fault va code residency detail false
      | .wait va, _ => d.streamWalk n va false false
      | .ok _, .fault va code residency detail => fault va code residency detail true
      | .ok _, .wait va => d.streamWalk n va true false
      | .ok gs, .ok gd =>
        let len := if noSrc then sideLen gd else min (sideLen gs) (sideLen gd)
        let d := if dIndexed q && !noSrc then d.bargeScramble k n q srcVa len else d
        let t : BTxn := { BTxn.reset with
          cur := s.cur, desc := s.di, q := q, src := sideCut gs len, dst := sideCut gd len, len := len, stage := if noSrc then 1 else 0
          srcVa := srcVa, dstVa := dstVa }
        let (t, d) := d.openTxn k n t
        let (data, d) := if noSrc then d.drawHazards n t false ((List.range len).map fun i =>
            (i, if dKind q = 4 then BitVec.ofNat 8 (qw q 1 >>> (8 * ((s.cur + i) % 8))) else 0)) else ([], d)
        let d := d.updTxn n t.entry fun t => { t with data := data, poison := if noSrc && dKind q == 2 then List.range len else [] }
        let d := d.updStream n fun s =>
          let s := { s with cur := s.cur + len }
          let s := if noSrc then s else s.touch srcVa len s.di false
          s.touch dstVa len s.di true
        if noSrc then d.bargeCommit k n else d.bargeRead n t

/-- Read the index of the present element of a GATHER or SCATTER (R275). -/
def Dev.bargeIndex (d : Dev) (k : Clock) (n : Nat) (q : List (BitVec 64)) : Dev :=
  let s := d.stream n
  let va := (qw q 5 + 4 * (s.cur / dRun q)) % 2 ^ 64
  if s.txns.any fun t => t.what == 1 && !t.dead then d
  else
    match d.streamXlate n va 1 with
    | .fault code residency detail => d.bargeFault k n code va residency detail s.di false
    | .wait => d.streamWalk n va false false
    | .ok e =>
      let t : BTxn := { BTxn.reset with what := 1, cur := s.cur, desc := s.di, q := q, len := 4, srcVa := va
                                        src := [{ BSeg.reset with entry := e, va := va, off := 0, len := 4 }] }
      let (t, d) := d.openTxn k n t
      d.bargeRead n t

/-- Try again what a stream has yet to send of its accesses in flight (R67, R281, R407): requests that HeldRetry answered, and the write of
its oldest access. -/
def Dev.bargeRetry (d : Dev) (k : Clock) (n : Nat) : Dev :=
  let retry := (d.stream n).txns.filter fun t => t.retry && !t.dead
  let d := if !retry.isEmpty && (d.stream n).st == .held then (d.endStall k n 0).updStream n fun s => { s with st := .running } else d
  (retry.foldl (fun d t => if t.stage = 0 then d.bargeRead n t else d) d).bargeCommit k n

/-- Whether a stream has a request to send again, or a write to send. -/
def Stream.owes (s : Stream) : Bool := s.txns.any (fun t => t.retry && !t.dead) || (s.txns.find? fun t => !t.dead).any fun t => t.stage == 1

/-- STREAM_ACCESS_ISSUE (R273, R278, R281): what the stream has yet to send is tried again; else it issues its next access.
(DESIGN CHOICE, assumption 63.) (DESIGN CHOICE, assumption 64.) -/
def execStreamAccessIssue (st : Fin 4096) (s0 : State) : Out :=
  onMem s0 fun d =>
    let k := s0.clk
    let n : Nat := st
    let s := d.stream n
    if d.stopped ∨ s.st = .idle ∨ s.st = .cancelling then d
    else if s.owes then d.bargeRetry k n
    else if s.st ≠ .running ∨ s.before s.di s.cur = false then d
    else
      match s.desc with
      | none => d
      | some q =>
        if dTotal q ≤ s.cur then d
        else if dFence q && s.txns.any (fun t => decide (t.desc < s.di) && !t.lost) then d
        else if 512 ≤ (d.engineUsed (n / 64)).length then d
        else
        let d := if dFence q && s.cur == 0 then d.updStream n fun s => { s with hazard := s.hazard.filter fun h => decide (s.di ≤ h.2.2.1) } else d
        if dIndexed q then
          match s.idx with
          | some (i, x) =>
            if i ≠ s.cur / dRun q then d.bargeIndex k n q
            else if x = none ∧ dKind q = 3 then d.updStream n fun s => { s with cur := (i + 1) * dRun q }
            else d.bargeAccess k n q x
          | none => d.bargeIndex k n q
        else d.bargeAccess k n q (some 0)

/-- Whether the side of a descriptor at an address is a window (R279): as a walk finds it (R270). -/
def Dev.windowSide (d : Dev) (x va : Nat) : Bool := match d.walk x va with
  | .hit e => reKind e != 0 && reRes e != 3
  | _ => false

/-- A descriptor is there: it is validated (R276, R475) and becomes the one in progress. Its sides are those of its first bytes.
(DEDUCED, assumption 179.) -/
def Dev.takeDesc (d : Dev) (n next : Nat) (q : List (BitVec 64)) (poisoned : Bool) : Dev :=
  let x := (d.stream n).ctx
  let skew := (dKind q != 4 && d.windowSide x (qw q 1) && windowSkew q true) || (d.windowSide x (qw q 2) && windowSkew q false)
  if poisoned || descInvalid q || skew then d.bargeFail n 9 next 0
  else d.updStream n fun s => { s with desc := some q, di := next, cur := 0, idx := none }

/-- BARGE_DESCRIPTOR_READ (R273, R276): from own HBM at once, from elsewhere by a read whose answer brings it. -/
def execBargeDescriptorRead (st : Fin 4096) (s0 : State) : Out :=
  onMem s0 fun d =>
    let k := s0.clk
    let n : Nat := st
    let s := d.stream n
    let next := if s.desc.isSome then s.di + 1 else s.di
    let done := match s.desc with
      | some q => decide (dTotal q ≤ s.cur)
      | none => true
    if d.stopped || s.st != .running || !s.before next 0 || !done || s.count ≤ next || s.txns.any (fun t => t.what == 2 && !t.dead)
    then d
    else
      let va := s.list + 64 * next
      match d.streamXlate n va 1 with
      | .fault code residency detail => d.bargeFault k n code va residency detail 0xFFFFFFFF false
      | .wait => d.streamWalk n va false true
      | .ok e =>
        let ga := reMap e va
        let a := gaLocal ga
        if reKind e = 0 ∧ gaDev ga = d.id ∧ isLmWindow a = false ∧ (d.locOf a).isSome = true ∧ d.mayAccess s.berth (reKey e) a true = true then
          let (ok, d) := d.obtain k (d.lineSlice (gaLine ga)) (gaLine ga)
          if !ok then d
          else
            let key := keyId s.berth (reKey e)
            d.takeDesc n next ((List.range 8).map fun i => BitVec.ofNat 64 (d.peek key (a + 8 * i) 8)) ((List.range 8).any fun i => d.peekPoison (a + 8 * i))
        else if 512 ≤ (d.engineUsed (n / 64)).length then d
        else
          let t : BTxn := { BTxn.reset with what := 2, desc := next, len := 64, src := [{ BSeg.reset with entry := e, va := va, off := 0, len := 64 }] }
          let (t, d) := d.openTxn k n t
          d.bargeRead n t

/-- Whether a stream has accesses to issue yet: up to the end of its list, or to the point at which its COPY failed. -/
def Stream.more (s : Stream) : Bool :=
  match s.desc with
  | some q => if s.cur < dTotal q then s.before s.di s.cur else decide (s.di + 1 < s.count) && s.before (s.di + 1) 0
  | none => decide (0 < s.count) && s.before 0 0

/-- COPY_COMPLETE (R281, R371): every access is performed, and the list is at its end or the COPY has failed. -/
def execCopyComplete (st : Fin 4096) (s0 : State) : Out :=
  onMem s0 fun d =>
    let n : Nat := st
    let s := d.stream n
    let live := s.txns.any fun t => !t.lost
    if s.st ≠ .running ∨ live = true ∨ d.stopped = true ∨ s.more = true then d
    else
      match s.failed, s.desc with
      | some status, _ => (d.finishCmd s.queue s.order status s.failedAt).idleStream n
      | none, some _ => (d.finishCmd s.queue s.order 0 s.di).idleStream n
      | none, none => d

/-- STREAM_STALL_LIMIT_EXPIRY (R288, R384): a fault stall beyond the parking limit aborts the stream's context. -/
def execStreamStallLimitExpiry (st : Fin 4096) (s0 : State) : Out :=
  onMem s0 fun d =>
    let s := d.stream st
    match s.fault with
    | none => d
    | some f =>
      if (s.st = .faulted ∨ s.st = .pending) ∧ f.time + msec d.lkp.parkLimit < gtime s0.clk d then d.startAbort s0.clk s.ctx 2 false else d

/-! ### Answers to an engine -/

/-- Data reaches a stream (R280): a source part of an access, an index, or a descriptor. -/
def Dev.bargeData (d : Dev) (k : Clock) (p : Packet) : Dev :=
  match d.bargeTxn p with
  | none => d.stray
  | some (n, t) =>
    let closed := p.reason == 256 && !t.dead
    match t.src.find? fun g => if reKind g.entry = 0 then gaLine (reMap g.entry g.va) == p.line else p.line == 0 with
    | none => d.stray
    | some g =>
      let o := if reKind g.entry = 0 then reMap g.entry g.va % 128 else 0
      let word := fun i => p.data.getD (i / 8) 0
      let data := (List.range g.len).foldl (fun m i => mput m (g.off + i) ((word (o + i)).extractLsb' (8 * ((o + i) % 8)) 8)) t.data
      let poison := t.poison ++ ((List.range g.len).filter fun i => p.poison.contains ((o + i) / 8)).map fun i => g.off + i
      let t := { t with src := t.src.erase g, data := data, poison := poison }
      let d := d.updTxn n t.entry fun _ => t
      if !t.src.isEmpty then d
      else if t.dead then (d.freeTxn n t).settleStream n
      else
        match t.what with
        | 0 =>
          let (data, d) := d.drawHazards n t true t.data
          let d := if closed then d.bargeFail n 0x0A t.desc t.cur else d
          ((d.updTxn n t.entry fun t => { t with stage := 1, data := data }).bargeCommit k n).settleStream n
        | 1 =>
          let (data, d) := d.drawHazards n t true t.data
          let d := if closed then d.bargeFail n 0x0A t.desc t.cur else d
          let v := natOf ((List.range 4).map fun i => mget 0 data i)
          (d.freeTxn n t).updStream n fun s => { s with idx := some (t.cur / dRun t.q, if t.poison.isEmpty then some v else none) }
        | _ =>
          let d := if closed then d.bargeFail n 0x0A t.desc 0 else d
          let q := (List.range 8).map fun w => BitVec.ofNat 64 (natOf ((List.range 8).map fun i => mget 0 t.data (8 * w + i)))
          (d.freeTxn n t).takeDesc n t.desc q (!t.poison.isEmpty)

/-- A write of a stream's access is performed, or was not because its target is unreachable (R281, R322). -/
def Dev.bargeWritten (d : Dev) (k : Clock) (p : Packet) : Dev :=
  match d.bargeTxn p with
  | none => d.stray
  | some (n, t) =>
    match t.dst.find? fun g => if reKind g.entry = 0 then gaLine (reMap g.entry g.va) == p.line else p.line == 0 with
    | none => d.stray
    | some g =>
      let s := d.stream n
      let d := if p.notPerf || t.what == 3 then d else d.updBank s.queue fun v => { v with copyBytes := v.copyBytes + g.len }
      let t := { t with dst := t.dst.erase g }
      let d := d.updTxn n t.entry fun _ => t
      if p.notPerf && !t.dead && s.st != .cancelling then
        let d := d.updStream n fun s => s.dropAfter t
        (d.bargeFail n 0x0B t.desc (t.cur + g.off)).freeTxn n t
      else if !t.dst.isEmpty then ((d.updTxn n t.entry fun t => { t with stage := 1 }).bargeCommit k n).settleStream n
      else
        let d := d.freeTxn n t
        if s.st = .cancelling then (d.bargeCommit k n).settleStream n else d.bargeCommit k n

/-- An error response reaches a stream (R282): a closed window ends the COPY. Reason 256 is the host bridge's answer for a window that
is not open. -/
def Dev.bargeRefused (d : Dev) (k : Clock) (p : Packet) : Dev :=
  match d.bargeTxn p with
  | none => d.stray
  | some (n, t) =>
    if t.dead then (d.freeTxn n t).settleStream n
    else if p.reason = 256 then
      let d := d.updStream n fun s => s.dropAfter t
      let d := (d.bargeFail n 0x0A t.desc t.cur).freeTxn n t
      if (d.stream n).st = .cancelling then d.settleStream n else d
    else
      let g := (if t.stage = 0 then t.src else t.dst.take 1).find? fun g => reKind g.entry == 0 && gaLine (reMap g.entry g.va) == p.line
      d.bargeError k n t (g.elim 0 BSeg.va) (t.stage == 2)

/-- HeldRetry reaches a stream (R306, R407): it stalls before it sends the request again. -/
def Dev.bargeHold (d : Dev) (k : Clock) (p : Packet) : Dev :=
  match d.bargeTxn p with
  | none => d.stray
  | some (n, t) =>
    if t.dead then (d.freeTxn n t).settleStream n
    else
      let d := d.updTxn n t.entry fun t => { t with retry := true, stage := if t.stage = 2 then 1 else t.stage }
      let was := (d.stream n).st
      if was = .cancelling then ((d.freeTxn n t).settleStream n)
      else if was = .running then (d.updStream n fun s => { s with st := .held, heldAt := 0 }).beginStall k n 4 0
      else d

end Sys2Proof.Machine
end

