-- ==== Sys2Proof/Machine/Service.lean ====
section
/-! DEFINITION. What the memory system does by itself: mirror repair (R476 to R479), write-combining entries that time out (R213), the
patrol scrub (R222 to R224), retraining and the loss of a stack (R227, R228), the release of requests that wait for tokens (R406, R407),
and the end of a walk (R268, R271). -/

namespace Sys2Proof.Machine

/-! ### Mirror repair -/

/-- The mirror sectors of a repair are there: those that are right are rewritten at the primary, the others taint the line, and the
requests that waited are served (R476 to R478). A sector that a whole-sector write replaced meanwhile is left alone. -/
def Dev.repairDone (d : Dev) (k : Clock) (n : Nat) (r : Repair) (data : Line) (bad : BitVec 4) : Dev :=
  let live := r.sectors &&& ~~~r.cancel
  let ok := live &&& ~~~bad
  let lost := live &&& bad
  let p := r.req
  let d := d.updSlice n fun s => { s with repairs := s.repairs.erase r }
  let base := r.line % 2 ^ 38 * 4
  let d := if ok = 0 then d
    else
      let d := (List.range 4).foldl (fun d i =>
        if ok.getLsbD i then d.writeSector (keyId p.berth p.key) (base + i) 0xFFFFFFFF#32 (lineGet data (32 * i) 32) false else d) d
      let d := (d.charge k n p.berth (sectorCount ok)).untaint r.line ok
      let m := sectorBytes ok
      let (hit, d) := d.sliceFind k n r.line
      let d := match hit with
        | some f => d.putFrame n { f with data := lineMerge m data f.data, poison := mergePoison m 0 f.poison }
        | none => d
      let first := ((List.range 4).find? fun i => ok.getLsbD i).getD 0
      (logErr k { sliceErr n 1 0x09 0x09 (32 * (base + first)) ok.toNat with berth := p.berth } d).noticeOwner (d.keyOwner (keyId p.berth p.key))
  let d := if lost = 0 then d else d.taintLine k n r.line p.key p.berth lost
  d.serveAll k (p :: r.waiting)

/-- Read the mirror sectors of a repair on this device, as an untracked read under the request's berth and key (R476). -/
def Dev.mirrorRead (d : Dev) (k : Clock) (r : Repair) : Line × BitVec 4 × Dev :=
  let lo := d.mirrorLow r.req.mirror
  let p := { r.req with op := .readU, line := r.mline, lines := 1, mirror := 0, sectors := flipSectors lo r.sectors }
  match d.homeError p with
  | some _ => (0, 0xF#4, d)
  | none =>
    let n := d.lineSlice r.mline
    let (f, d) := (d.charge k n p.berth (sectorCount p.sectors)).sliceRead k n r.mline p.berth p.key p.mtype 0 p.sectors 0
    (flipLine lo f.data, flipSectors lo (poisonSectors f.poison), d)

/-- MIRROR_REPAIR (R476): the mirror sectors return, from this device or in the answer of a peer. -/
def execMirrorRepair (sl : Fin 128) (line : Nat) (st : State) : Out :=
  onMem st fun d =>
    let k := st.clk
    let n : Nat := sl
    match (d.slice n).repairs.find? fun r => r.line == line with
    | none => d
    | some r =>
      if r.mline / 2 ^ 38 = d.id then
        let (data, bad, d) := d.mirrorRead k r
        d.repairDone k n r data bad
      else
        let asked := (d.slice n).outs.find? fun q => q.op == .readU && q.line == r.mline
        let answer := asked.bind fun q => (d.fab.net.find? fun p => (p.op == .readData || p.op == .errorResp) && p.dst == d.id && p.tgt == 512 + n
            && p.entry == q.entry && p.gen == q.gen).map fun p => (q, p)
        match answer with
        | none => d
        | some (q, p) =>
          let lo := d.mirrorLow r.req.mirror
          ((d.take p).updSlice n fun s => s.ownDone q).repairDone k n r (flipLine lo (lineOfWords p.data))
            (if p.op = .errorResp then 0xF#4 else flipSectors lo (poisonSectors (poisonMask p.poison)))

/-! ### Slices -/

/-- WCB_ENTRY_TIMEOUT (R213): an entry without a write for 1,024 F-cycles leaves the buffer. -/
def execWcbEntryTimeout (sl : Fin 128) (line : Nat) (st : State) : Out :=
  onMem st fun d =>
    match (d.slice sl).wcb.find? fun e => e.line == line with
    | none => d
    | some e =>
      if !d.stopped && fcyclesPassed st.clk e.last 1024 then
        (d.updSlice sl fun s => { s with wcb := s.wcb.erase e }).wcbFlush st.clk e
      else d

/-- TOKEN_BUCKET_RELEASE (R406): the oldest request of a berth that waits at a slice goes on, if the bucket now covers it. -/
def execTokenBucketRelease (sl : Fin 128) (berth : Fin 32) (st : State) : Out :=
  onMem st fun d =>
    match mget [] (d.slice sl).held berth with
    | [] => d
    | p :: rest =>
      let d1 := d.updSlice sl fun s => { s with held := mput s.held berth rest }
      let d2 := (d1.serveReq st.clk p).getD (d1.send p)
      if d.stopped || (mget [] (d2.slice sl).held berth).length ≠ rest.length then d else d2

/-! ### The patrol scrub -/

/-- Serve the requests that waited for a channel (R227), or for a stack that is now lost (R228). -/
def Dev.serveStalled (d : Dev) (k : Clock) (n : Nat) : Dev :=
  let ps := (d.slice n).stalled
  (d.updSlice n fun s => { s with stalled := [] }).serveAll k ps

/-- A stack is lost: no channel retrains, and its waiting requests are answered (R228). -/
def Dev.stackGone (d : Dev) (k : Clock) (s ch cause : Nat) : Dev :=
  let d := (d.loseStack k s ch cause).updStack s fun x => { x with retraining := 0 }
  (List.range 16).foldl (fun d c => d.serveStalled k (16 * s + c)) d

/-- Location that the scrub of a pseudo-channel reads next (R222). -/
def Stack.scrubAt (s : Stack) (ch b : Nat) : Nat := mget 0 s.scrubbed (2 * ch + b) % scrubEnd

/-- PATROL_SCRUB_READ (R222 to R224): the next burst of a pseudo-channel, read with the outcome `ecc` (0 right, 1 corrected,
2 uncorrectable). (DESIGN CHOICE, assumption 35.) -/
def execPatrolScrubRead (s : Fin 8) (ch : Fin 16) (pc : Fin 2) (ecc : Fin 3) (st : State) : Out :=
  onMem st fun d =>
    let k := st.clk
    let x := d.stack s
    if d.stopped || x.st != 2 || x.selfRefresh || x.retraining.getLsbD ch then d
    else
      let l : Loc := { stack := s, ch := ch, b := pc, p := 32 * x.scrubAt ch pc }
      let a := d.addrOf s ch pc l.p
      let sec := a / 32
      let d := d.updStack s fun x => { x with scrubbed := mput x.scrubbed (2 * ch + pc) (mget 0 x.scrubbed (2 * ch + pc) + 1) }
      if (mget SectorTag.reset d.mem.tags sec).poison then d.updStack s fun x => { x with poisonSeen := x.poisonSeen + 1 }
      else
        let (latent, d) := takeLatent 0 0 sec d
        let unc := latent == some true || ecc == 2
        if unc then
          let d := logErr k (hbmErr l 2 0x0A 0x02 255 a 0) (d.poisonSector sec)
          let d := d.countUnc k l
          if (d.stack s).uncLimit ch then d.stackGone k s ch 4 else d
        else if latent == some false || ecc == 1 then logErr k (hbmErr l 1 0x0A 0x01 255 a 1) d
        else d

/-! ### Retraining -/

/-- CHANNEL_RETRAIN (R227, R228): the controller retrains a channel; a third time within 60 minutes loses the stack. -/
def execChannelRetrain (s : Fin 8) (ch : Fin 16) (st : State) : Out :=
  onMem st fun d =>
    let k := st.clk
    let x := d.stack s
    if d.stopped || x.st != 2 || x.retraining.getLsbD ch then d
    else
      let recent := x.retrains.filter fun e => e.1 == ch.val && decide (k.tsc < e.2 + usec 3600000000)
      let d := d.updStack s fun x => { x with retrains := (x.retrains.filter fun e => e.1 != ch.val) ++ recent ++ [(ch.val, k.tsc)] }
      if 2 ≤ recent.length then d.stackGone k s ch 3
      else d.updStack s fun x => { x with retraining := x.retraining ||| (1#16 <<< ch.val) }

/-- CHANNEL_RETRAIN_DONE (R227, R228): waiting requests complete, or the stack is lost. -/
def execChannelRetrainDone (s : Fin 8) (ch : Fin 16) (good : Bool) (st : State) : Out :=
  onMem st fun d =>
    let k := st.clk
    if !(d.stack s).retraining.getLsbD ch then d
    else if good then
      (d.updStack s fun x => { x with retraining := x.retraining &&& ~~~(1#16 <<< ch.val) }).serveStalled k (16 * s.val + ch.val)
    else d.stackGone k s ch 2

/-! ### Walks -/

/-- A walk of a core returns to its group (R268, R270, R271). -/
def Dev.coreWalked (d : Dev) (k : Clock) (c s : Nat) (w : Walk) : Dev :=
  let x := w.ctx
  let va := w.va
  let r := d.walked w
  let d := d.updCore c fun co => ({ co with walks := co.walks.filter fun w => w.who != s }).setGroup s { co.group s with walkVa := none }
  match r with
  | .hit e => (d.quarterPut (coreQuarter c) x e).updCore c fun co => { co with xlat := xcPut co.xlat 64 x e }
  | .miss => d.updGroup c s fun g => { g with absent := va / 4096 :: g.absent }
  | .poison => d.startAbort k x 4 false

/-- A walk of a stream returns (R268, R270, R271, R282). -/
def Dev.streamWalked (d : Dev) (k : Clock) (n : Nat) (w : Walk) : Dev :=
  let s := d.stream n
  let va := w.va
  let r := d.walked w
  let d := (d.endStreamWalk n).updStream n fun s => { s with st := .running, walkVa := none, walkWrite := false, walkDesc := false }
  match r with
  | .hit e => (d.quarterPut (streamQuarter n) s.ctx e).updStream n fun y => { y with xlat := xcPut y.xlat 16 s.ctx e }
  | .miss => d.bargeFault k n 1 va 3 0 (if s.walkDesc then 0xFFFFFFFF else s.di) s.walkWrite
  | .poison => d.startAbort k s.ctx 4 false

/-- WALK_COMPLETE (R268, R271): a walker of core `agent` answers group `who`, or one of an engine (640 and up) stream `who`. A walk that
waits for a walker does not end. -/
def execWalkComplete (agent who : Nat) (st : State) : Out :=
  onMem st fun d =>
    if d.stopped then d
    else if agent < 512 then
      match (d.core agent).inWalk.find? fun w => w.who == who with
      | some w => d.coreWalked st.clk agent who w
      | none => d
    else if 640 ≤ agent ∧ agent < 704 ∧ who / 64 = agent - 640 then
      match (d.ctl.inWalk (streamQuarter who)).find? fun w => w.who == who with
      | some w => if (d.stream who).st = .translating then d.streamWalked st.clk who w else d
      | none => d
    else d

/-! ### HeldRetry at a core -/

/-- CORE_HELD_RETRY (R407): 256 F-cycles after a HeldRetry, the core sends the transaction again, in the same landing buffer. -/
def execCoreHeldRetry (c : Fin 512) (e : Nat) (st : State) : Out :=
  onDev st fun d =>
    match mget? (d.core c).mshrs e with
    | none => d
    | some m =>
      match m.retryAt with
      | none => d
      | some t =>
        if d.stopped || !fcyclesPassed st.clk t 256 then d
        else
          let req := { m.req with hasCopy := m.req.op == .getM && ((d.core c).l1Find m.line).isSome }
          (d.updMshr c e fun m => { m with retryAt := none, req := req }).send req

end Sys2Proof.Machine
end

