-- ==== Sys2Proof/Machine/Hosts.lean ====
section
/-! DEFINITION. Sessions of hosts and storage appliances (R333 to R356): operations and their packets, windows, reliable transfer, the
end of a session. -/

namespace Sys2Proof.Machine

/-! ### Register space (R507, R508) -/

/-- Bytes of a register window. -/
def regWindow : Nat := 0x8000000

/-- Whether an offset within register space lies inside a block's span. -/
def regPopulated (off : Nat) : Bool :=
  let x := off % regWindow
  decide (off < 2 ^ 32) &&
    (decide (x < 0xD000) || (decide (0x10000 ≤ x) && decide (x < 0x18000)) || (decide (0x20000 ≤ x) && decide (x < 0xC4000)) ||
      (decide (0xE0000 ≤ x) && decide (x < 0x400000)))

/-- Whether an offset is a QUE_DOORBELL register of some window (R344, R515). -/
def isDoorbell (off : Nat) : Bool :=
  let x := off % regWindow
  decide (off < 2 ^ 32) && decide (0xE0000 ≤ x) && decide (x < 0x100000) && (x - 0xE0000) % 0x20 == 0x14

/-! ### Landing buffers of the host bridge -/

/-- Landing buffers of the host bridge in use. -/
def Dev.bridgeUsed (d : Dev) : List Nat :=
  (d.whf.sessions.flatMap fun e => e.2.ops.flatMap fun o => o.parts.map HPart.entry) ++ d.whf.ghosts.map HPart.entry

/-- Landing buffers for a number of requests of the host bridge, if there are enough. -/
def Dev.bridgeFree (d : Dev) (k : Clock) (n : Nat) : Option (List Nat) :=
  let used := d.bridgeUsed ++ d.quarantined k 705
  let free := (List.range 1024).filter fun e => !used.contains e
  if free.length < n then none else some (free.take n)

/-- Take a landing buffer of the host bridge out of use: its generation increments (R307). -/
def Dev.bridgeEnd (d : Dev) (e : Nat) : Dev :=
  { d with whf := { d.whf with hgens := mput d.whf.hgens e ((mget 0 d.whf.hgens e + 1) % 16) } }

/-! ### Operations (R336, R344, R345) -/

/-- A RESP (R336, R344). -/
def Dev.respond (d : Dev) (k : Clock) (n : Nat) (o : OpHdr) (status : Nat) (data : List Byte) (poison : List Nat) : Dev :=
  d.hostSend k n true { HostPkt.reset with
    typ := 0x11, data := data, poison := poison
    op := { o with status := status, fence := false, bytes := data.length, pmap := if data.isEmpty then 0 else poisonMapLen data.length } }

/-- An operation whose form, fields or length break R336, R337, R344 or R512. -/
def badOp (n dmax : Nat) (p : HostPkt) : Bool :=
  let o := p.op
  let long := dmax < o.bytes || o.bytes % 4 != 0 || o.addr % 4 != 0
  let len := o.bytes < 4 || long
  let write := p.data.length != o.bytes
  !o.rsvdOk || (isStorage n && o.op != 8 && o.op != 9) ||
    (match o.op with
      | 1 => o.form != 0 || o.bytes != 4 && o.bytes != 8 || len
      | 2 => o.form != 0 || o.bytes != 4 && o.bytes != 8 || len || write
      | 3 => o.form != 2 && o.form != 3 || len
      | 4 => o.form != 2 && o.form != 3 || len || write
      | 5 => o.form != 0 || o.bytes != 4 || !isDoorbell o.addr || write
      | 8 => o.bytes == 0 || o.bytes % 4096 != 0 || decide (64 ≤ o.obj)
      | 9 => long
      | 0xA => long || decide (16 ≤ o.obj)
      | 0xB => long
      | _ => true)

/-- Whether a device lies in this device's reach (R257, R345). -/
def Dev.inReach (d : Dev) (x : Nat) : Bool :=
  let r := mget 0x80 d.fab.reach x
  decide (r < 0x80) && r == mget 0x80 d.fab.reach d.id

/-- Sessions of Storage ports. -/
def Dev.storageSessions (d : Dev) : List (Nat × Session) := d.whf.sessions.filter fun e => isStorage e.1 && (e.2.st == .active || e.2.st == .moored)

/-- Whether a window number is open for a session (R345, R347). -/
def Dev.windowOpen (d : Dev) (n w : Nat) : Bool :=
  if isStorage n then d.storageSessions.any fun e => mhas e.2.windows w else mhas (d.session n).windows w

/-- The wharf's own check of an operation (R345, R413, R510): a status with which it completes without being issued.
(DEDUCED, assumption 69.) -/
def Dev.hostCheck (d : Dev) (n : Nat) (p : HostPkt) : Option Nat :=
  let s := d.session n
  let o := p.op
  if badOp n (d.sessLimit n) p then some 3
  else if isStorage n = false ∧ (32 ≤ o.berth ∨ s.berths.getLsbD o.berth = false ∨ (o.op ≤ 5 ∧ (d.berth o.berth).st = .resetting)) then some 1
  else if isStorage n = false ∧ d.inReach o.device = false then some 2
  else if o.op = 8 then (if d.windowOpen n o.obj then some 7 else none)
  else if o.op = 9 then (if mhas s.windows o.obj && !mhas s.closing o.obj then none else some 8)
  else if o.op = 0xB ∧ s.subs.contains (o.device, o.berth, o.obj) = false then some 8
  else if o.form = 0 ∧ o.op ≤ 5 ∧ o.addr / regWindow ≠ o.berth then some 1
  else if o.form = 0 ∧ o.op ≤ 5 ∧ regPopulated o.addr = false then some 4
  else if o.op ≤ 5 ∧ d.reachable o.device = false then some 5
  else none

/-- The lines that an operation touches: line address, offset within the data, first byte within the line, bytes. -/
def hostSpans (addr bytes : Nat) : List (Nat × Nat × Nat × Nat) :=
  let first := addr / 128
  (List.range ((addr + bytes - 1) / 128 - first + 1)).map fun i =>
    let lo := if i = 0 then addr % 128 else 0
    let start := (first + i) * 128 + lo
    (first + i, start - addr, lo, min 128 (addr + bytes - (first + i) * 128) - lo)

/-- Number of requests that an operation makes. -/
def hostParts (o : OpHdr) : Nat := if o.form = 0 then 1 else (hostSpans o.addr o.bytes).length

/-- The words that a write carries for one line, and which of them are poisoned. -/
def hostWords (p : HostPkt) (off lo len : Nat) : List (BitVec 64) × List Nat :=
  let line := (List.range len).foldl (fun l i => lineSet l (lo + i) 1 (p.data.getD (off + i) 0).toNat) 0
  (lineWords line, (List.range 16).filter fun w => (List.range len).any fun i => (lo + i) / 8 == w && p.poison.contains ((off + i) / 8))

/-- The requests of an operation (R306, R344), each with its landing buffer. -/
def Dev.hostRequests (d : Dev) (n : Nat) (p : HostPkt) (es : List Nat) : List HPart :=
  let o := p.op
  let base : Packet := { Packet.reset with dst := o.device, src := d.id, agent := 705, berth := o.berth, who := n }
  let gen := fun (e : Nat) => mget 0 d.whf.hgens e
  if o.form = 0 then
    let e := es.headD 0
    [{ HPart.reset with entry := e, gen := gen e, len := o.bytes, req := { base with
        op := if o.op = 1 then .mgmtRead else .mgmtWrite, tgt := 708, entry := e, gen := gen e, off := o.addr, cnt := o.bytes
        data := if o.op = 1 then [] else [BitVec.ofNat 64 (natOf p.data)] } }]
  else
    ((hostSpans o.addr o.bytes).zip es).map fun x =>
      let (line, off, lo, len) := x.1
      let e := x.2
      let w := hostWords p off lo len
      { HPart.reset with entry := e, gen := gen e, off := off, lo := lo, len := len, req := { base with
          op := if o.op = 3 then .bulkRead else .bulkWrite, tgt := 512, entry := e, gen := gen e, line := 2 ^ 38 * o.device + line
          off := lo, cnt := len, aty := o.form, no := o.obj
          data := if o.op = 3 then [] else w.1, poison := if o.op = 3 then [] else w.2 } }

/-- Change a session's operation by its rseq. -/
def Dev.updHostOp (d : Dev) (n r : Nat) (f : HostOp → HostOp) : Dev :=
  d.updSession n fun s => { s with ops := s.ops.map fun o => if o.rseq = r then f o else o }

/-- An operation completes: its RESP is sent (R344). -/
def Dev.hostDone (d : Dev) (k : Clock) (n : Nat) (x : HostOp) (status : Nat) : Dev :=
  let o := x.pkt.op
  let read := o.op == 1 || o.op == 3
  let data := if read && (status == 0 || status == 6) then (List.range o.bytes).map fun i => mget 0 x.got i else []
  (d.updSession n fun s => { s with ops := s.ops.filter fun y => y.rseq != x.rseq }).respond k n o status data (if status = 6 then x.gotPoison else [])

/-- Tell another device of the reach whether this wharf subscribes to one of its rings (R349): a management write with `aop` 6, sent with the
first subscription of a session and with the end of the last. (DESIGN CHOICE, assumption 127.) -/
def Dev.tellSub (d : Dev) (x : Nat × Nat × Nat) (on : Bool) : Dev :=
  if x.1 = d.id ∨ (d.whf.sessions.any fun e => e.2.subs.contains x) = true then d
  else d.mgmtSend { Packet.reset with op := .mgmtWrite, dst := x.1, tgt := 708, agent := 704, aop := 6, berth := x.2.1, no := x.2.2, cnt := b2n on }

/-- A session's subscription to a ring begins. -/
def Dev.subscribe (d : Dev) (n : Nat) (x : Nat × Nat × Nat) : Dev :=
  (d.tellSub x true).updSession n fun s => { s with subs := if s.subs.contains x then s.subs else s.subs ++ [x] }

/-- A session's subscription ends. -/
def Dev.unsubscribe (d : Dev) (n : Nat) (x : Nat × Nat × Nat) : Dev :=
  (d.updSession n fun s => { s with subs := s.subs.filter fun y => y != x }).tellSub x false

/-- The effect of an operation that uses no fabric (R344): answers whether it is complete. -/
def Dev.hostLocal (d : Dev) (n : Nat) (o : OpHdr) : Bool × Dev :=
  match o.op with
  | 8 => (true, d.updSession n fun s => { s with windows := mput s.windows o.obj o.bytes })
  | 9 =>
    if (d.session n).winOut.any fun a => a.req.no == o.obj then (false, d.updSession n fun s => { s with closing := mput s.closing o.obj o })
    else (true, d.updSession n fun s => { s with windows := mdel s.windows o.obj })
  | 0xA => (true, d.subscribe n (o.device, o.berth, o.obj))
  | _ => (true, d.unsubscribe n (o.device, o.berth, o.obj))

/-- Issue a session's operations in rseq order, as far as fences, landing buffers and credits allow (R343, R344). -/
def Dev.hostPump (k : Clock) (n : Nat) : Nat → Dev → Dev
  | 0, d => d
  | fuel + 1, d =>
    let s := d.session n
    match s.ops.find? fun x => !x.issued with
    | none => d
    | some x =>
      let o := x.pkt.op
      if (o.fence || o.op == 5) && s.ops.any (fun y => y.issued) then d
      else
        match d.hostCheck n x.pkt with
        | some status => Dev.hostPump k n fuel (d.hostDone k n x status)
        | none =>
          if 6 ≤ o.op then
            let (done, d) := d.hostLocal n o
            Dev.hostPump k n fuel (if done then d.hostDone k n x 0 else d.updHostOp n x.rseq fun y => { y with issued := true })
          else
            match d.bridgeFree k (hostParts o) with
            | none => d
            | some es =>
              let ps := d.hostRequests n x.pkt es
              match (d.updHostOp n x.rseq fun y => { y with issued := true, parts := ps }).admitAll (ps.map HPart.req) with
              | none => d
              | some d => Dev.hostPump k n fuel d

/-- Issue what a session may now issue. -/
def Dev.hostGo (d : Dev) (k : Clock) (n : Nat) : Dev := Dev.hostPump k n ((d.session n).ops.length + 1) d

/-- Issue what every session may now issue. -/
def Dev.hostGoAll (d : Dev) (k : Clock) : Dev := (d.whf.sessions.filter fun e => !e.2.ops.isEmpty).foldl (fun d e => d.hostGo k e.1) d

/-- The operation whose landing buffer a response names. -/
def Dev.hostLanding (d : Dev) (p : Packet) : Option (Nat × HostOp × HPart) :=
  d.whf.sessions.findSome? fun e => e.2.ops.findSome? fun x =>
    (x.parts.find? fun h => h.entry == p.entry && h.gen == p.gen).map fun h => (e.1, x, h)

/-- Status of a response to an operation (R345). -/
def respStatus (p : Packet) : Nat :=
  match p.op with
  | .errorResp => if p.reason = 1 then 4 else if p.reason = 3 then 1 else 5
  | .mgmtResp => if p.err then (if p.reason = 2 then 5 else 1) else 0
  | .writeAck => if p.notPerf then 5 else 0
  | _ => 0

/-- A response reaches the host bridge (R344, R345): with the last one, the operation completes. A response that a session which has
ended awaited is discarded (R354). -/
def Dev.hostAnswer (d : Dev) (k : Clock) (p : Packet) : Dev :=
  match d.hostLanding p with
  | none =>
    match d.whf.ghosts.find? fun h => h.entry == p.entry && h.gen == p.gen with
    | some h => (({ d with whf := { d.whf with ghosts := d.whf.ghosts.erase h } }).bridgeEnd h.entry).hostGoAll k
    | none => d.stray
  | some (n, x, h) =>
    let d := d.bridgeEnd h.entry
    let byte := fun i => ((p.data.getD ((h.lo + i) / 8) 0).extractLsb' (8 * ((h.lo + i) % 8)) 8)
    let read := p.op == .readData || p.op == .mgmtResp && x.pkt.op.op == 1
    let x := { x with
      parts := x.parts.erase h
      got := if read then (List.range h.len).foldl (fun m i => mput m (h.off + i) (byte i)) x.got else x.got
      gotPoison := if read then (x.gotPoison ++ ((List.range h.len).filter fun i => p.poison.contains ((h.lo + i) / 8)).map fun i => (h.off + i) / 8).eraseDups
        else x.gotPoison
      status := if x.status = 0 then respStatus p else x.status }
    if x.parts.isEmpty then
      (d.hostDone k n x (if x.pkt.op.op = 3 ∧ d.reachable x.pkt.op.device = false then 5 else if x.status = 0 ∧ x.gotPoison ≠ [] then 6 else x.status)).hostGoAll k
    else d.updHostOp n x.rseq fun _ => x

/-- HeldRetry reaches the host bridge (R407): the request is sent again. -/
def Dev.hostHold (d : Dev) (p : Packet) : Dev :=
  match d.hostLanding p with
  | none =>
    match d.whf.ghosts.find? fun h => h.entry == p.entry && h.gen == p.gen with
    | some h => d.send h.req
    | none => d.stray
  | some (_, _, h) => d.send h.req

/-! ### Windows (R346 to R348) -/

/-- Split an access at the window offsets that are multiples of D. -/
def winSplit (dmax : Nat) : Nat → Nat → Nat → Nat → List (Nat × Nat)
  | 0, _, _, _ => []
  | fuel + 1, off, done, len =>
    if len ≤ done then []
    else
      let m := min (len - done) (dmax - (off + done) % dmax)
      (done, m) :: winSplit dmax fuel off (done + m) len

/-- The session whose window a stream's access names. -/
def Dev.windowSession (d : Dev) (p : Packet) : Option Nat :=
  let ok := fun (s : Session) => (s.st == .active || s.st == .moored) && !mhas s.closing p.no && decide (p.off + p.cnt ≤ mget 0 s.windows p.no)
  if p.aty = 1 then (if p.who < 256 ∧ ok (d.session p.who) = true then some p.who else none)
  else ((d.storageSessions.find? fun e => mhas e.2.windows p.no && ok e.2).map Prod.fst)

/-- A stream's access to a window reaches the device that carries it (R346): sent to the host or appliance in parts; a window that is not
open answers at once (R348). (DEDUCED, assumption 67.) (DEDUCED, assumption 174.) -/
def Dev.windowAccess (d : Dev) (k : Clock) (p : Packet) : Dev :=
  match d.windowSession p with
  | none => d.send { answerPkt d p .errorResp with reason := 256 }
  | some n =>
    if p.op = .bulkReduce then d.send { answerPkt d p .errorResp with reason := 3 }
    else
      let s := d.session n
      let parts := (winSplit (d.sessLimit n) 65 p.off 0 p.cnt).zipIdx.map fun x => (BitVec.ofNat 32 (s.tagNext + x.2), x.1)
      let d := d.updSession n fun s => { s with
        tagNext := s.tagNext + parts.length
        winOut := s.winOut ++ [{ WinAcc.reset with req := p, parts := parts, since := k.tsc }] }
      let byte := fun i => ((p.data.getD (i / 8) 0).extractLsb' (8 * (i % 8)) 8)
      parts.foldl (fun d x =>
        let (tag, off, len) := x
        let write := p.op == .bulkWrite
        d.hostSend k n true { HostPkt.reset with
          typ := 0x10
          op := { OpHdr.reset with op := if write then 0x11 else 0x10, obj := p.no, tag := tag, addr := p.off + off, bytes := len, pmap := if write then poisonMapLen len else 0 }
          data := if write then (List.range len).map fun i => byte (off + i) else []
          poison := if write then (((List.range len).filter fun i => p.poison.contains ((off + i) / 8)).map fun i => i / 8).eraseDups else [] }) d

/-- A window access has all its answers: the stream is answered (R346). -/
def Dev.windowAnswer (d : Dev) (a : WinAcc) : Dev :=
  let p := a.req
  if p.op = .bulkWrite then d.send { answerPkt d p .writeAck with notPerf := a.bad }
  else
    let words := (List.range ((p.cnt + 7) / 8)).map fun w => BitVec.ofNat 64 (natOf ((List.range 8).map fun i => mget 0 a.got (8 * w + i)))
    d.send { answerPkt d p .readData with data := words, poison := a.poison.eraseDups }

/-- WINDOW_CLOSEs whose window has no access out any more complete (R348). -/
def Dev.windowSettle (d : Dev) (k : Clock) (n : Nat) : Dev :=
  let s := d.session n
  let ready := s.ops.filter fun x => x.issued && x.pkt.op.op == 9 && !(s.winOut.any fun a => a.req.no == x.pkt.op.obj)
  if ready.isEmpty then d
  else
    (ready.foldl (fun d x =>
      (d.updSession n fun s => { s with windows := mdel s.windows x.pkt.op.obj, closing := mdel s.closing x.pkt.op.obj }).hostDone k n x 0) d).hostGo k n

/-- A RESP to a WIN_READ or WIN_WRITE (R346). A part answered with another status counts as poisoned data, or as not written.
(DEDUCED, assumption 68.) -/
def Dev.windowResp (d : Dev) (k : Clock) (n : Nat) (p : HostPkt) : Dev :=
  match (d.session n).winOut.find? fun a => a.parts.any fun x => x.1 == p.op.tag with
  | none => d
  | some a =>
    match a.parts.find? fun x => x.1 == p.op.tag with
    | none => d
    | some x =>
      let off := x.2.1
      let len := x.2.2
      let ok := p.op.status == 0 || p.op.status == 6 && a.req.op == .bulkRead
      let a' := { a with
        parts := a.parts.erase x
        got := if ok && a.req.op == .bulkRead then (List.range len).foldl (fun m i => mput m (off + i) (p.data.getD i 0)) a.got else a.got
        poison := if a.req.op ≠ .bulkRead then []
          else (a.poison ++ ((List.range len).filter fun i => !ok || p.poison.contains (i / 8)).map fun i => (off + i) / 8).eraseDups
        bad := a.bad || !ok }
      if a'.parts.isEmpty then
        ((d.updSession n fun s => { s with winOut := s.winOut.erase a }).windowAnswer a').windowSettle k n
      else d.updSession n fun s => { s with winOut := s.winOut.map fun y => if y = a then a' else y }

/-! ### The end of a session (R348, R354, R412) -/

/-- Active host sessions that are bound to a berth. -/
def Dev.boundSessions (d : Dev) (b : Nat) : Nat :=
  (d.whf.sessions.filter fun e => !isStorage e.1 && (e.2.st == .active || e.2.st == .moored) && e.2.berths.getLsbD b).length

/-- End a session (R354): its windows close (R348), what it staged and held is discarded, operations in the fabric complete without a
result, and a berth that has no session left starts its grace time (R412). -/
def Dev.endSession (d : Dev) (k : Clock) (n reason : Nat) : Dev :=
  let s := d.session n
  let was := s.st == .active || s.st == .moored
  let d := s.winOut.foldl (fun d a =>
    let p := a.req
    if p.op = .bulkWrite then d.send { answerPkt d p .errorResp with reason := 256 }
    else d.send { answerPkt d p .readData with
      data := (List.range ((p.cnt + 7) / 8)).map fun _ => 0, poison := List.range ((p.cnt + 7) / 8), reason := 256 }) d
  let out := s.ops.flatMap fun x => x.parts
  let d := { d with whf := { d.whf with ghosts := d.whf.ghosts ++ out } }
  let d := s.subs.foldl (fun d x => d.unsubscribe n x) d
  let d := d.updSession n fun _ => { Session.reset with endAt := some k.tsc, lastEnd := if was then reason else s.lastEnd }
  if was && !isStorage n then
    (List.range 32).foldl (fun d b =>
      if s.berths.getLsbD b = true ∧ (d.berth b).st ≠ .absent ∧ d.boundSessions b = 0 then d.updBerth b fun x => { x with graceSince := some k.tsc } else d) d
  else d

/-- Sessions that have spent their keys end (R339). -/
def Dev.endSpent (d : Dev) (k : Clock) : Dev :=
  (d.whf.sessions.filter fun e => e.2.spent).foldl (fun d e => d.endSession k e.1 4) d

/-! ### Reliable transfer (R342) -/

/-- Distance of a sequence number from another, modulo 2^32. -/
def seqAfter (a b : Nat) : Nat := (a + 2 ^ 32 - b) % 2 ^ 32

/-- Send a reliable packet again, with a new seq. (DESIGN CHOICE, assumption 137.) -/
def Dev.resendPkt (d : Dev) (k : Clock) (n : Nat) (u : Unacked) : Dev :=
  (d.updSession n fun s => { s with unacked := s.unacked.map fun x => if x.rseq = u.rseq then { x with sentAt := k.tsc } else x }).hostOut n u.pkt

/-- Packets that waited for the send window go out as it opens, oldest first (R342). -/
def Dev.pumpWaitq (d : Dev) (k : Clock) (n : Nat) : Dev :=
  (d.session n).waitq.foldl (fun d p =>
    if (d.session n).windowFull then d
    else
      let rest := (d.session n).waitq.drop 1
      let d := (d.updSession n fun s => { s with waitq := [] }).hostSend k n true p
      d.updSession n fun s => { s with waitq := rest }) d

/-- Take in an acknowledgement: `ack`, and the rseqs received beyond it. Packets acknowledged leave; one with three later packets
received is sent again; waiting packets take the room; gaps are filled (R352). (PRESUMED, assumption 65.) -/
def Dev.takeAck (d : Dev) (k : Clock) (n ack : Nat) (got : List Nat) : Dev :=
  let s := d.session n
  let acked := fun (r : Nat) => decide (2 ^ 31 ≤ seqAfter r ack) || got.contains r
  let sample := (s.unacked.filter fun u => acked u.rseq).getLast?.map fun u => k.tsc - u.sentAt
  let left := s.unacked.filter fun u => !acked u.rseq
  let d := d.updSession n fun s => { s with unacked := left, srtt := match sample with
    | some x => if s.srtt = 0 then x else (7 * s.srtt + x) / 8
    | none => s.srtt }
  let again := left.filter fun u => decide (3 ≤ (got.filter fun r => decide (seqAfter r u.rseq < 2 ^ 31)).length)
  let d := again.foldl (fun d u => d.resendPkt k n u) d
  (d.pumpWaitq k n).fillGaps k n

/-- Count a packet discarded under R334 or R342. -/
def Dev.discardAuth (d : Dev) : Dev := { d with whf := { d.whf with auth := satAdd 65535 d.whf.auth 1 } }
/-- Count a frame discarded under R333. -/
def Dev.discardFrame (d : Dev) : Dev := { d with whf := { d.whf with frames := satAdd 65535 d.whf.frames 1 } }

/-- Acknowledge what was accepted (R342): an ACK packet. (DESIGN CHOICE, assumption 66.) -/
def Dev.sendAck (d : Dev) (n : Nat) : Dev :=
  let s := d.session n
  d.hostOut n { HostPkt.reset with typ := 0x13, ack := s.rxRseq, bitmap := s.staged.foldl (fun (m : BitVec 4096) o => m ||| (1#4096 <<< seqAfter o.rseq s.rxRseq)) 0 }

/-- A session becomes Active (R339, R412). -/
def Dev.bindSession (d : Dev) (k : Clock) (n : Nat) : Dev :=
  let d := d.updSession n fun s => { s with st := .active, beatAt := k.tsc, hbAt := k.tsc, beat := false, missed := 0 }
  (List.range 32).foldl (fun d b =>
    if (d.session n).berths.getLsbD b ∧ (d.berth b).st ≠ .absent then d.updBerth b fun x => { x with graceSince := none, headless := false } else d) d

/-- Process a reliable packet in its turn (R342, R344, R354). -/
def Dev.hostProcess (d : Dev) (k : Clock) (n : Nat) (p : HostPkt) : Dev :=
  match p.typ with
  | 0x05 => if (d.session n).st = .joining then (if p.sigOk then d.bindSession k n else d.updSession n fun s => { Session.reset with endAt := some k.tsc, lastEnd := s.lastEnd }) else d
  | 0x10 => (d.updSession n fun s => { s with ops := s.ops ++ [{ HostOp.reset with rseq := p.rseq, pkt := p }] }).hostGo k n
  | 0x11 => d.windowResp k n p
  | 0x15 => (d.sendAck n).endSession k n 1
  | 0x16 => if isStorage n then d.updSession n fun s => { s with st := .moored, mooredAt := k.tsc } else d
  | 0x17 =>
    if isStorage n ∧ (d.session n).st = .moored then
      (d.updSession n fun s => { s with st := .active, beat := false, missed := 0, beatAt := k.tsc, hbAt := k.tsc }).pumpWaitq k n
    else d
  | _ => d

/-- Deliver a session's packets in rseq order (R342). -/
def Dev.hostDeliver (k : Clock) (n : Nat) : Nat → Dev → HostPkt → Dev
  | 0, d, _ => d
  | fuel + 1, d, p =>
    let d := d.updSession n fun s => { s with rxRseq := (s.rxRseq + 1) % 2 ^ 32, staged := s.staged.filter fun o => o.rseq != p.rseq }
    let d := d.hostProcess k n p
    match (d.session n).st, (d.session n).staged.find? fun o => o.rseq == (d.session n).rxRseq with
    | .free, _ => d
    | _, some q => Dev.hostDeliver k n fuel d q
    | _, none => d

/-- Intervals of 100 ms without a HEARTBEAT that are over by now, and where the present one began (R353). -/
def Session.missedBy (s : Session) (k : Clock) : Nat × Nat :=
  let gone := (k.tsc - s.beatAt) / msec 100
  (if gone = 0 then s.missed else if s.beat then gone - 1 else s.missed + gone, s.beatAt + gone * msec 100)

/-- A HEARTBEAT arrives (R353): it counts for the interval in which it comes; after ten intervals without one the session has ended. -/
def Dev.heartbeat (d : Dev) (k : Clock) (n : Nat) : Dev :=
  let s := d.session n
  let m := s.missedBy k
  if s.st ≠ .active then d
  else if 10 ≤ m.1 then d.endSession k n 2
  else d.updSession n fun s => { s with beat := true, missed := 0, beatAt := m.2 }

/-- A packet of a session arrives (R334, R342). -/
def Dev.hostAccept (d : Dev) (k : Clock) (n : Nat) (p : HostPkt) : Dev :=
  let s := d.session n
  if s.st = .free ∨ (s.st = .moored ∧ isStorage n = false) ∨ s.port ≠ p.port ∨ s.addr ≠ p.addr ∨ s.sport ≠ p.sport ∨ p.tagOk = false
      ∨ s.rxSeen.contains p.seq = true ∨ (p.seq + 8192 ≤ s.rxHigh) then d.discardAuth
  else
    let high := max s.rxHigh p.seq
    let d := d.updSession n fun s => { s with rxHigh := high, rxSeen := (p.seq :: s.rxSeen).filter fun x => decide (high < x + 8192) }
    let got := if p.typ = 0x13 then (List.range 4096).filterMap fun i => if p.bitmap.getLsbD i then some ((p.ack + i) % 2 ^ 32) else none
      else (List.range 64).filterMap fun i => if p.sack.getLsbD i then some ((p.ack + 1 + i) % 2 ^ 32) else none
    let d := if p.ackValid || p.typ == 0x13 then d.takeAck k n p.ack got else d
    if p.typ = 0x14 then d.heartbeat k n
    else if !p.reliable then d
    else
      let dist := seqAfter p.rseq s.rxRseq
      if 4096 ≤ dist then d
      else if s.st = .joining ∧ p.typ ≠ 0x05 ∧ dist = 0 then d
      else if s.staged.any (fun o => o.rseq == p.rseq) then d
      else if dist = 0 then
        let d := Dev.hostDeliver k n (s.staged.length + 1) d p
        if (d.session n).st = .free then d else d.sendAck n
      else (d.updSession n fun s => { s with staged := s.staged ++ [p] }).sendAck n

/-! ### Joining (R339 to R341, R347, R435) -/

/-- Whether a port takes packets of Olvis-E (R333, R425): a Storage port, or a Host port of a wharf that has opened them. -/
def Dev.netOpen (d : Dev) (p : Nat) : Bool :=
  let up := (mget NetPort.reset d.whf.netPorts p).up && !d.stopped && (d.pwr.st != .moored)
  match (d.port p).role with
  | .host => up && d.whf.isWharf && d.whf.opened
  | .storage => up
  | _ => false

/-- Send a packet that is not encrypted. -/
def Dev.plainOut (d : Dev) (p : HostPkt) : Dev := { d with whf := { d.whf with out := d.whf.out ++ [p] } }

/-- Sessions that are not Free. -/
def Dev.sessionsUsed (d : Dev) : Nat := (d.whf.sessions.filter fun e => !isStorage e.1 && e.2.st != .free).length

/-- A JOIN arrives at the wharf (R339 to R341): it is accepted into the lowest slot that may be given out, or rejected. In
Maintenance no session is accepted that berth 0 does not grant (R435). (DEDUCED, assumption 73.) -/
def Dev.hostJoin (d : Dev) (k : Clock) (p : HostPkt) : Dev :=
  let grant := (d.whf.grants.find? fun g => g.1 == p.key).map Prod.snd
  let mask := p.mask &&& grant.getD 0
  let slot := (List.range 256).find? fun n =>
    (d.session n).st == .free && ((d.session n).endAt.elim true fun t => passed k t (msec 10000))
  let reject := fun (r : Nat) => ({ d with fresh := d.fresh + 1 }).plainOut { HostPkt.reset with
    typ := 0x04, reason := r, sig := Config.signature d.fresh, port := p.port, addr := p.addr, sport := p.sport }
  if !p.formOk then reject 4
  else if grant = none then reject 1
  else if mask = 0 ∨ (d.lkp.st = .maintenance ∧ mask.getLsbD 0 = false) then reject 2
  else
    match (if d.sessionsUsed < min 256 d.whf.limit then slot else none) with
    | none => reject 3
    | some n =>
      let priv := Config.entropy (d.fresh + 1)
      let accept := { HostPkt.reset with
        typ := 0x03, session := n, mask := mask, nonce := Config.entropy d.fresh, xkey := Config.x25519 priv 9
        port := p.port, addr := p.addr, sport := p.sport }
      let d := d.updSession n fun s => ({ Session.reset with
        st := .joining, port := p.port, berths := mask, peerKey := p.key, addr := p.addr, sport := p.sport, nonce := p.nonce
        xpriv := priv, xpub := accept.xkey, peerX := p.xkey, joinAt := k.tsc, lastEnd := s.lastEnd } : Session).deriveKeys true (joinTranscript p accept)
      ({ d with fresh := d.fresh + 2 }).plainOut { accept with sig := Config.signature d.fresh }

/-- A JOIN_ACCEPT arrives from a storage appliance (R339, R347): JOIN_CONFIRM answers it. -/
def Dev.storageAccept (d : Dev) (k : Clock) (p : HostPkt) : Dev :=
  let n := 256 + p.port
  if (d.session n).st ≠ SessSt.joining ∨ p.sigOk = false ∨ p.key ≠ (mget NetPort.reset d.whf.netPorts p.port).appl then d
  else
    let d := d.updSession n fun s => ({ s with
      addr := p.addr, sport := p.sport, peerKey := p.key, peerX := p.xkey, rxRseq := 0 } : Session).deriveKeys false (joinTranscript s.joined p)
    (({ d with fresh := d.fresh + 1 }).bindSession k n).hostSend k n true { HostPkt.reset with typ := 0x05, sigOk := true, sig := Config.signature d.fresh }

/-- A packet of Olvis-E arrives at a port (R334, R335). -/
def Dev.hostReceive (d : Dev) (k : Clock) (p : HostPkt) : Dev :=
  if !d.netOpen p.port then d
  else
    let d := match (d.port p.port).role with
      | .host =>
        if p.typ = 0x02 then d.hostJoin k p
        else if p.typ = 0x05 ∨ 0x10 ≤ p.typ then (if p.session < 256 then d.hostAccept k p.session p else d.discardAuth)
        else d
      | _ =>
        match p.typ with
        | 0x03 => d.storageAccept k p
        | 0x04 => if (d.session (256 + p.port)).st = SessSt.joining then d.updSession (256 + p.port) fun _ => Session.reset else d
        | _ => if 0x10 ≤ p.typ then d.hostAccept k (256 + p.port) p else d
    d.endSpent k

/-- A row that brings a packet of one type, and for an OP of one operation. -/
def hostIns (ok : HostPkt → Bool) (p : HostPkt) (st : State) : Out :=
  onMem st fun d => if ok p then d.hostReceive st.clk p else d

end Sys2Proof.Machine
end

