-- ==== Sys2Proof/Machine/HostRows.lean ====
section
/-! DEFINITION. The rows of hosts and Ethernet ports (R333 to R356, R412). -/

namespace Sys2Proof.Machine

/-- An OP packet of an operation. -/
def isOp (o : Nat) (p : HostPkt) : Bool := p.typ == 0x10 && p.op.op == o

/-- JOIN (R339 to R341). -/
def execJoin (p : HostPkt) (st : State) : Out := hostIns (fun p => p.typ == 0x02) p st
/-- JOIN_ACCEPT (R339, R347): at a Storage port. -/
def execJoinAccept (p : HostPkt) (st : State) : Out := hostIns (fun p => p.typ == 0x03) p st
/-- JOIN_REJECT (R340, R347): at a Storage port. -/
def execJoinReject (p : HostPkt) (st : State) : Out := hostIns (fun p => p.typ == 0x04) p st
/-- JOIN_CONFIRM (R339). -/
def execJoinConfirm (p : HostPkt) (st : State) : Out := hostIns (fun p => p.typ == 0x05) p st
/-- REG_READ (R344, R512). -/
def execRegRead (p : HostPkt) (st : State) : Out := hostIns (isOp 1) p st
/-- REG_WRITE (R344, R512). -/
def execRegWrite (p : HostPkt) (st : State) : Out := hostIns (isOp 2) p st
/-- MEM_READ (R344). -/
def execMemRead (p : HostPkt) (st : State) : Out := hostIns (isOp 3) p st
/-- MEM_WRITE (R344). -/
def execMemWrite (p : HostPkt) (st : State) : Out := hostIns (isOp 4) p st
/-- DOORBELL (R344). -/
def execDoorbell (p : HostPkt) (st : State) : Out := hostIns (isOp 5) p st
/-- WINDOW_OPEN (R344, R347). -/
def execWindowOpen (p : HostPkt) (st : State) : Out := hostIns (isOp 8) p st
/-- WINDOW_CLOSE (R344, R348). -/
def execWindowClose (p : HostPkt) (st : State) : Out := hostIns (isOp 9) p st
/-- SUBSCRIBE (R349). -/
def execSubscribe (p : HostPkt) (st : State) : Out := hostIns (isOp 0xA) p st
/-- UNSUBSCRIBE (R344, R349). -/
def execUnsubscribe (p : HostPkt) (st : State) : Out := hostIns (isOp 0xB) p st
/-- RESP (R346): the answer to a WIN_READ or a WIN_WRITE. -/
def execResp (p : HostPkt) (st : State) : Out := hostIns (fun p => p.typ == 0x11) p st
/-- ACK (R335, R342). -/
def execAck (p : HostPkt) (st : State) : Out := hostIns (fun p => p.typ == 0x13) p st
/-- HEARTBEAT (R353). -/
def execHeartbeat (p : HostPkt) (st : State) : Out := hostIns (fun p => p.typ == 0x14) p st
/-- LEAVE (R354). -/
def execLeave (p : HostPkt) (st : State) : Out := hostIns (fun p => p.typ == 0x15) p st

/-- A frame that the port itself answers (R333): listed among what was sent under type 256 for ARP, 257 for Neighbor Discovery and 258
for echo, which no Olvis-E packet has, with the port's MAC address and the asker's address. -/
def frameReply : FrameKind → Option Nat
  | .arp => some 256
  | .nd => some 257
  | .echo => some 258
  | _ => none

/-- ETHERNET_FRAME (R333, R334): a frame is ignored, discarded and counted, answered, or handed on as an Olvis-E packet. -/
def execEthernetFrame (port : Fin 18) (f : Frame) (st : State) : Out :=
  onMem st fun d =>
    let x := mget NetPort.reset d.whf.netPorts port
    let role := (d.port port).role
    if !(role == .host || role == .storage) || !x.up || d.stopped || d.pwr.st == .moored then d
    else if f.kind = .pause then d
    else if x.frame < f.len ∨ f.vlan ≠ x.vlan ∨ f.mine = false ∨ f.fragment = true ∨ f.cksumOk = false then d.discardFrame
    else
      match frameReply f.kind, f.kind, f.pkt with
      | some t, _, _ => d.plainOut { HostPkt.reset with typ := t, port := port, mac := x.mac, addr := f.src }
      | none, .udp, some p => if f.udp = x.udp then d.hostReceive st.clk { p with port := port } else d.discardFrame
      | _, _, _ => d.discardFrame

/-- ANNOUNCE (R338): once every second from each Host port of the wharf, to the port's multicast group. -/
def execAnnounce (port : Fin 18) (st : State) : Out :=
  onDev st fun d =>
    let x := mget NetPort.reset d.whf.netPorts port
    if (d.port port).role ≠ .host ∨ d.netOpen port = false ∨ passed st.clk x.annAt (msec 1000) = false then d
    else
      let d := { d with whf := { d.whf with netPorts := mput d.whf.netPorts port { x with annAt := st.clk.tsc } } }
      ({ d with fresh := d.fresh + 1 }).plainOut { HostPkt.reset with
        typ := 0x01, port := port, addr := x.mcast, dev := d.id, reach := mget 0x80 d.fab.reach d.id, boots := d.lkp.boots, ip6 := x.ip6, ip4 := x.ip4
        udp := x.udp, limit := packetLimit x.frame, free := min 256 d.whf.limit - d.sessionsUsed, cert := st.perm.fuses.cert
        sig := Config.signature d.fresh }

/-- JOIN_CONFIRM_TIMEOUT (R340): 1 s after JOIN_ACCEPT the slot is freed. -/
def execJoinConfirmTimeout (n : Fin 256) (st : State) : Out :=
  onDev st fun d =>
    let s := d.session n
    if s.st = .joining ∧ d.stopped = false ∧ passed st.clk s.joinAt (msec 1000) = true then
      d.updSession n fun s => { Session.reset with endAt := some st.clk.tsc, lastEnd := s.lastEnd }
    else d

/-- RETRANSMIT_TIMEOUT (R342): 4 times the smoothed round trip, within 50 µs and 20 ms, has passed. -/
def execRetransmitTimeout (n : Fin 512) (rseq : BitVec 32) (st : State) : Out :=
  onMem st fun d =>
    let s := d.session n
    match s.unacked.find? fun u => u.rseq == rseq.toNat with
    | none => d
    | some u =>
      if (s.st = .active ∨ s.st = .joining) ∧ passed st.clk u.sentAt (max (usec 50) (min (msec 20) (4 * s.srtt))) = true ∧ d.stopped = false
      then (d.resendPkt st.clk n u).endSpent st.clk
      else d

/-- HEARTBEAT_SEND (R353): every 100 ms. -/
def execHeartbeatSend (n : Fin 512) (st : State) : Out :=
  onMem st fun d =>
    let s := d.session n
    if s.st = .active ∧ d.stopped = false ∧ passed st.clk s.hbAt (msec 100) = true then
      (((d.updSession n fun s => { s with hbAt := st.clk.tsc }).hostOut n { HostPkt.reset with typ := 0x14 }).endSpent st.clk)
    else d

/-- HEARTBEAT_TIMEOUT (R353): 100 ms intervals are over; after ten in a row without a HEARTBEAT the session ends. -/
def execHeartbeatTimeout (n : Fin 512) (st : State) : Out :=
  onMem st fun d =>
    let s := d.session n
    let m := s.missedBy st.clk
    if s.st ≠ .active ∨ m.2 = s.beatAt ∨ d.stopped = true then d
    else if 10 ≤ m.1 then d.endSession st.clk n 2
    else d.updSession n fun s => { s with beat := false, missed := m.1, beatAt := m.2 }

/-- WINDOW_ACCESS_TIMEOUT (R348): a window access without a RESP for 1 s ends the session. -/
def execWindowAccessTimeout (n : Fin 512) (tag : BitVec 32) (st : State) : Out :=
  onMem st fun d =>
    if !d.stopped && (d.session n).st == .active && (d.session n).winOut.any fun a => (a.parts.any fun x => x.1 == tag) && passed st.clk a.since (msec 1000) then d.endSession st.clk n 3 else d

/-- EVENT_COALESCE_TIMEOUT (R351): the oldest record held for a session and berth has waited the berth's coalescing time. -/
def execEventCoalesceTimeout (n : Fin 256) (berth : Fin 32) (st : State) : Out :=
  onMem st fun d =>
    match (d.session n).held.find? fun h => h.berth == berth.val with
    | none => d
    | some h =>
      if (d.session n).st = .active ∧ d.stopped = false ∧ passed st.clk h.heldAt (usec (d.berth berth).coalesce) = true then ((d.sendEvent st.clk n berth).fillGaps st.clk n).endSpent st.clk else d

/-- A departure write (R412): every Live context of the berth is aborted; ignored while the berth is Resetting. -/
def Dev.departure (d : Dev) (k : Clock) (b : Nat) : Dev :=
  if (d.berth b).st ≠ .live then d
  else
    let xs := d.ctl.ctxs.filterMap fun e => if e.2.st = .live ∧ e.2.berth = b then some e.1 else none
    xs.foldl (fun d x => d.startAbort k x 5 false) d

/-- Every device of this device's reach but itself (R257). -/
def Dev.reachDevices (d : Dev) : List Nat := d.fab.reach.filterMap fun e => if e.1 ≠ d.id ∧ d.inReach e.1 = true then some e.1 else none

/-- GRACE_TIME_EXPIRY (R412): the berth's departure policy decides. A departure write is a management write with `aop` 1. -/
def execGraceTimeExpiry (berth : Fin 32) (st : State) : Out :=
  onMem st fun d =>
    let x := d.berth berth
    match x.graceSince with
    | none => d
    | some t =>
      if d.stopped || !passed st.clk t (msec (10 * x.grace)) || d.boundSessions berth != 0 then d
      else
        let d := d.updBerth berth fun x => { x with graceSince := none }
        if x.headlessPol then d.updBerth berth fun x => { x with headless := true }
        else
          let d := d.reachDevices.foldl (fun d v => d.mgmtSend { Packet.reset with
            op := .mgmtWrite, dst := v, tgt := 708, agent := 704, aop := 1, no := berth.val }) d
          d.departure st.clk berth

/-- NET_PORT_DOWN (R354): the Ethernet link of a port goes down, and its sessions end. -/
def execNetPortDown (port : Fin 18) (st : State) : Out :=
  onMem st fun d =>
    let x := mget NetPort.reset d.whf.netPorts port
    if !x.up then d
    else
      let d := { d with whf := { d.whf with netPorts := mput d.whf.netPorts port { x with up := false } } }
      (d.whf.sessions.filter fun e => e.2.st != .free && e.2.port == port.val).foldl (fun d e => d.endSession st.clk e.1 5) d

end Sys2Proof.Machine
end

