-- ==== Sys2Proof/Machine/Contexts.lean ====
section
/-! DEFINITION. Range tables as MAP and UNMAP change them (R264 to R266, R269, R290 to R293), the completion of aborts (R385, R386), and
the reset of a berth (R413 to R416, R481). -/

namespace Sys2Proof.Machine

/-! ### Building tables (R259, R267, R269) -/

/-- A range entry with one field replaced. -/
def reSet (e : BitVec 256) (lo len v : Nat) : BitVec 256 := BitVec.ofNat 256 (setBits e.toNat lo len v)

/-- The part of an entry over pages `lo` to `hi - 1` (R258): an Absent entry has no target to move. -/
def rePiece (e : BitVec 256) (lo hi : Nat) : BitVec 256 :=
  let e' := reSet (reSet e 0 44 lo) 64 35 (hi - lo - 1)
  if reRes e = 3 then e' else reSet e' 140 45 (reTarget e + (lo - reStart e))

/-- End page of an entry. -/
def reEnd (e : BitVec 256) : Nat := reStart e + rePages e

/-- Whether an entry overlaps pages `a` to `b - 1`. -/
def reOverlaps (e : BitVec 256) (a b : Nat) : Bool := decide (reStart e < b) && decide (a < reEnd e)

/-- The parts of an entry outside pages `a` to `b - 1`. -/
def reOutside (e : BitVec 256) (a b : Nat) : List (BitVec 256) :=
  (if reStart e < a then [rePiece e (reStart e) a] else []) ++ (if b < reEnd e then [rePiece e b (reEnd e)] else [])

/-- Put an entry into a table in its place by start page. -/
def reInsert (e : BitVec 256) : List (BitVec 256) → List (BitVec 256)
  | [] => [e]
  | h :: t => if reStart e < reStart h then e :: h :: t else h :: reInsert e t

/-- Write a whole table into the inactive image, and make that image active (R269): walks in progress go on upon the old one. -/
def Dev.rebuild (d : Dev) (k : Clock) (x : Nat) (es : List (BitVec 256)) : Dev :=
  let cx := d.ctx x
  let image := 1 - cx.image
  let d := d.poke k cx.berth (tableSlot cx image 0) (es.flatMap fun e => bytesOf 32 e.toNat)
  (d.ageWalks x).updCtx x fun c => { c with image := image, count := es.length }

/-! ### The checks of MAP (R264) -/

/-- Whether every grant page of a span of own HBM, each at the page number XOR `flip`, lies in memory that a test of its owner allows
(R262, R396). -/
def Dev.pagesOk (d : Dev) (a len flip : Nat) (ok : Nat → Bool) : Bool :=
  let lo := a / 65536
  let hi := (a + len + 65535) / 65536
  let listed := d.mem.owner.filter fun e => decide (lo ≤ e.1 ^^^ flip) && decide (e.1 ^^^ flip < hi)
  if ok 0 then listed.all fun e => ok (e.2 % 32) else (listed.filter fun e => ok (e.2 % 32)).length == hi - lo

/-- Whether a span of own HBM, each 4 KiB page at its number XOR `flip`, meets the table area of a context (R267). -/
def Dev.meetsTable (d : Dev) (a len flip : Nat) : Bool :=
  d.ctl.ctxs.any fun c => c.2.st != .free && (List.range (64 * 2 ^ c.2.cap / 4096 + 2)).any fun i =>
    let p := c.2.area / 4096 + i
    decide (4096 * p < c.2.area + 64 * 2 ^ c.2.cap) && decide (a / 4096 ≤ p ^^^ flip) && decide (4096 * (p ^^^ flip) < a + len)

/-- Items 3 and 8 of R264: the mirror of a Mirrored range, or an index where there is none. An entry without a target (Absent) has no
mirror location. -/
def Dev.mirrorBad (d : Dev) (berth : Nat) (e : BitVec 256) (ga len : Nat) : Bool :=
  if reType e ≠ 3 then reMirror e != 0
  else
    match (if reMirror e = 0 then none else mget? d.ctl.mirrors (reMirror e)) with
    | none => true
    | some m =>
      let m := m.toNat % 2 ^ 57
      let xor := (bitsAt m 9 3) ^^^ (bitsAt m 17 3) ^^^ (bitsAt m 25 3) ^^^ (bitsAt m 33 3)
      let dev := gaDev ga ^^^ (m / 2 ^ 45)
      let a := gaLocal ga
      let top := if dev = d.id then d.normalEnd else hbmSize
      let low := m % 2 ^ 45
      (m / 2 ^ 45 == 0 && xor == 0) || (reRes e != 3 && (
        (dev == d.id && (!d.pagesOk a len (low / 65536) (fun o => o == berth) || d.meetsTable a len (low / 4096))) ||
        (List.range ((a + len - 1) / 2 ^ 33 - a / 2 ^ 33 + 1)).any fun i => decide (top ≤ 2 ^ 33 * ((a / 2 ^ 33 + i) ^^^ (m % 2 ^ 45 / 2 ^ 33)))))

/-- Items 2 to 5 of R264 for a device target. The grant is the set of pages whose owner entry names the berth (R396).
(DEDUCED, assumption 60.) (DEDUCED, assumption 61.) -/
def Dev.deviceTargetBad (d : Dev) (berth : Nat) (e : BitVec 256) (len : Nat) : Bool :=
  let ga := 4096 * reTarget e
  let a := gaLocal ga
  let lm := decide (lmWindow ≤ a) && decide (a + len ≤ lmWindowEnd)
  let hbm := decide (a + len ≤ hbmSize)
  let narrowOk := (d.narrowWindowOf a).isSome && d.narrowWindowOf a == d.narrowWindowOf (a + len - 1)
  let table := d.meetsTable a len 0
  if lm then reType e != 1 || rePerm e / 4 != 0
  else if !hbm then true
  else gaDev ga == d.id &&
    (table || !d.pagesOk a len 0 (fun o => o == berth) || (if reType e = 2 then !narrowOk else decide (d.normalEnd < a + len)))

/-- Whether a window of another device's host or storage ports is open is not this device's to know: a free value.
(DESIGN CHOICE, assumption 151.) -/
def Dev.farWindowOpen (d : Dev) : Bool := Config.farWindow d.fresh

/-- Whether MAP completes with INVALID_ENTRY (R264). -/
def Dev.mapInvalid (d : Dev) (berth : Nat) (e : BitVec 256) : Bool :=
  let len := 4096 * rePages e
  let kind := reKind e
  let res := reRes e
  let ga := 4096 * reTarget e
  let sk := mget SharedKey.reset d.ctl.shared (reKey e)
  let owner := reKey e != 0 && sk.owner == berth
  let keyBad := reKey e != 0 && (!mhas d.ctl.shared (reKey e) || (!owner && (!sk.readers.getLsbD berth || rePerm e &&& 10 != 0)))
  let rsvd := reField e 52 12 != 0 || reField e 112 16 != 0 || reField e 130 10 != 0 || reField e 185 7 != 0 || reField e 218 38 != 0 ||
    kind == 3 || (kind == 2 && reSession e != 0)
  let open' := if kind = 1 then d.windowOpen (reSession e) (reWindow e) else d.storageSessions.any fun s => mhas s.2.windows (reWindow e)
  let hbmTarget := kind == 0 && decide (gaLocal ga < hbmSize)
  rsvd || decide (2 ^ 56 < 4096 * reStart e + len) || keyBad ||
    (if res = 3 then reField e 128 128 != 0
     else
      (kind == 0 && d.deviceTargetBad berth e len) ||
      (kind != 0 && (reType e != 1 || rePerm e / 4 != 0 || (res != 0 && res != 2) || (if rePort e = d.id then !open' else !d.farWindowOpen))) ||
      (res == 2 && kind != 1) || (res == 1 && !hbmTarget) || (rePerm e / 4 % 2 == 1 && !hbmTarget)) ||
    (res == 3 && rePerm e / 4 % 2 == 1) || d.mirrorBad berth e ga len

/-- Whether a new entry widens an old one in place (R265). -/
def reWidens (o e : BitVec 256) : Bool :=
  reStart o == reStart e && rePages o == rePages e && reField o 128 128 == reField e 128 128 && reType o == reType e && reKey o == reKey e &&
    reMirror o == reMirror e && rePerm o &&& rePerm e == rePerm o && decide (reRes e < 2)

/-- MAP (R264 to R266, R269): its status, and the device with the table changed and the caches dropped; the third part tells whether the
table was rebuilt. -/
def Dev.mapRange (d : Dev) (k : Clock) (x : Nat) (e : BitVec 256) : Nat × Bool × Dev :=
  let cx := d.ctx x
  let bad := d.mapInvalid cx.berth e
  let d := if reKind e ≠ 0 ∧ rePort e ≠ d.id then { d with fresh := d.fresh + 1 } else d
  if bad then (1, false, d)
  else
    let es := d.table x
    let a := reStart e
    let b := reEnd e
    let hits := es.filter fun o => reOverlaps o a b
    let may := fun o => !reWithdrawing o && (decide (2 ≤ reRes o) || reWidens o e)
    if !hits.all may then (2, false, d)
    else
      let es' := reInsert e (es.flatMap fun o => if reOverlaps o a b then reOutside o a b else [o])
      if 2 ^ cx.cap < es'.length then (3, false, d)
      else
        let inPlace := match hits with
          | [o] => reWidens o e
          | _ => false
        let d := if inPlace then d.poke k cx.berth (tableSlot cx cx.image ((es.findIdx? fun o => reOverlaps o a b).getD 0)) (bytesOf 32 e.toNat)
          else d.rebuild k x es'
        (0, !inPlace, d.dropXlat x fun o => reOverlaps o a b)

/-! ### UNMAP (R290) -/

/-- Accesses of a context's streams whose writes are not yet issued go back, to be translated afresh (R290).
(DESIGN CHOICE, assumption 62.) -/
def Dev.rewindStreams (d : Dev) (k : Clock) (x : Nat) : Dev :=
  let ns := d.ctl.streams.filterMap fun e => if e.2.ctx = x ∧ e.2.st ≠ .idle ∧ e.2.st ≠ .cancelling then some e.1 else none
  ns.foldl (fun d n =>
    let s := d.stream n
    match s.txns.find? fun t => !t.dead && t.what == 0 && (t.stage != 2 || decide (1 < t.dst.length)) with
    | none => d
    | some t =>
      let gone := s.txns.filter fun y => !y.dead && (y.stage == 1 || y.retry)
      let next := if t.stage = 2 then t.dst.drop 1 else t.dst
      let at' := t.cur + next.head?.elim 0 BSeg.off
      let d := d.updStream n fun s => { s with
        desc := some t.q, di := t.desc, cur := at', idx := none
        txns := s.txns.map fun y => if y.stage = 0 ∧ y.what ≠ 2 then { y with dead := true } else { y with dst := y.dst.take 1 } }
      let d := gone.foldl (fun d y => d.dropTxn n y) d
      if (d.stream n).st = .held then (d.endStall k n 0).updStream n fun s => { s with st := .running } else d) d

/-- The accesses of a context's groups that have not been issued are translated afresh when they are, and carry the epoch then
(R289, R290). -/
def Dev.staleAccesses (d : Dev) (x epoch : Nat) : Dev :=
  { d with cores := mmap d.cores fun _ k =>
      let out := fun (n : Nat) (a : LaneAcc) => k.mshrs.any fun m => m.2.line == a.line && m.2.ops.contains n
      let asked := fun (n : Nat) (a : LaneAcc) => k.mshrs.any fun m => m.2.bw == some n && m.2.va == a.va
      { k with
        ops := mmap k.ops fun n o =>
          if o.ctx = x then { o with epoch := epoch, lanes := o.lanes.map fun a => { a with stale := a.stale || !out n a } } else o
        bw := mmap k.bw fun n b =>
          if b.ctx = x then { b with epoch := epoch, wLines := b.wLines.map fun a => { a with stale := a.stale || !asked n a } } else b } }

/-- UNMAP, steps 1 to 3 of R290: a status when it completes at once. -/
def Dev.unmapRange (d : Dev) (k : Clock) (x q n start len : Nat) : Option Nat × Dev :=
  let cx := d.ctx x
  let a := start / 4096
  let b := (start + len) / 4096
  let es := d.table x
  let hit := fun o => reOverlaps o a b && !reWithdrawing o
  if !es.any hit then (some 4, d)
  else
    let es' := es.flatMap fun o => if hit o then
        (if reStart o < a then [rePiece o (reStart o) a] else []) ++
        [reSet (rePiece o (max a (reStart o)) (min b (reEnd o))) 52 1 1] ++
        (if b < reEnd o then [rePiece o b (reEnd o)] else [])
      else [o]
    if 2 ^ cx.cap < es'.length then (some 3, d)
    else
      let d := d.rebuild k x es'
      let e := (cx.epoch + 1) % 65536
      let d := d.updCtx x fun c => { c with
        epoch := e, unmaps := c.unmaps ++ [{ UnmapRec.reset with queue := q, order := n, start := start, len := len, epoch := e, since := k.tsc }] }
      (none, ((((d.restartWalks x).dropXlat x fun _ => true).staleAccesses x e).rewindStreams k x))

/-- Whether a tag names an epoch older than `e`, when the present one is `c` (R289). -/
def olderTag (c e t : Nat) : Bool := decide ((c + 65536 - e) % 65536 < (c % 8 + 8 - t % 8) % 8)

/-- Step 5 of R290: the withdrawn entries are removed, and the UNMAP completes. -/
def Dev.endUnmap (d : Dev) (k : Clock) (x : Nat) (u : UnmapRec) (status n : Nat) : Dev :=
  let a := u.start / 4096
  let b := (u.start + u.len) / 4096
  let es := (d.table x).filter fun o => !(reWithdrawing o && decide (a ≤ reStart o) && decide (reEnd o ≤ b))
  let d := (d.rebuild k x es).updCtx x fun c => { c with unmaps := c.unmaps.erase u }
  d.finishCmd u.queue u.order status n

/-- UNMAP_DRAIN_COMPLETE (R290): no transaction of an older epoch is outstanding, and the oldest UNMAP completes, unless a walk goes on
upon the image that its rebuild would overwrite (R269). -/
def execUnmapDrainComplete (x : Fin 4096) (st : State) : Out :=
  onMem st fun d =>
    match (d.ctx x).unmaps with
    | [] => d
    | u :: _ =>
      if d.stopped || (d.ctx x).st != .live || d.oldWalks x || d.outstanding x (olderTag (d.ctx x).epoch u.epoch) != 0 then d
      else d.endUnmap st.clk x u 0 0

/-- UNMAP_BOUND_EXPIRY (R292): 50 ms after step 2 what is outstanding is orphaned, and the oldest UNMAP completes with ORPHANED. -/
def execUnmapBoundExpiry (x : Fin 4096) (st : State) : Out :=
  onMem st fun d =>
    match (d.ctx x).unmaps with
    | [] => d
    | u :: _ =>
      let old := olderTag (d.ctx x).epoch u.epoch
      if d.stopped || (d.ctx x).st != .live || d.oldWalks x || !passed st.clk u.since (msec 50) || d.outstanding x old == 0 then d
      else
        let (n, d) := d.orphan x old false
        d.endUnmap st.clk x u 5 n

/-! ### The end of an abort (R385, R386) -/

/-- Streams of a context that still run down. -/
def Dev.cancelling (d : Dev) (x : Nat) : List Nat := d.ctl.streams.filterMap fun e => if e.2.ctx = x ∧ e.2.st = .cancelling then some e.1 else none

/-- CONTEXT_ABORT_COMPLETE (R385): every transaction of the context has completed. -/
def execContextAbortComplete (x : Fin 4096) (st : State) : Out :=
  onMem st fun d =>
    if d.stopped || (d.ctx x).abort.isNone || d.outstanding x (fun _ => true) != 0 || !(d.cancelling x).isEmpty then d
    else d.endAbort st.clk x 0

/-- ABORT_BOUND_EXPIRY (R386): 12 ms after step 1 what is still outstanding is orphaned. -/
def execAbortBoundExpiry (x : Fin 4096) (st : State) : Out :=
  onMem st fun d =>
    match (d.ctx x).abort with
    | none => d
    | some a =>
      if d.stopped || !passed st.clk a.since (msec 12) || (d.outstanding x (fun _ => true) == 0 && (d.cancelling x).isEmpty) then d
      else
        let (n, d) := d.orphan x (fun _ => true) true
        let gs := d.cores.flatMap fun e => e.2.groups.filterMap fun g =>
          if g.2.st = .exited ∧ (e.2.block g.2.block).ctx = x.val then some (e.1, g.1) else none
        let d := gs.foldl (fun d e => d.freeGroup st.clk e.1 e.2) d
        let d := (d.cancelling x).foldl (fun d n => d.settleStream n) d
        d.endAbort st.clk x n

/-! ### Berth reset (R413 to R416) -/

/-- Host operations of a berth that are staged or in the fabric complete with PEER_DOWN, and its held records are discarded (R355,
R413). -/
def Dev.dropHostWork (d : Dev) (k : Clock) (b : Nat) : Dev :=
  let mine := fun (p : HostPkt) => p.typ == 0x10 && p.op.berth == b
  (d.whf.sessions.map Prod.fst).foldl (fun d n =>
    let s := d.session n
    let d := d.updSession n fun s => { s with
      held := s.held.filter fun h => h.berth != b, gapFrom := s.gapFrom.filter fun g => g.1 / 16 % 32 != b
      waitq := s.waitq.filter fun p => !(p.events.any fun e => e.berth == b)
      closing := s.closing.filter fun w => w.2.berth != b
      staged := s.staged.map fun p => if mine p then { p with typ := 0xFF } else p }
    let d := (s.staged.filter mine).foldl (fun d p => d.respond k n p.op 5 [] []) d
    let d := (s.ops.filter fun x => mine x.pkt).foldl (fun d x =>
      (x.parts.foldl (fun d h => (d.bridgeEnd h.entry).quarantine k 705 h.entry) d).hostDone k n x 5) d
    (d.fillGaps k n).hostGo k n) d

/-- Perform the requests of a berth that wait for tokens, without tokens (R413). -/
def Dev.releaseHeld (d : Dev) (k : Clock) (b : Nat) : Dev :=
  let rate := (d.berth b).hbmRate
  let d := d.updBerth b fun x => { x with hbmRate := 0 }
  let d := (d.slices.map Prod.fst).foldl (fun d n =>
    let ps := mget [] (d.slice n).held b
    (d.updSlice n fun s => { s with held := mdel s.held b }).serveAll k ps) d
  d.updBerth b fun x => { x with hbmRate := rate }

/-- A berth reset begins (R413, steps 1 to 3); one that names a Resetting berth waits with the first (R416). -/
def Dev.startBerthReset (d : Dev) (k : Clock) (b : Nat) (scrub fatal : Bool) (waits : List (Nat × Nat)) : Dev :=
  if (d.berth b).st = .resetting then
    d.updBerth b fun x => { x with rst := x.rst.map fun r => { r with waits := r.waits ++ waits, fatal := r.fatal || fatal } }
  else
    let d := d.updBerth b fun x => { x with
      st := .resetting, rst := some { ResetRec.reset with scrub := scrub, begin := gtime k d, waits := waits, fatal := fatal } }
    let d := { d with ldg := { d.ldg with bufs := mmap d.ldg.bufs fun _ v => { v with recs := v.recs.filter fun r => r.berth != b } } }
    let d := d.dropHostWork k b
    let xs := d.ctl.ctxs.filterMap fun e => if e.2.st ≠ .free ∧ e.2.berth = b then some e.1 else none
    let d := xs.foldl (fun d x => if (d.ctx x).st = .live then d.startAbort k x 0 true
      else d.updCtx x fun c => { c with abort := c.abort.map fun a => { a with silent := true } }) d
    d.releaseHeld k b

/-- A berth-fatal error (R481): the record, and a berth reset without scrub; for berth 0 a warm reset. (DEDUCED, assumption 74.) -/
def Dev.berthFatal (d : Dev) (k : Clock) (b unit : Nat) : Dev :=
  let d := logErr k { ErlRec.reset with cls := 3, src := 0x13, code := 0x11, unit := unit, berth := b } d
  if b = 0 then { d with lkp := { d.lkp with warmDue := true } } else d.startBerthReset k b false true []

/-- Meet an uncorrectable error in a berth's queue, fence or dispatcher state (R481). -/
def Dev.meetBerth (d : Dev) (k : Clock) (b unit : Nat) : Dev :=
  match takeLatent 8 b 0 d with
  | (none, d) => d
  | (some true, d) => d.berthFatal k b unit
  | (some false, d) => logErr k { ErlRec.reset with cls := 1, src := 0x13, code := 0x01, unit := unit, berth := b, detail := 1 } d

/-- Whether a key is the berth's own or a shared one that it owns. -/
def Dev.ownsKey (d : Dev) (b berth key : Nat) : Bool :=
  if key = 0 then berth == b else mhas d.ctl.shared key && (mget SharedKey.reset d.ctl.shared key).owner == b

/-- The berth and key index under which this device holds a line: those of its frame, else of a local L1's copy. -/
def Dev.lineKey (d : Dev) (n line : Nat) : Option (Nat × Nat) :=
  match (d.slice n).lineOf (d.setOfLine line) line with
  | some f => some (f.berth, f.key)
  | none => d.cores.findSome? fun c => (c.2.l1.find? fun x => x.2.line == line).map fun x => (x.2.berth, x.2.key)

/-- Lines of this device's HBM that the directory holds under a berth's key, or under a shared key that the berth owns (R251, R413): the key of
the copy here, else that of the sectors in HBM, else the key of the page's owner. -/
def Dev.dirLines (d : Dev) (b : Nat) : List (Nat × Nat) :=
  d.slices.flatMap fun e => e.2.dir.filterMap fun f =>
    let line := f.2.line
    let mine := match d.lineKey e.1 line with
      | some x => d.ownsKey b x.1 x.2
      | none =>
        match mget? d.mem.tags (4 * (line % 2 ^ 38)) with
        | some t => if t.key < 32 then t.key == b else d.ownsKey b 0 (t.key - 32)
        | none => d.pageOwner (line % 2 ^ 38 * 128) == b
    if f.2.far = false ∧ mine = true then some (e.1, line) else none

/-- Far lines that this device holds for a berth's contexts, or under a shared key that the berth owns (R251, R413). -/
def Dev.farLines (d : Dev) (b : Nat) : List (Nat × Nat) :=
  d.slices.flatMap fun e => e.2.dir.filterMap fun f =>
    let mine := (d.lineKey e.1 f.2.line).any fun x => x.1 == b || d.ownsKey b x.1 x.2
    if f.2.far = true ∧ mine = true then some (e.1, f.2.line) else none

/-- Send a far line back (R251, R413): its local copies are drawn into the frame, and the Put follows. None while an answer about it is
awaited, or while the eviction buffer is full. -/
def Dev.sendFarBack (d : Dev) (k : Clock) (n line : Nat) : Option Dev :=
  if d.lineUnsettled line || d.localBusy line || (d.slice n).far.any (fun r => r.line == line) || decide (16 ≤ (d.slice n).evict.length) then none
  else
    let d := d.drawLocal k n line false
    let d := d.updSlice n fun s => { s with dir := s.dir.map fun f =>
      if f.2.line = line then (f.1, { f.2 with owner := 0, sharers := [], coarse := false, coreGroups := 0, devGroups := 0, st := .uncached }) else f }
    let sl := d.slice n
    match ((sl.frames.map Prod.snd) ++ sl.victim).find? fun x => x.line == line with
    | some x => some ((d.setSlice n (sl.dropLine line)).dropFrame k n x)
    | none => some (d.farIdle n line)

/-- Write back and drop the lines of a slice that a test names: frames, victim cache and write-combining buffer. -/
def Dev.flushSlice (d : Dev) (k : Clock) (n : Nat) (hit : Nat → Nat → Bool) : Dev :=
  let sl := d.slice n
  let fs := ((sl.frames.map Prod.snd) ++ sl.victim).filter fun x => hit x.berth x.key
  let ws := sl.wcb.filter fun w => hit w.berth w.key
  let d := d.setSlice n { sl with
    frames := sl.frames.filter fun x => !hit x.2.berth x.2.key, victim := sl.victim.filter fun x => !hit x.berth x.key
    wcb := sl.wcb.filter fun w => !hit w.berth w.key }
  ws.foldl (fun d w => d.wcbFlush k w) (fs.foldl (fun d x => d.dropFrame k n x) d)

/-- Step 4 of R413: the lines under the berth's keys leave every cache. Answers whether all have. -/
def Dev.purgeBerth (d : Dev) (k : Clock) (b : Nat) : Bool × Dev :=
  let r := (d.dirLines b).foldl (fun (r : Bool × Dev) e =>
    let x := r.2.obtain k e.1 e.2
    (r.1 && x.1, x.2)) (true, d)
  let r := (r.2.farLines b).foldl (fun (r : Bool × Dev) e => match r.2.sendFarBack k e.1 e.2 with
    | some d => (r.1, d)
    | none => (false, r.2)) r
  if !r.1 then r
  else
    let keys := d.ownsKey b
    (true, (r.2.slices.map Prod.fst).foldl (fun d n => d.flushSlice k n keys) r.2)

/-- A queue after its berth's reset (R392, R413). -/
def Queue.cleared (x : Queue) : Queue := { Queue.reset with admin := x.admin, berth := x.berth, granted := x.granted }
/-- A fence after its berth's reset. -/
def Fence.cleared (x : Fence) : Fence := { Fence.reset with berth := x.berth, granted := x.granted }

/-- Write every page that a berth owns with zeros under its new key (R413, step 6). -/
def Dev.scrubPages (d : Dev) (b : Nat) : Dev :=
  (d.mem.owner.filter fun e => e.2 % 32 == b).foldl (fun d e =>
    (List.range 2048).foldl (fun d i => d.writeSector (keyId b 0) (2048 * e.1 + i) 0xFFFFFFFF#32 0 false) d) d

/-- Steps 5 to 7 of R413. (DEDUCED, assumption 72.) -/
def Dev.endBerthReset (d : Dev) (k : Clock) (b : Nat) (r : ResetRec) : Dev :=
  let owned := d.ctl.shared.filterMap fun e => if e.2.owner = b then some e.1 else none
  let taint := d.erl.taint.filter fun t => !(owned.contains t.key || (t.key == 0 && d.pageOwner (t.line % 2 ^ 38 * 128) == b))
  let d := d.updBerth b fun x => { x with keyGen := x.keyGen + 1 }
  let d := { d with
    ctl := { d.ctl with shared := mmap d.ctl.shared fun _ s => if s.owner = b then { s with gen := s.gen + 1 } else s }
    erl := { d.erl with taint := taint } }
  let d := if r.scrub then d.scrubPages b else d
  let xs := d.ctl.ctxs.filterMap fun e => if e.2.st ≠ .free ∧ e.2.berth = b then some e.1 else none
  let n := sumNat (xs.map fun x => (d.ctx x).orphans)
  let d := xs.foldl (fun d x => (d.updCtx x fun c => { c with destroyed := true }).freeCtx x) d
  let d := { d with ctl := { d.ctl with
    queues := mmap d.ctl.queues fun _ q => if q.berth = b then q.cleared else q
    fences := mmap d.ctl.fences fun _ f => if f.berth = b then f.cleared else f } }
  let d := { d with slices := mmap d.slices fun _ s => { s with tokens := mdel s.tokens b, held := mdel s.held b } }
  let d := d.updBerth b fun x => { x with
    st := .live, rst := none, resets := (x.resets + 1) % 256
    rings := x.rings.filterMap fun e => if e.1 = 0 then some (0, { e.2 with prod := 0, cons := 0, lost := 0 }) else none
    fqProd := 0, fqCons := 0, overflow := false, pendNext := 0, attest := none
    graceSince := if d.whf.isWharf && d.boundSessions b == 0 then some k.tsc else x.graceSince }
  let status := if n = 0 then 0 else 5
  let done := eventRec 0x20 status 0 1 0 0 0 n (gtime k d) r.begin
  let d := d.writeRing k b 0 done false
  let d := if r.fatal then d.writeRing k 0 0 done false else d
  r.waits.foldl (fun d w => d.finishCmd w.1 w.2 status 0) d

/-- BERTH_RESET_COMPLETE (R413): once every abort of the berth's contexts is over and its lines have left the caches.
(DEDUCED, assumption 71.) -/
def execBerthResetComplete (berth : Fin 32) (st : State) : Out :=
  onMem st fun d =>
    match (d.berth berth).rst with
    | none => d
    | some r =>
      let busy := d.ctl.ctxs.any fun e => e.2.berth == berth.val && e.2.abort.isSome
      if d.stopped || busy then d
      else
        let (ok, d) := d.purgeBerth st.clk berth
        if ok then d.endBerthReset st.clk berth r else d

end Sys2Proof.Machine
end

