-- ==== Sys2Proof/Machine/CoreEvents.lean ====
section
/-! DEFINITION. What happens on the cores without an instruction: the dispatcher (R47 to R49, R79, R401 to R405), the zeroing of
local-memory units (R46), the release of slots (R41), and the limits of a held store (R66) and of a parking (R74). -/

namespace Sys2Proof.Machine

/-- HELD_REGION_TIMEOUT (R66): a store that has waited 2^20 C-cycles for a held region, and waits still, parks its group; the
record names the lowest lane that overlaps now. (DEDUCED, assumption 37.) -/
def execHeldRegionTimeout (c : Fin 512) (s : Fin 64) (st : State) : Out :=
  onMem st fun d =>
    let g := d.group c s
    match g.heldSince with
    | none => d
    | some t =>
      if d.stopped || g.st != .running || decide (st.clk.ccyc - t < 2 ^ 20) then d
      else
        match (d.core c).heldHit g.block g.heldWidth g.heldAccs with
        | none => d
        | some h => d.parkGroup st.clk c s 0x0A g.pc h.1 h.2 0 g.whole

/-- PARKING_LIMIT_EXPIRY (R74): a group parked for longer than the manifest's limit has its context aborted, with reason 2. -/
def execParkingLimitExpiry (c : Fin 512) (s : Fin 64) (st : State) : Out :=
  onMem st fun d =>
    let g := d.group c s
    match g.park with
    | none => d
    | some p =>
      let x := ((d.core c).block g.block).ctx
      if d.stopped || g.st != .parked || (d.ctx x).st != .live || decide (gtime st.clk d ≤ p.time + msec d.lkp.parkLimit) then d
      else d.startAbort st.clk x 2 false

/-- GROUP_SLOT_FREE (R41): an Exited group with no load outstanding leaves its slot, its registers, and with the last group its block. -/
def execGroupSlotFree (c : Fin 512) (s : Fin 64) (st : State) : Out :=
  onMem st fun d => if d.stopped then d else d.freeGroup st.clk c s

/-- LM_UNIT_ZERO_DONE (R46): the units of a block are zero, and its groups start. -/
def execLmUnitZeroDone (c : Fin 512) (b : Fin 32) (st : State) : Out :=
  onMem st fun d =>
    match mget? (d.core c).blocks b with
    | none => d
    | some x =>
      if d.stopped || x.started then d
      else d.updCore c fun co =>
        let co := { co with lm := co.lm.filter fun e => !x.zeroing.contains (e.1 / 8192)
                            lmPoison := co.lmPoison.filter fun w => !x.zeroing.contains (w / 1024) }
        co.setBlock b { x with zeroing := [], started := true }

/-! ### The dispatcher -/

/-- Threads, declared registers and local-memory units of a LAUNCH (R369). -/
def Cmd.threads (m : Cmd) : Nat := bitsAt (m.word 6) 0 11
/-- Declared registers. -/
def Cmd.regs (m : Cmd) : Nat := bitsAt (m.word 6) 11 8
/-- Local-memory units. -/
def Cmd.units (m : Cmd) : Nat := bitsAt (m.word 6) 19 9
/-- Groups of a block (R38, R39). -/
def Cmd.groups (m : Cmd) : Nat := ceilDiv m.threads 32

/-- Class at which a command of a berth runs (R400). -/
def Dev.effClass (d : Dev) (b cls : Nat) : Nat := max cls (d.berth b).ceiling

/-- The better of two ready launches (R404): the more urgent class, then the one that began first, then the lower queue. -/
def launchFirst (d : Dev) (b : Nat) (x y : Nat × Cmd) : Bool :=
  let cx := d.effClass b x.2.cls
  let cy := d.effClass b y.2.cls
  decide (cx < cy) || (cx == cy && (decide (x.2.begin < y.2.begin) || (x.2.begin == y.2.begin && decide (x.1 < y.1))))

/-- The launch of a berth whose next block the dispatcher is to place (R404). -/
def Dev.readyLaunch (d : Dev) (b : Nat) : Option (Nat × Cmd) :=
  if (d.berth b).st ≠ .live then none
  else
    let ls := d.ctl.queues.flatMap fun e => if e.2.berth ≠ b then [] else
      e.2.cmds.filterMap fun m =>
        if m.opcode = 1 ∧ m.status = none ∧ m.nextBlock < m.blocks ∧ (d.ctx m.ctx).st = .live then some (e.1, m) else none
    ls.foldl (fun (o : Option (Nat × Cmd)) x => match o with
      | none => some x
      | some y => if launchFirst d b x y then some x else o) none

/-- The berth that holds a core (R401). -/
def Dev.holder (d : Dev) (c : Nat) : Option Nat := (d.core c).blocks.head?.map fun e => e.2.berth

/-- Cores that a berth holds (R401). -/
def Dev.held (d : Dev) (b : Nat) : Nat := (d.cores.filter fun e => e.2.blocks.head?.any fun x => x.2.berth == b).length

/-- Whether a core accepts a block of a launch (R47). -/
def Core.fits (k : Core) (m : Cmd) : Bool :=
  decide (groupRegs m.regs * m.groups ≤ k.freeRegs) && decide (sumNat (k.blocks.map fun e => e.2.lmUnits) + m.units ≤ 256) &&
    decide ((k.groups.filter fun e => e.2.st != .free).length + m.groups ≤ 64) && decide (k.blocks.length < 32)

/-- The berth to which R402 offers an unheld core, among berths with ready blocks: the least supplied below its minimum, else
the smallest (h + 1) / w. -/
def Dev.offered (d : Dev) (bs : List Nat) : Option Nat :=
  let low := bs.filter fun b => decide (d.held b < (d.berth b).minCores)
  let pick := fun (better : Nat → Nat → Bool) (l : List Nat) => l.foldl (fun (o : Option Nat) b => match o with
    | none => some b
    | some a => if better b a then some b else o) none
  if low.isEmpty then pick (fun x y => decide ((d.held x + 1) * (d.berth y).coreW < (d.held y + 1) * (d.berth x).coreW)) bs
  else pick (fun x y => decide (d.held x * (d.berth y).minCores < d.held y * (d.berth x).minCores)) low

/-- Whether a berth is yielding (R403), given the berths with ready blocks and that no core is unheld. -/
def Dev.yielding (d : Dev) (ready : List Nat) (b : Nat) : Bool :=
  decide ((d.berth b).minCores < d.held b) && ready.any fun c => c != b &&
    (decide (d.held c < (d.berth c).minCores) || decide ((d.held c + 1) * (d.berth b).coreW < d.held b * (d.berth c).coreW))

/-- The core of a list of candidates on which R405 places a block: powered domains first, then the domain and the core with the
most resident groups, or the fewest when the work is spread. (DESIGN CHOICE, assumption 45.) -/
def Dev.chooseCore (d : Dev) (spread : Bool) (cs : List Nat) : Option Nat :=
  let powered := cs.filter fun c => !d.pwr.gated.getLsbD (coreDomain c)
  let cs := if powered.isEmpty then cs else powered
  let load := fun c => ((d.core c).groups.filter fun e => e.2.st != .free).length
  let domLoad := fun pd => sumNat ((d.cores.filter fun e => coreDomain e.1 == pd).map fun e => load e.1)
  let pick := fun (f : Nat → Nat) (l : List Nat) => l.foldl (fun (o : Option Nat) x => match o with
    | none => some x
    | some y => if (if spread then f x < f y else f y < f x) ∨ (f x = f y ∧ x < y) then some x else o) none
  (pick domLoad (cs.map coreDomain).eraseDups).bind fun pd => pick load (cs.filter fun c => coreDomain c == pd)

/-- The slot that the next group of a block takes (R49). -/
def Core.nextSlot (k : Core) : Nat :=
  let used := fun i => (k.group i).st != .free
  let count := fun n => ((List.range 16).filter fun i => used (4 * i + n)).length
  let sched := (List.range 4).foldl (fun a n => if count n < count a then n else a) 0
  4 * (((List.range 16).find? fun i => !used (4 * i + sched)).getD 0) + sched

/-- A group as it starts (R39, R43, R79). -/
def launchGroup (x : Block) (b i now : Nat) : Group :=
  let live := maskOf ((List.range 32).filter fun l => decide (32 * i + l < x.threads))
  let us := [x.bx, x.byi, x.bz, i, x.param.toNat % 2 ^ 32, x.param.toNat / 2 ^ 32, 8192 * x.lmUnits, x.threads, x.gx, x.gy, x.gz]
  let g := { Group.reset with st := .running, block := b, pc := x.entry.setWidth 64, active := live, live := live, since := now }
  let g := us.zipIdx.foldl (fun (g : Group) u => g.setReg (0x100 + u.2) 0 (BitVec.ofNat 32 u.1)) g
  (lanesOf live).foldl (fun (g : Group) l => g.setReg 0 l (BitVec.ofNat 32 (32 * i + l))) g

/-- Put one group of a block into its slot. (DESIGN CHOICE, assumption 44.) -/
def Core.placeGroup (k : Core) (x : Block) (b i now : Nat) : Core :=
  let s := k.nextSlot
  { k.setGroup s (launchGroup x b i now) with fills := mput k.fills s (mget 0 k.fills s + 1) }

/-- The next block of a launch, as a core takes it (R44, R46, R79). -/
def Dev.launchBlock (d : Dev) (q : Nat) (m : Cmd) (co : Core) : Block :=
  let cx := d.ctx m.ctx
  let gx := bitsAt (m.word 5) 0 32
  let gy := bitsAt (m.word 5) 32 16
  let units := ((List.range 256).filter fun u => !co.blocks.any fun e => e.2.units.contains u).take m.units
  let zeroing := units.filter fun u => mget 0 co.unitUser u != cx.inst + 1
  { Block.reset with
    ctx := m.ctx, inst := cx.inst, berth := cx.berth, queue := q, seq := BitVec.ofNat 32 m.seq, launch := m.order
    groups := m.groups, threads := m.threads, r := m.regs, lmUnits := m.units, units := units, zeroing := zeroing
    started := zeroing.isEmpty, bx := m.nextBlock % gx, byi := m.nextBlock / gx % gy, bz := m.nextBlock / gx / gy
    gx := gx, gy := gy, gz := bitsAt (m.word 5) 48 16, param := BitVec.ofNat 64 (m.word 4), entry := BitVec.ofNat 56 (m.word 3)
    scalePinned := cx.scalePinned }

/-- Place the next block of a launch on a core (R46, R49, R79, R197). -/
def Dev.placeBlock (d : Dev) (k : Clock) (q : Nat) (m : Cmd) (c : Nat) : Dev :=
  let co := d.core c
  let x := d.launchBlock q m co
  let b := (lowestFree 32 (co.blocks.map Prod.fst)).getD 0
  let co := (List.range x.groups).foldl (fun (co : Core) i => co.placeGroup x b i k.ccyc) (co.setBlock b x)
  let first := !m.icDone.contains c
  let d := d.setCore c { co with
    freeRegs := co.freeRegs - groupRegs x.r * x.groups
    unitUser := x.units.foldl (fun u n => mput u n (x.inst + 1)) co.unitUser
    icache := if first then co.icache.filter fun e => e.ctx != x.ctx else co.icache
    ctxSince := if co.ctxSince.any fun e => e.1 == x.ctx then co.ctxSince else co.ctxSince ++ [(x.ctx, k.tsc)]
    resSince := some (co.resSince.getD k.ccyc) }
  d.updCmd q m.order fun y => { y with nextBlock := y.nextBlock + 1, icDone := if first then y.icDone ++ [c] else y.icDone }

/-- Place a block of a berth's ready launch on one of the cores open to it; a gated core's domain is woken first (R446). -/
def Dev.dispatchFor (d : Dev) (k : Clock) (b : Nat) (unheld : Bool) : Option Dev :=
  (d.readyLaunch b).bind fun l =>
    let cs := (List.range 512).filter fun c => match d.holder c with
      | none => unheld && (d.core c).fits l.2
      | some h => h == b && (d.core c).fits l.2
    (d.chooseCore ((d.berth b).spread || !d.pwr.packing) cs).map fun c =>
      if d.pwr.gated.getLsbD (coreDomain c) then d.beginWake k (coreDomain c)
      else
        let d := d.meetBerth k b 0
        if (d.berth b).st = .live then d.placeBlock k l.1 l.2 c else d

/-- Whether the Lockkeeper and the power state let commands begin and blocks be placed (R425, R435, R441, R450). -/
def Dev.admits (d : Dev) : Bool := (d.lkp.st == .ready || d.lkp.st == .maintenance || d.lkp.st == .debug) && d.pwr.st == .underway && !d.stopped

/-- DISPATCH_BLOCK (R401 to R405): the dispatcher places the next block of the launch whose turn it is. -/
def execDispatchBlock (st : State) : Out :=
  onMem st fun d =>
    if !d.admits then d
    else
      let ready := (List.range 32).filter fun b => (d.readyLaunch b).isSome
      let heldCores := (d.cores.filter fun e => !e.2.blocks.isEmpty).length
      let winner := if heldCores < 512 ∧ heldCores < d.pwr.coreLimit then (d.offered ready).bind fun b => d.dispatchFor st.clk b true else none
      match winner with
      | some d => d
      | none =>
        ((ready.filter fun b => decide (heldCores < 512) || !d.yielding ready b).findSome? fun b => d.dispatchFor st.clk b false).getD d

end Sys2Proof.Machine
end

