-- ==== Sys2Proof/Machine/Commands.lean ====
section
/-! DEFINITION. Command queues (R361 to R373): how a record is read, checked and begun, the effect of each opcode, signals (R374 to
R378), result writes (R537), and the posting of completions. -/

namespace Sys2Proof.Machine

/-! ### Fences (R374 to R380) -/

/-- Whether a context of a device may signal a fence of this device, or wait on it (R378). -/
def Dev.mayFence (d : Dev) (f x dev : Nat) (signal : Bool) : Bool :=
  let v := d.fence f
  v.valid && ((dev == d.id && v.owner == x) || v.exports.any fun e => e.ctx == x && e.dev == dev && (!signal || e.signal))

/-- A signal of a value on a fence of this device (R376), by an agent `rel` of device `relDev`; `src` is the ledger source. -/
def Dev.signalFence (d : Dev) (k : Clock) (f : Nat) (v : BitVec 64) (rel : BitVec 32) (relDev src : Nat) : Dev :=
  let x := d.fence f
  if x.value = aborted ∨ v = aborted then d
  else if x.value.toNat < v.toNat then
    let d := if x.waiters.isEmpty && x.exports.isEmpty then d
      else d.ledger k src x.owner 0x05 0 (fenceObj f d.id v) rel relDev 0 (relDev != d.id) none
    let reached := x.waiters.filter fun w => decide (w.target.toNat ≤ v.toNat)
    let d := d.updFence f fun y => { y with value := v, waiters := y.waiters.filter fun w => !decide (w.target.toNat ≤ v.toNat) }
    reached.foldl (fun d w => d.endWait k f d.id w 0 v rel relDev) d
  else if v.toNat < x.value.toNat then
    let d := d.updFence f fun y => { y with ooo := satAdd (2 ^ 32 - 1) y.ooo 1 }
    if x.strict then d.writeRing k x.berth 0 (eventRec 0x11 0 0 1 x.owner f 0 v.toNat (gtime k d) 0) false else d
  else d

/-! ### The state of a queue (R362, R392) -/

/-- Commands in progress of R364: a BATCH_MARK is none, nor is a command whose completion waits only for room in its ring. -/
def Queue.running (x : Queue) : List Cmd := x.cmds.filter fun m => m.opcode != 5 && !m.signalled

/-- QUE_STATUS.state. -/
def Queue.state (x : Queue) : Nat :=
  if !x.enable then 0
  else if x.halted then 4
  else if x.head = x.tail ∧ x.cmds.isEmpty then 1
  else if x.running.head?.any fun m => m.opcode == 4 && m.status == none then 3
  else 2

/-- Admin commands of a berth in progress (R365). -/
def Dev.adminRunning (d : Dev) (b : Nat) : Nat :=
  sumNat (d.ctl.queues.map fun e => if e.2.admin ∧ e.2.berth = b then e.2.running.length else 0)

/-! ### The checks of a record (R363, R368, R369) -/

/-- Whether bits `lo` and up of a word are set. -/
def above (w lo : Nat) : Bool := decide (2 ^ lo ≤ w)

/-- Whether every payload word from `i` to Q7 is zero. -/
def Cmd.clearFrom (m : Cmd) (i : Nat) : Bool := (List.range (8 - i)).all fun j => m.word (i + j) == 0

/-- Whether a span of this device's HBM lies within pages that a berth owns (R396). -/
def Dev.ownsSpan (d : Dev) (b a len : Nat) : Bool := decide (a + len ≤ hbmSize) && d.pagesOk a len 0 fun o => o == b

/-- Whether a payload breaks the rules of its opcode (R363, R369, R375). (DEDUCED, assumption 49.) (DEDUCED, assumption 50.) -/
def Dev.payloadBad (d : Dev) (b : Nat) (m : Cmd) : Bool :=
  let q3 := m.word 3
  let q4 := m.word 4
  match m.opcode with
  | 0x00 => !m.clearFrom 3
  | 0x01 => above q3 56 || q3 % 8 != 0 || above q4 56 || m.blocks == 0 || above (m.word 6) 28 || m.threads == 0 || decide (1024 < m.threads) ||
      m.regs == 0 || decide (256 < m.units) || !m.clearFrom 7
  | 0x02 => above q3 56 || q3 % 64 != 0 || above q4 32 || q4 == 0 || !m.clearFrom 5
  | 0x03 => above q3 28 || q4 == 2 ^ 64 - 1 || !m.clearFrom 5
  | 0x04 => above q3 28 || q4 == 2 ^ 64 - 1 || above (m.word 5) 32 || !m.clearFrom 6
  | 0x05 => !m.clearFrom 4
  | 0x06 => above q3 56 || q3 % 64 != 0 || above q4 16 || !m.clearFrom 5
  | 0x07 => above q3 56 || q3 % 8 != 0 || !m.clearFrom 4
  | 0x08 => above q3 32 || !m.clearFrom 4
  | 0x40 =>
    let c := bitsAt q4 0 5
    let len := 64 * 2 ^ c
    above q3 45 || q3 % 4096 != 0 || above q4 7 || decide (c < 4) || decide (18 < c) || !m.clearFrom 5 || !d.ownsSpan b q3 len ||
      d.ctl.ctxs.any fun e => e.2.st != .free && decide (e.2.area < q3 + len) && decide (q3 < e.2.area + 64 * 2 ^ e.2.cap)
  | 0x41 => !m.clearFrom 3
  | 0x42 => !m.clearFrom 7
  | 0x43 => above q3 56 || q3 % 4096 != 0 || q4 % 4096 != 0 || !m.clearFrom 5
  | 0x44 => above q3 32 || bitsAt q3 12 4 != 0 || !m.clearFrom 4
  | 0x45 => above q3 32 || bitAt q3 15 || !m.clearFrom 4
  | 0x46 => above q3 32 || bitAt q3 15 || !m.clearFrom 4
  | 0x47 => above q3 16 || above q4 30 || !m.clearFrom 5
  | 0x48 => above q3 6 || (b == 0 && (bitsAt q3 0 5 == 0 || (d.berth (bitsAt q3 0 5)).st == .absent)) || !m.clearFrom 4
  | _ => true

/-- The status with which a record completes without any other effect (R363, R435), if any. -/
def Dev.cmdCheck (d : Dev) (q : Nat) (m : Cmd) : Option Nat :=
  let x := d.queue q
  let op := m.opcode
  let cx := d.ctx m.ctx
  let skip := op == 0x40 || op == 0x48
  let rsvd := bitsAt (m.word 0) 10 6 != 0 || (bitAt (m.word 0) 8 && op != 1) || bitsAt (m.word 1) 2 2 != 0 || bitsAt (m.word 1) 9 7 != 0 ||
    above (m.word 1) 32 || (bitAt (m.word 1) 8 && m.word 2 == 2 ^ 64 - 1)
  if m.poisoned || (x.admin != decide (0x40 ≤ op)) || rsvd || d.payloadBad x.berth m then some 0x0E
  else if op = 0x48 ∧ x.berth ≠ 0 then some 0x12
  else if op = 0x40 ∧ d.lkp.st = .maintenance ∧ x.berth ≠ 0 then some 0x12
  else if skip then none
  else if cx.st = .free then some 0x10
  else if cx.berth ≠ x.berth then some 0x0F
  else if cx.st = .aborted ∧ op ≠ 0x41 ∧ op ≠ 0x44 ∧ op ≠ 0x45 ∧ op ≠ 0x46 then some 0x11
  else none

/-! ### Beginning a command (R364, R365, R372, R373) -/

/-- The record at the head of a queue, as a command; its line is first obtained by its home (R367). None while there is no record to
begin or its line is awaited. (DESIGN CHOICE, assumption 46.) -/
def Dev.headCmd (d : Dev) (k : Clock) (q : Nat) : Option Cmd × Dev :=
  let x := d.queue q
  if !d.admits || !x.enable || x.halted || x.head == x.tail || (d.berth x.berth).st != .live then (none, d)
  else
    let a := x.base + 64 * (x.head.toNat % 2 ^ x.sizeLog2)
    let line := 2 ^ 38 * d.id + a / 128
    let (ok, d) := d.obtain k (d.lineSlice line) line
    if !ok then (none, d)
    else
      (some { Cmd.reset with
        order := x.nextOrder, begin := gtime k d, poisoned := (List.range 8).any fun i => d.peekPoison (a + 8 * i)
        q := (List.range 8).map fun i => BitVec.ofNat 64 (d.peek (keyId x.berth 0) (a + 8 * i) 8) }, d)

/-- Whether the latest LAUNCH of a queue has dispatched its last block (R372). -/
def Queue.dispatched (x : Queue) : Bool :=
  match (x.cmds.filter fun m => m.opcode == 1).getLast? with
  | none => true
  | some m => m.status.isSome || m.nextBlock == m.blocks

/-- Whether a record may begin now (R364, R365, R372, R373). (DEDUCED, assumption 48.) (DEDUCED, assumption 51.) -/
def Dev.mayBegin (d : Dev) (q : Nat) (m : Cmd) : Bool :=
  let x := d.queue q
  if x.haltOn && x.cmds.any (fun y => !y.signalled && y.status.any fun s => s != 0) then false
  else if x.admin then
    decide (d.adminRunning x.berth < 16) &&
      (m.opcode == 0x40 || m.opcode == 0x48 || m.opcode == 0x41 || m.opcode == 0x44 || m.opcode == 0x45 || m.opcode == 0x46 ||
        (d.ctx m.ctx).abort.isNone || (d.ctx m.ctx).berth != x.berth)
  else if m.opcode = 5 then true
  else
    let passed' := x.recent.dropWhile fun o => o == 5 || o == 8 || o == 0
    let overlap := m.opcode == 1 && bitAt (m.word 0) 8 && passed'.head? == some 1
    if overlap then x.dispatched && decide (x.running.length < 2) else x.running.isEmpty

/-- Read a record: the head moves past it, and it is among the commands not yet posted (R362). -/
def Dev.readCmd (d : Dev) (q : Nat) (m : Cmd) : Dev :=
  d.updQueue q fun x => { x with
    head := x.head + 1, nextOrder := x.nextOrder + 1, cmds := x.cmds ++ [m]
    recent := if m.opcode = 1 then [1] else m.opcode :: x.recent }

/-- Begin the record at the head of a queue when its opcode is `op`: it completes with the status of the first check that fails, or
`eff` gives its effect. `ready` says whether what the opcode needs is free (R272, R293). -/
def Dev.beginCmd (d : Dev) (k : Clock) (q op : Nat) (ready : Dev → Cmd → Bool) (eff : Dev → Cmd → Dev) : Dev :=
  match d.headCmd k q with
  | (none, d) => d
  | (some m, d) =>
    if m.opcode ≠ op ∨ d.mayBegin q m = false then d
    else
      let d := d.meetBerth k (d.queue q).berth q
      if (d.berth (d.queue q).berth).st ≠ .live then d
      else
        match d.cmdCheck q m with
        | some s => (d.readCmd q m).finishCmd q m.order s 0
        | none => if ready d m then eff (d.readCmd q m) m else d

/-- Nothing more is needed for an opcode to begin. -/
def noWait (_ : Dev) (_ : Cmd) : Bool := true

/-- The counter banks of a queue switch (R493, R495). -/
def Dev.switchBank (d : Dev) (q : Nat) (tag : BitVec 64) (op : Nat) : Dev :=
  d.updQueue q fun x => { x with
    last := { x.cur with final := true, opened := false }, cur := { Bank.reset with tag := tag, opener := op, opened := true } }

/-- Agent of the command processor that reads a queue (R305). (DESIGN CHOICE, assumption 56.) -/
def cpAgent (q : Nat) : Nat := 706 + q % 2

/-! ### Requests to another device (R382) -/

/-- Send a management request for a command, which then awaits its answer. -/
def Dev.cmdMgmt (d : Dev) (q n : Nat) (p : Packet) : Dev :=
  let d := d.mgmtSend { p with agent := cpAgent q, tgt := 708 }
  match d.fab.net.getLast? with
  | none => d
  | some p => d.updCmd q n fun m => { m with reqs := m.reqs ++ [p] }

/-! ### Result writes (R537) -/

/-- Landing buffers of a command processor in use. -/
def Dev.cpUsed (d : Dev) (agent : Nat) : List Nat :=
  (d.ctl.queues.flatMap fun e => e.2.cmds.flatMap fun m => (m.reqs.filter fun p => p.agent == agent && p.tgt != 708).map Packet.entry) ++
    d.ctl.lostWrites.filterMap fun w => if w.1 = agent then some w.2.1 else none

/-- Write a command's result (R537): under the context's ranges, as one barge access. -/
def Dev.resultWrite (d : Dev) (k : Clock) (q : Nat) (m : Cmd) (va : Nat) (bytes : List Byte) : Dev :=
  let len := bytes.length
  match d.walk m.ctx va with
  | .miss => d.finishCmd q m.order 0x0E 0
  | .poison => d.startAbort k m.ctx 4 false
  | .hit e =>
    if !(reCovers e va && reCovers e (va + len - 1)) || reWithdrawing e || reRes e != 0 || rePerm e / 2 % 2 == 0 then d.finishCmd q m.order 0x0E 0
    else
      let b := (d.queue q).berth
      let agent := cpAgent q
      let entry := (lowestFree 1024 (d.cpUsed agent ++ d.quarantined k agent)).getD 0
      let base : Packet := { Packet.reset with
        op := .bulkWrite, src := d.id, agent := agent, entry := entry, gen := m.order % 16, epoch := (d.ctx m.ctx).epoch % 8
        berth := b, ctx := m.ctx, cnt := len }
      let ga := reMap e va
      let p := if reKind e = 0 then
          let line := bytes.zipIdx.foldl (fun l x => lineSet l (ga % 128 + x.2) 1 x.1.toNat) 0
          { base with
            dst := gaDev ga, tgt := 512, line := gaLine ga, off := ga % 128, key := reKey e, mtype := reType e
            mirror := if reType e = 3 then reMirror e else 0, data := lineWords line }
        else
          { base with
            dst := rePort e, tgt := 705, aty := reKind e, who := reSession e, no := reWindow e, off := reMap e va
            data := (chunks 8 (len / 8 + 1) bytes).map fun w => BitVec.ofNat 64 (natOf w) }
      if !d.reachable p.dst then d.finishCmd q m.order 0x0B 0
      else (d.updCmd q m.order fun m => { m with reqs := [p] }).send p

/-- An answer to a command processor's result write: its status, and the command finishes (R537). An orphan is released (R317). -/
def Dev.cpAnswer (d : Dev) (p : Packet) : Dev :=
  let hit := fun (r : Packet) => r.agent == p.tgt && r.entry == p.entry && r.gen == p.gen && r.tgt != 708
  match d.ctl.queues.findSome? fun e => (e.2.cmds.find? fun m => m.reqs.any hit).map fun m => (e.1, m) with
  | some (q, m) =>
    let d := d.updCmd q m.order fun m => { m with reqs := m.reqs.filter fun r => !hit r }
    if p.op = .heldRetry then
      match m.reqs.find? hit with
      | some r => (d.updCmd q m.order fun m => { m with reqs := m.reqs ++ [r] }).send r
      | none => d
    else if p.op = .errorResp then d.finishCmd q m.order (if p.reason = 256 then 0x0A else 0x12) 0
    else d.finishCmd q m.order (if p.notPerf then 0x0B else 0) 0
  | none =>
    match d.ctl.lostWrites.find? fun w => w.1 == p.tgt && w.2.1 == p.entry && w.2.2.1 == p.gen with
    | some w => ({ d with ctl := { d.ctl with lostWrites := d.ctl.lostWrites.erase w } }).unorphan w.2.2.2.1
    | none => d.stray

/-! ### Work opcodes (R369) -/

/-- LAUNCH (R48, R369, R493). -/
def execLaunch (q : Fin 4096) (st : State) : Out :=
  onMem st fun d => d.beginCmd st.clk q 1 noWait fun d m =>
    let before := (st.dev.queue q).recent.dropWhile fun o => o == 8 || o == 0
    let keep := bitAt (m.word 0) 8 && before.head? == some 5
    let d := if keep then d else d.switchBank q (BitVec.ofNat 64 m.seq) 1
    if 131072 < groupRegs m.regs * m.groups ∨ 256 < m.units then d.finishCmd q m.order 6 0 else d

/-- The stream that a COPY of a queue takes (R272): the engine of the processor's own die with the fewest busy streams. -/
def Dev.freeStream (d : Dev) (q : Nat) : Option Nat :=
  let busy := fun e => ((engineStreams e).filter fun n => (d.stream n).st != .idle).length
  let es := (List.range 32).map fun i => 32 * (q % 2) + i
  let best := es.foldl (fun (o : Option Nat) e => if busy e = 64 then o else match o with
    | none => some e
    | some a => if busy e < busy a then some e else some a) none
  best.bind fun e => (engineStreams e).find? fun n => (d.stream n).st == .idle

/-- Streams that a berth holds (R409). -/
def Dev.streamsOf (d : Dev) (b : Nat) : Nat := (d.ctl.streams.filter fun e => e.2.st != .idle && e.2.berth == b).length

/-- COPY (R272, R369, R409, R493): a free stream takes it. -/
def execCopy (q : Fin 4096) (st : State) : Out :=
  onMem st fun d => d.beginCmd st.clk q 2
    (fun d _ => decide (d.streamsOf (d.queue q).berth < (d.berth (d.queue q).berth).streamLimit) && (d.freeStream q).isSome)
    fun d m =>
      let d := d.switchBank q (BitVec.ofNat 64 m.seq) 2
      let n := (d.freeStream q).getD 0
      d.updStream n fun s => { Stream.reset with
        st := .running, ctx := m.ctx, queue := q, order := m.order, seq := BitVec.ofNat 32 m.seq, berth := (d.queue q).berth
        list := m.word 3, count := m.word 4, xlat := s.xlat, txns := s.txns }

/-- Fence and device that a fence command names. -/
def Cmd.fenceNo (m : Cmd) : Nat := bitsAt (m.word 3) 0 16
/-- Device of that fence. -/
def Cmd.fenceDev (m : Cmd) : Nat := bitsAt (m.word 3) 16 12

/-- Whether the device's import table holds a fence for a context (R382). -/
def Dev.imported (d : Dev) (x f dev : Nat) : Bool := d.ctl.imports.any fun i => i.ctx == x && i.fence == f && i.dev == dev

/-- Register-space offset, within the operator window, of fence `f`'s registers (R392, R508). -/
def fenOff (f : Nat) : Nat := 0x200000 + 0x20 * f

/-- FENCE_SIGNAL (R376, R378, R382). -/
def execFenceSignal (q : Fin 4096) (st : State) : Out :=
  onMem st fun d => d.beginCmd st.clk q 3 noWait fun d m =>
    let f := m.fenceNo
    let v := m.word 4
    if m.fenceDev = d.id then
      let d := d.meetBerth st.clk (d.fence f).berth f
      if (d.berth (d.queue q).berth).st ≠ .live then d
      else if d.mayFence f m.ctx d.id true then
        (d.signalFence st.clk f (BitVec.ofNat 64 v) (awQueue q) d.id (cpSource q)).finishCmd q m.order 0 0
      else d.finishCmd q m.order 0x12 0
    else if !d.imported m.ctx f m.fenceDev then d.finishCmd q m.order 0x12 0
    else if !d.reachable m.fenceDev then d.finishCmd q m.order 0x0B 0
    else
      let p : Packet := { Packet.reset with op := .mgmtWrite, dst := m.fenceDev, cnt := 4 }
      let d := d.cmdMgmt q m.order { p with off := fenOff f + 0x18, data := [BitVec.ofNat 64 (v % 2 ^ 32)] }
      d.cmdMgmt q m.order { p with off := fenOff f + 0x1C, data := [BitVec.ofNat 64 (v / 2 ^ 32)] }

/-- Poll a remote fence (R382): its value is read, _LO first. -/
def Dev.pollFence (d : Dev) (k : Clock) (q : Nat) (m : Cmd) : Dev :=
  let p : Packet := { Packet.reset with op := .mgmtRead, dst := m.fenceDev, cnt := 4 }
  let d := d.cmdMgmt q m.order { p with off := fenOff m.fenceNo }
  let d := d.cmdMgmt q m.order { p with off := fenOff m.fenceNo + 4 }
  d.updCmd q m.order fun m => { m with pollAt := k.tsc, poll := [] }

/-- A FENCE_WAIT finds its fence not reached: it waits (R377, R497). -/
def Dev.beginWait (d : Dev) (k : Clock) (q : Nat) (m : Cmd) : Dev :=
  let d := d.updCmd q m.order fun m => { m with waiting := true }
  d.ledger k (cpSource q) m.ctx 0x03 (awQueue q) (fenceObj m.fenceNo m.fenceDev (BitVec.ofNat 64 (m.word 4))) 0 0 0 (m.fenceDev != d.id) none

/-- FENCE_WAIT (R377, R378, R382). -/
def execFenceWait (q : Fin 4096) (st : State) : Out :=
  onMem st fun d => d.beginCmd st.clk q 4 noWait fun d m =>
    let f := m.fenceNo
    let t := BitVec.ofNat 64 (m.word 4)
    let limit := bitsAt (m.word 5) 0 32
    let d := d.updCmd q m.order fun m => { m with deadline := if limit = 0 then none else some (st.clk.tsc + usec limit) }
    if m.fenceDev = d.id then
      let d := d.meetBerth st.clk (d.fence f).berth f
      let v := (d.fence f).value
      if (d.berth (d.queue q).berth).st ≠ .live then d
      else if !d.mayFence f m.ctx d.id false then d.finishCmd q m.order 0x12 0
      else if v = aborted then d.finishCmd q m.order 0x0C v.toNat
      else if t.toNat ≤ v.toNat then d.finishCmd q m.order 0 v.toNat
      else (d.updFence f fun y => { y with waiters := y.waiters ++ [{ queue := q, order := m.order, ctx := m.ctx, target := t }] }).beginWait st.clk q m
    else if !d.imported m.ctx f m.fenceDev then d.finishCmd q m.order 0x12 0
    else if !d.reachable m.fenceDev then d.finishCmd q m.order 0x0B 0
    else d.pollFence st.clk q m

/-- FENCE_WAIT_TIMEOUT (R377): a wait's timeout has passed. -/
def execFenceWaitTimeout (q : Fin 4096) (n : Nat) (st : State) : Out :=
  onMem st fun d =>
    match d.cmd q n with
    | none => d
    | some m =>
      let late := m.deadline.any fun t => decide (t ≤ st.clk.tsc)
      if m.opcode ≠ 4 ∨ m.status ≠ none ∨ late = false ∨ d.stopped then d
      else
        let f := m.fenceNo
        let w : Waiter := { queue := q, order := n, ctx := m.ctx, target := BitVec.ofNat 64 (m.word 4) }
        let own := m.fenceDev == d.id
        let seen := if own then (d.fence f).value else m.seen
        let d := if own then d.updFence f fun y => { y with waiters := y.waiters.filter fun w => !(w.queue == q.val && w.order == n) } else d
        if m.waiting then d.endWait st.clk f m.fenceDev w 0x0D seen 0 0 else d.finishCmd q n 0x0D seen.toNat

/-- REMOTE_FENCE_POLL (R382): 1 µs after the last poll the value is read again. (DESIGN CHOICE, assumption 53.) -/
def execRemoteFencePoll (q : Fin 4096) (n : Nat) (st : State) : Out :=
  onMem st fun d =>
    match d.cmd q n with
    | none => d
    | some m =>
      if m.opcode ≠ 4 ∨ m.status ≠ none ∨ m.fenceDev = d.id ∨ m.reqs ≠ [] ∨ passed st.clk m.pollAt (usec 1) = false ∨ d.stopped = true then d
      else if !d.reachable m.fenceDev then d.endWait st.clk m.fenceNo m.fenceDev
        { queue := q, order := n, ctx := m.ctx, target := BitVec.ofNat 64 (m.word 4) } 0x0B m.seen 0 0
      else d.pollFence st.clk q m

/-- BATCH_MARK (R373, R493, R497). -/
def execBatchMark (q : Fin 4096) (st : State) : Out :=
  onMem st fun d => d.beginCmd st.clk q 5 noWait fun d m =>
    let d := d.switchBank q (BitVec.ofNat 64 (m.word 3)) 5
    let d := d.ledger st.clk (cpSource q) m.ctx 0x0B (awQueue q) (BitVec.ofNat 64 (m.word 3)) 0 0 0 false none
    d.finishCmd q m.order 0 0

/-- The figures of QUERY_USAGE (R383, R491). -/
def Dev.usage (d : Dev) (k : Clock) (x : Nat) : List Nat :=
  let cx := d.ctx x
  let live := sumNat (d.cores.map fun e => sumNat ((e.2.ctxSince.filter fun y => y.1 == x).map fun y => k.tsc - y.2))
  let es := d.table x
  let bytes := fun (l : List (BitVec 256)) => sumNat (l.map fun e => 4096 * rePages e)
  let pinned := es.filter fun e => decide (reRes e < 2) && reKind e == 0 && decide (gaLocal (4096 * reTarget e) < hbmSize)
  [(cx.coreTime + live) / 6400, cx.arrayBusy, bytes es, bytes pinned, cx.hbmBytes, gtime k d, 0, 0]

/-- QUERY_USAGE (R383, R537). -/
def execQueryUsage (q : Fin 4096) (st : State) : Out :=
  onMem st fun d => d.beginCmd st.clk q 6 noWait fun d m =>
    let x := m.word 4
    let cx := d.ctx x
    if cx.st ≠ .free ∧ cx.berth ≠ (d.queue q).berth then d.finishCmd q m.order 0x0F 0
    else if cx.st ≠ .live ∨ 4096 ≤ x then d.finishCmd q m.order 0x10 0
    else d.resultWrite st.clk q m (m.word 3) ((d.usage st.clk x).flatMap fun v => bytesOf 8 v)

/-- TIMESTAMP_WRITE (R369, R537): the global time at which the command began. -/
def execTimestampWrite (q : Fin 4096) (st : State) : Out :=
  onMem st fun d => d.beginCmd st.clk q 7 noWait fun d m => d.resultWrite st.clk q m (m.word 3) (bytesOf 8 m.begin)

/-- LEDGER_MARK (R369, R497, R503): it completes when its record is placed or lost, or at once when none is made. -/
def execLedgerMark (q : Fin 4096) (st : State) : Out :=
  onMem st fun d => d.beginCmd st.clk q 8 noWait fun d m =>
    let d := d.ledger st.clk (cpSource q) m.ctx 0x0A (awQueue q) (BitVec.ofNat 64 (m.word 3)) 0 0 0 false (some (q, m.order))
    let made := (mget LdgBuf.reset d.ldg.bufs (cpSource q)).recs.any fun r => r.queue == some (q.val, m.order)
    if made then d else d.finishCmd q m.order 0 0

/-! ### Admin opcodes (R369) -/

/-- CREATE_CONTEXT (R359, R360). (DEDUCED, assumption 52.) -/
def execCreateContext (q : Fin 4096) (st : State) : Out :=
  onMem st fun d => d.beginCmd st.clk q 0x40 noWait fun d m =>
    let b := (d.queue q).berth
    let mine := (d.ctl.ctxs.filter fun e => e.2.st != .free && e.2.berth == b).length
    match lowestFree 4096 (d.ctl.ctxs.filterMap fun e => if e.2.st = .free then none else some e.1) with
    | none => d.finishCmd q m.order 0x13 0
    | some x =>
      if (d.berth b).ctxLimit ≤ mine then d.finishCmd q m.order 0x13 0
      else
        let q4 := m.word 4
        let d := d.updCtx x fun _ => { Ctx.reset with
          st := .live, berth := b, inst := d.ctl.nextInst, area := m.word 3, cap := bitsAt q4 0 5, scalePinned := bitAt q4 5, ledger := bitAt q4 6 }
        ({ d with ctl := { d.ctl with nextInst := d.ctl.nextInst + 1 } }).finishCmd q m.order 0 x

/-- DESTROY_CONTEXT (R384, R391). -/
def execDestroyContext (q : Fin 4096) (st : State) : Out :=
  onMem st fun d => d.beginCmd st.clk q 0x41 noWait fun d m =>
    let x := m.ctx
    let d := if (d.ctx x).st = .live then d.startAbort st.clk x 1 false else d
    let d := d.updCtx x fun c => { c with destroyed := true }
    if (d.ctx x).abort.isSome then
      d.updCtx x fun c => { c with abort := c.abort.map fun a => { a with waits := a.waits ++ [(q.val, m.order)] } }
    else (d.freeCtx x).finishCmd q m.order 0 0

/-- The range entry that a MAP gives, its words 3 to 6 (R259). -/
def Cmd.range (m : Cmd) : BitVec 256 := BitVec.ofNat 256 (m.word 3 + 2 ^ 64 * m.word 4 + 2 ^ 128 * m.word 5 + 2 ^ 192 * m.word 6)

/-- MAP (R264 to R266): a rebuild begins only when no walk goes on upon the image that it would overwrite (R269). -/
def execMap (q : Fin 4096) (st : State) : Out :=
  onMem st fun d => d.beginCmd st.clk q 0x42 (fun d m => !d.oldWalks m.ctx || !(d.mapRange st.clk m.ctx m.range).2.1) fun d m =>
    let r := d.mapRange st.clk m.ctx m.range
    r.2.2.finishCmd q m.order r.1 0

/-- UNMAP (R290, R293): a fifth one of a context waits at the head of its queue, and so does one whose rebuild would overwrite an image
that a walk goes on upon (R269). -/
def execUnmap (q : Fin 4096) (st : State) : Out :=
  onMem st fun d => d.beginCmd st.clk q 0x43 (fun d m => decide ((d.ctx m.ctx).unmaps.length < 4) && !d.oldWalks m.ctx) fun d m =>
    match d.unmapRange st.clk m.ctx q m.order (m.word 3) (m.word 4) with
    | (some s, d) => d.finishCmd q m.order s 0
    | (none, d) => d

/-- RESUME_STREAM (R285, R288). -/
def execResumeStream (q : Fin 4096) (st : State) : Out :=
  onMem st fun d => d.beginCmd st.clk q 0x44 noWait fun d m =>
    let n := bitsAt (m.word 3) 0 12
    let s := d.stream n
    let ok := s.st == .faulted && s.ctx == m.ctx && s.fault.any fun f =>
      f.tag == bitsAt (m.word 3) 16 16 && !f.pend && decide (gtime st.clk d ≤ f.time + msec d.lkp.parkLimit)
    if !ok then d.finishCmd q m.order 8 0
    else
      let d := (d.endStall st.clk n (awQueue q)).updStream n fun s => { s with st := .running, fault := none }
      d.finishCmd q m.order 0 0

/-- The parked group that REPLAY_GROUP or KILL_GROUP names (R71, R74). -/
def Dev.parkedOf (d : Dev) (k : Clock) (m : Cmd) : Option (Nat × Nat × ParkInfo) :=
  let w := m.word 3
  let c := bitsAt w 0 9
  let s := bitsAt w 9 6
  let g := d.group c s
  g.park.bind fun p =>
    if g.st = .parked ∧ p.tag = bitsAt w 16 16 ∧ ((d.core c).block g.block).ctx = m.ctx ∧ gtime k d ≤ p.time + msec d.lkp.parkLimit
    then some (c, s, p) else none

/-- REPLAY_GROUP (R62, R71 to R73): the faulting instruction runs again for the lanes that it did not complete. -/
def execReplayGroup (q : Fin 4096) (st : State) : Out :=
  onMem st fun d => d.beginCmd st.clk q 0x45 noWait fun d m =>
    match d.parkedOf st.clk m with
    | none => d.finishCmd q m.order 7 0
    | some (c, s, p) =>
      let b := ((d.core c).blockOf s).berth
      let d := d.updGroup c s fun g => { g with
        st := .running, park := none, pc := p.pc, active := p.active &&& ~~~p.completed, replay := some p.active, resume := p.resume
        spins := [] }
      (d.settleOverflow b).finishCmd q m.order 0 0

/-- KILL_GROUP (R71, R72, R370): the group becomes Exited, and its LAUNCH counts it. -/
def execKillGroup (q : Fin 4096) (st : State) : Out :=
  onMem st fun d => d.beginCmd st.clk q 0x46 noWait fun d m =>
    match d.parkedOf st.clk m with
    | none => d.finishCmd q m.order 7 0
    | some (c, s, _) =>
      let b := (d.core c).blockOf s
      let d := d.updCmd b.queue b.launch fun m => { m with killed := m.killed + 1 }
      (d.exitGroup st.clk c s).finishCmd q m.order 0 0

/-- Add, change or remove an entry of this device's import table (R381): false when it is full. -/
def Dev.setImport (d : Dev) (x f dev : Nat) (signal revoke : Bool) : Bool × Dev :=
  let same := fun (i : Import) => i.ctx == x && i.fence == f && i.dev == dev
  let is := d.ctl.imports
  if revoke then (true, { d with ctl := { d.ctl with imports := is.filter fun i => !same i } })
  else if is.any same then (true, { d with ctl := { d.ctl with imports := is.map fun i => if same i then { i with signal := signal } else i } })
  else if 16384 ≤ is.length then (false, d)
  else (true, { d with ctl := { d.ctl with imports := is ++ [{ ctx := x, fence := f, dev := dev, signal := signal }] } })

/-- Add, change or remove an entry of a fence's export table (R381). -/
def Dev.setExport (d : Dev) (f x dev : Nat) (signal revoke : Bool) : Dev :=
  d.updFence f fun y =>
    let same := fun (e : Export) => e.ctx == x && e.dev == dev
    if revoke then { y with exports := y.exports.filter fun e => !same e }
    else if y.exports.any same then { y with exports := y.exports.map fun e => if same e then { e with signal := signal } else e }
    else { y with exports := y.exports ++ [{ ctx := x, dev := dev, signal := signal }] }

/-- EXPORT_FENCE commands in progress that are to add an entry to a fence (R381). (DEDUCED, assumption 55.) -/
def Dev.exporting (d : Dev) (f : Nat) : Nat :=
  sumNat (d.ctl.queues.map fun e => (e.2.cmds.filter fun m => m.opcode == 0x47 && m.reqs != [] && m.fenceNo == f && !bitAt (m.word 4) 29).length)

/-- EXPORT_FENCE (R381). -/
def execExportFence (q : Fin 4096) (st : State) : Out :=
  onMem st fun d => d.beginCmd st.clk q 0x47 noWait fun d m =>
    let f := m.fenceNo
    let y := d.fence f
    let x := bitsAt (m.word 4) 0 16
    let dev := bitsAt (m.word 4) 16 12
    let signal := bitAt (m.word 4) 28
    let revoke := bitAt (m.word 4) 29
    let held := y.exports.any fun e => e.ctx == x && e.dev == dev
    if !(y.valid && y.owner == m.ctx) then d.finishCmd q m.order 0x12 0
    else if revoke && !held then d.finishCmd q m.order 0 0
    else if !revoke && !held && decide (8 ≤ y.exports.length + d.exporting f) then d.finishCmd q m.order 3 0
    else if !d.reachable dev then d.finishCmd q m.order 0x0B 0
    else if dev = d.id then
      match d.setImport x f d.id signal revoke with
      | (false, d) => d.finishCmd q m.order 3 0
      | (true, d) => (d.setExport f x dev signal revoke).finishCmd q m.order 0 0
    else d.cmdMgmt q m.order { Packet.reset with
      op := .mgmtWrite, dst := dev, aop := if revoke then 3 else 2, off := f, no := x, cnt := b2n signal }

/-- BERTH_RESET (R413, R416). -/
def execBerthReset (q : Fin 4096) (st : State) : Out :=
  onMem st fun d => d.beginCmd st.clk q 0x48 noWait fun d m =>
    d.startBerthReset st.clk (bitsAt (m.word 3) 0 5) (bitAt (m.word 3) 5) false [(q.val, m.order)]

/-! ### Completion (R364, R366, R369, R411) -/

/-- A command completes: a queue that is set to halts on an error (R366, R475). -/
def Queue.haltFor (x : Queue) (m : Cmd) : Queue :=
  let s := m.status.getD 0
  if m.poisoned || (x.haltOn && s != 0) then { x with halted := true, haltStatus := s } else x

/-- Step 1 of R369: the completion signal is applied, or refused with DENIED. -/
def Dev.signalCmd (d : Dev) (k : Clock) (q : Nat) (m : Cmd) : Dev :=
  if m.signalled then d
  else
    let w := m.word 1
    let f := bitsAt w 16 16
    let ask := bitAt w 8 && m.status == some 0
    let may := d.mayFence f m.ctx d.id true
    let applied := ask && may && (d.fence f).value != aborted
    let d := if ask && may then d.signalFence k f (BitVec.ofNat 64 (m.word 2)) (awQueue q) d.id (cpSource q) else d
    let status := if ask && !may then some 0x12 else m.status
    (d.updCmd q m.order fun m => { m with signalled := true, applied := applied, status := status }).updQueue q fun x => x.haltFor { m with status := status }

/-- The completion record of a command (R371). -/
def Dev.completionRec (d : Dev) (k : Clock) (q : Nat) (m : Cmd) : BitVec 512 :=
  eventRec 0x10 (m.status.getD 0) m.opcode (d.effClass (d.queue q).berth m.cls + 4 * b2n m.applied) m.ctx q m.seq m.result.toNat (gtime k d) m.begin

/-- A command is posted: it leaves the queue. -/
def Dev.leaveCmd (d : Dev) (q : Nat) (m : Cmd) : Dev :=
  d.updQueue q fun x => { x with cmds := x.cmds.filter fun y => y.order != m.order }

/-- Post one finished command (R369): its signal, then its record, which waits while its ring is full (R411). -/
def Dev.postCmd (d : Dev) (k : Clock) (q : Nat) (m : Cmd) : Dev :=
  let d := d.signalCmd k q m
  match d.cmd q m.order with
  | none => d
  | some m' =>
    let b := (d.queue q).berth
    let r := bitsAt (m.word 1) 4 4
    if m'.status = some 0 ∧ bitAt (m.word 0) 9 = false then d.leaveCmd q m'
    else
      let x := d.ring b r
      let bytes := d.completionRec k q m'
      let urgent := d.effClass b m.cls == 0
      if !x.enable || !x.full then (d.writeRing k b r bytes urgent).leaveCmd q m' else d

/-- Whether a store or an atomic of a LAUNCH's groups is still to be performed (R367). (DEDUCED, assumption 168.) -/
def Dev.launchStores (d : Dev) (q n : Nat) : Bool :=
  d.cores.any fun e => e.2.ops.any fun o => o.2.queue == q && o.2.launch == n && !o.2.lanes.isEmpty

/-- The command whose completion is next to be posted: in record order on a work queue, any on an admin queue (R364, R365). A result
write that its abort overtook waits for its answer, and a LAUNCH for the stores of its groups: its completion is a release of
every memory effect (R367). -/
def Dev.nextPost (d : Dev) (q : Nat) : Option Cmd :=
  let x := d.queue q
  let done := fun (m : Cmd) => m.status.isSome && !((m.opcode == 6 || m.opcode == 7) && m.reqs != []) && !(m.opcode == 1 && d.launchStores q m.order)
  let full := fun (m : Cmd) => m.signalled && (d.ring x.berth (bitsAt (m.word 1) 4 4)).enable && (d.ring x.berth (bitsAt (m.word 1) 4 4)).full
  if x.admin then (match x.cmds.find? fun m => done m && !full m with
    | some m => some m
    | none => x.cmds.find? done)
  else x.cmds.head?.bind fun m => if done m then some m else none

/-- COMMAND_COMPLETION (R369): the next completion of a queue is posted; with none finished, a NOP or a record that completes with an
error of R363 is begun, and posted in its turn. (DESIGN CHOICE, assumption 47.) -/
def execCommandCompletion (q : Fin 4096) (st : State) : Out :=
  onMem st fun d =>
    let b := (d.queue q).berth
    if d.stopped || (d.berth b).st == .resetting then d
    else
      match d.nextPost q with
      | some m => d.postCmd st.clk q m
      | none =>
        match d.headCmd st.clk q with
        | (none, d) => d
        | (some m, d) =>
          if d.mayBegin q m = false then d
          else
            match d.cmdCheck q m with
            | some s => (d.readCmd q m).finishCmd q m.order s 0
            | none => if m.opcode = 0 then (d.readCmd q m).finishCmd q m.order 0 0 else d

end Sys2Proof.Machine
end

