-- ==== Sys2Proof/Machine/RegFields.lean ====
section
/-! DEFINITION. Register space as it reads (R9 to R15, R507 to R515): the live value of every register, block by block, at its
offset within the operator window. -/

namespace Sys2Proof.Machine

/-! ### CRC-32C (R470) -/

/-- One bit of the reflected CRC-32C, polynomial 0x82F63B78. -/
def crcBit (c : Nat) : Nat := if c % 2 = 1 then (c / 2) ^^^ 0x82F63B78 else c / 2

/-- One byte of the CRC. -/
def crcByte (c : Nat) (b : Byte) : Nat := (List.range 8).foldl (fun c _ => crcBit c) (c ^^^ b.toNat)

/-- CRC-32C of bytes. -/
def crc32c (bs : List Byte) : Nat := (bs.foldl crcByte 0xFFFFFFFF) ^^^ 0xFFFFFFFF

/-- The 32 bytes of an error-log record (R470). -/
def erlBytes (r : ErlRec) : List Byte :=
  let body := bytesOf 28 (packBits [(0, 8, r.cls), (8, 8, r.src), (16, 16, r.code), (32, 16, r.unit), (48, 8, r.berth),
    (56, 1, b2n r.nvm), (57, 1, b2n r.coal), (64, 64, r.addr.toNat), (128, 64, r.time), (192, 16, min 65535 r.count), (208, 16, r.detail)])
  body ++ bytesOf 4 (crc32c body)

/-! ### Values of registers -/

/-- One half of a 64-bit register: `i` is 0 for _LO. -/
def half (v i : Nat) : Nat := if i = 0 then v % 2 ^ 32 else v / 2 ^ 32 % 2 ^ 32

/-- Whether the word at an offset within the operator window is the _LO half of a 64-bit register (R13, R515). -/
def isPair (o : Nat) : Bool :=
  o == 0x000C || o == 0x200C || o == 0x2014 || o == 0x4000 || o == 0x4010 || o == 0x4018 || o == 0x5008 || o == 0x5014 || o == 0x100008 ||
  (decide (0x20000 ≤ o) && decide (o < 0x40000) &&
    (let x := (o - 0x20000) % 0x1000
     x == 0x100 || x == 0x408 || x == 0x410 || (decide (0x200 ≤ x) && decide (x < 0x400) && x % 0x20 == 0))) ||
  (decide (0x90000 ≤ o) && decide (o < 0x98000) && o % 8 == 0) ||
  (decide (0xA0000 ≤ o) && decide (o < 0xB0000) && o % 16 == 0) ||
  (decide (0xB0000 ≤ o) && decide (o < 0xB0800) && o % 8 == 0) ||
  (decide (0xE0000 ≤ o) && decide (o < 0x100000) && o % 0x20 == 0) ||
  (decide (0x200000 ≤ o) && decide (o < 0x400000) && (o % 0x20 == 0 || o % 0x20 == 0x10 || o % 0x20 == 0x18))

/-- LKP_ (R443). -/
def Dev.lkpReg (d : Dev) (o : Nat) : Nat :=
  let l := d.lkp
  match o with
  | 0x0 => packBits [(0, 4, l.st.ctorIdx), (4, 4, l.step), (8, 4, l.recovery), (12, 1, b2n l.firstBoot)]
  | 0x4 => packBits [(0, 28, l.boots), (28, 1, b2n l.lastWarm), (29, 1, b2n l.preserved)]
  | 0xC => half l.arg.toNat 0
  | 0x10 => half l.arg.toNat 1
  | 0x14 => l.len.toNat
  | 0x18 => packBits [(0, 1, b2n l.busy), (1, 1, b2n l.overrun), (2, 8, l.cmd), (10, 8, l.status)]
  | _ => 0

/-- Bits burned in the anti-rollback counter (R420). -/
def Fuses.rollCount (f : Fuses) : Nat := ((List.range 64).filter fun i => f.rollback.getLsbD i).length

/-- SEC_STATE (R443). -/
def Dev.secReg (d : Dev) (p : Perm) (o : Nat) : Nat :=
  if o = 0 then
    packBits [(0, 1, b2n (p.fuses.opKey != 0)), (1, 7, p.fuses.rollCount), (8, 1, b2n d.lkp.consent.isSome), (9, 1, b2n d.lkp.debug), (10, 8, d.lkp.fwVer)]
  else 0

/-- Ports in low-power idle. -/
def Dev.lpiPorts (d : Dev) : Nat := sumNat (d.fab.ports.map fun e => if e.2.lpi then 2 ^ e.1 else 0)

/-- PWR_STATE.state (R444, R468). -/
def Dev.powerState (d : Dev) : Nat :=
  match d.pwr.st with
  | .underway => if d.pwr.gated = 0 ∧ d.lpiPorts = 0 then 0 else 1
  | .mooring => 2
  | .moored => 3
  | .unmooring => 4

/-- PWR_ (R468). -/
def Dev.pwrReg (d : Dev) (k : Clock) (o : Nat) : Nat :=
  let w := d.pwr
  match o with
  | 0x0 => packBits [(0, 3, d.powerState), (3, 5, k.setting), (8, 10, w.coreLimit), (18, 1, b2n (w.unmet.any fun e => e.2.on)), (19, 8, w.hottest)]
  | 0x4 => packBits [(0, 12, w.cap), (12, 5, w.floor)]
  | 0x8 => packBits [(1, 1, b2n w.wakeEn), (2, 2, w.last)]
  | 0xC => half w.wake.toNat 0
  | 0x10 => half w.wake.toNat 1
  | 0x14 => w.gated.toNat
  | 0x18 => d.lpiPorts
  | _ => 0

/-- Cap of a rail's offset, in steps of 2.5 mV (R453); VAON takes none. -/
def railCap (n : Nat) : Nat := if n < 4 then 20 else if n < 8 then 16 else if n = 8 then 12 else if n = 9 then 10 else 0

/-- GAU_RAIL.capped (R468), of a rail that takes an offset. (DEDUCED, assumption 129.) -/
def railCapped (n : Nat) (r : Rail) : Bool := decide (0 < railCap n) && decide (railCap n ≤ r.off)

/-- GAU_ (R468). -/
def Dev.gauReg (d : Dev) (o : Nat) : Nat :=
  if o = 0 then packBits [(0, 5, d.gau.ceiling), (5, 1, b2n d.gau.ended), (6, 26, d.gau.version)]
  else if 0x10 ≤ o ∧ o < 0x10 + 44 then
    let r := mget Rail.reset d.gau.rails ((o - 0x10) / 4)
    packBits [(0, 5, r.off), (5, 1, b2n (railCapped ((o - 0x10) / 4) r)), (6, 10, ofSigned 10 r.slack), (16, 16, r.current)]
  else 0

/-- TIM_ (R332, R504, R506). -/
def Dev.timReg (d : Dev) (k : Clock) (o : Nat) : Nat :=
  let t := d.tim
  match o with
  | 0x0 => half (ofSigned 64 t.off) 0
  | 0x4 => half (ofSigned 64 t.off) 1
  | 0x8 => packBits [(0, 1, b2n t.valid), (1, 1, b2n t.common), (2, 4, min 15 t.hops), (6, 1, b2n t.remeas), (7, 1, b2n t.stepBack)]
  | 0x10 => half k.tsc 0
  | 0x14 => half k.tsc 1
  | 0x18 => half (gtime k d) 0
  | 0x1C => half (gtime k d) 1
  | _ => 0

/-- LDG_ (R506). -/
def Dev.ldgReg (d : Dev) (o : Nat) : Nat :=
  let l := d.ldg
  match o with
  | 0x0 => packBits [(0, 2, l.mode), (2, 4, l.pre), (6, 1, b2n l.enable), (7, 1, b2n l.matchEn), (8, 1, b2n l.abortEn)]
  | 0x8 => half l.base 0
  | 0xC => half l.base 1
  | 0x10 => l.size
  | 0x14 => half l.prod.toNat 0
  | 0x18 => half l.prod.toNat 1
  | 0x1C => l.lost
  | 0x20 => packBits [(0, 2, l.st.ctorIdx), (2, 3, l.cause)]
  | 0x28 => l.matchV.toNat
  | 0x2C => l.trig
  | _ => 0

/-- WHF_ (R357). -/
def Dev.whfReg (d : Dev) (o : Nat) : Nat :=
  let w := d.whf
  if o = 0 then
    let active := (w.sessions.filter fun e => !isStorage e.1 && e.2.st == .active).length
    packBits [(0, 1, b2n w.isWharf), (1, 9, active), (10, 9, w.limit)]
  else if o = 4 then packBits [(0, 16, w.frames), (16, 16, w.auth)]
  else if 0x100 ≤ o ∧ o < 0x500 then
    let s := d.session ((o - 0x100) / 4)
    packBits [(0, 2, s.st.ctorIdx), (2, 2, s.port - 14), (4, 7, s.windows.length), (11, 11, min 1024 s.heldCount), (22, 4, s.lastEnd)]
  else if 0x500 ≤ o ∧ o < 0x900 then (d.session ((o - 0x500) / 4)).berths.toNat
  else 0

/-- Progress and completed passes of a stack's scrub: the present pass in thousandths, and the passes that every pseudo-channel has
completed (R222, R229). -/
def Stack.scrubReg (s : Stack) : Nat :=
  let ns := (List.range 32).map fun i => mget 0 s.scrubbed i
  let passes := ns.foldl (fun a n => min a (n / scrubEnd)) (mget 0 s.scrubbed 0 / scrubEnd)
  let done := sumNat (ns.map fun n => min scrubEnd (n - passes * scrubEnd))
  packBits [(0, 10, 1000 * done / (32 * scrubEnd)), (10, 16, passes)]

/-- HBM_ (R229). -/
def Dev.hbmReg (d : Dev) (o : Nat) : Nat :=
  if o < 0x20 then
    let s := d.stack (o / 4)
    packBits [(0, 2, s.st), (2, 1, b2n s.selfRefresh), (3, 16, s.failed.toNat), (19, 8, s.temp)]
  else if o < 0x40 then (d.stack ((o - 0x20) / 4)).scrubReg
  else if o = 0x40 then d.mem.nres
  else if 0x100 ≤ o ∧ o < 0x200 then mget 0 d.mem.nwin ((o - 0x100) / 4)
  else 0

/-- BAS_ (R229). -/
def Dev.basReg (d : Dev) (o : Nat) : Nat :=
  if o < 0x200 then
    let s := d.slice (o / 4)
    packBits [(0, 6, s.off.length), (6, 1, b2n s.degraded), (7, 1, b2n s.refused), (8, 6, s.vOff.length)]
  else 0

/-- A matrix instruction holds its tile, from the start of its first phase to its completion. -/
def MxEntry.holds (e : MxEntry) (t : Nat) : Bool := !e.done && e.phase != .queued && e.tile == t

/-- MXA_STATUS (R140). -/
def Core.mxaReg (k : Core) (acyc : Nat) : Nat :=
  let busy := sumNat (k.mxq.map fun e => if e.2.done then 0 else 2 ^ e.1)
  let on := fun t => k.mxq.any fun e => e.2.holds t
  packBits [(0, 8, busy), (8, 1, b2n (on 0)), (9, 1, b2n (on 1)), (10, 1, b2n k.t0.claim.isSome), (11, 1, b2n k.t1.claim.isSome),
    (12, 5, k.t0.claim.getD 0), (17, 5, k.t1.claim.getD 0), (22, 2, k.t0.kind.ctorIdx), (24, 2, k.t1.kind.ctorIdx),
    (26, 1, b2n k.t0.poison), (27, 1, b2n k.t1.poison), (28, 2, k.multipliers acyc),
    (30, 1, b2n (k.mxq.any fun e => !e.2.done && e.2.phase == .drain))]

/-- BWP_STATUS (R180). -/
def Core.bwpReg (k : Core) (ccyc : Nat) : Nat :=
  let lines := (k.mshrs.filter fun m => m.2.bw.isSome && !m.2.orphan).length
  packBits [(0, 4, sumNat (k.bw.map fun e => 2 ^ e.1)), (4, 4, sumNat (k.bw.map fun e => if k.bwComputes ccyc e.2 then 2 ^ e.1 else 0)), (8, 7, lines)]

/-- DIR_ (R257). -/
def Dev.dirReg (d : Dev) (o : Nat) : Nat :=
  if o < 0x200 then
    let s := d.slice (o / 4)
    packBits [(0, 14, s.dir.length), (14, 5, s.recalls.length), (19, 7, s.atomSlots)]
  else if 0x1000 ≤ o ∧ o < 0x5000 then mget 0x80 d.fab.reach ((o - 0x1000) / 4)
  else if 0x5000 ≤ o ∧ o < 0x7000 then
    let i := (o - 0x5000) / 4
    packBits ((List.range 8).map fun j => (4 * j, 4, mget 0xF d.fab.hops (128 * (i / 16) + 8 * (i % 16) + j)))
  else 0

/-- A berth's BTH_ sub-block (R294, R419). -/
def Dev.bthReg (d : Dev) (b o : Nat) : Nat :=
  let x := d.berth b
  match o with
  | 0x0 => packBits [(0, 2, x.st.ctorIdx), (2, 10, d.held b), (12, 9, d.boundSessions b), (21, 1, b2n x.headless), (22, 8, x.resets)]
  | 0x4 => packBits [(0, 10, x.minCores), (10, 1, b2n x.spread), (11, 2, x.ceiling)]
  | 0x8 => packBits [(0, 8, x.coreW), (8, 8, x.linkW), (16, 8, x.bargeW)]
  | 0xC => packBits [(0, 14, x.hbmRate), (14, 8, x.hbmDepth)]
  | 0x10 => packBits [(0, 13, x.ctxLimit), (13, 13, x.streamLimit)]
  | 0x14 => packBits [(0, 1, b2n x.headlessPol), (1, 12, x.grace), (13, 1, b2n x.keyPreserve)]
  | 0x100 => half x.fqBase 0
  | 0x104 => half x.fqBase 1
  | 0x108 => x.fqSize
  | 0x10C => x.fqProd.toNat
  | 0x110 => x.fqCons.toNat
  | 0x114 => packBits [(0, 1, b2n x.overflow), (1, 16, (d.pendings b).length)]
  | 0x404 => if b = 0 then packBits [(0, 1, b2n d.mem.grant.isSome), (1, 1, b2n d.mem.grantRef)] else 0
  | 0x408 => if b = 0 then half d.mem.ownerBase 0 else 0
  | 0x40C => if b = 0 then half d.mem.ownerBase 1 else 0
  | _ =>
    if 0x200 ≤ o ∧ o < 0x400 then
      let r := d.ring b ((o - 0x200) / 0x20)
      match o % 0x20 with
      | 0x0 => half r.base 0
      | 0x4 => half r.base 1
      | 0x8 => packBits [(0, 1, b2n r.enable), (1, 5, r.sizeLog2)]
      | 0xC => r.prod.toNat
      | 0x10 => r.cons.toNat
      | 0x14 => r.lost
      | _ => 0
    else 0

/-- Bytes of an entry of the taint list (R486). -/
def taintBytes (t : Taint) : List Byte := bytesOf 16 (packBits [(0, 64, t.line), (64, 8, t.key), (72, 4, t.sectors.toNat)])

/-- Four bytes of a list, as a word. -/
def wordAt (bs : List Byte) (o : Nat) : Nat := natOf ((bs.drop o).take 4)

/-- ERL_ (R470, R486). -/
def Dev.erlReg (d : Dev) (p : Perm) (o : Nat) : Nat :=
  let e := d.erl
  if o = 0 then e.prod.toNat
  else if o = 4 then packBits [(0, 1, b2n e.overflow), (1, 1, b2n p.retire), (2, 16, min 65535 p.fatal.length)]
  else if o = 8 then e.taint.length
  else if 0x10000 ≤ o ∧ o < 0x20000 then
    match mget? e.ring ((o - 0x10000) / 32) with
    | none => 0
    | some r => wordAt (erlBytes r) (o % 32)
  else if 0x20000 ≤ o ∧ o < 0x21000 then
    match e.taint[(o - 0x20000) / 16]? with
    | none => 0
    | some t => wordAt (taintBytes t) (o % 16)
  else 0

/-- Bits of a route entry that are not reserved (R11, R311). -/
def routeMask : BitVec 64 := BitVec.ofNat 64 (2 ^ 46 - 1)

/-- FAB_ (R311, R332). -/
def Dev.fabReg (d : Dev) (o : Nat) : Nat :=
  if o < 0x480 then
    let p := d.port (o / 0x40)
    match o % 0x40 with
    | 0x0 => packBits [(0, 2, p.role.ctorIdx), (2, 1, b2n p.encrypt), (3, 1, b2n p.fullWidth), (4, 12, p.nbrDev), (16, 5, p.nbrPort)]
    | 0x4 => packBits [(0, 3, p.st.ctorIdx), (3, 3, p.width), (6, 8, p.lanes.toNat), (14, 3, p.reason), (17, 1, b2n p.unmet)]
    | 0x8 => packBits [(0, 16, p.replays), (16, 8, p.retrains), (24, 8, p.fecUnc)]
    | _ => 0
  else if o = 0x800 then d.fab.stray
  else if 0x10000 ≤ o ∧ o < 0x18000 then half (mget 0 d.fab.routes ((o - 0x10000) / 8) &&& routeMask).toNat (o % 8 / 4)
  else 0

/-- TRN_ (R294). -/
def Dev.trnReg (d : Dev) (o : Nat) : Nat :=
  if o < 0x10000 then
    let c := d.ctx (o / 16)
    match o % 16 with
    | 0x0 => half c.area 0
    | 0x4 => half c.area 1
    | 0x8 => packBits [(0, 5, c.cap), (5, 1, c.image), (6, 19, c.count)]
    | _ => packBits [(0, 16, c.epoch), (16, 16, c.orphans)]
  else if o < 0x10800 then half (if o < 0x10008 then 0 else (mget 0 d.ctl.mirrors ((o - 0x10000) / 8)).toNat % 2 ^ 57) (o % 8 / 4)
  else 0

/-- BRG_STREAM_STATUS (R294). -/
def Dev.brgReg (d : Dev) (o : Nat) : Nat :=
  let s := d.stream (o / 4)
  packBits [(0, 4, s.st.ctorIdx), (4, 12, s.queue), (16, 16, s.ctx)]

/-- A queue's registers (R392). -/
def Dev.queReg (d : Dev) (o : Nat) : Nat :=
  let x := d.queue (o / 0x20)
  match o % 0x20 with
  | 0x0 => half x.base 0
  | 0x4 => half x.base 1
  | 0x8 => packBits [(0, 1, b2n x.enable), (1, 5, x.sizeLog2), (6, 1, b2n x.haltOn), (7, 1, b2n x.admin), (8, 5, x.berth), (13, 1, b2n x.granted)]
  | 0xC => x.head.toNat
  | 0x10 => x.tail.toNat
  | 0x18 => packBits [(0, 3, x.state), (3, 1, b2n x.dbErr), (4, 8, x.haltStatus), (12, 2, min 3 x.running.length)]
  | _ => 0

/-- A bank's view, as its 16 words (R506). -/
def Bank.view (x : Bank) : List (BitVec 32) :=
  let pair := fun n => [BitVec.ofNat 32 n, BitVec.ofNat 32 (n / 2 ^ 32)]
  pair x.tag.toNat ++ [BitVec.ofNat 32 (packBits [(0, 8, x.opener), (8, 1, b2n x.final), (9, 1, b2n x.opened)]), 0] ++
    pair x.blocks ++ pair x.groupCycles ++ pair x.arrayBusy ++ pair x.memBytes ++ pair x.copyBytes ++ [BitVec.ofNat 32 x.faults, 0]

/-- The view at an offset of the CNT_ block, and the offset of its first word (R496, R506). -/
def Dev.viewAt (d : Dev) (o : Nat) : Option (Nat × List (BitVec 32)) :=
  if 0x10000 ≤ o ∧ o < 0x90000 then
    let x := d.queue ((o - 0x10000) / 0x80)
    some (o / 0x40 * 0x40, (if o / 0x40 % 2 = 0 then x.cur else x.last).view)
  else none

/-- CNT_ (R506). -/
def Dev.cntReg (d : Dev) (o : Nat) : Nat :=
  let c := d.cnt
  match o with
  | 0x0 => packBits [(0, 20, c.interval), (20, 1, b2n c.enable)]
  | 0x8 => half c.base 0
  | 0xC => half c.base 1
  | 0x10 => c.size
  | 0x14 => c.prod.toNat
  | _ => match d.viewAt o with
    | some (_, ws) => (ws.getD (o % 0x40 / 4) 0).toNat
    | none => 0

/-- A fence's registers (R392). -/
def Dev.fenReg (d : Dev) (o : Nat) : Nat :=
  let f := d.fence (o / 0x20)
  match o % 0x20 with
  | 0x0 => half f.value.toNat 0
  | 0x4 => half f.value.toNat 1
  | 0x8 => packBits [(0, 16, f.owner), (16, 1, b2n f.valid), (17, 1, b2n f.strict), (18, 1, b2n f.rebRefused), (19, 5, f.berth), (24, 1, b2n f.granted),
      (25, 4, f.exports.length), (29, 1, b2n f.cfgRefused)]
  | 0xC => f.ooo
  | _ => 0

/-- The live value of the register word at an offset within the operator window (R508, R515); 0 where no register lies. -/
def Dev.liveReg (d : Dev) (p : Perm) (k : Clock) (o : Nat) : Nat :=
  if o < 0x1000 then d.lkpReg o
  else if o < 0x2000 then d.secReg p (o - 0x1000)
  else if o < 0x3000 then d.pwrReg k (o - 0x2000)
  else if o < 0x4000 then d.gauReg (o - 0x3000)
  else if o < 0x5000 then d.timReg k (o - 0x4000)
  else if o < 0x6000 then d.ldgReg (o - 0x5000)
  else if o < 0x7000 then d.whfReg (o - 0x6000)
  else if o < 0x8000 then d.hbmReg (o - 0x7000)
  else if o < 0x9000 then d.basReg (o - 0x8000)
  else if o < 0xA000 then (if o < 0x9800 then (d.core ((o - 0x9000) / 4)).mxaReg k.acyc else 0)
  else if o < 0xB000 then (if o < 0xA800 then (d.core ((o - 0xA000) / 4)).bwpReg k.ccyc else 0)
  else if o < 0x10000 then 0
  else if o < 0x18000 then d.dirReg (o - 0x10000)
  else if o < 0x20000 then 0
  else if o < 0x40000 then d.bthReg ((o - 0x20000) / 0x1000) ((o - 0x20000) % 0x1000)
  else if o < 0x80000 then d.erlReg p (o - 0x40000)
  else if o < 0xA0000 then d.fabReg (o - 0x80000)
  else if o < 0xC0000 then d.trnReg (o - 0xA0000)
  else if o < 0xC4000 then d.brgReg (o - 0xC0000)
  else if o < 0xE0000 then 0
  else if o < 0x100000 then d.queReg (o - 0xE0000)
  else if o < 0x200000 then d.cntReg (o - 0x100000)
  else if o < 0x400000 then d.fenReg (o - 0x200000)
  else 0

end Sys2Proof.Machine
end

