-- ==== Sys2Proof/Machine/Ledger.lean ====
section
/-! DEFINITION. The ledger assembly (R498 to R503): how a record is laid out and placed in the ring, the trigger window, and the
setting and clearing of enable. -/

namespace Sys2Proof.Machine

/-- Records that the ring holds (R500). -/
def Ledger.slots (l : Ledger) : Nat := 32768 * l.size

/-- The 32 bytes of a ledger record (R498). -/
def ldgBytes (dev : Nat) (r : LdgRec) : List Byte :=
  bytesOf 32 (packBits [(0, 64, r.time), (64, 8, r.kind), (72, 8, r.flags), (80, 16, r.ctx), (96, 32, r.waiter.toNat), (128, 64, r.obj.toNat),
    (192, 32, r.rel.toNat), (224, 12, dev), (236, 12, r.relDev), (248, 8, r.detail)])

/-- Write a record in the next slot of the ring; it counts as placed (R500). -/
def Dev.ldgWrite (d : Dev) (k : Clock) (r : LdgRec) : Dev :=
  let l := d.ldg
  let d := d.poke k 0 (l.base + 32 * (l.prod.toNat % l.slots)) (ldgBytes d.id r)
  { d with ldg := { d.ldg with prod := d.ldg.prod + 1 } }

/-- A record is counted as lost at the ring (R500). -/
def Dev.ldgLose (d : Dev) : Dev := { d with ldg := { d.ldg with lost := satAdd (2 ^ 32 - 1) d.ldg.lost 1 } }

/-- Write a GAP stop marker, and stop (R500, R501). -/
def Dev.ldgStop (d : Dev) (k : Clock) (src time : Nat) : Dev :=
  let d := d.ldgWrite k { LdgRec.reset with time := time, kind := 0x0F, flags := 2 * b2n (!d.tim.valid), waiter := awSource src }
  { d with ldg := { d.ldg with st := .stopped } }

/-- Trigger the trigger window (R501, R502): the TRIGGER record takes slot T, which LDG_TRIG_INDEX names. A cause in another state or
mode is ignored. -/
def Dev.ldgTriggered (d : Dev) (k : Clock) (cause time : Nat) : Dev :=
  let l := d.ldg
  if l.st ≠ .recording ∨ l.mode ≠ 2 ∨ l.slots = 0 then d
  else
    let slot := l.prod.toNat % l.slots
    let d := d.ldgWrite k { LdgRec.reset with
      time := time, kind := 0x0E, flags := 2 * b2n (!d.tim.valid), obj := BitVec.ofNat 64 slot, detail := cause }
    { d with ldg := { d.ldg with st := .triggered, cause := cause, trig := slot, postLeft := l.slots * (16 - l.pre) / 16 - 2 } }

/-- Place a record that arrives at the assembly (R500, R501). (DEDUCED, assumption 78.) -/
def Dev.ldgPlace (d : Dev) (k : Clock) (src : Nat) (r : LdgRec) : Dev :=
  let l := d.ldg
  if l.slots = 0 ∨ l.st = .stopped then d.ldgLose
  else if l.mode = 1 ∧ l.slots - 1 ≤ l.prod.toNat then (d.ldgStop k src r.time).ldgLose
  else if l.st = .triggered then
    let d := d.ldgWrite k r
    let d := { d with ldg := { d.ldg with postLeft := l.postLeft - 1 } }
    if l.postLeft ≤ 1 then d.ldgStop k src (gtime k d) else d
  else d.ldgWrite k r

/-- Causes of the trigger that a record brings (R502). -/
def Ledger.causes (l : Ledger) (r : LdgRec) : Nat :=
  2 * b2n (l.matchEn && r.kind == 0x0A && r.obj == l.matchV.setWidth 64) +
    4 * b2n (l.abortEn && r.kind == 0x04 && (r.detail == 0x0C || r.detail == 0x0D))

/-- A LEDGER_MARK whose record was placed, lost or discarded completes (R503). -/
def Dev.ldgDone (d : Dev) (r : LdgRec) : Dev :=
  match r.queue with
  | some (q, n) => if (d.cmd q n).any fun m => m.status.isNone then d.finishCmd q n 0 0 else d
  | none => d

/-- LEDGER_DELIVERY (R499 to R502): the oldest record of a source's buffer arrives at the assembly. (DESIGN CHOICE, assumption 79.) -/
def execLedgerDelivery (src : Nat) (st : State) : Out :=
  onMem st fun d =>
    let buf := mget LdgBuf.reset d.ldg.bufs src
    match buf.recs with
    | [] => d
    | r :: rest =>
      if d.stopped || !d.ldg.enable then d
      else
        let d := { d with ldg := { d.ldg with bufs := mput d.ldg.bufs src { buf with recs := rest } } }
        let c := d.ldg.causes r
        let d := if c = 0 then d else d.ldgTriggered st.clk c r.time
        (d.ldgPlace st.clk src r).ldgDone r

/-- Clearing enable (R503): placement stops, and the buffered records are discarded. -/
def Dev.ldgOff (d : Dev) : Dev :=
  let rs := d.ldg.bufs.flatMap fun e => e.2.recs
  rs.foldl Dev.ldgDone { d with ldg := { d.ldg with enable := false, st := .off, bufs := [], postLeft := 0 } }

/-- LDG_CONFIG (R503, R506). -/
def Dev.ldgConfig (d : Dev) (v : Nat) : Dev :=
  let l := d.ldg
  if l.enable then (if bitAt v 6 then d else d.ldgOff)
  else
    let l := { l with mode := if bitsAt v 0 2 = 3 then l.mode else bitsAt v 0 2, pre := bitsAt v 2 4, matchEn := bitAt v 7, abortEn := bitAt v 8 }
    if bitAt v 6 then { d with ldg := { l with enable := true, st := .recording, prod := 0, lost := 0, trig := 0, postLeft := 0 } }
    else { d with ldg := l }

/-- LDG_TRIGGER (R502): berth 0's own cause. -/
def Dev.ldgTrigWrite (d : Dev) (k : Clock) (v : Nat) : Dev := if bitAt v 0 then d.ldgTriggered k 1 (gtime k d) else d

/-- LDG_TRIGGER (R502): a write of 1. -/
def execLdgTrigger (w : Fin 32) (st : State) : Out :=
  onMem st fun d => if w = 0 ∧ d.stopped = false then d.ldgTrigWrite st.clk 1 else d

/-- LEDGER_ENABLE (R503): a write of LDG_CONFIG with enable set. -/
def execLedgerEnable (w : Fin 32) (v : BitVec 32) (st : State) : Out :=
  onMem st fun d => if w = 0 ∧ d.stopped = false then d.ldgConfig (setBits v.toNat 6 1 1) else d

/-- LEDGER_DISABLE (R503): a write of LDG_CONFIG with enable clear. -/
def execLedgerDisable (w : Fin 32) (v : BitVec 32) (st : State) : Out :=
  onMem st fun d => if w = 0 ∧ d.stopped = false then d.ldgConfig (setBits v.toNat 6 1 0) else d

end Sys2Proof.Machine
end

