-- ==== Sys2Proof/Machine/RegAccess.lean ====
section
/-! DEFINITION. Register accesses (R9 to R13, R507 to R513): who may reach what, shadows and held halves, and the effect of every
write; with them the rows that are one such write. -/

namespace Sys2Proof.Machine

/-! ### Requesters (R511, R513) -/

/-- Code of a requester that is a device's agent, with the host session for agent 705. -/
def requester (dev agent session : Nat) : Nat := 2 + 512 * (1024 * dev + agent) + session

/-- Agent of a requester code; 1024 for the Lockkeeper (0) and 1025 for the side-band port (1). -/
def reqAgent (who : Nat) : Nat := if who = 0 then 1024 else if who = 1 then 1025 else (who - 2) / 512 % 1024
/-- Device of a requester code. -/
def reqDev (who : Nat) : Nat := (who - 2) / 512 / 1024
/-- Host session of a requester code. -/
def reqSession (who : Nat) : Nat := (who - 2) % 512

/-- Registers that berth `b`'s window reaches (R509): none when denied, else whether they may be written. -/
def Dev.windowSees (d : Dev) (b o : Nat) : Option Bool :=
  let q := d.queue ((o - 0xE0000) / 0x20)
  let v := d.queue ((o - 0x110000) / 0x80)
  let f := d.fence ((o - 0x200000) / 0x20)
  let c := d.ctx ((o - 0xA0000) / 16)
  if 0x20000 + 0x1000 * b ≤ o ∧ o < 0x21000 + 0x1000 * b then some true
  else if 0xE0000 ≤ o ∧ o < 0x100000 then (if q.granted ∧ q.berth = b then some true else none)
  else if 0x110000 ≤ o ∧ o < 0x190000 then (if v.granted ∧ v.berth = b then some false else none)
  else if 0x200000 ≤ o ∧ o < 0x400000 then (if f.granted ∧ f.berth = b then some true else none)
  else if 0xA0000 ≤ o ∧ o < 0xB0000 then (if c.st ≠ .free ∧ c.berth = b then some false else none)
  else if 0xC0000 ≤ o ∧ o < 0xC4000 then some false
  else if 0x4000 ≤ o ∧ o < 0x5000 then some false
  else if o = 0 then some false
  else none

/-- Whether an access is permitted (R509 to R514): the requester, the register-space offset, and whether it is a write. -/
def Dev.mayReach (d : Dev) (who off : Nat) (write : Bool) : Bool :=
  let b := off / regWindow
  let o := off % regWindow
  let a := reqAgent who
  let f := d.fence ((o - 0x200000) / 0x20)
  let fen := decide (0x200000 ≤ o) && decide (o < 0x400000) && b == 0
  if a = 1024 ∨ a = 704 ∨ a = 708 then true
  else if a = 1025 then
    !write && b == 0 && (o == 0 || o == 4 || o == 0x1000 || (decide (0x40000 ≤ o) && decide (o < 0x80000)))
  else if a = 705 then b == 0 || (d.windowSees b o).isSome
  else if a = 706 ∨ a = 707 then
    fen && f.valid && (if write then decide (0x18 ≤ o % 0x20) && f.exports.any (fun e => e.dev == reqDev who && e.signal)
      else decide (o % 0x20 < 8) && f.exports.any fun e => e.dev == reqDev who)
  else false

/-- Whether an offset may be read or written at all (R508, R512). -/
def regAligned (off : Nat) : Bool := off % 4 == 0 && regPopulated off

/-! ### Reads (R13, R496, R504, R509) -/

/-- A requester's shadow of a word. -/
def Dev.shadowOf (d : Dev) (who o : Nat) (isRead : Bool) : Option Shadow := d.shadows.find? fun s => s.who == who && s.off == o && s.isRead == isRead

/-- Drop a requester's shadow. -/
def Dev.dropShadow (d : Dev) (who o : Nat) (isRead : Bool) : Dev :=
  { d with shadows := d.shadows.filter fun s => !(s.who == who && s.off == o && s.isRead == isRead) }

/-- Set a requester's shadow. -/
def Dev.putShadow (d : Dev) (who o : Nat) (isRead : Bool) (val : List (BitVec 32)) : Dev :=
  let d := d.dropShadow who o isRead
  { d with shadows := d.shadows ++ [{ who := who, off := o, isRead := isRead, val := val }] }

/-- What a berth window shows of a register: its grant registers read 0 (R419), and a stream of another berth reads Idle (R509). -/
def Dev.windowValue (d : Dev) (b o v : Nat) : Nat :=
  let s := d.stream ((o - 0xC0000) / 4)
  if b ≠ 0 ∧ 0xC0000 ≤ o ∧ o < 0xC4000 ∧ (s.st = .idle ∨ s.berth ≠ b) then 0 else v

/-- Perform a permitted read at an offset (R13): the value, and the shadows that it captures or consumes. (DEDUCED, assumption 97.) -/
def Dev.readWord (d : Dev) (p : Perm) (k : Clock) (who off : Nat) : Nat × Dev :=
  let b := off / regWindow
  let o := off % regWindow
  let live := fun o => d.windowValue b o (d.liveReg p k o)
  let cap := fun (d : Dev) (o : Nat) => d.putShadow who o true [BitVec.ofNat 32 (live o)]
  if o = 0x4010 ∨ o = 0x4018 then (live o, cap (cap d 0x4014) 0x401C)
  else if isPair o then (live o, cap d (o + 4))
  else if 0x110000 ≤ o ∧ o < 0x190000 then
    let base := o / 0x40 * 0x40
    if o = base then
      let ws := ((d.viewAt (o - 0x100000)).map Prod.snd).getD []
      ((ws.getD 0 0).toNat, d.putShadow who base true ws)
    else
      match d.shadowOf who base true with
      | some s => ((s.val.getD (o % 0x40 / 4) 0).toNat, d)
      | none => (live o, d)
  else
    match d.shadowOf who o true with
    | some s => ((s.val.getD 0 0).toNat, d.dropShadow who o true)
    | none => (live o, d)

/-- A read of one word (R509 to R512): none when it is not performed. -/
def Dev.regRead (d : Dev) (p : Perm) (k : Clock) (who off : Nat) : Option Nat × Dev :=
  if regAligned off && d.mayReach who off false then
    let (v, d) := d.readWord p k who off
    (some v, d)
  else (none, d)

/-! ### Queues (R362, R366, R392) -/

/-- QUE_DOORBELL (R362). -/
def Dev.doorbell (d : Dev) (q : Nat) (v : BitVec 32) : Dev :=
  d.updQueue q fun x =>
    if !x.enable then x
    else if (x.tail - x.head).toNat ≤ (v - x.head).toNat ∧ (v - x.head).toNat ≤ 2 ^ x.sizeLog2 then { x with tail := v }
    else { x with dbErr := true }

/-- A queue as its enable sets: head and tail 0, and both banks zero (R362, R492). -/
def Queue.enabled (x : Queue) : Queue :=
  { x with enable := true, head := 0, tail := 0, recent := [], cur := Bank.reset, last := Bank.reset, halted := false }

/-- QUE_CONFIG (R392). -/
def Dev.queConfig (d : Dev) (q v : Nat) : Dev :=
  let x := d.queue q
  let size := bitsAt v 1 5
  let x' := { x with haltOn := bitAt v 6, sizeLog2 := if !x.enable && decide (4 ≤ size) && decide (size ≤ 16) then size else x.sizeLog2 }
  let bytes := 64 * 2 ^ x'.sizeLog2
  let may := x.granted && x.base % bytes == 0 && d.ownsSpan x.berth x.base bytes
  d.updQueue q fun _ =>
    if bitAt v 0 then (if x.enable then x' else if may then x'.enabled else x')
    else if x.enable && (x.state == 1 || x.state == 4) then { x' with enable := false, halted := false }
    else x'

/-- QUE_CONTROL (R366). -/
def Dev.queControl (d : Dev) (q v : Nat) : Dev :=
  d.updQueue q fun x =>
    if !x.halted then x
    else if bitAt v 1 then { x with head := x.tail, halted := false }
    else if bitAt v 0 then { x with halted := false }
    else x

/-- QUE_BASE (R392). -/
def Dev.queBase (d : Dev) (q v : Nat) : Dev := d.updQueue q fun x => if x.enable then x else { x with base := v % 2 ^ 45 }

/-- Whether window `w` may write queue `q`'s registers (R392, R413, R509). -/
def Dev.queWindow (d : Dev) (w q : Nat) : Bool :=
  let x := d.queue q
  !d.stopped && x.berth == w && (w == 0 || x.granted) && (d.berth x.berth).st != .resetting

/-- QUE_DOORBELL (R362). -/
def execQueDoorbell (w : Fin 32) (q : Fin 4096) (v : BitVec 32) (st : State) : Out :=
  onMem st fun d => if d.queWindow w q then d.doorbell q v else d

/-- QUE_ENABLE (R362, R392): a write of QUE_CONFIG with enable set and its other fields kept. -/
def execQueEnable (w : Fin 32) (q : Fin 4096) (st : State) : Out :=
  onMem st fun d => if d.queWindow w q then d.queConfig q (1 + 2 * (d.queue q).sizeLog2 + 64 * b2n (d.queue q).haltOn) else d

/-- QUE_DISABLE (R392): a write of QUE_CONFIG with enable clear. -/
def execQueDisable (w : Fin 32) (q : Fin 4096) (st : State) : Out :=
  onMem st fun d => if d.queWindow w q then d.queConfig q (2 * (d.queue q).sizeLog2 + 64 * b2n (d.queue q).haltOn) else d

/-- QUE_RESUME (R366): QUE_CONTROL.resume. -/
def execQueResume (w : Fin 32) (q : Fin 4096) (st : State) : Out :=
  onMem st fun d => if d.queWindow w q then d.queControl q 1 else d

/-- QUE_DISCARD (R366): QUE_CONTROL.discard. -/
def execQueDiscard (w : Fin 32) (q : Fin 4096) (st : State) : Out :=
  onMem st fun d => if d.queWindow w q then d.queControl q 2 else d

/-! ### Fences (R374, R378, R380, R392) -/

/-- Whether a fence is idle (R380). -/
def Fence.idle (x : Fence) : Bool := x.waiters.isEmpty

/-- FEN_CONFIG (R374, R392). -/
def Dev.fenConfig (d : Dev) (f v : Nat) : Dev :=
  let x := d.fence f
  let owner := bitsAt v 0 16
  let valid := bitAt v 16
  let changes := owner != x.owner || valid != x.valid
  let cx := d.ctx owner
  let ok := x.granted && (!valid || (cx.st == .live && cx.berth == x.berth)) && (!x.valid || (x.idle && x.exports.isEmpty))
  d.updFence f fun x =>
    let x := { x with strict := bitAt v 17, rebRefused := x.rebRefused && !bitAt v 18, cfgRefused := x.cfgRefused && !bitAt v 29 }
    if !changes then x
    else if !ok then { x with cfgRefused := true }
    else if valid && !x.valid then { x with owner := owner, valid := true, value := 0, ooo := 0 }
    else { x with owner := owner, valid := valid }

/-- FEN_REBASE (R380). (DEDUCED, assumption 58.) -/
def Dev.fenRebase (d : Dev) (f : Nat) (v : BitVec 64) : Dev :=
  d.updFence f fun x => if x.idle ∧ v ≠ aborted ∧ x.valid then { x with value := v } else { x with rebRefused := true }

/-- FEN_SIGNAL (R376, R378): a signal through a register. (DEDUCED, assumption 57.) -/
def Dev.fenSignal (d : Dev) (k : Clock) (f : Nat) (v : BitVec 64) (rel : BitVec 32) (relDev : Nat) : Dev :=
  let d := d.meetBerth k (d.fence f).berth f
  if (d.fence f).valid = true ∧ (d.berth (d.fence f).berth).st ≠ .resetting then d.signalFence k f v rel relDev (cpSource f) else d

/-- Whether window `w` may write fence `f`'s registers (R392, R413, R509). -/
def Dev.fenWindow (d : Dev) (w f : Nat) : Bool :=
  let x := d.fence f
  !d.stopped && x.berth == w && (w == 0 || x.granted) && (d.berth x.berth).st != .resetting

/-- FEN_SIGNAL (R376, R378): by a host, through its berth's window. -/
def execFenSignal (w : Fin 32) (f : Fin 65536) (v : BitVec 64) (st : State) : Out :=
  onMem st fun d => if d.fenWindow w f then d.fenSignal st.clk f v (awHost 0xFF) d.id else d

/-- FEN_REBASE (R380). -/
def execFenRebase (w : Fin 32) (f : Fin 65536) (v : BitVec 64) (st : State) : Out :=
  onMem st fun d => if d.fenWindow w f then d.fenRebase f v else d

/-- FEN_CONFIG_WRITE (R374). -/
def execFenConfigWrite (w : Fin 32) (f : Fin 65536) (v : BitVec 32) (st : State) : Out :=
  onMem st fun d => if d.fenWindow w f then d.fenConfig f v.toNat else d

/-! ### Berths (R294, R397, R411, R419, R437) -/

/-- Whether a window may write berth `b`'s sub-block (R413, R509). -/
def Dev.bthWindow (d : Dev) (w b : Nat) : Bool := !d.stopped && (w == 0 || w == b) && (d.berth b).st != .resetting

/-- BTH_FQ_CONS (R286, R287, R294): slots are freed, and Pending records are posted into them. -/
def Dev.fqCons (d : Dev) (k : Clock) (b : Nat) (v : BitVec 32) : Dev :=
  let x := d.berth b
  let ahead := (v - x.fqCons).toNat
  if (x.fqProd - x.fqCons).toNat < ahead then d
  else
    let d := d.updBerth b fun x => { x with fqCons := v }
    (d.postPendings k b ahead).settleOverflow b

/-- BTH_RING_CONS (R411, R419). -/
def Dev.ringCons (d : Dev) (b r : Nat) (v : BitVec 32) : Dev :=
  d.updRing b r fun x => if (x.prod - x.cons).toNat < (v - x.cons).toNat then x else { x with cons := v }

/-- BTH_RING_CFG (R410, R419). -/
def Dev.ringCfg (d : Dev) (b r v : Nat) : Dev :=
  if r = 0 then d
  else
    let x := d.ring b r
    let size := bitsAt v 1 5
    let sz := if !x.enable && decide (4 ≤ size) && decide (size ≤ 20) then size else x.sizeLog2
    let bytes := 64 * 2 ^ sz
    let may := x.base % bytes == 0 && d.ownsSpan b x.base bytes
    d.updRing b r fun x =>
      if bitAt v 0 then (if x.enable then x else if may then { x with sizeLog2 := sz, enable := true, prod := 0, cons := 0 } else { x with sizeLog2 := sz })
      else { x with sizeLog2 := sz, enable := false }

/-- BTH_RING_BASE (R419). -/
def Dev.ringBase (d : Dev) (b r v : Nat) : Dev := if r = 0 then d else d.updRing b r fun x => if x.enable then x else { x with base := v % 2 ^ 45 }

/-- BTH_GRANT (R397): a change of a page's owner begins, or is refused; a write made while a change is applied is ignored. -/
def Dev.grantWrite (d : Dev) (v : Nat) : Dev :=
  let page := bitsAt v 0 25
  let b := bitsAt v 25 5
  let entry := mget 0 d.mem.owner page
  let bad := decide (hbmSize / 65536 ≤ page) || bitAt entry 5 ||
    (if bitAt v 30 then entry % 32 != 0 || b == 0 || (d.berth b).st == .absent else b != 0)
  if d.mem.grant.isSome then d
  else if bad then { d with mem := { d.mem with grantRef := true } }
  else { d with mem := { d.mem with grant := some { page := page, berth := b } } }

/-- BTH_ATTEST (R437): a request for a report begins, unless one is pending. (DEDUCED, assumption 77.) -/
def Dev.attestWrite (d : Dev) (b v : Nat) : Dev := d.updBerth b fun x => if x.attest.isSome then x else { x with attest := some (v % 2 ^ 45) }

/-- BTH_FQ_CONS_WRITE (R286, R287). -/
def execBthFqConsWrite (w berth : Fin 32) (v : BitVec 32) (st : State) : Out :=
  onMem st fun d => if d.bthWindow w berth then d.fqCons st.clk berth v else d

/-- BTH_RING_CONS_WRITE (R411). -/
def execBthRingConsWrite (w berth : Fin 32) (ring : Fin 16) (v : BitVec 32) (st : State) : Out :=
  onMem st fun d => if d.bthWindow w berth then d.ringCons berth ring v else d

/-- BTH_RING_ENABLE (R410): a write of BTH_RING_CFG. -/
def execBthRingEnable (w berth : Fin 32) (ring : Fin 16) (v : BitVec 32) (st : State) : Out :=
  onMem st fun d => if d.bthWindow w berth then d.ringCfg berth ring v.toNat else d

/-- BTH_GRANT_PAGE (R397): a write of BTH_GRANT with grant set, through berth 0's window. -/
def execBthGrantPage (w : Fin 32) (v : BitVec 32) (st : State) : Out :=
  onMem st fun d => if w = 0 ∧ d.bthWindow 0 0 = true then d.grantWrite (setBits v.toNat 30 1 1) else d

/-- BTH_RELEASE_PAGE (R397): a write of BTH_GRANT with grant clear, through berth 0's window. -/
def execBthReleasePage (w : Fin 32) (v : BitVec 32) (st : State) : Out :=
  onMem st fun d => if w = 0 ∧ d.bthWindow 0 0 = true then d.grantWrite (setBits v.toNat 30 1 0) else d

/-- BTH_ATTEST (R437). -/
def execBthAttest (w berth : Fin 32) (v : BitVec 64) (st : State) : Out :=
  onMem st fun d => if d.bthWindow w berth then d.attestWrite berth v.toNat else d

end Sys2Proof.Machine
end

