-- ==== Sys2Proof/Machine/Ports.lean ====
section
/-! DEFINITION. Ports (R309 to R323): notices to neighbours, a port that goes Down, answers on behalf of an unreachable device, and what a device does when a peer is down or reset (R250). -/

namespace Sys2Proof.Machine

/-! ### Answers on behalf of an unreachable device (R322) -/

/-- The answer that a packet to an unreachable device draws (R322); none when it is discarded. -/
def Dev.behalf (d : Dev) (p : Packet) : Option Packet :=
  let zeros := fun (n : Nat) => List.replicate n (0 : BitVec 64)
  match p.op with
  | .getS | .getM => some { answerPkt d p .data with grant := if p.op = .getM then 3 else 1, data := zeros 16, poison := List.range 16 }
  | .readU | .bulkRead =>
    let n := if p.tgt ≠ 705 ∨ p.op = .readU then 16 * max 1 p.lines else (p.cnt + 7) / 8
    some { answerPkt d p .readData with data := zeros n, poison := List.range n, lines := p.lines, sectors := p.sectors }
  | .atomF => some { answerPkt d p .atomResp with
      aop := p.aop, aty := p.aty, data := zeros p.lanes, poison := List.range p.lanes, lanes := p.lanes, off := p.off }
  | .writeU | .bulkWrite | .bulkReduce => some { answerPkt d p .writeAck with notPerf := true }
  | .putS | .putE | .putO | .putM => some (answerPkt d p .evictAck)
  | .fwdGetS | .fwdGetM => some { Packet.reset with
      op := .data, dst := p.reqDev, src := d.id, tgt := p.agent, agent := p.agent, entry := p.entry, gen := p.gen, line := p.line
      grant := if p.op = .fwdGetM then 3 else 1, acks := if p.op = .fwdGetM then p.acks else 0, contended := true
      data := zeros 16, poison := List.range 16 }
  | .inv => some (d.invAckFor p)
  | .recall => some { Packet.reset with
      op := .recallAck, dst := p.src, src := d.id, tgt := p.agent, agent := p.agent, entry := p.entry, line := p.line }
  | .mgmtRead | .mgmtWrite | .ping => some { answerPkt d p .mgmtResp with err := true, reason := 2 }
  | _ => none

/-- Consume a packet whose destination cannot be reached (R322). -/
def Dev.unreachable (d : Dev) (p : Packet) : Dev :=
  match d.behalf p with
  | some q => d.send q
  | none => d

/-- An error-log record of a port (R470). -/
def portErr (port cls code detail : Nat) : ErlRec := { ErlRec.reset with cls := cls, src := 0x0C, code := code, unit := port, detail := min 65535 detail }

/-! ### Notices (R309, R322, R323) -/

/-- Give a notice to a port once it has the credit, behind those that wait already (R309). -/
def Dev.offer (d : Dev) (port : Nat) (p : Packet) : Dev :=
  let x := d.port port
  if x.offered.isEmpty && decide (pktSlots p ≤ x.room (pktChan p)) then d.toPort port p
  else d.updPort port fun x => { x with offered := x.offered ++ [p] }

/-- Give the notices that wait at a port what credit has returned. -/
def Dev.offerAgain (d : Dev) (port : Nat) : Dev :=
  (d.port port).offered.foldl (fun d p => d.offer port p) (d.updPort port fun x => { x with offered := [] })

/-- Send a link-wide notice to the neighbour of every Up peer port (R322, R323). -/
def Dev.flood (d : Dev) (op : PktOp) (who boot : Nat) : Dev :=
  (List.range 18).foldl (fun d q =>
    let x := d.port q
    if x.role = .peer ∧ x.st = .up then
      d.offer q { Packet.reset with op := op, dst := x.nbrDev, src := d.id, agent := 704, tgt := 704, who := who, boot := boot, esc := true }
    else d) d

/-! ### Orphans whose answer can no longer be relied on (R317) -/

/-- Release the landing buffers of orphans that `sel` selects by agent, landing buffer, generation and device (a core's request that its
far slice passed on, also by that of the slice): without a response, so that they are
not reused for 10 ms. A buffer for which an instruction still waits is kept. (DEDUCED, assumption 84.) -/
def Dev.dropOrphans (d : Dev) (k : Clock) (sel : Nat → Nat → Nat → Nat → Bool) : Dev :=
  let far := fun (line dev : Nat) => (d.slice (d.lineSlice line)).far.any fun r => r.line == line && sel (512 + d.lineSlice line) r.entry r.gen dev
  let cores := d.cores.flatMap fun c => c.2.mshrs.filterMap fun m =>
    if m.2.orphan && m.2.ops.isEmpty && m.2.bw.isNone && (sel c.1 m.1 m.2.gen m.2.dev || far m.2.line m.2.dev) then some (c.1, m.1) else none
  let d := cores.foldl (fun d e => (d.release e.1 e.2).quarantine k e.1 e.2) d
  let txns := d.ctl.streams.flatMap fun s => s.2.txns.filterMap fun t => if t.lost && sel (640 + s.1 / 64) t.entry t.gen t.dev then some (s.1, t) else none
  let d := txns.foldl (fun d e => (d.freeTxn e.1 e.2).quarantine k (640 + e.1 / 64) e.2.entry) d
  let writes := d.ctl.lostWrites.filter fun w => sel w.1 w.2.1 w.2.2.1 w.2.2.2.2
  writes.foldl (fun d w => (({ d with ctl := { d.ctl with lostWrites := d.ctl.lostWrites.erase w } }).unorphan w.2.2.2.1).quarantine k w.1 w.2.1) d

/-! ### A port goes Down (R317, R320 to R322) -/

/-- Sequence number of the oldest flit that a port has accepted and not verified, or else of the flit that it expects (R302). -/
def Port.unverified (x : Port) : Nat := (x.gmacRun.head?.map Flit.seq).getD x.rxSeq

/-- The packets held for a destination go on (R321). -/
def Dev.releaseMark (d : Dev) (m : Mark) : Dev :=
  ({ d with fab := { d.fab with marks := d.fab.marks.filter fun x => !(x.no == m.no && x.dst == m.dst), net := m.held ++ d.fab.net } }).updPort m.port
    fun x => { x with moved := m.dst :: x.moved }

/-- The held packets whose destination can be reached no longer are dropped (R321, R322). -/
def Dev.dropMarks (d : Dev) : Dev :=
  let gone := d.fab.marks.filter fun m => !d.reachable m.dst
  let d := { d with fab := { d.fab with marks := d.fab.marks.filter fun m => d.reachable m.dst } }
  gone.foldl (fun d m => m.held.foldl Dev.unreachable d) d

/-- Packets that a Down port did not deliver go to their new routes ahead of later ones (R320): VC2 packets ahead of those held for their
destination. The marks of the port that are answered are then released (R321). -/
def Dev.takeBack (d : Dev) (port : Nat) (ps : List Packet) : Dev :=
  let held := fun (p : Packet) => vcOf p.op == 2 && d.fab.marks.any fun m => m.dst == p.dst
  let marks := d.fab.marks.map fun m => { m with held := (ps.filter fun p => held p && p.dst == m.dst) ++ m.held }
  let d := { d with fab := { d.fab with marks := marks, net := (ps.filter fun p => !held p) ++ d.fab.net } }
  (d.fab.marks.filter fun m => m.port == port && m.acked).foldl Dev.releaseMark d

/-- A peer port goes Down (R320): its unacknowledged flits stay and what it has not sent waits behind them, its Lockkeeper asks the
neighbour for the last sequence number that it accepted and pings it (R322), and flits whose GMAC is not verified are not
accepted (R302). A management read with `aop` 5 asks for a port's last number.
(DEDUCED, assumption 85.) -/
def Dev.portDown (d : Dev) (k : Clock) (port : Nat) : Dev :=
  let x := d.port port
  let d := d.updPort port fun x => { x with
    st := .down, width := 0, unmet := x.fullWidth, lpi := false, moved := [], seqAsk := some k.tsc, pingAt := some k.tsc, probeT1 := none
    ctlq := [], offered := [], resend := 0, rxSeq := x.unverified, gmacRun := [], nakOut := false }
  let d := (d.dropOrphans k fun a e g _ => d.leftBy port a e g).dropMarks
  let d := d.mgmtSend { Packet.reset with op := .mgmtRead, dst := x.nbrDev, agent := 704, tgt := 708, aop := 5, no := x.nbrPort }
  d.mgmtSend { Packet.reset with op := .ping, dst := x.nbrDev, agent := 704, tgt := 704 }

/-- The neighbour's last accepted sequence number is known (R320): the packets of later flits go to their new routes, ahead of others. -/
def Dev.seqKnown (d : Dev) (k : Clock) (port seq : Nat) : Dev :=
  let x := d.port port
  let later := match (x.replay.zipIdx.find? fun f => f.1.seq == seq).map Prod.snd with
    | some i => x.replay.drop (i + 1)
    | none => x.replay
  let d := d.updPort port fun x => { x with replay := [], txq := [], seqAsk := none, credits := [] }
  logErr k (portErr port 2 0x07 0) (d.takeBack port (later.flatMap Flit.pkts ++ x.txq))

/-- The neighbour did not answer (R320): the packets of its unacknowledged flits are treated as sent to a device that is down. -/
def Dev.seqLost (d : Dev) (k : Clock) (port : Nat) : Dev :=
  let ps := (d.port port).replay.flatMap Flit.pkts
  let unsent := (d.port port).txq
  let answered := (ps.filter fun p => (d.behalf p).isSome).length
  let d := d.updPort port fun x => { x with replay := [], txq := [], seqAsk := none, credits := [] }
  logErr k (portErr port 2 0x07 answered) ((ps.foldl Dev.unreachable d).takeBack port unsent)

/-- A port becomes Disabled, with its reason and an error-log record (R325): Corrected at training, Contained in service (R480). -/
def Dev.portDisable (d : Dev) (k : Clock) (port reason cls : Nat) : Dev :=
  logErr k (portErr port cls 0x08 reason) (d.updPort port fun x => { x with
    st := .disabled, reason := reason, width := 0, unmet := x.fullWidth, lpi := false, probeT1 := none, ctlq := [], offered := [] })

/-- A port begins to retrain with its width, credits and replay buffer kept (R318, R320). -/
def Dev.retrainPort (d : Dev) (port : Nat) : Dev :=
  d.updPort port fun x => { x with st := .retraining, tries := 0, retrains := satAdd 255 x.retrains 1, lpi := false }

/-- A port retrains by command from step 1 of R324 (R332): its own link starts afresh when the port was not Up, and orphans whose
requests left by it are released (R317). (DEDUCED, assumption 87.) -/
def Dev.retrainCmd (d : Dev) (k : Clock) (port : Nat) : Dev :=
  let x := d.port port
  if x.role = .unused then d
  else
    let kept := x.st == .up || x.st == .retraining
    let d := if x.seqAsk.isSome then d.seqLost k port else d
    let d := d.updPort port fun x => { x with
      st := .training, width := 0, unmet := x.fullWidth, reason := 0, tries := 0, retrains := satAdd 255 x.retrains 1, lpi := false
      hello := none, proved := false, ctlq := [], probeT1 := none, exch := [], linkOff := none, nakOut := false
      txSeq := if kept then x.txSeq else 0, rxSeq := if kept then x.rxSeq else 0, replay := if kept then x.replay else []
      credits := if kept then x.credits else [], creditOut := if kept then x.creditOut else [] }
    d.dropOrphans k fun a e g _ => d.leftBy port a e g

/-! ### A peer is down or reset (R250) -/

/-- The directory entries of this device's own lines lose a peer: true with an entry whose owner it was. -/
def DirEntry.losePeer (e : DirEntry) (x : Nat) : Bool × DirEntry :=
  let lost := e.owner == ownDev x
  let e := { e with sharers := e.sharers.filter fun s => s != 4096 + x, owner := if lost then 0 else e.owner }
  let shared := !e.sharers.isEmpty || e.coarse
  (lost, if lost then { e with st := if shared then .shared else .uncached }
         else if e.st == .shared && !shared then { e with st := .uncached } else e)

/-- Write a line's four sectors in HBM with poison: its latest value is lost. (PRESUMED, assumption 86.) -/
def Dev.lineLost (d : Dev) (n line : Nat) : Dev :=
  (List.range 4).foldl (fun d i => d.poisonSector (line % 2 ^ 38 * 4 + i)) (d.updSlice n fun s => s.dropLine line)

/-- As a home, remove the pointers to a peer (R250): its owned lines are poisoned, also those that it was asked to give back. -/
def Dev.homeLose (d : Dev) (k : Clock) (x n : Nat) : Dev :=
  let es := ((d.slice n).dir.filter fun f => !f.2.far).map fun f => (f.2.line, f.2.losePeer x)
  let keep := fun (f : Nat × DirEntry) =>
    if f.2.far then some f
    else
      let e := (f.2.losePeer x).2
      if e.st == .uncached && !e.held then none else some (f.1, e)
  let d := d.updSlice n fun s => { s with dir := s.dir.filterMap keep }
  let d := (es.filter fun e => e.2.1).foldl (fun d e => d.lineLost n e.1) d
  let rs := (d.slice n).recalls.filter fun r => r.owner && r.ent.owner == ownDev x
  rs.foldl (fun d r =>
    ((d.lineLost n r.ent.line).updSlice n fun s => { s with
      recalls := s.recalls.map fun y => if y.ent.line = r.ent.line then { y with owner := false } else y }).recallCheck k n r.ent.line) d

/-- Lines homed on a peer that this device holds in any form. -/
def Dev.linesOf (d : Dev) (x : Nat) : List Nat :=
  let mine := fun (l : Nat) => l / 2 ^ 38 == x
  ((d.slices.flatMap fun e => (e.2.dir.map fun f => f.2.line) ++ (e.2.frames.map fun f => f.2.line) ++ e.2.victim.map SLine.line ++
      e.2.evict.map EvictBuf.line ++ e.2.wcb.map Wcb.line) ++
    d.cores.flatMap fun c => (c.2.l1.map fun f => f.2.line) ++ c.2.evict.map EvictBuf.line).filter mine |>.eraseDups

/-- Whether this device holds a dirty copy of a line. -/
def Dev.dirtyLine (d : Dev) (line : Nat) : Bool :=
  (d.slices.any fun e => (e.2.frames.any fun f => f.2.line == line && (f.2.dirty != 0 || f.2.bytes != 0)) ||
    (e.2.victim.any fun f => f.line == line && (f.dirty != 0 || f.bytes != 0)) || (e.2.evict.any fun b => b.line == line && b.dirty != 0) ||
    e.2.wcb.any fun w => w.line == line) ||
  d.cores.any fun c => (c.2.l1.any fun f => f.2.line == line && f.2.dirty != 0) || c.2.evict.any fun b => b.line == line && b.dirty != 0

/-- A core discards the lines homed on a peer. -/
def Core.losePeer (c : Core) (x : Nat) : Core :=
  { c with l1 := c.l1.filter fun f => f.2.line / 2 ^ 38 != x, evict := c.evict.filter fun b => b.line / 2 ^ 38 != x }

/-- A slice discards the lines homed on a peer; an entry whose answer is awaited stays, with nothing held. -/
def Slice.losePeer (s : Slice) (x : Nat) : Slice :=
  let mine := fun (l : Nat) => l / 2 ^ 38 == x
  { s with
    frames := s.frames.filter fun f => !mine f.2.line, victim := s.victim.filter fun f => !mine f.line, wcb := s.wcb.filter fun w => !mine w.line
    evict := s.evict.filter fun b => !mine b.line, fwdq := s.fwdq.filter fun p => !mine p.line
    dir := s.dir.filterMap fun f =>
      if !mine f.2.line then some f
      else if s.far.any fun r => r.line == f.2.line then some (f.1, { DirEntry.reset with line := f.2.line, far := true }) else none }

/-- As a holder, discard every line homed on a peer (R250): each dirty one is logged. -/
def Dev.holderLose (d : Dev) (k : Clock) (x : Nat) : Dev :=
  let dirty := (d.linesOf x).filter d.dirtyLine
  let d := { d with cores := mmap d.cores fun _ c => c.losePeer x, slices := mmap d.slices fun _ s => s.losePeer x }
  dirty.foldl (fun d line => logErr k { ErlRec.reset with
    cls := 2, src := 0x12, code := 0x0B, unit := x, addr := BitVec.ofNat 64 (line % 2 ^ 38 * 128), detail := x } d) d

/-- Requests of this device's agents that are outstanding to a device. -/
def Dev.requestsTo (d : Dev) (x : Nat) : List Packet :=
  let cores := d.cores.flatMap fun c => c.2.mshrs.filterMap fun m =>
    if m.2.req.dst = x ∧ m.2.granted = false ∧ m.2.retryAt = none then some m.2.req else none
  let far := d.slices.flatMap fun s => s.2.far.filterMap fun r =>
    if r.line / 2 ^ 38 = x ∧ r.granted = false then some { Packet.reset with
      op := match r.kind with | .getM => .getM | .readU => .readU | _ => .getS
      dst := x, src := d.id, agent := 512 + s.1, entry := r.entry, gen := r.gen, line := r.line } else none
  let repairs := d.slices.flatMap fun s => s.2.outs.filter fun q => q.dst == x
  let barge := d.ctl.streams.flatMap fun s => s.2.txns.flatMap fun t =>
    if t.lost || t.retry then [] else
      (if t.stage = 0 then t.src.map fun g => d.bargePkt s.1 t g .bulkRead else if t.stage = 2 then d.bargeWrites s.1 t else []).filter fun p => p.dst == x
  let cmds := d.ctl.queues.flatMap fun q => q.2.cmds.flatMap fun m => m.reqs.filter fun p => p.dst == x && p.tgt != 708
  let mgmt := d.fab.mgmtOut.filterMap fun e => if e.2.dst = x then some e.2 else none
  let host := d.whf.sessions.flatMap fun s => s.2.ops.flatMap fun o => o.parts.filterMap fun h => if h.req.dst = x then some h.req else none
  cores ++ far ++ repairs ++ barge ++ cmds ++ mgmt ++ host

/-- Complete the requests that are outstanding to a peer, as answered on its behalf (R250), but for those whose request or answer is
still in the mesh. -/
def Dev.requestsLose (d : Dev) (x : Nat) : Dev :=
  let same := fun (p q : Packet) => q.agent == p.agent && q.entry == p.entry && q.gen == p.gen && q.line == p.line && q.off == p.off
  (d.requestsTo x).foldl (fun d p =>
    match d.behalf p with
    | none => d
    | some a =>
      let waits := d.fab.net.any fun q => same p q && q.dst == x && q.op == p.op
      let answered := d.fab.net.any fun q => vcOf q.op == 3 && q.dst == d.id && q.tgt == a.tgt && q.entry == a.entry && q.gen == a.gen && q.line == a.line
      if waits || answered then d else d.send a) d

/-- Apply R250 for a peer: homes, holders, requests, orphans (R317), and the marks that it kept (R321). -/
def Dev.peerLost (d : Dev) (k : Clock) (x : Nat) : Dev :=
  let d := (d.slices.map Prod.fst).foldl (fun d n => d.homeLose k x n) d
  let d := (d.holderLose k x).requestsLose x
  let d := d.dropOrphans k fun _ _ _ dev => dev == x
  let gone := d.fab.marks.filter fun m => m.dst == x || m.nbr == x
  let d := { d with fab := { d.fab with marks := d.fab.marks.filter fun m => !(m.dst == x || m.nbr == x) } }
  gone.foldl (fun d m => if m.dst = x then m.held.foldl Dev.unreachable d else { d with fab := { d.fab with net := m.held ++ d.fab.net } }) d

/-- Note that a PeerDown or a PeerUp was forwarded. A PeerDown that names a boot count is never due again; one that names boot count 0, and a
PeerUp, is due again after the other (R322, R323, R450). -/
def Dev.noteFlood (d : Dev) (x boot : Nat) : Dev :=
  { d with fab := { d.fab with
      flooded := (d.fab.flooded.filter fun (e : Nat × Nat) => decide (e.1 ≠ x) || (decide (0 < e.2) && decide (e.2 < 2 ^ 28))) ++ [(x, boot)] } }

/-- Mark a device down with the boot count named, flood the PeerDown, and apply R250 (R322). A PeerDown that names this device is only
forwarded. -/
def Dev.markDown (d : Dev) (k : Clock) (x boot : Nat) : Dev :=
  if d.fab.flooded.contains (x, boot) then d
  else
    let d := (d.noteFlood x boot).flood .peerDown x boot
    if x = d.id then d
    else
      let d := { d with fab := { d.fab with down := mput d.fab.down x boot, applied := if d.fab.applied.contains x then d.fab.applied else x :: d.fab.applied } }
      d.peerLost k x

/-- A device is up again (R323): PeerUp is flooded once, R250 is applied unless it was with the down mark, and the mark is cleared. -/
def Dev.markUp (d : Dev) (k : Clock) (x boot : Nat) : Dev :=
  if d.fab.flooded.contains (x, 2 ^ 28 + boot) then d
  else
    let d := (d.noteFlood x (2 ^ 28 + boot)).flood .peerUp x boot
    if x = d.id then d
    else
      let d := if d.fab.applied.contains x then d else d.peerLost k x
      { d with fab := { d.fab with down := mdel d.fab.down x, applied := d.fab.applied.filter fun y => y != x } }

end Sys2Proof.Machine
end

