-- ==== Sys2Proof/Machine/RegWrites.lean ====
section
/-! DEFINITION. The effect of a register write (R9 to R13, R507 to R515), and the rows that are register accesses or that end one:
REGISTER_LO_READ, REGISTER_LO_WRITE, REGISTER_WRITE, COUNTER_VIEW_SAMPLE, PWR_MOOR, FAB_PORT_RETRAIN, GRANT_APPLY_DONE, ATTEST_DONE. -/

namespace Sys2Proof.Machine

/-! ### Registers of the operator berth -/

/-- Codes of R433. -/
def lkpCode (c : Nat) : Bool := decide (1 ≤ c) && decide (c ≤ 9)

/-- LKP_CMD (R433): a command of R433 starts, unless one runs. (DEDUCED, assumption 75.) -/
def Dev.lkpCmd (d : Dev) (v : Nat) : Dev :=
  let c := v % 256
  if d.lkp.busy then { d with lkp := { d.lkp with overrun := true } }
  else if lkpCode c then { d with lkp := { d.lkp with busy := true, cmd := c } }
  else d

/-- PWR_POLICY (R468). -/
def Dev.pwrPolicy (d : Dev) (v : Nat) : Dev :=
  let cap := bitsAt v 0 12
  let fl := bitsAt v 12 5
  { d with pwr := { d.pwr with
      cap := if 300 ≤ cap ∧ cap ≤ 2000 then cap else d.pwr.cap
      floor := if 12 ≤ fl ∧ fl ≤ 16 then fl else d.pwr.floor } }

/-- PWR_MOOR (R449, R452, R468): a write with moor set begins the mooring sequence of a Ready device that is Under way or in Slack
water. (DEDUCED, assumption 76.) -/
def Dev.pwrMoor (d : Dev) (k : Clock) (v : Nat) : Dev :=
  let moor := bitAt v 0
  if d.pwr.st ≠ .underway ∨ (moor = true ∧ d.lkp.st ≠ .ready) then
    (if moor then { d with pwr := { d.pwr with last := 3 } } else d)
  else
    let w := { d.pwr with wakeEn := bitAt v 1 }
    { d with pwr := if moor then { w with st := .mooring, moorSince := k.tsc, wakePend := false } else w }

/-- CNT_CONFIG (R488, R506). -/
def Dev.cntConfig (d : Dev) (k : Clock) (v : Nat) : Dev :=
  let n := bitsAt v 0 20
  let on := bitAt v 20
  { d with cnt := { d.cnt with
      interval := if 1 ≤ n ∧ n ≤ 1000000 then n else d.cnt.interval, enable := on
      lastAt := if on && !d.cnt.enable then k.tsc else d.cnt.lastAt
      inForce := if on && !d.cnt.enable then (if 1 ≤ n ∧ n ≤ 1000000 then n else d.cnt.interval) else d.cnt.inForce } }

/-- FAB_PORT_CMD (R332). -/
def Dev.fabCmd (d : Dev) (k : Clock) (port v : Nat) : Dev := if bitAt v 0 then d.retrainCmd k port else d

/-! ### Writes that the Lockkeeper makes before the manifest is applied (R9) -/

/-- A write of 0 is taken as 1 (R419). -/
def atLeast1 (n : Nat) : Nat := max 1 n

/-- The RWL fields of a berth's sub-block (R419). -/
def Dev.rwlBerth (d : Dev) (b o v : Nat) : Dev :=
  d.updBerth b fun x =>
    match o with
    | 0x4 => { x with minCores := bitsAt v 0 10, spread := bitAt v 10, ceiling := bitsAt v 11 2 }
    | 0x8 => { x with coreW := atLeast1 (bitsAt v 0 8), linkW := atLeast1 (bitsAt v 8 8), bargeW := atLeast1 (bitsAt v 16 8) }
    | 0xC => { x with hbmRate := bitsAt v 0 14, hbmDepth := atLeast1 (bitsAt v 14 8) }
    | 0x10 => { x with ctxLimit := bitsAt v 0 13, streamLimit := bitsAt v 13 13 }
    | 0x14 => { x with headlessPol := bitAt v 0, grace := atLeast1 (bitsAt v 1 12), keyPreserve := bitAt v 13 }
    | _ => x

/-- FAB_PORT_CONFIG (R332): for P0 to P13 the roles 1 and 2 are ignored. -/
def Dev.rwlPort (d : Dev) (port v : Nat) : Dev :=
  d.updPort port fun x =>
    let r := bitsAt v 0 2
    { x with
      role := if port < 14 ∧ (r = 1 ∨ r = 2) then x.role else match r with | 0 => .peer | 1 => .host | 2 => .storage | _ => .unused
      encrypt := bitAt v 2, fullWidth := bitAt v 3, nbrDev := bitsAt v 4 12, nbrPort := bitsAt v 16 5 }

/-- A write of a 32-bit RWL register (R229, R257, R332, R392, R419, R506). -/
def Dev.rwlWrite (d : Dev) (o v : Nat) : Dev :=
  if 0x7100 ≤ o ∧ o < 0x7200 then { d with mem := { d.mem with nwin := mput d.mem.nwin ((o - 0x7100) / 4) (v % 4096) } }
  else if 0x11000 ≤ o ∧ o < 0x15000 then
    { d with fab := { d.fab with reach := mput d.fab.reach ((o - 0x11000) / 4) (if bitAt v 7 then 0x80 else bitsAt v 0 7) } }
  else if 0x15000 ≤ o ∧ o < 0x17000 then
    let i := (o - 0x15000) / 4
    { d with fab := { d.fab with hops := (List.range 8).foldl (fun m j => mput m (128 * (i / 16) + 8 * (i % 16) + j) (bitsAt v (4 * j) 4)) d.fab.hops } }
  else if 0x20000 ≤ o ∧ o < 0x40000 then d.rwlBerth ((o - 0x20000) / 0x1000) ((o - 0x20000) % 0x1000) v
  else if 0x80000 ≤ o ∧ o < 0x80480 ∧ o % 0x40 = 0 then d.rwlPort ((o - 0x80000) / 0x40) v
  else if 0xE0000 ≤ o ∧ o < 0x100000 ∧ o % 0x20 = 8 then
    d.updQueue ((o - 0xE0000) / 0x20) fun x => { x with admin := bitAt v 7, berth := bitsAt v 8 5, granted := bitAt v 13 }
  else if o = 0x100010 then { d with cnt := { d.cnt with size := v % 64 } }
  else if 0x200000 ≤ o ∧ o < 0x400000 ∧ o % 0x20 = 8 then
    d.updFence ((o - 0x200000) / 0x20) fun x => { x with berth := bitsAt v 19 5, granted := bitAt v 24 }
  else d

/-- A write of a 64-bit RWL register (R311, R294, R506). -/
def Dev.rwlWrite64 (d : Dev) (o : Nat) (v : BitVec 64) : Dev :=
  if o = 0x100008 then { d with cnt := { d.cnt with base := v.toNat % 2 ^ 45 } }
  else if 0x90000 ≤ o ∧ o < 0x98000 then { d with fab := { d.fab with routes := mput d.fab.routes ((o - 0x90000) / 8) (v &&& routeMask) } }
  else if 0xB0008 ≤ o ∧ o < 0xB0800 then { d with ctl := { d.ctl with mirrors := mput d.ctl.mirrors ((o - 0xB0000) / 8) (v &&& BitVec.ofNat 64 (2 ^ 57 - 1)) } }
  else d

/-! ### A write at an offset -/

/-- A 64-bit register takes its value (R13), written through window `b` at the offset of its _LO half. -/
def Dev.write64 (d : Dev) (k : Clock) (who b o : Nat) (v : BitVec 64) : Dev :=
  let a := reqAgent who
  if o = 0xC then { d with lkp := { d.lkp with arg := v } }
  else if o = 0x200C then { d with pwr := { d.pwr with wake := v } }
  else if 0x20000 ≤ o ∧ o < 0x40000 then
    let n := (o - 0x20000) / 0x1000
    let x := (o - 0x20000) % 0x1000
    if !d.bthWindow b n then d
    else if x = 0x410 then d.attestWrite n v.toNat
    else if 0x200 ≤ x ∧ x < 0x400 ∧ x % 0x20 = 0 then d.ringBase n ((x - 0x200) / 0x20) v.toNat
    else d
  else if 0xE0000 ≤ o ∧ o < 0x100000 ∧ o % 0x20 = 0 then
    let q := (o - 0xE0000) / 0x20
    if d.queWindow b q then d.queBase q v.toNat else d
  else if 0x200000 ≤ o ∧ o < 0x400000 then
    let f := (o - 0x200000) / 0x20
    let remote := a = 706 ∨ a = 707
    if o % 0x20 = 0x18 then
      if remote then d.fenSignal k f v (awSource (512 + (a - 706))) (reqDev who)
      else if d.fenWindow b f then d.fenSignal k f v (if a = 705 then awHost (reqSession who) else awHost 0xFF) (if a = 705 then reqDev who else d.id)
      else d
    else if o % 0x20 = 0x10 ∧ d.fenWindow b f = true then d.fenRebase f v
    else d
  else if a = 1024 ∧ d.lkp.applied = false then d.rwlWrite64 o v
  else d

/-- A 32-bit register takes a value, written through window `b`. -/
def Dev.write32 (d : Dev) (k : Clock) (who b o : Nat) (w : BitVec 32) : Dev :=
  let v := w.toNat
  let d := if reqAgent who = 1024 ∧ d.lkp.applied = false then d.rwlWrite o v else d
  if 0x20000 ≤ o ∧ o < 0x40000 then
    let n := (o - 0x20000) / 0x1000
    let x := (o - 0x20000) % 0x1000
    if !d.bthWindow b n then d
    else if x = 0x110 then d.fqCons k n w
    else if 0x200 ≤ x ∧ x < 0x400 ∧ x % 0x20 = 8 then d.ringCfg n ((x - 0x200) / 0x20) v
    else if 0x200 ≤ x ∧ x < 0x400 ∧ x % 0x20 = 0x10 then d.ringCons n ((x - 0x200) / 0x20) w
    else if n = 0 ∧ b = 0 ∧ x = 0x400 then d.grantWrite v
    else if n = 0 ∧ b = 0 ∧ x = 0x404 ∧ bitAt v 1 = true then { d with mem := { d.mem with grantRef := false } }
    else d
  else if 0xE0000 ≤ o ∧ o < 0x100000 then
    let q := (o - 0xE0000) / 0x20
    if !d.queWindow b q then d
    else match o % 0x20 with
      | 0x8 => d.queConfig q v
      | 0x14 => d.doorbell q w
      | 0x18 => if bitAt v 3 then d.updQueue q fun x => { x with dbErr := false } else d
      | 0x1C => d.queControl q v
      | _ => d
  else if 0x200000 ≤ o ∧ o < 0x400000 then
    let f := (o - 0x200000) / 0x20
    if o % 0x20 = 8 ∧ d.fenWindow b f = true then d.fenConfig f v else d
  else if b ≠ 0 then d
  else
    match o with
    | 0x8 => d.lkpCmd v
    | 0x14 => { d with lkp := { d.lkp with len := w } }
    | 0x18 => if bitAt v 1 then { d with lkp := { d.lkp with overrun := false } } else d
    | 0x2004 => d.pwrPolicy v
    | 0x2008 => d.pwrMoor k v
    | 0x4008 => if bitAt v 7 then { d with tim := { d.tim with stepBack := false } } else d
    | 0x5000 => d.ldgConfig v
    | 0x5024 => d.ldgTrigWrite k v
    | 0x5028 => { d with ldg := { d.ldg with matchV := w } }
    | 0x40004 => if bitAt v 0 then { d with erl := { d.erl with overflow := false } } else d
    | 0x100000 => d.cntConfig k v
    | _ => if 0x80000 ≤ o ∧ o < 0x80480 ∧ o % 0x40 = 0xC then d.fabCmd k ((o - 0x80000) / 0x40) v else d

/-- Perform a permitted write at an offset (R13): a _LO half is held, a _HI half completes the value that the requester holds. Registers
that a berth's window only reads ignore the write (R509). -/
def Dev.writeWord (d : Dev) (k : Clock) (who off : Nat) (w : BitVec 32) : Dev :=
  let b := off / regWindow
  let o := off % regWindow
  if b ≠ 0 ∧ d.windowSees b o ≠ some true then d
  else if isPair o then d.putShadow who o false [w]
  else if 4 ≤ o ∧ isPair (o - 4) = true then
    match d.shadowOf who (o - 4) false with
    | some s => (d.dropShadow who (o - 4) false).write64 k who b (o - 4) (w ++ s.val.getD 0 0)
    | none => d
  else d.write32 k who b o w

/-- A write of one word (R509 to R512): false when it is not performed. -/
def Dev.regWrite (d : Dev) (k : Clock) (who off : Nat) (w : BitVec 32) : Bool × Dev :=
  if regAligned off && d.mayReach who off true then (true, d.writeWord k who off w) else (false, d)

/-! ### Rows -/

/-- REGISTER_LO_READ (R13, R509 to R513). -/
def execRegisterLoRead (who : Nat) (off : BitVec 32) (st : State) : Out :=
  onMem st fun d => if d.stopped then d else (d.regRead st.perm st.clk who off.toNat).2

/-- REGISTER_LO_WRITE (R13): the half is held until the requester's _HI write. -/
def execRegisterLoWrite (who : Nat) (off v : BitVec 32) (st : State) : Out :=
  onMem st fun d => if d.stopped ∨ isPair (off.toNat % regWindow) = false then d else (d.regWrite st.clk who off.toNat v).2

/-- REGISTER_WRITE (R10, R13, R509 to R513). -/
def execRegisterWrite (who : Nat) (off v : BitVec 32) (st : State) : Out :=
  onMem st fun d => if d.stopped then d else (d.regWrite st.clk who off.toNat v).2

/-- COUNTER_VIEW_SAMPLE (R496): a requester reads the first word of CNT_QCUR or CNT_QLAST through window `w`. -/
def execCounterViewSample (who : Nat) (w : Fin 32) (q : Fin 4096) (last : Bool) (st : State) : Out :=
  onMem st fun d =>
    if d.stopped then d
    else (d.regRead st.perm st.clk who (regWindow * w.val + 0x110000 + 0x80 * q.val + 0x40 * b2n last)).2

/-- PWR_MOOR (R449, R452): a write through berth 0's window. -/
def execPwrMoor (w : Fin 32) (v : BitVec 32) (st : State) : Out :=
  onMem st fun d => if w = 0 ∧ d.stopped = false then d.pwrMoor st.clk v.toNat else d

/-- FAB_PORT_RETRAIN (R332): a write of retrain; one from a berth other than the operator's is ignored. -/
def execFabPortRetrain (port : Fin 18) (berth : Fin 32) (st : State) : Out :=
  onMem st fun d => if berth = 0 ∧ d.stopped = false then d.fabCmd st.clk port 1 else d

/-- GRANT_APPLY_DONE (R397): the page has its new owner at every slice, and busy clears. -/
def execGrantApplyDone (st : State) : Out :=
  onMem st fun d =>
    match d.mem.grant with
    | none => d
    | some g =>
      if d.stopped then d
      else { d with mem := { d.mem with
        owner := mset 0 d.mem.owner g.page (setBits (mget 0 d.mem.owner g.page) 0 5 g.berth), grant := none } }

/-! ### Attestation (R437) -/

/-- Flags of the attestation report (R437). -/
def Dev.attestFlags (d : Dev) (p : Perm) : Nat :=
  packBits [(0, 1, b2n d.lkp.lastWarm), (1, 1, b2n (d.lkp.st == .maintenance)), (2, 1, b2n d.lkp.consent.isSome), (3, 1, b2n (d.lkp.st == .retired)),
    (4, 1, b2n ((d.slices.any fun e => e.2.degraded) || d.cores.any fun e => decide (4 < e.2.l1Off.length) || e.2.l1Refused)),
    (5, 1, b2n d.tim.common), (6, 1, b2n p.characterised)]

/-- The attestation report (R437): the bytes that the state fixes, and free values for hashes, the identity key and the signature. -/
def Dev.report (d : Dev) (p : Perm) (k : Clock) (nonce : List Byte) : List Byte :=
  let free := fun (lo n : Nat) => (List.range n).map fun i => Config.reportByte (lo + i) d.fresh
  bytesOf 8 0x31414E454F47454B ++ bytesOf 2 d.id ++ bytesOf 2 0 ++ bytesOf 4 d.lkp.boots ++ bytesOf 16 p.fuses.serial.toNat ++
    bytesOf 4 d.lkp.fwVer ++ bytesOf 4 p.fuses.rollCount ++ bytesOf 8 p.manSerial ++ bytesOf 4 d.gau.version ++ bytesOf 4 (d.attestFlags p) ++
    bytesOf 8 (gtime k d) ++ free 64 192 ++ nonce ++ free 288 32 ++ bytesOf 128 0 ++ free 448 64

/-- ATTEST_DONE (R437): the Lockkeeper writes the report over the buffer, and the record to the berth's ring 0. In Debug the identity
key signs nothing (R441). -/
def execAttestDone (berth : Fin 32) (st : State) : Out :=
  onMem st fun d =>
    match (d.berth berth).attest with
    | none => d
    | some a =>
      if d.stopped || d.lkp.identityOff then d
      else
        let ok := a % 512 == 0 && d.ownsSpan berth a 512
        let nonce := (List.range 32).map fun i => d.peekByte (keyId berth 0) (a + 256 + i)
        let d := if ok then { d.poke st.clk berth a (d.report st.perm st.clk nonce) with fresh := d.fresh + 1 } else d
        let d := d.updBerth berth fun x => { x with attest := none }
        d.writeRing st.clk berth 0 (eventRec 0x22 (if ok then 0 else 0x12) 0 1 0 0 0 0 (gtime st.clk d) 0) false

end Sys2Proof.Machine
end

