-- ==== Sys2Proof/Machine/Responses.lean ====
section
/-! DEFINITION. Responses and bulk accesses that reach an agent (R305 to R307, R407), management accesses and their answers (R315, R345,
R381, R382, R412, R509 to R512), and the start of a time measurement (R326, R330). -/

namespace Sys2Proof.Machine

/-! ### Responses by agent (R305, R307) -/

/-- Whether an answer is that of a slice's mirror read, which MIRROR_REPAIR takes (R476). -/
def Dev.repairAnswer (d : Dev) (p : Packet) : Bool := ((d.slice (p.tgt - 512)).ownOf p).any fun q => q.op == .readU

/-- READ_DATA (R199, R237, R346): read data reaches the agent that asked. The answer to a mirror repair waits for MIRROR_REPAIR, and the
answer to a slice's own fetch is dropped. -/
def execReadData (p : Packet) (st : State) : Out :=
  onMem st fun d => d.onPkt p .readData fun d =>
    let k := st.clk
    if p.tgt < 512 then some (d.coreResp p fun m => d.coreRead k p.tgt p m)
    else if p.tgt < 640 then
      if d.repairAnswer p then none
      else if ((d.slice (p.tgt - 512)).ownOf p).isSome then some (d.ownAnswer (p.tgt - 512) p)
      else some (d.farReadData k (p.tgt - 512) p)
    else if p.tgt < 704 then some (d.bargeData k p)
    else if p.tgt = 705 then some (d.hostAnswer k p)
    else some d.stray

/-- WRITE_ACK (R246, R281, R322, R344): a write is performed, or was not. A slice's own
write of a mirror or of a copy's dirty bytes is done. -/
def execWriteAck (p : Packet) (st : State) : Out :=
  onMem st fun d => d.onPkt p .writeAck fun d => some <|
    let k := st.clk
    if p.tgt < 512 then d.coreResp p fun m => d.coreWritten k p.tgt p m
    else if p.tgt < 640 then d.ownAnswer (p.tgt - 512) p
    else if p.tgt < 704 then d.bargeWritten k p
    else if p.tgt = 705 then d.hostAnswer k p
    else if p.tgt = 706 ∨ p.tgt = 707 then d.cpAnswer p
    else d.stray

/-- ERROR_RESP (R36, R69, R282, R345, R537): an access is refused. -/
def execErrorResp (p : Packet) (st : State) : Out :=
  onMem st fun d => d.onPkt p .errorResp fun d =>
    let k := st.clk
    if p.tgt < 512 then some (d.coreResp p fun m => d.coreError k p.tgt p m)
    else if p.tgt < 640 then
      if d.repairAnswer p then none
      else if ((d.slice (p.tgt - 512)).ownOf p).isSome then some (d.ownAnswer (p.tgt - 512) p)
      else some (d.farRefuse (p.tgt - 512) p)
    else if p.tgt < 704 then some (d.bargeRefused k p)
    else if p.tgt = 705 then some (d.hostAnswer k p)
    else if p.tgt = 706 ∨ p.tgt = 707 then some (d.cpAnswer p)
    else some d.stray

/-- HELD_RETRY (R407): the requester keeps its landing buffer and sends the request again, a core after 256 F-cycles. -/
def execHeldRetry (p : Packet) (st : State) : Out :=
  onMem st fun d => d.onPkt p .heldRetry fun d => some <|
    let k := st.clk
    if p.tgt < 512 then d.coreResp p fun _ => d.updMshr p.tgt p.entry fun x => { x with retryAt := some k.tsc }
    else if p.tgt < 640 then
      if ((d.slice (p.tgt - 512)).ownOf p).isSome then d.ownHold (p.tgt - 512) p
      else d.farRefuse (p.tgt - 512) p
    else if p.tgt < 704 then d.bargeHold k p
    else if p.tgt = 705 then d.hostHold p
    else if p.tgt = 706 ∨ p.tgt = 707 then d.cpAnswer p
    else d.stray

/-! ### Bulk accesses (R193, R278, R344 to R346, R537) -/

/-- A host's access to a queue's ring (form 2): at QUE_BASE, for the berth that owns the queue, and within the ring (R345).
(DEDUCED, assumption 70.) -/
def Dev.ringAccess (d : Dev) (p : Packet) : Option Packet :=
  let x := d.queue p.no
  let off := p.line % 2 ^ 38 * 128 + p.off
  if p.no < 4096 ∧ x.granted = true ∧ x.berth = p.berth ∧ x.base % 128 = 0 ∧ off + p.cnt ≤ 64 * 2 ^ x.sizeLog2 then
    some { p with aty := 3, line := 2 ^ 38 * (p.line / 2 ^ 38) + x.base / 128 + p.line % 2 ^ 38 }
  else none

/-- A bulk access reaches its target: a window, a local memory, a queue's ring, or HBM. None when it must wait. -/
def Dev.bulkArrive (d : Dev) (k : Clock) (p : Packet) : Option Dev :=
  if p.tgt = 705 then some (d.windowAccess k p)
  else if isLmWindow (p.line % 2 ^ 38 * 128) then d.serveWindow k p
  else if p.agent = 705 ∧ p.aty = 2 then
    match d.ringAccess p with
    | none => some (d.errorTo k p 3)
    | some q => d.serveReq k q
  else d.serveReq k p

/-- BULK_READ (R193, R278, R344, R346). -/
def execBulkRead (p : Packet) (st : State) : Out := onMem st fun d => d.onPkt p .bulkRead fun d => d.bulkArrive st.clk p
/-- BULK_WRITE (R193, R278, R344, R346). -/
def execBulkWrite (p : Packet) (st : State) : Out := onMem st fun d => d.onPkt p .bulkWrite fun d => d.bulkArrive st.clk p
/-- BULK_REDUCE (R277, R278). -/
def execBulkReduce (p : Packet) (st : State) : Out := onMem st fun d => d.onPkt p .bulkReduce fun d => d.bulkArrive st.clk p

/-! ### Time: parent and measurement (R326, R328, R330) -/

/-- Port to the time parent: the escape port to the time root (R328). -/
def Dev.timeParent (d : Dev) : Option Nat := if d.tim.root = d.id then none else d.escapePort d.tim.root

/-- Begin to measure a link: the first of 16 exchanges (R326). -/
def Dev.measureLink (d : Dev) (k : Clock) (port : Nat) : Dev :=
  (d.updPort port fun x => { x with exch := [], probeT1 := some (Int.ofNat k.tsc) }).linkSend port { LinkMsg.reset with kind := .timeProbe }

/-- Peer ports that are Up. -/
def Dev.upPeers (d : Dev) : List Nat := (List.range 18).filter fun q => decide ((d.port q).role = .peer) && d.portUp q

/-- Measure again (R330): every link of this device, and the request goes on down the tree. A management write with `aop` 4 carries it.
(DEDUCED, assumption 92.) -/
def Dev.remeasure (d : Dev) (k : Clock) : Dev :=
  let up := d.upPeers
  let d := up.foldl (fun d q => d.measureLink k q) { d with tim := { d.tim with remeas := !up.isEmpty, due := !up.isEmpty } }
  (up.filter fun q => some q != d.timeParent).foldl (fun d q =>
    d.mgmtSend { Packet.reset with op := .mgmtWrite, dst := (d.port q).nbrDev, tgt := 708, agent := 708, aop := 4, who := d.id }) d

/-! ### Management accesses (R511, R512) -/

/-- Answer a management access: with an error, or with read data. -/
def Dev.mgmtAnswer (d : Dev) (p : Packet) (ok : Bool) (data : List (BitVec 64)) : Dev :=
  d.send { answerPkt d p .mgmtResp with err := !ok, data := if ok then data else [], reason := if ok then 0 else 3 }

/-- Requester code of a management packet (R513). -/
def mgmtWho (p : Packet) : Nat := requester p.src p.agent (if p.agent = 705 then p.who else 0)

/-- Whether a host's access lies in the window of its berth (R345, R510). -/
def hostWindow (p : Packet) : Bool := decide (p.agent ≠ 705) || p.off / regWindow == p.berth

/-- An access to an unpopulated offset is logged (R511). -/
def Dev.mgmtHole (d : Dev) (k : Clock) (p : Packet) : Dev :=
  if regPopulated p.off then d
  else logErr k { ErlRec.reset with cls := 2, src := 0x0D, code := 0x0C, berth := p.berth, addr := BitVec.ofNat 64 (0x1F0000000000 + p.off) } d

/-- A register read of 4 or 8 bytes (R512). -/
def Dev.mgmtReadReg (d : Dev) (p : Perm) (k : Clock) (r : Packet) : Dev :=
  let d := d.mgmtHole k r
  if !hostWindow r then d.mgmtAnswer r false []
  else
    match d.regRead p k (mgmtWho r) r.off with
    | (none, d) => d.mgmtAnswer r false []
    | (some lo, d) =>
      if r.cnt ≤ 4 then d.mgmtAnswer r true [BitVec.ofNat 64 lo]
      else
        match d.regRead p k (mgmtWho r) (r.off + 4) with
        | (none, d) => d.mgmtAnswer r false []
        | (some hi, d) => d.mgmtAnswer r true [BitVec.ofNat 64 (lo + 2 ^ 32 * hi)]

/-- A register write of 4 or 8 bytes (R512). -/
def Dev.mgmtWriteReg (d : Dev) (k : Clock) (r : Packet) : Dev :=
  let d := d.mgmtHole k r
  let w := r.data.headD 0
  if !hostWindow r then d.mgmtAnswer r false []
  else
    match d.regWrite k (mgmtWho r) r.off (w.setWidth 32) with
    | (false, d) => d.mgmtAnswer r false []
    | (true, d) =>
      if r.cnt ≤ 4 then d.mgmtAnswer r true []
      else
        let (ok, d) := d.regWrite k (mgmtWho r) (r.off + 4) (w.extractLsb' 32 32)
        d.mgmtAnswer r ok []

/-- Whether the sender of a management message is a device's own management (R511). -/
def ownMgmt (p : Packet) : Bool := p.agent == 704 || p.agent == 706 || p.agent == 707 || p.agent == 708

/-- MGMT_READ (R315, R320, R345, R382, R511, R512): a register read, or (`aop` 5) the last sequence number that a port accepted. -/
def execMgmtRead (p : Packet) (st : State) : Out :=
  onMem st fun d => d.onPkt p .mgmtRead fun d => some <|
    if p.aop = 5 then
      if p.agent = 704 ∧ p.no < 18 then d.mgmtAnswer p true [BitVec.ofNat 64 (((d.port p.no).unverified + 4095) % 4096)] else d.mgmtAnswer p false []
    else d.mgmtReadReg st.perm st.clk p

/-- MGMT_WRITE (R315, R330, R345, R381, R382, R412, R511, R512): a register write, a departure (`aop` 1), a change of the import table
(2 and 3), a measurement passed down the time tree (4), a wharf's subscription to a ring (6), or a copy of a record for the wharf (7). (DEDUCED, assumption 96.) -/
def execMgmtWrite (p : Packet) (st : State) : Out :=
  onMem st fun d => d.onPkt p .mgmtWrite fun d => some <|
    let k := st.clk
    if p.aop = 0 then d.mgmtWriteReg k p
    else if !ownMgmt p then d.mgmtAnswer p false []
    else if p.aop = 1 then (d.departure k (p.no % 32)).mgmtAnswer p true []
    else if p.aop = 4 then
      let mine := decide (d.tim.root = d.id) || d.timeParent.any fun q => (d.port q).nbrDev == p.src
      (if mine && !d.tim.remeas then d.remeasure k else d).mgmtAnswer p true []
    else if p.aop = 6 then
      let x := (p.src, p.berth, p.no)
      let rest := d.whf.mySubs.filter fun y => y != x
      ({ d with whf := { d.whf with mySubs := if p.cnt = 1 then rest ++ [x] else rest } }).mgmtAnswer p true []
    else if p.aop = 7 then
      let bytes := (p.data.zipIdx).foldl (fun (v : BitVec 512) w => v ||| (w.1.setWidth 512).shiftLeft (64 * w.2)) 0
      (d.deliverRecord k p.src p.berth p.no p.off bytes (p.cnt == 1)).mgmtAnswer p true []
    else
      let (ok, d) := d.setImport p.no p.off p.src (p.cnt == 1) (p.aop == 3)
      d.mgmtAnswer p ok []

/-! ### Answers to management requests -/

/-- Status of a command for a management answer with an error (R381, R382). (DEDUCED, assumption 54.) -/
def mgmtStatus (p : Packet) (full : Nat) : Nat := if p.reason = 2 then 0x0B else full

/-- A remote wait has both halves of its fence's value (R377, R382). -/
def Dev.waitPolled (d : Dev) (k : Clock) (q : Nat) (m : Cmd) : Dev :=
  let v : BitVec 64 := (mget 0 m.poll 1) ++ (mget 0 m.poll 0)
  let t := BitVec.ofNat 64 (m.word 4)
  let d := d.updCmd q m.order fun x => { x with seen := v }
  let w : Waiter := { queue := q, order := m.order, ctx := m.ctx, target := t }
  let done := fun (d : Dev) (status : Nat) =>
    if m.waiting then d.endWait k m.fenceNo m.fenceDev w status v 0 m.fenceDev else d.finishCmd q m.order status v.toNat
  if v = aborted then done d 0x0C
  else if t.toNat ≤ v.toNat then done d 0
  else if m.waiting then d else d.beginWait k q m

/-- A command's management request is answered. -/
def Dev.cmdAnswered (d : Dev) (k : Clock) (q : Nat) (m : Cmd) (r p : Packet) : Dev :=
  let m := { m with reqs := m.reqs.erase r }
  let d := d.updCmd q m.order fun _ => m
  if m.status.isSome then d
  else
    match m.opcode with
    | 3 =>
      let m := { m with poll := if p.err ∧ mhas m.poll 2 = false then mput m.poll 2 (BitVec.ofNat 32 (mgmtStatus p 0x12)) else m.poll }
      let d := d.updCmd q m.order fun _ => m
      if m.reqs.isEmpty then d.finishCmd q m.order (mget 0 m.poll 2).toNat 0 else d
    | 4 =>
      if p.err then
        let w : Waiter := { queue := q, order := m.order, ctx := m.ctx, target := BitVec.ofNat 64 (m.word 4) }
        if m.waiting then d.endWait k m.fenceNo m.fenceDev w (mgmtStatus p 0x12) m.seen 0 0 else d.finishCmd q m.order (mgmtStatus p 0x12) 0
      else
        let m := { m with poll := mput m.poll (r.off / 4 % 2) ((p.data.headD 0).setWidth 32) }
        let d := d.updCmd q m.order fun _ => m
        if m.reqs.isEmpty then d.waitPolled k q m else d
    | _ =>
      if p.err then d.finishCmd q m.order (mgmtStatus p 3) 0
      else
        (d.setExport m.fenceNo (bitsAt (m.word 4) 0 16) (bitsAt (m.word 4) 16 12) (bitAt (m.word 4) 28) (bitAt (m.word 4) 29)).finishCmd q m.order 0 0

/-- Ports to a neighbour that await the answer to a Ping. -/
def Dev.pinged (d : Dev) (x : Nat) : List Nat := (List.range 18).filter fun q => (d.port q).nbrDev == x && (d.port q).pingAt.isSome

/-- MGMT_RESP (R315, R320, R322, R344, R381, R382): a management request is answered. -/
def execMgmtResp (p : Packet) (st : State) : Out :=
  onMem st fun d => d.onPkt p .mgmtResp fun d => some <|
    let k := st.clk
    if p.tgt = 705 then d.hostAnswer k p
    else
      match mget? d.fab.mgmtOut p.entry with
      | none => d.stray
      | some r =>
        if r.gen ≠ p.gen ∨ r.agent ≠ p.tgt then d.stray
        else
          let d := { d with fab := { d.fab with mgmtOut := mdel d.fab.mgmtOut p.entry } }
          if r.op = .ping then
            if p.err then d
            else (d.pinged r.dst).foldl (fun d q => d.updPort q fun x => { x with pingAt := none }) d
          else if r.aop = 5 then
            match p.err, (List.range 18).find? fun q => (d.port q).nbrDev == r.dst && (d.port q).nbrPort == r.no && (d.port q).seqAsk.isSome with
            | false, some q => d.seqKnown k q ((p.data.headD 0).toNat % 4096)
            | _, _ => d
          else
            match d.ctl.queues.findSome? fun e => (e.2.cmds.find? fun m => m.reqs.contains r).map fun m => (e.1, m) with
            | some (q, m) => d.cmdAnswered k q m r p
            | none => d
end Sys2Proof.Machine
end

