-- ==== Sys2Proof/Machine/Fabric.lean ====
section
/-! DEFINITION. The fabric's rows: flits and GMACs (R300 to R302), routing and route marks (R311, R312, R321), neighbours (R323 to R325),
time exchanges (R326 to R330), and links that fail or rest (R318, R320, R322, R440, R448). -/

namespace Sys2Proof.Machine

/-! ### Routing (R311, R312, R321, R322) -/

/-- A port that is Down, or that was Up and is Disabled, which is handled as Down (R302). -/
def Port.gone (x : Port) : Bool := x.st == .down || (x.st == .disabled && x.linkOff.isSome)

/-- A RouteMark of this device, which the packets held for its destination do not stop (R321). -/
def Dev.ownMark (d : Dev) (p : Packet) : Bool := p.op == .routeMark && p.who == d.id

/-- The Down escape port off which VC2 traffic for a device must first be moved with a RouteMark (R321). (DEDUCED, assumption 89.) -/
def Dev.markNeeded (d : Dev) (p : Packet) : Option Nat :=
  let q := bitsAt (mget 0 d.fab.routes p.dst).toNat 36 5
  let x := d.port q
  if vcOf p.op = 2 ∧ d.ownMark p = false ∧ x.gone = true ∧ x.moved.contains p.dst = false ∧ d.reachable x.nbrDev = true then some q else none

/-- Hold VC2 traffic for a packet's destination, and send the RouteMark to the neighbour beyond the Down port (R321). The mark carries its
destination beside the marking device. -/
def Dev.startMark (d : Dev) (q : Nat) (p : Packet) : Dev :=
  let no := d.fab.nextMark % 256
  let nbr := (d.port q).nbrDev
  let m : Mark := { dst := p.dst, no := no, nbr := nbr, port := q, held := [p] }
  { d with fab := { d.fab with marks := d.fab.marks ++ [m], nextMark := no + 1 } }.send { Packet.reset with
      op := .routeMark, dst := nbr, src := d.id, who := d.id, no := no, reqDev := p.dst }

/-- Route a packet that waits in the mesh for another device (R312). -/
def Dev.forwardPacket (d : Dev) (k : Clock) (p : Packet) : Dev :=
  let vc2 := vcOf p.op == 2
  let earlier := (d.fab.net.takeWhile fun q => q != p).any fun q => vcOf q.op == 2 && q.dst == p.dst
  if vc2 && earlier then d
  else if !d.reachable p.dst then (d.take p).unreachable p
  else if vc2 && !d.ownMark p && d.fab.marks.any (fun m => m.dst == p.dst) then
    let d := d.take p
    { d with fab := { d.fab with marks := d.fab.marks.map fun m => if m.dst = p.dst then { m with held := m.held ++ [p] } else m } }
  else
    match d.markNeeded p with
    | some q => (d.take p).startMark q p
    | none =>
      match d.choosePort p with
      | none => d
      | some (q, esc) =>
        let (p', d) := ((d.take p).noteLeft p q).meetBuf k q { p with esc := esc }
        d.toPort q p'

/-- PACKET_FORWARD (R310 to R312, R314, R321, R322). -/
def execPacketForward (p : Packet) (st : State) : Out :=
  onMem st fun d => if p.dst ≠ d.id ∧ d.fab.net.contains p = true ∧ d.stopped = false then d.forwardPacket st.clk p else d

/-- ROUTE_MARK (R321): the destination answers; the neighbour sends the mark on, behind the VC2 packets that it holds. -/
def execRouteMark (p : Packet) (st : State) : Out :=
  onMem st fun d => d.onPkt p .routeMark fun d => some <|
    if p.reqDev = d.id then d.send { Packet.reset with op := .markAck, dst := p.who, src := d.id, who := p.who, no := p.no, reqDev := d.id }
    else d.send { p with dst := p.reqDev }

/-- MARK_ACK (R321): the packets held for the destination are released, behind those of the Down port that are not yet resolved (R320). -/
def execMarkAck (p : Packet) (st : State) : Out :=
  onMem st fun d => d.onPkt p .markAck fun d => some <|
    match d.fab.marks.find? fun m => m.no == p.no && m.dst == p.src with
    | none => d.stray
    | some m =>
      if (d.port m.port).seqAsk.isNone then d.releaseMark m
      else { d with fab := { d.fab with marks := d.fab.marks.map fun x => if x = m then { x with acked := true } else x } }

/-! ### Flits (R300 to R302, R309) -/

/-- Count a nak that a port sent or received (R332, R488). -/
def Dev.countNak (d : Dev) (port : Nat) : Dev := (d.updPort port fun x => { x with replays := satAdd 65535 x.replays 1 }).bump (52 + port) 1

/-- Take the acknowledgement, the nak and the credits of a flit header (R300, R301, R309). -/
def Dev.takeHeader (d : Dev) (port : Nat) (f : FlitIn) : Dev :=
  let credit := fun (m : List (Nat × Nat)) (c : Option (Nat × Bool × Nat)) =>
    match c with
    | some (vc, esc, n) => mput m (2 * vc + b2n esc) (mget 0 m (2 * vc + b2n esc) - n)
    | none => m
  let d := d.updPort port fun x =>
    let at' := if f.ackValid then (x.replay.zipIdx.find? fun e => e.1.seq == f.ackSeq).map Prod.snd else none
    let replay := match at' with
      | some i => x.replay.drop (i + 1)
      | none => x.replay
    { x with replay := replay, resend := if f.nak then replay.length else min x.resend replay.length, credits := credit (credit x.credits f.cr0) f.cr1 }
  let d := if f.nak then d.countNak port else d
  (d.pumpPort port).offerAgain port

/-- Packets of accepted flits enter the mesh (R314). -/
def Dev.arrive (d : Dev) (port : Nat) (ps : List Packet) : Dev :=
  { d with fab := { d.fab with net := d.fab.net ++ ps.map fun p => { p with via := some port } } }

/-- Discard a flit that failed or is out of order, and send nak once for the gap (R301). -/
def Dev.refuseFlit (d : Dev) (port : Nat) : Dev :=
  if (d.port port).nakOut then d else (d.updPort port fun x => { x with nakOut := true }).countNak port

/-- A flit arrives at a peer port (R299 to R302, R309): a Data or Control flit out of sequence is discarded with its header. (DESIGN CHOICE, assumption 82.) (DEDUCED, assumption 83.) -/
def Dev.flitArrives (d : Dev) (k : Clock) (port : Nat) (f : FlitIn) : Dev :=
  let d := if f.fecBad then d.updPort port fun x => { x with fecUnc := satAdd 255 x.fecUnc f.cws } else d
  if !f.ok || f.fecBad then d.refuseFlit port
  else if f.kind = 3 then d
  else
    let d := d.updPort port fun x => { x with lastFlit := k.tsc, lpi := x.lpi && f.kind == 1 }
    if f.kind = 1 then d.takeHeader port f
    else
      let x := d.port port
      if f.seq ≠ x.rxSeq then d.refuseFlit port
      else
        let d := (d.takeHeader port f).updPort port fun x => { x with rxSeq := (f.seq + 1) % 4096, nakOut := false }
        if f.kind = 2 then d
        else
          let d := d.bump (17 + 2 * port) 240
          if x.encrypt then d.updPort port fun x => { x with gmacRun := x.gmacRun ++ [{ seq := f.seq, kind := 0, pkts := f.pkts }] }
          else d.arrive port f.pkts

/-- Whether a peer port takes a flit of a kind: any while it is Up, and link-local messages once its lanes are trained (R300, R324). -/
def Port.takes (x : Port) (kind : Nat) : Bool :=
  x.role == .peer && (x.st == .up || (x.st == .training && x.width != 0 && kind != 0))

/-- FLIT_RECEIVE (R299 to R302, R309). (DEDUCED, assumption 94.) (DESIGN CHOICE, assumption 143.) -/
def execFlitReceive (port : Fin 18) (f : FlitIn) (st : State) : Out :=
  onMem st fun d => if (d.port port).takes f.kind = true ∧ d.stopped = false then (d.flitArrives st.clk port f).hostGoAll st.clk else d

/-- GMAC (R302): the 16 flits are delivered, or asked for again; after three failures in a row the port is handled as Down, and is
Disabled. (DESIGN CHOICE, assumption 15.) -/
def execGmac (port : Fin 18) (ok : Bool) (st : State) : Out :=
  onMem st fun d =>
    let x := d.port port
    if x.encrypt = false ∨ d.portUp port = false ∨ x.gmacRun.length ≠ 16 ∨ d.stopped = true then d
    else if ok then (d.updPort port fun x => { x with gmacRun := [], gmacFails := 0 }).arrive port (x.gmacRun.flatMap Flit.pkts)
    else
      let d := (d.updPort port fun x => { x with gmacRun := [], gmacFails := x.gmacFails + 1, rxSeq := x.unverified, nakOut := true }).countNak port
      if x.gmacFails < 2 then d
      else ((d.portDown st.clk port).portDisable st.clk port 6 2).updPort port fun x => { x with gmacFails := 0 }

/-! ### Bring-up (R318, R319, R323 to R325) -/

/-- Widest width that a set of good lanes gives, coded as FAB_PORT_STATUS.width (R318). -/
def laneWidth (l : BitVec 8) : Nat :=
  if l = 0xFF#8 then 4
  else if l &&& 0x0F#8 = 0x0F#8 ∨ l &&& 0xF0#8 = 0xF0#8 then 3
  else if (List.range 4).any (fun i => l.getLsbD (2 * i) && l.getLsbD (2 * i + 1)) then 2
  else if l ≠ 0 then 1 else 0

/-- A port at a width: degraded_unmet follows (R319). -/
def Port.atWidth (x : Port) (lanes : BitVec 8) (w : Nat) : Port :=
  { x with lanes := lanes, width := w, unmet := x.fullWidth && decide (w < 4) }

/-- Send Hello with this device's ID, the port, its boot count and a fresh nonce (R325). -/
def Dev.sendHello (d : Dev) (port : Nat) : Dev :=
  let nonce := Config.entropy d.fresh
  let d := ({ d with fresh := d.fresh + 1 }).updPort port fun x => { x with nonce := nonce }
  d.linkSend port { LinkMsg.reset with kind := .hello, dev := d.id, port := port, boot := d.lkp.boots, nonce := nonce }

/-- A peer port is Up. -/
def Dev.portComesUp (d : Dev) (k : Clock) (port : Nat) : Dev :=
  ((d.updPort port fun x => { x with st := .up, lastFlit := k.tsc, idleSince := k.tsc, tries := 0 }).pumpPort port).hostGoAll k

/-- A check of a neighbour fails (R325): the port is Disabled; one that was Up is handled as Down as well (R302).
(DESIGN CHOICE, assumption 90.) (DEDUCED, assumption 95.) -/
def Dev.refuseNeighbour (d : Dev) (k : Clock) (port reason : Nat) : Dev :=
  (if d.portUp port then d.portDown k port else d).portDisable k port reason (if d.portUp port then 2 else 1)

/-- A Storage port that has trained joins its appliance (R339, R347): session 256 + p sends JOIN, which asks for no berth. -/
def Dev.storageJoin (d : Dev) (k : Clock) (p : Perm) (port : Nat) : Dev :=
  let nonce := Config.entropy d.fresh
  let priv := Config.entropy (d.fresh + 1)
  let join := { HostPkt.reset with
    typ := 0x02, port := port, key := Config.identityKey p.fuses.secret, xkey := Config.x25519 priv 9, nonce := nonce }
  let d := { d with fresh := d.fresh + 2 }.updSession (256 + port) fun _ => { Session.reset with
    st := .joining, port := port, nonce := nonce, xpriv := priv, xpub := join.xkey, joined := join, joinAt := k.tsc }
  d.plainOut join

/-- PORT_RETRAIN_DONE (R318, R320, R324): training of the lanes ends, or a retrain does. -/
def execPortRetrainDone (port : Fin 18) (ok : Bool) (lanes : BitVec 8) (st : State) : Out :=
  onMem st fun d =>
    let k := st.clk
    let x := d.port port
    if d.stopped || x.role == .unused then d
    else if x.st = .training then
      let w := if ok then laneWidth lanes else 0
      if x.role = .peer then
        if w = 0 then d.portDown k port else (d.updPort port fun x => x.atWidth lanes w).sendHello port
      else if w = 0 then d.updPort port fun x => { x with st := .down }
      else
        let d := d.updPort port fun x => { x.atWidth lanes w with st := .up }
        let d := { d with whf := { d.whf with netPorts := mput d.whf.netPorts port { mget NetPort.reset d.whf.netPorts port with up := true } } }
        if x.role = .storage ∧ (d.session (256 + port)).st = .free then d.storageJoin k st.perm port else d
    else if x.st = .retraining then
      let good := x.lanes &&& lanes
      let w := if ok then min x.width (laneWidth good) else 0
      if w = 0 then
        if 2 ≤ x.tries then d.portDown k port else d.updPort port fun x => { x with tries := x.tries + 1, retrains := satAdd 255 x.retrains 1 }
      else
        let d := (d.updPort port fun x => x.atWidth good w).portComesUp k port
        if w < x.width then logErr k (portErr port 1 0x06 w) d else d
    else d

/-- Whether a port's link domain is off: both of its ports are Unused (R30). -/
def Dev.domainOff (d : Dev) (port : Nat) : Bool := (d.port port).role == .unused && (d.port (port / 2 * 2 + 1 - port % 2)).role == .unused

/-- HELLO (R323, R325): the neighbour's device, port and boot count are checked, and the Proof over both Hellos is sent.
(DESIGN CHOICE, assumption 173.) -/
def execHello (port : Fin 18) (dev : BitVec 12) (nport : BitVec 5) (boot : BitVec 28) (nonce : BitVec 256) (st : State) : Out :=
  onMem st fun d =>
    let k := st.clk
    let x := d.port port
    if d.stopped || d.domainOff port then d
    else if x.role = .unused then (if x.st = .disabled then d else d.portDisable k port 4 1)
    else if x.role ≠ .peer ∨ !(x.st == .training && x.width != 0 || x.st == .up) then d
    else if dev.toNat ≠ x.nbrDev then d.refuseNeighbour k port 1
    else if nport.toNat ≠ x.nbrPort then d.refuseNeighbour k port 2
    else if mget? d.fab.down dev.toNat = some boot.toNat then d.refuseNeighbour k port 5
    else
      let d := if mhas d.fab.down dev.toNat then d.markUp k dev.toNat boot.toNat else d
      let d := d.updPort port fun x => { x with hello := some (dev.toNat, nport.toNat, boot.toNat), peerNonce := nonce, proved := false }
      d.linkSend port { LinkMsg.reset with kind := .proof }

/-- PROOF (R324, R325): a good signature admits the neighbour; the time exchanges follow, unless the link's offset survived (R451). -/
def execProof (port : Fin 18) (sigOk : Bool) (st : State) : Out :=
  onMem st fun d =>
    let k := st.clk
    let x := d.port port
    if d.stopped || x.hello.isNone || x.role != .peer || x.proved then d
    else if !sigOk then d.refuseNeighbour k port 3
    else
      let d := d.updPort port fun x => { x with proved := true }
      if x.st ≠ .training then d
      else
        let d := d.updPort port fun x => { x with keyEpoch := 0, txCount := 0, gmacTx := 0 }
        if x.linkOff.isSome then d.portComesUp k port
        else { d.measureLink k port with tim := { d.tim with remeas := true } }

/-! ### Time (R326 to R330) -/

/-- Round a quotient by 16 to the nearest integer, ties to even (R327). -/
def meanOf16 (n : Int) : Int :=
  let q := n / 16
  let r := n % 16
  if r < 8 then q else if 8 < r then q + 1 else if q % 2 = 0 then q else q + 1

/-- Insert an exchange by its delay, behind equal ones. -/
def insExch (e : Exch) : List Exch → List Exch
  | [] => [e]
  | x :: xs => if e.delay2 < x.delay2 then e :: x :: xs else x :: insExch e xs

/-- Link offset of 16 exchanges: the mean of the 8 with the smallest delay (R327). -/
def linkOffset (es : List Exch) : Int :=
  let best := (es.foldl (fun l e => insExch e l) []).take 8
  meanOf16 (best.foldl (fun s e => s + e.off2) 0)

/-- Send this device's offset to a neighbour, with the link offset measured there, once that is measured (R328). (DEDUCED, assumption 91.) -/
def Dev.sendOffset (d : Dev) (port : Nat) : Dev :=
  let x := d.port port
  match x.linkOff with
  | some l =>
    if d.tim.valid ∧ x.st = .up ∧ x.probeT1 = none ∧ some port ≠ d.timeParent then
      d.offer port { Packet.reset with
        op := .timeOffset, dst := x.nbrDev, src := d.id, tgt := 704, agent := 704, toff := d.tim.off, tlink := l, no := d.tim.hops, esc := true }
    else d
  | none => d

/-- A device has its offset (R328, R330): global time does not go back, and the offset goes on down the tree.
(DESIGN CHOICE, assumption 93.) -/
def Dev.setOffset (d : Dev) (k : Clock) (o : Int) (hops : Nat) : Dev :=
  let now := Int.ofNat (gtime k d)
  let back := decide (Int.ofNat k.tsc + o < now)
  let d := { d with tim := { d.tim with
      off := o, valid := true, due := false, hops := min 15 hops, stepBack := d.tim.stepBack || back, floor := if back then now else d.tim.floor } }
  d.upPeers.foldl Dev.sendOffset d

/-- TIME_PROBE (R326): t2 is captured as the probe arrives, t3 as the reply leaves, `turn` sixteenths of a tick later. -/
def execTimeProbe (port : Fin 18) (turn : Nat) (st : State) : Out :=
  onMem st fun d =>
    let x := d.port port
    if x.role = .peer ∧ (x.st = .up ∨ x.st = .training) ∧ d.stopped = false then
      let t2 := Int.ofNat st.clk.tsc
      let t3 := Int.ofNat (st.clk.tsc + turn)
      (d.updPort port fun x => { x with replyT := some (t2, t3) }).linkSend port { LinkMsg.reset with kind := .timeReply, t2 := t2, t3 := t3 }
    else d

/-- The 16 exchanges of a link are taken (R324, R327). -/
def Dev.linkMeasured (d : Dev) (k : Clock) (port : Nat) (es : List Exch) : Dev :=
  let d := d.updPort port fun x => { x with exch := es, probeT1 := none, linkOff := some (linkOffset es) }
  let d := { d with tim := { d.tim with remeas := (List.range 18).any fun q => (d.port q).probeT1.isSome } }
  let d := if (d.port port).st = .training then d.portComesUp k port else d
  if d.tim.root = d.id ∧ (d.tim.valid = false ∨ d.tim.due = true) then d.setOffset k 0 0 else d.sendOffset port

/-- TIME_REPLY (R326, R327): t4 is the local count now. -/
def execTimeReply (port : Fin 18) (t2 t3 : BitVec 64) (st : State) : Out :=
  onMem st fun d =>
    let x := d.port port
    match x.probeT1 with
    | none => d
    | some t1 =>
      if d.stopped || !(x.st == .up || x.st == .training) then d
      else
        let t4 := Int.ofNat st.clk.tsc
        let a := Int.ofNat t2.toNat
        let b := Int.ofNat t3.toNat
        let es := x.exch ++ [{ off2 := (a - t1) + (b - t4), delay2 := (t4 - t1) - (b - a) }]
        if es.length < 16 then (d.updPort port fun x => { x with exch := es, probeT1 := some t4 }).linkSend port { LinkMsg.reset with kind := .timeProbe } else d.linkMeasured st.clk port es

/-- TIME_OFFSET (R328, R330): the offset of the time parent, less the link offset that it measured; a device that has its offset takes a new
one only when a measurement was asked for. (DESIGN CHOICE, assumption 88.) -/
def execTimeOffset (p : Packet) (st : State) : Out :=
  onMem st fun d => d.onPkt p .timeOffset fun d => some <|
    if (!d.tim.valid || d.tim.due) && d.timeParent.any fun q => (d.port q).nbrDev == p.src then d.setOffset st.clk (p.toff - p.tlink) (p.no + 1) else d

/-! ### Peers (R322, R323) -/

/-- PEER_DOWN (R322). -/
def execPeerDown (p : Packet) (st : State) : Out := onMem st fun d => d.onPkt p .peerDown fun d => some (d.markDown st.clk p.who p.boot)
/-- PEER_UP (R323). -/
def execPeerUp (p : Packet) (st : State) : Out := onMem st fun d => d.onPkt p .peerUp fun d => some (d.markUp st.clk p.who p.boot)
/-- PING (R315). -/
def execPing (p : Packet) (st : State) : Out := onMem st fun d => d.onPkt p .ping fun d => some (d.mgmtAnswer p true [])

/-- PING_TIMEOUT (R322): no answer within 50 ms, so the neighbour is down, with the boot count of its Hello. -/
def execPingTimeout (port : Fin 18) (st : State) : Out :=
  onMem st fun d =>
    let x := d.port port
    match x.pingAt with
    | none => d
    | some t =>
      if d.stopped || !passed st.clk t (msec 50) then d
      else (d.updPort port fun x => { x with pingAt := none }).markDown st.clk x.nbrDev ((x.hello.map fun h => h.2.2).getD 0)

/-- NEIGHBOUR_SEQ_TIMEOUT (R320): no answer within 50 ms. -/
def execNeighbourSeqTimeout (port : Fin 18) (st : State) : Out :=
  onMem st fun d =>
    match (d.port port).seqAsk with
    | none => d
    | some t => if d.stopped || !passed st.clk t (msec 50) then d else d.seqLost st.clk port

/-! ### Links that fail or rest (R318, R320, R440, R448) -/

/-- LANE_FAIL (R318): an Up port retrains; one in training chooses its width again from the lanes that are left. -/
def execLaneFail (port : Fin 18) (lane : Fin 8) (st : State) : Out :=
  onMem st fun d =>
    let x := d.port port
    if x.role ≠ .peer ∨ d.stopped then d
    else
      let d := d.updPort port fun x => { x with lanes := x.lanes &&& ~~~(1#8 <<< lane.val) }
      if x.st = .up then d.retrainPort port
      else if x.st = .training ∧ x.width ≠ 0 then
        let left := (d.port port).lanes
        if laneWidth left = 0 then d.portDown st.clk port else d.updPort port fun x => x.atWidth left (min x.width (laneWidth left))
      else d

/-- LINK_SILENCE_TIMEOUT (R320, R448). -/
def execLinkSilenceTimeout (port : Fin 18) (st : State) : Out :=
  onMem st fun d =>
    let x := d.port port
    if x.role = .peer ∧ x.st = .up ∧ x.lpi = false ∧ d.stopped = false ∧ passed st.clk x.lastFlit (usec 10) = true then d.retrainPort port else d

/-- LINK_REKEY (R440): the Hello and Proof exchange is repeated, and the key epoch increments. -/
def execLinkRekey (port : Fin 18) (st : State) : Out :=
  onMem st fun d =>
    let x := d.port port
    if x.role = .peer ∧ x.st = .up ∧ x.encrypt = true ∧ d.stopped = false then
      (d.updPort port fun x => { x with keyEpoch := x.keyEpoch + 1, txCount := 0, proved := false }).sendHello port
    else d

/-- LPI_ENTRY (R448): both directions have held nothing for 2 µs. -/
def execLpiEntry (port : Fin 18) (st : State) : Out :=
  onMem st fun d =>
    let x := d.port port
    if x.role = .peer ∧ x.st = .up ∧ d.stopped = false ∧ d.busyPorts.contains port.val = false ∧ passed st.clk x.idleSince (usec 2) = true then
      d.updPort port fun x => { x with lpi := true }
    else d

end Sys2Proof.Machine
end

