-- ==== Sys2Proof/Machine/PowerLoops.lean ====
section
/-! DEFINITION. Gauges, the margin plan and its journal (R453 to R460), and the loops that hold the operating point (R461 to R467). -/

namespace Sys2Proof.Machine

/-! ### Rails (R453, R454) -/

/-- Domains that set a rail's need (R29, R453). -/
def railDomains (r : Nat) : List Nat :=
  if r < 4 then (List.range 8).map (fun i => 8 * r + i) ++ [32 + 2 * r, 33 + 2 * r, 40 + r]
  else if r < 8 then (List.range 8).map (fun i => 8 * (r - 4) + i) ++ [32 + 2 * (r - 4), 33 + 2 * (r - 4)]
  else if r = 8 then (List.range 17).map (fun i => 44 + i) ++ [62, 63]
  else []

/-- A rail. -/
def Dev.rail (d : Dev) (r : Nat) : Rail := mget Rail.reset d.gau.rails r
/-- Change a rail. -/
def Dev.updRail (d : Dev) (r : Nat) (f : Rail → Rail) : Dev := { d with gau := { d.gau with rails := mput d.gau.rails r (f (d.rail r)) } }

/-- Record of a rail fault (R454, R470). -/
def railErr (r detail : Nat) : ErlRec := { ErlRec.reset with cls := 4, src := 0x0E, code := 0x0E, unit := r, detail := detail }

/-- One rail's telemetry (R454, R529). -/
def Dev.readRail (k : Clock) (d : Dev) (x : RailIn) : Dev :=
  let since := if x.inTol then none else some ((d.rail x.rail).outSince.getD k.tsc)
  let d := d.updRail x.rail fun r => { r with current := x.current, outSince := since }
  if x.fault then logErr k (railErr x.rail 1) d
  else if since.any fun t => passed k t (msec 1) then logErr k (railErr x.rail 2) d else d

/-- RAIL_TELEMETRY_READ (R454, R529): each millisecond the Lockkeeper reads every rail. -/
def execRailTelemetryRead (r : List RailIn) (st : State) : Out :=
  onMem st fun d => if d.stopped || st.clk.inReset || !st.clk.vaon || d.pwr.st == .moored then d else r.foldl (Dev.readRail st.clk) d

/-! ### The margin plan (R456 to R460) -/

/-- The reading with the smallest slack. -/
def worst (ms : List Meas) : Option Meas :=
  ms.foldl (fun (o : Option Meas) m => match o with
    | none => some m
    | some x => if m.slack < x.slack then some m else some x) none

/-- MARGIN_END (R459, R467): byte 1 the rail, 0xFF for the ceiling. (DEDUCED, assumption 100.) -/
def Dev.marginEnd (d : Dev) (k : Clock) (rail : Nat) : Dev :=
  d.writeRing k 0 0 (eventRec 0x25 rail 0 1 0 0 0 d.gau.version (gtime k d) 0) false

/-- Take a step of the plan (R458 to R460): its entry is due for the journal, and a last step is reported. -/
def Dev.planStep (d : Dev) (k : Clock) (kind rail value : Nat) (w : Option Meas) (last : Bool) : Dev :=
  let e : JEntry := { version := d.gau.version + 1, kind := kind, rail := rail, value := value, domain := (w.map Meas.domain).getD 255
                      time := gtime k d, slack := (w.map Meas.slack).getD 0, temp := (w.map Meas.temp).getD 0, last := last }
  let d := { d with gau := { d.gau with version := e.version, ended := d.gau.ended || last, dueEntries := d.gau.dueEntries ++ [e] } }
  if last then d.marginEnd k rail else d

/-- Whether the last margining of a rail's stacks calls for a step (R458). -/
def Dev.eyesLow (d : Dev) (r : Nat) : Bool :=
  decide (r < 4) && d.gau.eyes.any fun e => e.1 / 2 == r && (decide (e.2.1 < 350) || decide (e.2.2 < 40))

/-- Steps of R458 for one rail; true while no ceiling step was taken in this measurement. In one that only catches up with woken
domains (`full` clear), the eyes were not measured. -/
def Dev.railStep (k : Clock) (g : GaugeIn) (full : Bool) (s : Bool × Dev) (r : Nat) : Bool × Dev :=
  let d := s.2
  let ms := g.meas.filter fun m => (railDomains r).contains m.domain
  let w := worst ms
  let d : Dev := match w with
    | some m => d.updRail r fun x => { x with slack := m.slack }
    | none => d
  let low := ms.filter fun m => decide (m.slack < 30)
  let core := low.any fun m => decide (m.domain < 32)
  let off := (d.rail r).off
  if !low.isEmpty || (full && ((r == 9 && g.eyeBad) || d.eyesLow r)) then
    if off < railCap r then
      let last := off + 1 == railCap r && (decide (8 ≤ r) || !core)
      (s.1, (d.updRail r fun x => { x with off := off + 1 }).planStep k 1 r (off + 1) w last)
    else if core && decide (12 < d.gau.ceiling) then
      if s.1 then
        let c := d.gau.ceiling - 1
        (false, { d with gau := { d.gau with ceiling := c } }.planStep k 2 255 c w (c == 12))
      else (s.1, d)
    else (s.1, if low.isEmpty then d else d.marginEnd k r)
  else (s.1, d)

/-- Steps of R458 after a measurement (R456): a gated domain is left for its next wake. -/
def Dev.measure (d : Dev) (k : Clock) (g : GaugeIn) : Dev :=
  let g := { g with meas := g.meas.filter fun m => !(decide (m.domain < 32) && d.pwr.gated.getLsbD m.domain) }
  let d := { d with gau := { d.gau with measAt := k.tsc, gatedAt := d.pwr.gated } }
  ((List.range 10).foldl (Dev.railStep k g true) (true, d)).2

/-- The domains that were gated at the last measurement and have been woken since are measured (R456). (DEDUCED, assumption 105.) -/
def Dev.measureWoken (d : Dev) (k : Clock) (g : GaugeIn) : Dev :=
  let due := d.gau.gatedAt &&& ~~~d.pwr.gated
  let g := { g with meas := g.meas.filter fun m => decide (m.domain < 32) && due.getLsbD m.domain }
  let d := { d with gau := { d.gau with gatedAt := d.gau.gatedAt &&& d.pwr.gated } }
  ((List.range 10).foldl (Dev.railStep k g false) (true, d)).2

/-- GAUGE_MEASUREMENT (R456 to R459): every 10 minutes while Under way or in Slack water, and of a woken domain at its wake. -/
def execGaugeMeasurement (g : GaugeIn) (st : State) : Out :=
  onMem st fun d =>
    if d.stopped = false ∧ (d.lkp.st = .ready ∨ d.lkp.st = .maintenance) ∧ d.pwr.st = .underway then
      if passed st.clk d.gau.measAt (msec 600000) then d.measure st.clk g
      else if d.gau.gatedAt &&& ~~~d.pwr.gated ≠ 0 then d.measureWoken st.clk g
      else d
    else d

/-- Entries that one half of the journal holds (R460). -/
def journalHalf : Nat := 262144

/-- The plan that journal entries record (R460): the last valid entry of each rail and of the ceiling. -/
def planOf (es : List JEntry) : Gauge :=
  es.foldl (fun (g : Gauge) e =>
    let g := { g with version := e.version, ended := if e.kind = 4 then e.last else g.ended || e.last }
    if e.kind = 5 then { g with eyes := (g.eyes.filter fun x => x.1 != e.rail) ++ [(e.rail, e.slack.toNat, e.value)] }
    else if e.rail = 255 then { g with ceiling := e.value }
    else { g with rails := mput g.rails e.rail { mget Rail.reset g.rails e.rail with off := e.value } }) Gauge.reset

/-- Snapshot entries of a plan (R460). -/
def snapshots (g : Gauge) (t : Nat) : List JEntry :=
  (List.range 10).map (fun r => ({ JEntry.reset with version := g.version, kind := 3, rail := r, value := (mget Rail.reset g.rails r).off, time := t, last := g.ended } : JEntry)) ++
    [{ JEntry.reset with version := g.version, kind := 3, rail := 255, value := g.ceiling, time := t, last := g.ended }]

/-- Append an entry to the journal; a full half is first replaced by snapshots in the other (R460). -/
def Perm.journalAdd (t : Nat) (p : Perm) (e : JEntry) : Perm :=
  let js := if p.journal.length < journalHalf then p.journal else snapshots (planOf p.journal) t
  { p with journal := js ++ [e] }

/-- JOURNAL_APPEND (R460): the oldest step that is due is journalled; it waits while an NVM update runs. -/
def execJournalAppend (st : State) : Out :=
  let d := st.dev
  match d.gau.dueEntries with
  | [] => .next st
  | e :: es =>
    if d.stopped || d.nvmUpdates || st.clk.inReset then .next st
    else .next { st with dev := { d with gau := { d.gau with dueEntries := es } }, perm := st.perm.journalAdd (gtime st.clk d) e }

/-! ### The operating point (R26, R27, R461) -/

/-- The level that every loop allows (R461). -/
def Dev.level (d : Dev) : Nat := min d.gau.ceiling (min d.pwr.thermal (min d.pwr.current (min d.pwr.timing d.pwr.capLvl)))

/-- DERATE_STEP (R27, R461): at a frame boundary, one sixteenth toward the level, 1 µs after the last change; upward 1 ms after the last
upward step. (DEDUCED, assumption 101.) -/
def execDerateStep (st : State) : Out :=
  let k := st.clk
  let d := st.dev
  let n := d.level
  if d.stopped || k.inReset || k.slot != 0 || !passed k k.changedAt (usec 1) then .next st
  else if n < k.setting then .next { st with clk := { k with setting := k.setting - 1, changedAt := k.tsc } }
  else if k.setting < n ∧ passed k k.upAt (msec 1) = true then
    .next { st with clk := { k with setting := k.setting + 1, changedAt := k.tsc, upAt := k.tsc } }
  else .next st

/-! ### The loops (R462 to R464) -/

/-- Whether the loops run. -/
def Dev.looping (d : Dev) : Bool := !d.stopped && d.pwr.st != .moored && (d.lkp.st == .ready || d.lkp.st == .maintenance || d.lkp.st == .debug)

/-- Since when a condition has held. -/
def sinceWhen (k : Clock) (old : Option Nat) (now : Bool) : Option Nat := if now then some (old.getD k.tsc) else none

/-- Whether a condition has held for a time. (DEDUCED, assumption 98.) -/
def heldFor (k : Clock) (o : Option Nat) (len : Nat) : Bool := o.any fun t => passed k t len

/-- THERMAL_LOOP_STEP (R462): the hottest domain temperature is sampled. (DESIGN CHOICE, assumption 16.) -/
def execThermalLoopStep (temp : Nat) (st : State) : Out :=
  onMem st fun d =>
    let k := st.clk
    let w : Power := { d.pwr with hottest := temp, coolSince := sinceWhen k d.pwr.coolSince (decide (temp < 97)) }
    if !d.looping then d
    else if 100 ≤ temp then
      if passed k w.thermAt (usec 100) ∧ 12 < w.thermal then { d with pwr := { w with thermal := w.thermal - 1, thermAt := k.tsc } } else { d with pwr := w }
    else if heldFor k w.coolSince (msec 1) = true ∧ w.thermal < 16 then
      { d with pwr := { w with thermal := w.thermal + 1, thermAt := k.tsc, coolSince := some k.tsc } }
    else { d with pwr := w }

/-- THERMAL_TRIP (R462, R485, R532): every clock outside PD61 stops, the fatal record is written, and THERMTRIP_N is asserted.
(DEDUCED, assumption 99.) (DEDUCED, assumption 128.) -/
def execThermalTrip (st : State) : Out :=
  onMem st fun d =>
    if d.thermtrip || st.clk.inReset || !st.clk.vaon then d
    else logErr st.clk { ErlRec.reset with cls := 4, src := 0x0F, code := 0x0F, detail := d.pwr.hottest } { d with stopped := true, thermtrip := true }

/-- CURRENT_LOOP_STEP (R463): package power and its average over 10 ms are sampled, with the regulators' overcurrent alert. -/
def execCurrentLoopStep (power avg : Nat) (alert : Bool) (st : State) : Out :=
  onMem st fun d =>
    let k := st.clk
    let w : Power := { d.pwr with avgW := avg, avgLow := sinceWhen k d.pwr.avgLow (decide (avg < 1900)) }
    let fall := fun (every : Nat) =>
      if passed k w.currAt every ∧ 12 < w.current then { d with pwr := { w with current := w.current - 1, currAt := k.tsc } } else { d with pwr := w }
    if !d.looping then d
    else if 2400 < power ∨ alert = true then fall (usec 1)
    else if 2000 < avg then fall (msec 1)
    else if heldFor k w.avgLow (msec 10) = true ∧ w.current < 16 then
      { d with pwr := { w with current := w.current + 1, currAt := k.tsc, avgLow := some k.tsc } }
    else { d with pwr := w }

/-- TIMING_SAFETY_STEP (R459, R463): the smallest slack of the core domains; a need below 12/16 is Device-fatal. -/
def execTimingSafetyStep (slack : Int) (st : State) : Out :=
  onMem st fun d =>
    let k := st.clk
    let w : Power := { d.pwr with slackOk := sinceWhen k d.pwr.slackOk (decide (20 < slack)) }
    if !d.looping then d
    else if slack < 10 then
      if w.timing ≤ 12 then logErr k { ErlRec.reset with cls := 4, src := 0x10, code := 0x10, detail := 11 } d
      else { d with pwr := { w with timing := w.timing - 1 } }
    else if heldFor k w.slackOk (msec 1) = true ∧ w.timing < 16 then
      { d with pwr := { w with timing := w.timing + 1, slackOk := some k.tsc } }
    else { d with pwr := w }

/-- CAP_LOOP_STEP (R464): above the cap a level or, at 12/16, 16 cores every 1 ms; below 95% of it for 10 ms, the last action is undone. -/
def execCapLoopStep (avg : Nat) (st : State) : Out :=
  onMem st fun d =>
    let k := st.clk
    let w : Power := { d.pwr with avgW := avg, capLow := sinceWhen k d.pwr.capLow (decide (100 * avg < 95 * d.pwr.cap)) }
    if !d.looping then d
    else if w.cap < avg then
      if !passed k w.capAt (msec 1) then { d with pwr := w }
      else if 12 < w.capLvl then { d with pwr := { w with capLvl := w.capLvl - 1, capAt := k.tsc, capStack := false :: w.capStack } }
      else if 0 < w.coreLimit then { d with pwr := { w with coreLimit := w.coreLimit - 16, capAt := k.tsc, capStack := true :: w.capStack } }
      else { d with pwr := w }
    else if heldFor k w.capLow (msec 10) = true then
      match w.capStack with
      | true :: rest => { d with pwr := { w with coreLimit := w.coreLimit + 16, capAt := k.tsc, capStack := rest, capLow := some k.tsc } }
      | false :: rest => { d with pwr := { w with capLvl := w.capLvl + 1, capAt := k.tsc, capStack := rest, capLow := some k.tsc } }
      | [] => { d with pwr := w }
    else { d with pwr := w }

/-! ### Policies (R467) -/

/-- Key of a policy. -/
def policyKey (reason port : Nat) : Nat := if reason = 6 then 6 + 8 * port else reason

/-- POLICY_UNMET and POLICY_MET records (R467). -/
def Dev.policyRec (d : Dev) (k : Clock) (kind reason port : Nat) : BitVec 512 :=
  let result := packBits [(0, 5, k.setting), (8, 8, d.pwr.hottest), (16, 16, d.pwr.avgW), (32, 10, d.pwr.coreLimit), (42, 6, if reason = 6 then port else 0)]
  eventRec kind reason 0 1 0 0 0 result (gtime k d) 0

/-- POLICY_UNMET (R467): a policy has been kept from holding for 10 ms. -/
def execPolicyUnmet (reason : Fin 7) (port : Fin 18) (st : State) : Out :=
  onMem st fun d =>
    let key := policyKey reason port
    let u := mget Unmet.reset d.pwr.unmet key
    if d.stopped || u.on || !heldFor st.clk u.since (msec 10) then d
    else ({ d with pwr := { d.pwr with unmet := mput d.pwr.unmet key { u with on := true } } }).writeRing st.clk 0 0 (d.policyRec st.clk 0x23 reason port) false

/-- POLICY_MET (R467): it has held again for 1 s. -/
def execPolicyMet (reason : Fin 7) (port : Fin 18) (st : State) : Out :=
  onMem st fun d =>
    let key := policyKey reason port
    let u := mget Unmet.reset d.pwr.unmet key
    if d.stopped || !u.on || !heldFor st.clk u.held (msec 1000) then d
    else ({ d with pwr := { d.pwr with unmet := mput d.pwr.unmet key { u with on := false, held := none } } }).writeRing st.clk 0 0
      (d.policyRec st.clk 0x24 reason port) false

end Sys2Proof.Machine
end

