-- ==== Sys2Proof/Machine/Mooring.lean ====
section
/-! DEFINITION. Slack water (R445, R446), and Moored with its entry and its exit (R449 to R452). -/

namespace Sys2Proof.Machine

/-! ### Slack water -/

/-- Cores of a core domain (R19, R29). -/
def domainCores (pd : Nat) : List Nat := (List.range 512).filter fun c => coreDomain c == pd

/-- A core whose domain loses power in Slack water (R418, R445): instruction cache, range cache and predictor are dropped; local memory
is retained. -/
def Core.gate (k : Core) : Core := { k with icache := [], xlat := [], walks := [], predictor := [], l1Plru := [], mxSerial := 0 }

/-- Whether the L1 of a core holds nothing and awaits nothing. -/
def Core.drained (k : Core) : Bool := k.l1.isEmpty && k.evict.isEmpty && k.fwdq.isEmpty

/-- Send out the lines of a core's L1 as far as its eviction buffer takes them (R242). -/
def Dev.l1Drain (d : Dev) (c : Nat) : Dev :=
  (d.core c).l1.foldl (fun d e => if (d.core c).evict.length < 8 then d.l1Evict c e.1 else d) d

/-- Gate a core domain, or take the next of the steps before it (R445): its L1s send out their lines, and once they hold none the
domain loses power. -/
def Dev.gateDomain (d : Dev) (pd : Nat) : Dev :=
  let cs := domainCores pd
  let d := cs.foldl Dev.l1Drain d
  if cs.all fun c => (d.core c).drained then
    { d with cores := mmap d.cores fun c k => if coreDomain c = pd then k.gate else k
             pwr := { d.pwr with gated := d.pwr.gated ||| (1#32 <<< pd) } }
  else d

/-- DOMAIN_GATE (R445): a core domain has been idle for the Slack water idle time. (DESIGN CHOICE, assumption 104.) -/
def execDomainGate (pd : Fin 32) (st : State) : Out :=
  onMem st fun d =>
    let since := mget 0 d.pwr.idleSince pd
    let waits := (domainCores pd).any fun c => !(d.core c).mshrs.isEmpty || !(d.core c).ops.isEmpty
    if d.admits = false ∨ d.pwr.idleUs = 0 ∨ d.pwr.gated.getLsbD pd = true ∨ d.busyDomains.contains pd.val = true ∨ waits = true
        ∨ passed st.clk since (usec d.pwr.idleUs) = false then d
    else d.gateDomain pd

/-- DOMAIN_WAKE_DONE (R446): the shadows of a woken domain are restored; its cores count C-cycles from now (R80). -/
def execDomainWakeDone (pd : Fin 32) (st : State) : Out :=
  onMem st fun d =>
    if d.stopped = true ∨ mhas d.pwr.waking pd = false then d
    else
      let d := (domainCores pd).foldl (fun d c => d.updCore c fun k => { k with ccBase := st.clk.ccyc }) d
      { d with pwr := { d.pwr with
          gated := d.pwr.gated &&& ~~~(1#32 <<< pd.val), waking := mdel d.pwr.waking pd, idleSince := mput d.pwr.idleSince pd st.clk.tsc } }

/-! ### Giving up every line (R251) -/

/-- Send a Put for every far line and recall every home entry (R251), as far as this can go now: true once no entry of a directory is
left and nothing about one is awaited. -/
def Dev.surrender (d : Dev) (k : Clock) : Bool × Dev :=
  let lines := fun (d : Dev) (far : Bool) => d.slices.flatMap fun e => e.2.dir.filterMap fun f => if f.2.far = far then some (e.1, f.2.line) else none
  let d := (lines d false).foldl (fun d e => (d.obtain k e.1 e.2).2) d
  let d := (lines d true).foldl (fun d e => (d.sendFarBack k e.1 e.2).getD d) d
  let held := d.slices.any fun e => !e.2.dir.isEmpty || !e.2.recalls.isEmpty || !e.2.far.isEmpty || !e.2.evict.isEmpty || !e.2.atoms.isEmpty
  (!(held || d.cores.any fun c => !c.2.evict.isEmpty), d)

/-- Write back every slice, victim cache and write-combining buffer (R213, R427, R450). -/
def Dev.flushAll (d : Dev) (k : Clock) : Dev := (d.slices.map Prod.fst).foldl (fun d n => d.flushSlice k n fun _ _ => true) d

/-- Whether a packet from or to this device is in the mesh. -/
def Dev.meshBusy (d : Dev) : Bool := d.fab.net.any fun p => p.dst == d.id || p.src == d.id

/-- The steps of R251 and R213 before the memory domains lose power or a warm reset begins: true when all is written back. -/
def Dev.giveUp (d : Dev) (k : Clock) : Bool × Dev :=
  let (ok, d) := d.surrender k
  if !ok then (false, d)
  else
    let d := d.flushAll k
    (!(d.meshBusy || d.slices.any fun e => !e.2.evict.isEmpty || !e.2.outs.isEmpty), d)

/-! ### Mooring (R450) -/

/-- Whether a queue has a command in progress other than a FENCE_WAIT. -/
def Queue.moorBusy (x : Queue) : Bool :=
  x.cmds.any (fun m => m.status.isNone && m.opcode != 4) || (x.cmds.head?.any fun m => m.status.isSome)

/-- Step 1 of R450: no command is in progress other than FENCE_WAITs, no group is resident, and no stream is busy.
(DEDUCED, assumption 106.) -/
def Dev.moorQuiet (d : Dev) : Bool :=
  !(d.ctl.queues.any fun e => e.2.moorBusy) && !(d.cores.any fun e => e.2.groups.any fun g => g.2.st != .free) &&
    !(d.ctl.streams.any fun e => e.2.st != .idle)

/-- A core after it lost power in Moored (R418, R451): every unit of local memory counts as last used by no context. -/
def Core.moor (k : Core) : Core :=
  { k.gate with l1 := [], evict := [], fwdq := [], ops := [], mshrs := [], lm := [], lmPoison := [], unitUser := [], bw := []
                resident := 0, resSince := none, ctxSince := [] }

/-- Step 2 of R450: every Active session is told MOORED and held (R356). -/
def Dev.moorSessions (d : Dev) (k : Clock) : Dev :=
  (d.whf.sessions.filter fun e => e.2.st == .active).foldl (fun d e =>
    (d.hostSend k e.1 true { HostPkt.reset with typ := 0x16 }).updSession e.1 fun s => { s with st := .moored, mooredAt := k.tsc }) d

/-- A peer port without power; what its link's exchanges measured stays (R418, R451), and so do the flits it sent last. -/
def Port.moor (x : Port) : Port :=
  if x.role = .peer then
    { Port.reset with
      st := if x.st = .disabled then .disabled else .off, role := x.role, encrypt := x.encrypt, fullWidth := x.fullWidth, nbrDev := x.nbrDev, nbrPort := x.nbrPort, linkOff := x.linkOff
      lanes := x.lanes, reason := x.reason, unmet := x.fullWidth, replays := x.replays, retrains := x.retrains, fecUnc := x.fecUnc
      replay := x.replay, deficit := x.deficit }
  else x

/-- Steps 2 and 5 to 8 of R450. (DEDUCED, assumption 107.) (DEDUCED, assumption 108.) -/
def Dev.enterMoored (d : Dev) (k : Clock) : Dev :=
  let d := (d.moorSessions k).flood .peerDown d.id 0
  let d := d.dropOrphans k fun _ _ _ _ => true
  { d with
    cores := mmap d.cores fun _ c => c.moor
    mem := { d.mem with stks := (List.range 8).map fun n => (n, { d.stack n with selfRefresh := true }) }
    ctl := { d.ctl with
      quarter := []
      queues := mmap d.ctl.queues fun _ q => { q with cmds := q.cmds.map fun m => { m with reqs := [], poll := [] } } }
    fab := { d.fab with net := [], marks := [], mgmtOut := [], left := [], ports := mmap d.fab.ports fun _ x => x.moor }
    ldg := { d.ldg with bufs := [] }
    cnt := { d.cnt with restart := true }
    pwr := { d.pwr with st := .moored, moorSince := k.tsc }
    stopped := true }

/-! ### Unmooring (R451) -/

/-- A peer port is brought up afresh, without the time exchanges when its link's offset survived; a Disabled one stays so (R325). -/
def Port.unmoor (x : Port) : Port := if x.role = .peer ∧ x.st ≠ .disabled then { x with st := .training, replay := [] } else x

/-- Step 5 of R451: a held session beyond the mooring limit ends with reason HEARTBEAT, any other is told UNMOORED (R356). -/
def Dev.unmoorSessions (d : Dev) (k : Clock) : Dev :=
  (d.whf.sessions.filter fun e => e.2.st == .moored).foldl (fun d e =>
    if d.lkp.moorLimit * msec 1000 < k.tsc - e.2.mooredAt then d.endSession k e.1 2
    else
      let d := d.updSession e.1 fun s => { s with st := .active, beat := false, missed := 0, beatAt := k.tsc, hbAt := k.tsc }
      d.hostSend k e.1 true { HostPkt.reset with typ := 0x17 }) d

/-- The unmooring sequence (R451): domains, stacks, ports, sessions and admission. -/
def Dev.unmoor (d : Dev) (k : Clock) : Dev :=
  let d := { d with
    cores := (List.range 512).map fun c => (c, { d.core c with ccBase := k.ccyc })
    mem := { d.mem with stks := mmap d.mem.stks fun _ (s : Stack) => { s with selfRefresh := false } }
    fab := { d.fab with ports := mmap d.fab.ports fun _ x => x.unmoor }
    gau := { d.gau with measAt := d.gau.measAt + (k.tsc - d.pwr.moorSince) }
    cnt := { d.cnt with lastAt := k.tsc }
    pwr := { d.pwr with
      st := .underway, last := 1, wakePend := false, gated := 0, waking := [], idleSince := (List.range 32).map fun n => (n, k.tsc) }
    stopped := false }
  (d.unmoorSessions k).endSpent k

/-- Whether a wake source can start the unmooring sequence. -/
def Dev.canWake (d : Dev) (k : Clock) : Bool := d.pwr.st == .moored && !d.thermtrip && k.refOk && k.vaon && !k.inReset

/-- A wake source arrives (R451, R452): a Moored device unmoors, a Mooring one does so as soon as it is Moored. -/
def Dev.wakeUp (d : Dev) (k : Clock) : Dev :=
  if d.canWake k then d.unmoor k
  else if d.pwr.st = .mooring then { d with pwr := { d.pwr with wakePend := true } }
  else d

/-- MOORING_QUIESCED (R450): step 1 is over, and the later steps go on as far as they can; a wake source that arrived meanwhile acts at
the end of step 8 (R452). -/
def execMooringQuiesced (st : State) : Out :=
  onMem st fun d =>
    let k := st.clk
    let hosts := d.whf.sessions.any fun e => (e.2.ops.any fun o => !o.parts.isEmpty) || (e.2.st == .active && (e.2.windowFull || !e.2.waitq.isEmpty))
    if d.stopped || d.pwr.st != .mooring || !d.moorQuiet || hosts then d
    else
      let (ok, d) := d.giveUp k
      if !ok then d
      else
        let wake := d.pwr.wakePend
        let d := d.enterMoored k
        if wake then d.unmoor k else d

/-- MOORING_ABANDON (R450): step 1 has not finished within 1 s. -/
def execMooringAbandon (st : State) : Out :=
  onMem st fun d =>
    if d.stopped || d.pwr.st != .mooring || d.moorQuiet || !passed st.clk d.pwr.moorSince (msec 1000) then d
    else { d with pwr := { d.pwr with st := .underway, last := 2, wakePend := false } }

/-- WAKE_TIME_REACHED (R451): global time reaches PWR_WAKE. -/
def execWakeTimeReached (st : State) : Out :=
  onMem st fun d => if d.pwr.wakeEn && decide (d.pwr.wake.toNat ≤ gtime st.clk d) then d.wakeUp st.clk else d

/-- WAKE_LAND (R451, R532): a rising edge on the WAKE land. -/
def execWakeLand (st : State) : Out := onMem st fun d => d.wakeUp st.clk

end Sys2Proof.Machine
end

