-- ==== Sys2Proof/Machine/Manifest.lean ====
section
/-! DEFINITION. The manifest (R428 to R432): the checks that make it consistent, and what the Lockkeeper builds from it at step 8 of a
boot (R425, R438). -/

namespace Sys2Proof

open Machine

/-! ### Placement (R432) -/

/-- Round up to a multiple. -/
def Machine.alignUp (a n : Nat) : Nat := ceilDiv a n * n

/-- First byte and end of a berth's first carve-out; nothing without one. -/
def MBerth.first (b : MBerth) : Nat × Nat :=
  match b.carve with
  | [] => (0, 0)
  | c :: _ => (65536 * c.1, 65536 * (c.1 + c.2))

/-- Ring 0: address and bytes. -/
def MBerth.ring0 (b : MBerth) : Nat × Nat := (alignUp b.first.1 (64 * 2 ^ b.ring0Log2), 64 * 2 ^ b.ring0Log2)

/-- Fault queue: address and bytes. -/
def MBerth.faultQ (b : MBerth) : Nat × Nat := (alignUp (b.ring0.1 + b.ring0.2) 4096, 64 * 2 ^ b.fqLog2)

/-- Bytes of the owner table (R396). -/
def Machine.ownerBytes : Nat := 72 * 2 ^ 20

/-- Owner table, in berth 0's first carve-out. -/
def MBerth.ownerTable (b : MBerth) : Nat × Nat := (alignUp (b.faultQ.1 + b.faultQ.2) (2 ^ 20), ownerBytes)

/-- The record of a berth. -/
def Manifest.berth? (m : Manifest) (b : Nat) : Option MBerth := m.berths.find? fun x => x.berth == b

/-- Berth 0's record, or an empty one. -/
def Manifest.berth0 (m : Manifest) : MBerth := (m.berth? 0).getD MBerth.reset

/-- Staging areas of a wharf (R343): 36 MiB for each session of the limit. -/
def Manifest.staging (m : Manifest) : Nat × Nat :=
  let o := m.berth0.ownerTable
  (alignUp (o.1 + o.2) (2 ^ 20), if m.wharf then 36 * 2 ^ 20 * m.sessions else 0)

/-- Ledger ring (R500). -/
def Manifest.ledgerRing (m : Manifest) : Nat × Nat :=
  let s := m.staging
  (alignUp (s.1 + s.2) (2 ^ 20), if m.nLedger = 0 then 0 else 2 ^ 20 * m.lSize)

/-- What the Lockkeeper builds in the first carve-out of a berth. -/
def Manifest.built (m : Manifest) (b : MBerth) : List (Nat × Nat) :=
  [b.ring0, b.faultQ] ++ if b.berth = 0 then [b.ownerTable, m.staging, m.ledgerRing] else []

/-! ### Normal memory and narrow windows (R204, R206) -/

/-- Units of 8 GiB of the narrow reservation (R206): 8 times the largest sum of window sizes, which count 64 MiB. -/
def Manifest.nres (m : Manifest) : Nat := ceilDiv (m.narrow.foldl (fun t s => max t (sumNat s.2)) 0) 16

/-- End of normal memory. -/
def Manifest.normalEnd (m : Manifest) : Nat := hbmSize - 2 ^ 33 * m.nres

/-! ### Consistency (R431) -/

/-- No two entries of a list are equal. -/
def Machine.distinct (l : List Nat) : Bool := match l with
  | [] => true
  | a :: t => !t.contains a && distinct t

/-- No two of the spans (first, length) meet. -/
def Machine.spansApart : List (Nat × Nat) → Bool
  | [] => true
  | a :: t => (t.all fun b => a.1 + a.2 ≤ b.1 || b.1 + b.2 ≤ a.1) && spansApart t

/-- The records that must appear, and the singletons (R430, R431). -/
def Manifest.countsOk (m : Manifest) : Bool :=
  m.nDevice == 1 && m.nTopology == 1 && m.nRoutes == 1 && m.nTime == 1 && (m.berth? 0).isSome && m.nCounters ≤ 1 && m.nLedger ≤ 1 && m.nPower ≤ 1 &&
    distinct (m.berths.map MBerth.berth) && m.grants.length ≤ 4096

/-- Fields of a BERTH record (R432). -/
def MBerth.rangeOk (b : MBerth) : Bool :=
  decide (b.berth < 32) && b.minCores ≤ 512 && decide (b.ceiling < 4) && decide (1 ≤ b.coreW ∧ b.coreW < 256 ∧ 1 ≤ b.linkW ∧ b.linkW < 256 ∧ 1 ≤ b.bargeW ∧ b.bargeW < 256) &&
    decide (8 ≤ b.fqLog2 ∧ b.fqLog2 ≤ 14 ∧ 4 ≤ b.ring0Log2 ∧ b.ring0Log2 ≤ 20) && decide (b.hbmRate < 16384 ∧ 1 ≤ b.hbmDepth ∧ b.hbmDepth < 256) &&
    b.ctxLimit ≤ 4096 && b.streamLimit ≤ 4096 && decide (1 ≤ b.grace ∧ b.grace < 4096) && b.coalesce ≤ 1000 && decide (b.adminQ < 4096) &&
    b.queues.all (fun r => 1 ≤ r.2 && r.1 + r.2 ≤ 4096) && b.fences.all (fun r => 1 ≤ r.2 && r.1 + r.2 ≤ 65536)

/-- Every other field lies in its range (R430, R431). -/
def Manifest.rangesOk (m : Manifest) : Bool :=
  decide (m.device < 4096 ∧ m.reach < 128 ∧ m.flight < 8 ∧ m.sessions ≤ 256 ∧ m.moorLimit < 2 ^ 32 ∧ 1 ≤ m.parkLimit ∧ m.parkLimit ≤ 3600000) &&
    m.reaches.all (fun e => e.1 < 4096 && e.2 < 0x80) && mget? m.reaches m.device == some m.reach &&
    m.hops.all (fun e => e.1 < 16384 && e.2 < 16) &&
    m.peers.all (fun p => p.port < 18 && p.dev < 4096 && p.nport < 18) &&
    m.nets.all (fun n => 14 ≤ n.port && n.port < 18 && (n.role == 1 || n.role == 2) && 1518 ≤ n.frame && n.frame ≤ 9216 && n.vlan.all (fun v => v < 4096) && n.udp < 65536) &&
    m.routes.all (fun e => e.1 < 4096) && decide (m.timeRoot < 4096) && m.berths.all MBerth.rangeOk &&
    m.shared.all (fun e => 1 ≤ e.1 && e.1 < 32 && e.2.1 < 32) && distinct (m.shared.map fun e => e.1) &&
    m.narrow.all (fun e => e.1 < 8 && 1 ≤ e.2.length && e.2.length ≤ 8 && e.2.all (fun w => w < 4096)) && distinct (m.narrow.map fun e => e.1) &&
    m.mirrors.all (fun e => 1 ≤ e.1 && e.1 < 256 && e.2.toNat < 2 ^ 57) && distinct (m.mirrors.map fun e => e.1) &&
    decide (2 ^ 33 * m.nres ≤ hbmSize) &&
    (m.nCounters == 0 || (1 ≤ m.cInterval && m.cInterval ≤ 1000000 && (m.cLog2 == 0 || (11 ≤ m.cLog2 && m.cLog2 ≤ 32)))) &&
    (m.nLedger == 0 || (m.lMode ≤ 2 && m.lPre ≤ 15 && 1 ≤ m.lSize && m.lSize ≤ 4096)) &&
    (m.nPower == 0 || (300 ≤ m.capW && m.capW ≤ 2000 && 12 ≤ m.floor && m.floor ≤ 16))

/-- Carve-outs in bytes. -/
def Manifest.carves (m : Manifest) : List (Nat × Nat) := m.berths.flatMap fun b => b.carve.map fun c => (65536 * c.1, 65536 * c.2)

/-- Carve-outs lie in normal memory and apart; each first one holds what is built in it, and the sample ring lies in berth 0's,
apart from that (R431, R432). -/
def Manifest.memoryOk (m : Manifest) : Bool :=
  m.carves.all (fun c => c.1 + c.2 ≤ m.normalEnd) && spansApart m.carves &&
    m.berths.all (fun b => (m.built b).all fun s => s.1 + s.2 ≤ b.first.2) &&
    (m.nCounters == 0 || m.cLog2 == 0 ||
      (m.cBase % 2048 == 0 && (m.built m.berth0).all (fun s => m.cBase + 2 ^ m.cLog2 ≤ s.1 || s.1 + s.2 ≤ m.cBase) &&
        m.berth0.carve.any fun c => 65536 * c.1 ≤ m.cBase && m.cBase + 2 ^ m.cLog2 ≤ 65536 * (c.1 + c.2)))

/-- Queues, fences, ports, and the berths that other records name (R431). -/
def Manifest.grantsOk (m : Manifest) : Bool :=
  let exists' := fun (v : BitVec 32) => (List.range 32).all fun b => !v.getLsbD b || (m.berth? b).isSome
  sumNat (m.berths.map MBerth.minCores) ≤ 512 &&
    spansApart (m.berths.flatMap MBerth.queues) && spansApart (m.berths.flatMap MBerth.fences) &&
    m.berths.all (fun b => b.queues.any fun r => r.1 ≤ b.adminQ && b.adminQ < r.1 + r.2) &&
    distinct (m.peers.map MPeer.port ++ m.nets.map MNet.port) && (m.wharf || m.nets.all fun n => n.role != 1) &&
    m.grants.all (fun g => exists' g.2) && m.shared.all (fun e => (m.berth? e.2.1).isSome && exists' e.2.2)

/-- The manifest is consistent (R431). (DEDUCED, assumption 114.) -/
def Manifest.consistent (m : Manifest) : Bool := m.countsOk && m.rangesOk && m.memoryOk && m.grantsOk

/-! ### What is built (R396, R425, R432, R438) -/

/-- A carve-out before another, by first page. -/
def Machine.insCarve (c : Nat × Nat × Nat) : List (Nat × Nat × Nat) → List (Nat × Nat × Nat)
  | [] => [c]
  | x :: t => if c.1 < x.1 then c :: x :: t else x :: insCarve c t

/-- The owner table of a manifest (R396): each page of a carve-out with its berth and carve set; every other page reads 0, berth 0. -/
def Manifest.owners (m : Manifest) : List (Nat × Nat) :=
  let cs := (m.berths.flatMap fun b => b.carve.map fun c => (c.1, c.2, b.berth)).foldl (fun l c => insCarve c l) []
  cs.flatMap fun c => (List.range c.2.1).map fun i => (c.1 + i, c.2.2 + 32)

/-- A berth as the Lockkeeper builds it (R393, R395, R432), under a key of generation `gen`. (DESIGN CHOICE, assumption 155.) -/
def MBerth.build (b : MBerth) (gen : Nat) : Berth :=
  { Berth.reset with
    st := .live, minCores := b.minCores, spread := b.spread, ceiling := b.ceiling, coreW := b.coreW, linkW := b.linkW, bargeW := b.bargeW
    hbmRate := b.hbmRate, hbmDepth := b.hbmDepth, ctxLimit := b.ctxLimit, streamLimit := b.streamLimit, headlessPol := b.headless
    grace := b.grace, keyPreserve := b.keyPreserve, coalesce := b.coalesce, keyGen := gen
    rings := [(0, { Ring.reset with base := b.ring0.1, enable := true, sizeLog2 := b.ring0Log2 })]
    fqBase := b.faultQ.1, fqSize := b.fqLog2 }

/-- A number that no earlier boot used as a generation of a key: the boot count leaves room for the berth resets of a boot.
(DESIGN CHOICE, assumption 113.) -/
def Machine.bootGen (boots : Nat) : Nat := 2 ^ 40 * boots

/-- Generation of a berth's key after a boot (R417, R438): a preserved key is kept. -/
def Machine.Dev.bootKey (d : Dev) (preserve : Bool) (boots : Nat) (b : MBerth) : Nat :=
  if preserve && b.keyPreserve then (d.berth b.berth).keyGen else bootGen boots

/-- A map from a list of runs (first, count) that lie apart, with rising keys. -/
def Machine.runMap {α : Type} (runs : List (Nat × Nat × α)) : List (Nat × α) :=
  runs.foldl (fun m r => (List.range r.2.1).foldl (fun m i => mput m (r.1 + i) r.2.2) m) []

/-- Queues granted by the manifest (R392, R432). -/
def Manifest.queueMap (m : Manifest) : List (Nat × Queue) :=
  m.berths.foldl (fun l b => mput l b.adminQ { mget Queue.reset l b.adminQ with admin := true })
    (runMap (m.berths.flatMap fun b => b.queues.map fun r => (r.1, r.2, ({ Queue.reset with berth := b.berth, granted := true } : Queue))))

/-- Fences granted by the manifest. -/
def Manifest.fenceMap (m : Manifest) : List (Nat × Fence) :=
  runMap (m.berths.flatMap fun b => b.fences.map fun r => (r.1, r.2, ({ Fence.reset with berth := b.berth, granted := true } : Fence)))

/-- Contexts, queues, fences, berths and keys of a boot. -/
def Machine.Dev.buildCtl (d : Dev) (m : Manifest) (preserve : Bool) (boots : Nat) : Ctl :=
  { Ctl.reset with
    queues := m.queueMap, fences := m.fenceMap
    berths := m.berths.foldl (fun l b => mput l b.berth (b.build (d.bootKey preserve boots b))) []
    shared := m.shared.foldl (fun l s =>
      let keep := preserve && (m.berth? s.2.1).any MBerth.keyPreserve
      mput l s.1 { owner := s.2.1, readers := s.2.2, gen := if keep then (mget SharedKey.reset d.ctl.shared s.1).gen else bootGen boots }) []
    mirrors := m.mirrors.foldl (fun l e => mput l e.1 e.2) [] }

/-- A port as the manifest's records configure it (R332, R430); it begins to train at step 9. -/
def Manifest.port (m : Manifest) (p : Nat) : Port :=
  match m.peers.find? fun x => x.port == p, m.nets.find? fun x => x.port == p with
  | some x, _ => { Port.reset with
      role := .peer, encrypt := x.encrypt, fullWidth := x.full, nbrDev := x.dev, nbrPort := x.nport, st := .training }
  | none, some x => { Port.reset with role := if x.role = 1 then .host else .storage, st := .training }
  | none, none => Port.reset

/-- Ports, routes and topology of a boot (R257, R311, R430). -/
def Manifest.fabric (m : Manifest) : Fabric :=
  { Fabric.reset with
    ports := (List.range 18).map fun p => (p, m.port p)
    routes := m.routes.foldl (fun l e => mput l e.1 (e.2 &&& routeMask)) []
    reach := m.reaches.foldl (fun l e => mput l e.1 e.2) []
    hops := (List.range 16384).map fun i => (i, mget 0 m.hops i) }

/-- A Host or Storage port's settings. -/
def MNet.build (n : MNet) : NetPort :=
  { NetPort.reset with
    frame := n.frame, vlan := n.vlan, udp := n.udp, mac := n.mac, ip6 := n.ip6, ip4 := n.ip4, mcast := n.mcast, appl := n.appl }

/-- The wharf of a boot (R341, R357); its Host ports open at step 10. -/
def Manifest.buildWharf (m : Manifest) (out : List HostPkt) : Wharf :=
  { Wharf.reset with
    isWharf := m.wharf, limit := m.sessions, grants := m.grants, opened := true, out := out
    netPorts := m.nets.foldl (fun l n => mput l n.port n.build) [] }

/-- HBM of a boot (R229, R396). -/
def Machine.Dev.buildMem (d : Dev) (m : Manifest) (preserve : Bool) (stks : List (Nat × Stack)) : Mem :=
  { Mem.reset with
    hbm := if preserve then d.mem.hbm else [], tags := if preserve then d.mem.tags else []
    stks := stks, nres := m.nres
    nwin := m.narrow.foldl (fun l s => (s.2.zipIdx).foldl (fun l w => mput l (8 * s.1 + w.2) w.1) l) []
    owner := m.owners, ownerBase := m.berth0.ownerTable.1 }

/-- Step 8 of a boot (R425): the manifest is applied. `d` is the device after step 7, `old` the one before the reset. -/
def Machine.Dev.applyManifest (d old : Dev) (k : Clock) (m : Manifest) (preserve : Bool) (boots : Nat) : Dev :=
  { d with
    mem := { old.buildMem m preserve d.mem.stks with grantRef := d.mem.grantRef }
    ctl := old.buildCtl m preserve boots
    fab := m.fabric
    whf := m.buildWharf old.whf.out
    tim := { TimeSt.reset with floor := d.tim.floor, root := m.timeRoot, common := m.commonRef, valid := m.timeRoot == m.device }
    pwr := { d.pwr with
      cap := if m.nPower = 0 then 2000 else m.capW, floor := if m.nPower = 0 then 12 else m.floor
      packing := m.nPower == 0 || m.packing, idleUs := if m.nPower = 0 then 100 else m.idleUs
      idleSince := (List.range 32).map fun n => (n, k.tsc) }
    cnt := { Cnt.reset with
      interval := if m.nCounters = 0 then 1000 else m.cInterval, inForce := if m.nCounters = 0 then 1000 else m.cInterval
      base := if m.nCounters = 0 then 0 else m.cBase, size := if m.nCounters = 0 then 0 else m.cLog2 }
    ldg := if m.nLedger = 0 then Ledger.reset else { Ledger.reset with mode := m.lMode, pre := m.lPre, base := m.ledgerRing.1, size := m.lSize }
    lkp := { d.lkp with device := m.device, parkLimit := m.parkLimit, moorLimit := m.moorLimit, applied := true } }

end Sys2Proof
end

