-- ==== Sys2Proof/Machine/Boot.lean ====
section
/-! DEFINITION. Cold start and warm reset (R417, R418, R422 to R428, R457, R484): COLD_START and WARM_RESET's boot. A boot is one event, from its
first step to the Ready state; ports then come up by their own rows. -/

namespace Sys2Proof.Machine

/-! ### What a reset leaves (R14, R418) -/

/-- A core after a reset: counts of the model, and fields that survive a cold start. -/
def Core.afterReset (k : Core) (base : Nat) : Core := { Core.reset with draws := k.draws, ccBase := base, l1Refused := k.l1Refused }

/-- A slice after a reset: disable_refused survives a cold start (R229). -/
def Slice.afterReset (s : Slice) : Slice := { Slice.reset with refused := s.refused }

/-- The device after a cold reset: what survives one is in the fuses and the NVM, but for fields whose Survives entry is Cold.
(DEDUCED, assumption 116.) (DESIGN CHOICE, assumption 125.) -/
def Dev.coldReset (d : Dev) : Dev :=
  { Dev.reset with
    cores := mmap d.cores fun _ c => c.afterReset 0
    slices := mmap d.slices fun _ s => s.afterReset
    gau := { Gauge.reset with
      ceiling := d.gau.ceiling, ended := d.gau.ended, version := d.gau.version
      rails := mmap d.gau.rails fun _ r => { Rail.reset with off := r.off } }
    erl := { Erl.reset with unread := d.erl.unread }
    lkp := { Lkp.reset with boots := d.lkp.boots }
    whf := { Wharf.reset with out := d.whf.out }
    thermtrip := d.thermtrip, fresh := d.fresh }

/-- The device after a warm reset: the error log, the consent record and the manifest image stay in always-on memory (R418, R427), and so do
the fields whose Survives entry is Warm; global time does not go back (R330, R504). (DESIGN CHOICE, assumption 169.) -/
def Dev.warmReset (d : Dev) (k : Clock) (preserve : Bool) : Dev :=
  { d.coldReset with
    cores := mmap d.cores fun _ c => c.afterReset c.ccBase
    mem := { Mem.reset with grantRef := d.mem.grantRef }
    tim := { TimeSt.reset with floor := Int.ofNat (gtime k d) }
    gau := { d.gau with dueEntries := [] }
    erl := { d.erl with overflow := false, taint := [] }
    lkp := { Lkp.reset with boots := d.lkp.boots, consent := d.lkp.consent, manifest := d.lkp.manifest }
    latent := if preserve then d.latent.filter fun l => l.kind == 0 else [] }

/-! ### Steps 2 and 3: image and manifest (R423, R424, R428) -/

/-- The recovery reason that the firmware image draws, if any (R423, R424). (DEDUCED, assumption 110.) -/
def imageReason (b : BootIn) (p : Perm) : Option Nat :=
  if !b.nvmOk || !p.headerOk then some 1
  else if p.imgState ≠ 1 then some 2
  else
    match p.image with
    | none => some 3
    | some i =>
      if b.imgRead = false ∨ i.magicOk = false ∨ i.sigOk = false ∨ Config.sha512 i.key ≠ p.fuses.fwKey then some 3
      else if i.ver < p.fuses.rollCount ∨ 64 < i.ver then some 4
      else none

/-- The operator key hash is fused at the first cold start that finds it blank (R420, R428). (DEDUCED, assumption 111.) -/
def Perm.fuseOperator (p : Perm) (b : BootIn) : Perm :=
  match p.man with
  | some m => if p.fuses.opKey = 0 ∧ b.manRead = true then { p with fuses := { p.fuses with opKey := Config.sha512 m.key } } else p
  | none => p

/-- The recovery reason that a manifest draws, if any (R428). -/
def Perm.manifestReason (p : Perm) (m : Manifest) : Option Nat :=
  if m.sigOk = false ∨ Config.sha512 m.key ≠ p.fuses.opKey then some 5
  else if m.devSerial ≠ p.fuses.serial then some 6
  else if m.hdrOk = false ∨ m.unknown = true ∨ m.consistent = false then some 7
  else if m.serial < p.manSerial then some 8
  else none

/-- Step 3: the manifest, or a recovery reason. -/
def loadManifest (b : BootIn) (p : Perm) : Nat ⊕ Manifest :=
  match p.man with
  | none => .inl 5
  | some m =>
    if p.manState ≠ 1 ∨ b.manRead = false then .inl 5
    else match p.manifestReason m with
      | some r => .inl r
      | none => .inr m

/-- Recovery (R424): the NVM lands are released, and only the side-band port answers. (DEDUCED, assumption 138.) -/
def Dev.recover (d : Dev) (step reason : Nat) : Dev :=
  { d with lkp := { d.lkp with st := .recovery, step := step, recovery := reason }, nvmOwner := true }

/-! ### Steps 4 to 7 -/

/-- The way disables of the health record are applied (R221). -/
def Dev.applyWays (d : Dev) (ways : List (Nat × Nat)) : Dev :=
  ways.foldl (fun d w =>
    if w.1 < 128 then d.updSlice w.1 fun s => { s with off := s.off ++ [w.2] }
    else if w.1 < 256 then d.updSlice (w.1 - 128) fun s => { s with vOff := s.vOff ++ [w.2 - 256] }
    else d.updCore (w.1 - 256) fun c => { c with l1Off := c.l1Off ++ [w.2] }) d

/-- The outcome of a stack at step 6. -/
def bootStack (b : BootIn) (n : Nat) : StackIn := (b.stks.find? fun x => x.stack == n).getD { StackIn.reset with stack := n }

/-- Channels of a stack that fail training (R225): those that the training itself finds, and those with a pin whose eye is narrower than 0.25 UI
or 30 mV; a boot with preserve margins none (R427). -/
def failedChannels (x : StackIn) (preserve : Bool) : BitVec 16 :=
  if preserve then x.fails
  else x.eyes.foldl (fun (m : BitVec 16) e => if e.2.1 < 250 ∨ e.2.2 < 30 then m ||| (1#16 <<< e.1) else m) x.fails

/-- Whether a stack trains (R225, R228). -/
def stackTrains (x : StackIn) (preserve : Bool) : Bool := failedChannels x preserve == 0

/-- Smallest eye width of a stack, in thousandths of a UI. -/
def eyeUi (x : StackIn) : Nat := x.eyes.foldl (fun m e => min m e.2.1) 500
/-- Smallest eye height of a stack, in mV. -/
def eyeMv (x : StackIn) : Nat := x.eyes.foldl (fun m e => min m e.2.2) 100

/-- Journal entry of a stack's margins (R460). (DEDUCED, assumption 115.) -/
def marginEntry (version t : Nat) (x : StackIn) : JEntry :=
  { JEntry.reset with version := version, kind := 5, rail := x.stack, value := eyeMv x, time := t, slack := Int.ofNat (eyeUi x), temp := x.temp }

/-- Step 6: the stacks train; their margins are journalled (R225, R458). -/
def Dev.trainStacks (d : Dev) (preserve : Bool) (xs : List StackIn) : Dev :=
  { d with
    mem := { d.mem with stks := xs.map fun x =>
      (x.stack, { Stack.reset with st := if stackTrains x preserve then 2 else 3, failed := failedChannels x preserve, temp := x.temp }) }
    gau := if preserve then d.gau else { d.gau with eyes := xs.map fun x => (x.stack, eyeUi x, eyeMv x) } }

/-- The record of a stack that is lost at boot (R228, R482). -/
def stackLostErr (n : Nat) (failed : BitVec 16) : ErlRec :=
  let ch := ((List.range 16).find? fun i => failed.getLsbD i).getD 0
  { ErlRec.reset with cls := 4, src := 0x09, code := 0x0D, unit := 16 * n + ch, detail := 1 }

/-! ### Characterisation (R426, R457) -/

/-- Whether no characterisation was ever journalled. -/
def Perm.newPart (p : Perm) : Bool := p.journal.all fun e => e.kind == 5

/-- The baseline of the margin plan (R457): a new part's offsets are 0 under a ceiling of 16/16; else each rail's smallest offset, or its
cap with the highest ceiling that holds. -/
def Perm.baseline (p : Perm) (b : BootIn) (t : Nat) : List JEntry :=
  let new := p.newPart
  let v := if new then 0 else (planOf p.journal).version + 1
  let off := fun (r : Nat) => if new then 0 else min (mget 0 b.offsets r) (railCap r)
  let short := (List.range 10).any fun r => decide (railCap r < mget 0 b.offsets r)
  let c := if !new && short then max 12 (min 16 b.ceiling) else 16
  ((List.range 10).map fun r => { JEntry.reset with version := v, kind := 4, rail := r, value := off r, time := t }) ++
    [{ JEntry.reset with version := v, kind := 4, rail := 255, value := c, time := t }]

/-- A plan from the journal, with what the rails read. -/
def Dev.adoptPlan (d : Dev) (p : Perm) : Dev :=
  let g := planOf p.journal
  { d with gau := { d.gau with
      ceiling := g.ceiling, ended := g.ended, version := g.version
      rails := (List.range 11).map fun r => (r, { d.rail r with off := (mget Rail.reset g.rails r).off }) } }

/-- Step 7 and the characterisation (R426, R456): a characterised part is measured; another one gets its baseline plan.
(DEDUCED, assumption 103.) -/
def characterise (k : Clock) (b : BootIn) (d : Dev) (p : Perm) : Dev × Perm :=
  if p.characterised then (d.measure k b.gauges, p)
  else
    let p := { (p.baseline b (gtime k d)).foldl (Perm.journalAdd (gtime k d)) p with characterised := true }
    ({ d with gau := { d.gau with measAt := k.tsc } }.adoptPlan p, p)

/-! ### The end of a boot -/

/-- Burn the lowest counter bits until the counter holds `n` (R420, R423). -/
def burnTo (n : Nat) (r : BitVec 64) : BitVec 64 :=
  (List.range 64).foldl (fun (r : BitVec 64) i => if ({ Fuses.reset with rollback := r } : Fuses).rollCount < n then r ||| (1#64 <<< i) else r) r

/-- The anti-rollback counter after a boot that reached Ready (R423). -/
def Perm.commit (p : Perm) : Perm :=
  match p.image with
  | some i => if i.commit then { p with fuses := { p.fuses with rollback := burnTo i.ver p.fuses.rollback } } else p
  | none => p

/-- Security version of the image. -/
def Perm.imageVer (p : Perm) : Nat := p.image.elim 0 Image.ver

/-- Steps 4 to 10 of a boot under manifest `m` (R425): `d` is the device after the reset, `old` the one before it. -/
def bootOn (warm preserve : Bool) (b : BootIn) (m : Manifest) (s : State) (d old : Dev) (p : Perm) (k : Clock) : Out :=
  let boots := (p.boots + 1) % 2 ^ 28
  let p := { p with boots := boots }
  let d := { d with lkp := { d.lkp with boots := boots, lastWarm := warm, preserved := preserve, step := 4 } }
  if p.retire then .next { s with dev := d.retire, perm := p, clk := k }
  else
    let xs := (List.range 8).map (bootStack b)
    let d := ((d.adoptPlan p).applyWays p.wayOff).trainStacks preserve xs
    let p := if preserve then p else (xs.map (marginEntry d.gau.version (gtime k d))).foldl (Perm.journalAdd (gtime k d)) p
    match xs.find? fun x => !stackTrains x preserve with
    | some x =>
      let r := settle (logErr k (stackLostErr x.stack (failedChannels x preserve)) d) p
      .next { s with dev := r.1, perm := r.2, clk := k }
    | none =>
      let first := !p.characterised
      let (d, p) := characterise k b d p
      let d := d.applyManifest old k m preserve boots
      let p := { p.commit with manSerial := max p.manSerial m.serial }
      .next { s with
        dev := { d with lkp := { d.lkp with st := .ready, step := 0, firstBoot := first, fwVer := p.imageVer, manifest := some m } }
        perm := p
        clk := { k with setting := d.gau.ceiling, changedAt := k.tsc, upAt := k.tsc, slot := 0 } }

/-- COLD_START (R425, R426, R524, R532): release of RESET_N, or the start of VAON's rise, runs the boot steps.
(DESIGN CHOICE, assumption 109.) -/
def execColdStart (b : BootIn) (st : State) : Out :=
  let k := st.clk
  if !(k.inReset || !k.vaon || (st.dev.lkp.st == .booting && !st.dev.stopped)) then .next st
  else
    let k := { Clock.reset with tsc := if k.inReset || !k.vaon then 0 else k.tsc }
    let d := { st.dev.coldReset with
      thermtrip := false, latent := b.latent.map fun l => { kind := l.kind, unit := l.unit, place := l.place, word := l.word, unc := l.unc } }
    if b.hot then .next { st with dev := { d with thermtrip := true, stopped := true, lkp := { d.lkp with step := 1 } }, clk := k }
    else
      match imageReason b st.perm with
      | some r => .next { st with dev := d.recover 2 r, clk := k }
      | none =>
        let p := st.perm.fuseOperator b
        match loadManifest b p with
        | .inl r => .next { st with dev := d.recover 3 r, perm := p, clk := k }
        | .inr m => bootOn false false b m st d st.dev p k

/-- The boot of a warm reset (R427): the manifest image is the one in always-on memory, and the steps due are journalled first. -/
def warmBoot (preserve : Bool) (b : BootIn) (st : State) : Out :=
  let d := st.dev
  let p := d.gau.dueEntries.foldl (Perm.journalAdd (gtime st.clk d)) st.perm
  let r := d.warmReset st.clk preserve
  let r := { r with latent := r.latent ++ b.latent.map fun l => { kind := l.kind, unit := l.unit, place := l.place, word := l.word, unc := l.unc } }
  match imageReason b p, d.lkp.manifest with
  | some x, _ => .next { st with dev := r.recover 2 x, perm := p }
  | none, some m => bootOn true preserve b m st r d p st.clk
  | none, none => .next { st with dev := r.recover 3 5, perm := p }

end Sys2Proof.Machine
end

