-- ==== Sys2Proof/Machine/Lockkeeper.lean ====
section
/-! DEFINITION. The Lockkeeper's commands (R433 to R435): WARM_RESET, MAINTENANCE_ENTER, MAINTENANCE_EXIT, MARGIN_STACKS, CLEAR_HEALTH, FW_UPDATE,
MANIFEST_UPDATE, REMEASURE_TIME, DEBUG_CONSENT; and the debug port (R441): DEBUG_UNLOCK. A command's row performs it, whether LKP_CMD was written
before or is written by the row itself. -/

namespace Sys2Proof.Machine

/-! ### Running a command (R433) -/

/-- Whether a command may run now: it was written, or no other one runs. -/
def Dev.lkpFree (d : Dev) (c : Nat) : Bool := !d.stopped && (!d.lkp.busy || d.lkp.cmd == c)

/-- A command runs. (DESIGN CHOICE, assumption 117.) -/
def Dev.lkpBegin (d : Dev) (c : Nat) : Dev := { d with lkp := { d.lkp with busy := true, cmd := c } }

/-- Whether LKP_CMD may be written at all: only in these states does a host reach the register. -/
def Dev.lkpServes (d : Dev) : Bool := d.lkp.st == .ready || d.lkp.st == .maintenance || d.lkp.st == .debug

/-- A command ends (R433): LKP_CMD_STATUS holds its status, and the record LKP_CMD_DONE goes to berth 0's ring 0. -/
def Dev.lkpDone (d : Dev) (k : Clock) (c status : Nat) : Dev :=
  let d := { d with lkp := { d.lkp with busy := false, cmd := c, status := status } }
  if c = 1 ∨ c = 3 then d else d.writeRing k 0 0 (eventRec 0x21 status c 1 0 0 0 0 (gtime k d) 0) false

/-- A command that a write of LKP_CMD could not start, because another one runs: overrun (R433). -/
def Dev.lkpTurn (d : Dev) : Dev := if d.stopped || !d.lkpServes then d else { d with lkp := { d.lkp with overrun := true } }

/-- Run command `c` where `ok` holds, with WRONG_STATE elsewhere. `f` gives its effect and answers with the finished device. -/
def Dev.lkpRun (d : Dev) (k : Clock) (c : Nat) (ok : Bool) (f : Dev → Dev) : Dev :=
  if !d.lkpServes then d
  else if !d.lkpFree c then d.lkpTurn
  else if !ok then d.lkpDone k c 1
  else f (d.lkpBegin c)

/-- Run a command that also acts on the fuses or the NVM. -/
def lkpNvm (st : State) (c : Nat) (ok : Bool) (f : Dev → Perm → Nat × Dev × Perm) : Out :=
  if st.dev.lkpServes && st.dev.lkpFree c && ok then
    let r := f (st.dev.lkpBegin c) st.perm
    onMem { st with perm := r.2.2 } fun _ => r.2.1.lkpDone st.clk c r.1
  else onMem st fun d => d.lkpRun st.clk c false fun d => d

/-- Whether the device is Ready or in Maintenance. -/
def Dev.serving (d : Dev) : Bool := d.lkp.st == .ready || d.lkp.st == .maintenance

/-- Argument of a command: an address in berth 0's memory, with a length (R433). (DEDUCED, assumption 119.) -/
def Dev.argOk (d : Dev) : Bool := d.lkp.len != 0 && d.ownsSpan 0 d.lkp.arg.toNat d.lkp.len.toNat

/-! ### Warm reset (R251, R427) -/

/-- A core whose work a reset ends: nothing of a context is left on it. -/
def Core.halt (k : Core) : Core :=
  { k with groups := [], blocks := [], mxq := [], t0 := Tile.reset, t1 := Tile.reset, tileWait := [], ops := [], walks := [], bw := [], freeRegs := 131072
           mshrs := mmap k.mshrs fun _ m => { m with ops := [], bw := none } }

/-- The work that a warm reset ends (R418, R427): sessions, contexts, queues, fences, groups and streams. -/
def Dev.haltWork (d : Dev) (k : Clock) : Dev :=
  let d := (d.whf.sessions.filter fun e => e.2.st != .free).foldl (fun d e => d.endSession k e.1 4) d
  { d with
    cores := mmap d.cores fun _ c => c.halt
    ctl := { d.ctl with
      ctxs := [], queues := mmap d.ctl.queues fun _ q => q.cleared, fences := mmap d.ctl.fences fun _ f => f.cleared
      imports := [], streams := [], lostWrites := [], quarter := [] } }

/-- A warm reset: the work ends, every line is given up and written back, and the boot follows; it waits while an NVM update runs or lines
are awaited. (DEDUCED, assumption 112.) (DESIGN CHOICE, assumption 118.) -/
def warmGo (c : Nat) (preserve : Bool) (b : BootIn) (st : State) : Out :=
  let (ok, d) := ((st.dev.lkpBegin c).haltWork st.clk).giveUp st.clk
  if ok then warmBoot preserve b { st with dev := d } else onMem st fun _ => d

/-- WARM_RESET (R427, R433), also one that the Lockkeeper itself performs (R323, R481). -/
def execWarmReset (b : BootIn) (st : State) : Out :=
  let d := st.dev
  if d.lkp.warmDue && d.serving && !d.stopped && !d.nvmUpdates then warmGo 1 false b st
  else if d.lkpFree 1 && d.serving then warmGo 1 (bitAt d.lkp.arg.toNat 0) b st
  else onMem st fun d => d.lkpRun st.clk 1 false fun d => d

/-! ### Maintenance (R435) -/

/-- MAINTENANCE_ENTER (R435): every context of berths 1 to 31 is aborted; the command ends when every abort has. -/
def execMaintenanceEnter (st : State) : Out :=
  onMem st fun d => d.lkpRun st.clk 2 (d.lkp.st == .ready) fun d =>
    let xs := d.ctl.ctxs.filterMap fun e => if e.2.st = .live ∧ e.2.berth ≠ 0 then some e.1 else none
    let d := xs.foldl (fun d x => d.startAbort st.clk x 6 false) d
    if d.ctl.ctxs.any fun e => e.2.berth != 0 && e.2.abort.isSome then d
    else { d with lkp := { d.lkp with st := .maintenance } }.lkpDone st.clk 2 0

/-- MAINTENANCE_EXIT (R433): a warm reset without preserve. -/
def execMaintenanceExit (b : BootIn) (st : State) : Out :=
  let d := st.dev
  if d.lkpFree 3 && d.lkp.st == .maintenance then warmGo 3 false b st
  else onMem st fun d => d.lkpRun st.clk 3 false fun d => d

/-- Every key of the device is replaced: what HBM holds is no longer readable. -/
def Dev.newKeys (d : Dev) : Dev :=
  { d with ctl := { d.ctl with
      berths := mmap d.ctl.berths fun _ (b : Berth) => { b with keyGen := b.keyGen + 1 }
      shared := mmap d.ctl.shared fun _ (s : SharedKey) => { s with gen := s.gen + 1 } } }

/-- HBM holds nothing that can be relied on. (DESIGN CHOICE, assumption 120.) -/
def Dev.dropHbm (d : Dev) : Dev := { d with mem := { d.mem with hbm := [], tags := [] } }

/-- MARGIN_STACKS (R226, R433): the margins are journalled and become inputs to R458; the contents of HBM become unpredictable. -/
def execMarginStacks (r : List StackIn) (st : State) : Out :=
  lkpNvm st 4 (st.dev.lkp.st == .maintenance) fun d p =>
    let t := gtime st.clk d
    let d := d.newKeys.dropHbm
    let eyes := r.foldl (fun (l : List (Nat × Nat × Nat)) x => (l.filter fun e => e.1 != x.stack) ++ [(x.stack, eyeUi x, eyeMv x)]) d.gau.eyes
    (0, { d with gau := { d.gau with eyes := eyes } }, (r.map (marginEntry d.gau.version t)).foldl (Perm.journalAdd t) p)

/-- CLEAR_HEALTH (R433): ARG [0] removes the way disables, [1] the characterised entry. -/
def execClearHealth (st : State) : Out :=
  lkpNvm st 5 (st.dev.lkp.st == .maintenance) fun d p =>
    (0, d, { p with wayOff := if bitAt d.lkp.arg.toNat 0 then [] else p.wayOff
                    characterised := p.characterised && !bitAt d.lkp.arg.toNat 1 })

/-! ### Updates (R434) -/

/-- Status of the checks of a new image (R423). -/
def Perm.imageStatus (p : Perm) (i : Image) : Nat :=
  if i.magicOk = false ∨ i.sigOk = false ∨ Config.sha512 i.key ≠ p.fuses.fwKey then 3
  else if i.ver < p.fuses.rollCount ∨ 64 < i.ver then 4
  else 0

/-- Status of the checks of a new manifest (R428, R434). -/
def Perm.manifestStatus (p : Perm) (m : Manifest) : Nat :=
  if m.serial ≤ p.manSerial then 4 else if (p.manifestReason m).isSome then 3 else 0

/-- FW_UPDATE (R434): `nvmOk` says whether the copy read back as written, the second time if need be. -/
def execFwUpdate (img : Image) (nvmOk : Bool) (st : State) : Out :=
  lkpNvm st 6 st.dev.serving fun d p =>
    if !d.argOk then (2, d, p)
    else if p.imageStatus img ≠ 0 then (p.imageStatus img, d, p)
    else if nvmOk then (0, d, { p with image := some img, imgState := 1 })
    else (5, d, { p with image := none, imgState := 2 })

/-- MANIFEST_UPDATE (R434). -/
def execManifestUpdate (m : Manifest) (nvmOk : Bool) (st : State) : Out :=
  lkpNvm st 7 st.dev.serving fun d p =>
    if !d.argOk then (2, d, p)
    else if p.manifestStatus m ≠ 0 then (p.manifestStatus m, d, p)
    else if nvmOk then (0, d, { p with man := some m, manState := 1, manSerial := m.serial })
    else (5, d, { p with man := none, manState := 2 })

/-! ### Time and debug -/

/-- REMEASURE_TIME (R330): at the time root it begins; elsewhere the request goes to the root, when it can be reached. -/
def execRemeasureTime (st : State) : Out :=
  onMem st fun d => d.lkpRun st.clk 8 (d.lkp.st == .ready) fun d =>
    if d.tim.root = d.id then (d.remeasure st.clk).lkpDone st.clk 8 0
    else if d.reachable d.tim.root then
      (d.mgmtSend { Packet.reset with op := .mgmtWrite, dst := d.tim.root, tgt := 708, agent := 708, aop := 4, who := d.id }).lkpDone st.clk 8 0
    else d.lkpDone st.clk 8 6

/-- DEBUG_CONSENT (R441): a consent record that the installation key signed, with this device's serial, is held.
(DESIGN CHOICE, assumption 145.) -/
def execDebugConsent (sigOk : Bool) (serial : BitVec 128) (hash : BitVec 512) (st : State) : Out :=
  lkpNvm st 9 st.dev.serving fun d p =>
    if d.lkp.len ≠ 160 ∨ d.argOk = false then (2, d, p)
    else if sigOk = false ∨ serial ≠ p.fuses.serial then (3, d, p)
    else (0, { d with lkp := { d.lkp with consent := some hash } }, p)

/-- A slice whose SRAM is written with zero; its way disables stay. -/
def Slice.zeroed (s : Slice) : Slice := { Slice.reset with off := s.off, vOff := s.vOff, refused := s.refused }

/-- A core whose SRAM is written with zero. -/
def Core.zeroed (k : Core) : Core := { k.afterReset k.ccBase with l1Off := k.l1Off }

/-- A port in Debug: the identity key signs nothing, so none can be verified (R441). -/
def Port.forbid (x : Port) : Port :=
  if x.role = .unused then x
  else { Port.reset with
    role := x.role, encrypt := x.encrypt, fullWidth := x.fullWidth, nbrDev := x.nbrDev, nbrPort := x.nbrPort, st := .disabled }

/-- Unlock the debug port (R441): every context is gone, every key is zeroised, memory is zero, and the device is in Debug. -/
def Dev.unlock (d : Dev) (k : Clock) : Dev :=
  let d := (d.haltWork k).newKeys.dropHbm
  { d with
    cores := mmap d.cores fun _ c => c.zeroed
    slices := mmap d.slices fun _ s => s.zeroed
    ctl := { d.ctl with berths := mmap d.ctl.berths fun _ (b : Berth) => { b with
      st := if b.st = .resetting then .live else b.st, rst := none, attest := none, fqProd := 0, fqCons := 0, overflow := false, pendNext := 0, headless := false } }
    fab := { d.fab with net := [], marks := [], mgmtOut := [], left := [], ports := mmap d.fab.ports fun _ x => x.forbid }
    whf := { d.whf with sessions := [], ghosts := [] }
    lkp := { d.lkp with st := .debug, debug := true, identityOff := true, busy := false }
    ldg := { d.ldg with bufs := [] }
    shadows := [], erl := { d.erl with taint := [] } }

/-- DEBUG_UNLOCK (R441): a Keagor token that names the serial and the consent record held. (DEDUCED, assumption 121.) -/
def execDebugUnlock (sigOk : Bool) (serial : BitVec 128) (hash : BitVec 512) (st : State) : Out :=
  onMem st fun d =>
    if d.stopped = false ∧ d.serving = true ∧ sigOk = true ∧ serial = st.perm.fuses.serial ∧ d.lkp.consent = some hash then d.unlock st.clk else d

end Sys2Proof.Machine
end

