-- ==== Sys2Proof/Machine/Board.lean ====
section
/-! DEFINITION. What the board does to the device and reads from it: the operator counters' samples (R487 to R490), the side-band port (R530,
R531), and the lands and supplies (R523 to R525, R532). -/

namespace Sys2Proof.Machine

/-! ### Operator counters (R487 to R490) -/

/-- C-cycles in which a core held a resident group (R489). -/
def Core.residence (c : Core) (k : Clock) : Nat := c.resident + c.resSince.elim 0 fun t => k.ccyc - t

/-- Word `w` of a sample record (R488, R489). -/
def Dev.sampleWord (d : Dev) (k : Clock) (i : SampleIn) (w : Nat) : Nat :=
  if w < 91 then mget 0 d.cnt.words w
  else if w = 91 then d.pwr.energy
  else if w < 103 then (d.rail (w - 92)).current
  else if w < 107 then i.dies.getD (w - 103) 0
  else if w < 115 then (d.stack (w - 107)).temp
  else if w = 115 then packBits [(0, 5, k.setting), (8, 10, d.pwr.coreLimit), (18, 1, b2n (d.pwr.unmet.any fun e => e.2.on))]
  else if 128 ≤ w ∧ w < 160 then sumNat (d.cores.map fun e => if coreDomain e.1 = w - 128 then e.2.residence k else 0)
  else if 160 ≤ w ∧ w < 192 then mget 0 d.cnt.words w
  else 0

/-- A sample record: header and 248 words (R488). -/
def Dev.sampleRecord (d : Dev) (k : Clock) (i : SampleIn) (skipped : Nat) : List Byte :=
  let c := d.cnt
  let flags := b2n c.restart + 2 * b2n (!d.tim.valid) + 4 * b2n (skipped != 0)
  bytesOf 8 c.sampleNo ++ bytesOf 8 (gtime k d) ++ bytesOf 4 c.inForce ++ bytesOf 4 flags ++ bytesOf 4 skipped ++ bytesOf 36 d.id ++
    (List.range 248).flatMap fun w => bytesOf 8 (d.sampleWord k i w)

/-- What is read at a capture: activity of the domains that the model does not count, temperatures, and energy (R488, R489). -/
def Dev.capture (d : Dev) (k : Clock) (i : SampleIn) : Dev :=
  let ws := (i.words.filter fun e => 160 ≤ e.1 && e.1 < 192).foldl (fun m e => mput m e.1 (mget 0 m e.1 + e.2)) d.cnt.words
  let stks := i.stackTemps.zipIdx.foldl (fun m t => mput m t.2 { mget Stack.reset m t.2 with temp := t.1 }) d.mem.stks
  { d with
    cnt := { d.cnt with words := ws }
    mem := { d.mem with stks := stks }
    pwr := { d.pwr with energy := d.pwr.energy + i.power * (k.tsc - d.cnt.lastAt) / 6400000 } }

/-- COUNTER_SAMPLE (R487, R488): a sample interval is over. Intervals that passed without a capture count as skipped.
(DESIGN CHOICE, assumption 122.) -/
def execCounterSample (i : SampleIn) (st : State) : Out :=
  onMem st fun d =>
    let k := st.clk
    let c := d.cnt
    let n := (k.tsc - c.lastAt) / usec c.inForce
    if d.stopped || !c.enable || c.size == 0 || n == 0 then d
    else
      let skipped := n - 1
      let d := d.capture k i
      let d := d.poke k 0 (c.base + 2048 * (c.sampleNo % 2 ^ (c.size - 11))) (d.sampleRecord k i skipped)
      { d with cnt := { d.cnt with
          prod := c.prod + 1, sampleNo := c.sampleNo + 1, restart := false, inForce := c.interval, lastAt := c.lastAt + n * usec c.inForce } }

/-! ### Side-band port (R530, R531) -/

/-- Whether the side-band port answers (R530). (DEDUCED, assumption 123.) -/
def Clock.sideband (k : Clock) : Bool := k.vaon && !k.inReset && k.refOk

/-- The side-band port answers with a status and bytes. -/
def Dev.sbAnswer (d : Dev) (status : Nat) (bs : List Byte) : Dev := { d with sbResult := some (status, bs) }

/-- A side-band command (R530, R531): one whose PEC fails answers 0x02. -/
def sbIns (pecOk : Bool) (st : State) (f : Dev → Dev) : Out :=
  onMem st fun d => if !st.clk.sideband then d else if !pecOk then d.sbAnswer 2 [] else f d

/-- READ_REG (R514, R531). -/
def execReadReg (off : BitVec 24) (pecOk : Bool) (st : State) : Out :=
  sbIns pecOk st fun d =>
    match d.regRead st.perm st.clk 1 off.toNat with
    | (some v, d) => d.sbAnswer 0 (bytesOf 4 v)
    | (none, d) => d.sbAnswer 3 []

/-- Place of a byte offset of the fatal log in the list of its records (R421, R473): the two halves are one ring of 32,768 records. -/
def Perm.fatalAt (p : Perm) (off : Nat) : Nat := (off / 32 + 32768 - p.fatalOld % 32768) % 32768

/-- Four bytes of the fatal log (R473); erased NVM reads as ones. (PRESUMED, assumption 124.) -/
def Perm.fatalWord (p : Perm) (off : Nat) : List Byte :=
  match p.fatal[p.fatalAt off]? with
  | some r => ((erlBytes r).drop (off % 32)).take 4
  | none => [0xFF, 0xFF, 0xFF, 0xFF]

/-- READ_FATAL (R531, R532): a record that is read is no longer unread. -/
def execReadFatal (off : BitVec 24) (pecOk : Bool) (st : State) : Out :=
  sbIns pecOk st fun d =>
    let o := off.toNat
    if o % 4 ≠ 0 ∨ 2 ^ 20 ≤ o then d.sbAnswer 3 []
    else
      let n := st.perm.fatalOld + st.perm.fatalAt o
      { d with erl := { d.erl with unread := d.erl.unread.filter fun i => i != n } }.sbAnswer 0 (st.perm.fatalWord o)

/-- WAKE (R451, R531). -/
def execWake (pecOk : Bool) (st : State) : Out :=
  sbIns pecOk st fun d => (d.wakeUp st.clk).sbAnswer (if d.canWake st.clk then 0 else 4) []

/-- CLEAR_RETIREMENT (R484, R531). -/
def execClearRetirement (pecOk : Bool) (nvmOk : Bool) (st : State) : Out :=
  let ok := st.clk.sideband && pecOk && st.dev.lkp.st == .retired
  sbIns pecOk { st with perm := { st.perm with retire := st.perm.retire && !(ok && nvmOk) } } fun d =>
    d.sbAnswer (if d.lkp.st ≠ .retired then 4 else if nvmOk then 0 else 5) []

/-- PING of the side-band port (R531): the Lockkeeper's state and boot step. -/
def execSidebandPing (pecOk : Bool) (st : State) : Out :=
  sbIns pecOk st fun d => d.sbAnswer 0 [BitVec.ofNat 8 d.lkp.st.ctorIdx, BitVec.ofNat 8 d.lkp.step]

/-- ALERT_N is asserted (R532). -/
def Dev.alertN (d : Dev) : Bool := d.lkp.st == .recovery || d.lkp.st == .retired || d.lkp.st == .debug || !d.erl.unread.isEmpty

/-! ### Lands and supplies (R523 to R525) -/

/-- RESET_N_ASSERT (R523): RESET_N was asserted for at least 10 µs. The state ends, an NVM update stays incomplete (R434), and every clock
outside PD61 stops; THERMTRIP_N is held. -/
def execResetNAssert (ns : Nat) (st : State) : Out :=
  if ns < 10000 then .next st
  else .next { st with
    dev := { st.dev.coldReset with stopped := true }
    perm := st.perm.cutUpdate st.dev
    clk := { st.clk with inReset := true, tsc := 0, refOk := true } }

/-- VAON_LOSS (R524): VAON lay outside its tolerance for more than 10 µs; the always-on domain loses its contents. -/
def execVaonLoss (ns : Nat) (st : State) : Out :=
  if ns ≤ 10000 then .next st
  else .next { st with
    dev := { st.dev.coldReset with stopped := true, thermtrip := false }
    perm := st.perm.cutUpdate st.dev
    clk := { st.clk with vaon := false } }

/-- REFCLK_LOSS (R525): the reference stopped for more than 1 µs; every clock stops, and only a cold reset restarts the device. -/
def execRefclkLoss (ns : Nat) (st : State) : Out :=
  if ns ≤ 1000 ∨ st.clk.vaon = false then .next st
  else .next { st with
    dev := { st.dev with stopped := true }
    clk := { st.clk with refOk := false } }

end Sys2Proof.Machine
end

