-- ==== Sys2Proof/Machine/Dispatch.lean ====
section
/-! DEFINITION. The meaning of every command: one arm per constructor of Instr. -/

namespace Sys2Proof.Machine

def exec (i : Instr) (s : State) : Host.Outcome State Fault Refusal :=
  match i with
  | .nop c gs f => Sys2Proof.Machine.execNop c gs f s
  | .mov c gs f => Sys2Proof.Machine.execMov c gs f s
  | .iadd c gs f => Sys2Proof.Machine.execIadd c gs f s
  | .isub c gs f => Sys2Proof.Machine.execIsub c gs f s
  | .imul c gs f => Sys2Proof.Machine.execImul c gs f s
  | .imad c gs f => Sys2Proof.Machine.execImad c gs f s
  | .imin c gs f => Sys2Proof.Machine.execImin c gs f s
  | .imax c gs f => Sys2Proof.Machine.execImax c gs f s
  | .and c gs f => Sys2Proof.Machine.execAnd c gs f s
  | .or c gs f => Sys2Proof.Machine.execOr c gs f s
  | .xor c gs f => Sys2Proof.Machine.execXor c gs f s
  | .not c gs f => Sys2Proof.Machine.execNot c gs f s
  | .shl c gs f => Sys2Proof.Machine.execShl c gs f s
  | .shr c gs f => Sys2Proof.Machine.execShr c gs f s
  | .popc c gs f => Sys2Proof.Machine.execPopc c gs f s
  | .clz c gs f => Sys2Proof.Machine.execClz c gs f s
  | .sel c gs f => Sys2Proof.Machine.execSel c gs f s
  | .setp c gs f => Sys2Proof.Machine.execSetp c gs f s
  | .plop c gs f => Sys2Proof.Machine.execPlop c gs f s
  | .shfl c gs f => Sys2Proof.Machine.execShfl c gs f s
  | .vote c gs f => Sys2Proof.Machine.execVote c gs f s
  | .rdsv c gs f => Sys2Proof.Machine.execRdsv c gs f s
  | .fadd c gs f => Sys2Proof.Machine.execFadd c gs f s
  | .fsub c gs f => Sys2Proof.Machine.execFsub c gs f s
  | .fmul c gs f => Sys2Proof.Machine.execFmul c gs f s
  | .ffma c gs f => Sys2Proof.Machine.execFfma c gs f s
  | .fmin c gs f => Sys2Proof.Machine.execFmin c gs f s
  | .fmax c gs f => Sys2Proof.Machine.execFmax c gs f s
  | .exp2 c gs f => Sys2Proof.Machine.execExp2 c gs f s
  | .log2 c gs f => Sys2Proof.Machine.execLog2 c gs f s
  | .rsqrt c gs f => Sys2Proof.Machine.execRsqrt c gs f s
  | .rcp c gs f => Sys2Proof.Machine.execRcp c gs f s
  | .cvt c gs f => Sys2Proof.Machine.execCvt c gs f s
  | .cvtAmax c gs f => Sys2Proof.Machine.execCvtAmax c gs f s
  | .bra c gs f => Sys2Proof.Machine.execBra c gs f s
  | .brx c gs f => Sys2Proof.Machine.execBrx c gs f s
  | .brxAny c gs f => Sys2Proof.Machine.execBrxAny c gs f s
  | .pushm c gs f => Sys2Proof.Machine.execPushm c gs f s
  | .popm c gs f => Sys2Proof.Machine.execPopm c gs f s
  | .swapm c gs f => Sys2Proof.Machine.execSwapm c gs f s
  | .call c gs f => Sys2Proof.Machine.execCall c gs f s
  | .ret c gs f => Sys2Proof.Machine.execRet c gs f s
  | .bri c gs f => Sys2Proof.Machine.execBri c gs f s
  | .exit c gs f => Sys2Proof.Machine.execExit c gs f s
  | .bar c gs f => Sys2Proof.Machine.execBar c gs f s
  | .ld c gs f => Sys2Proof.Machine.execLd c gs f s
  | .st c gs f => Sys2Proof.Machine.execSt c gs f s
  | .ldl c gs f => Sys2Proof.Machine.execLdl c gs f s
  | .stl c gs f => Sys2Proof.Machine.execStl c gs f s
  | .cflush c gs f => Sys2Proof.Machine.execCflush c gs f s
  | .cinv c gs f => Sys2Proof.Machine.execCinv c gs f s
  | .mfence c gs f => Sys2Proof.Machine.execMfence c gs f s
  | .acq c gs f => Sys2Proof.Machine.execAcq c gs f s
  | .rel c gs f => Sys2Proof.Machine.execRel c gs f s
  | .atomAdd c gs f => Sys2Proof.Machine.execAtomAdd c gs f s
  | .atomMin c gs f => Sys2Proof.Machine.execAtomMin c gs f s
  | .atomMax c gs f => Sys2Proof.Machine.execAtomMax c gs f s
  | .atomAnd c gs f => Sys2Proof.Machine.execAtomAnd c gs f s
  | .atomOr c gs f => Sys2Proof.Machine.execAtomOr c gs f s
  | .atomXor c gs f => Sys2Proof.Machine.execAtomXor c gs f s
  | .atomExch c gs f => Sys2Proof.Machine.execAtomExch c gs f s
  | .atomCas c gs f => Sys2Proof.Machine.execAtomCas c gs f s
  | .atomlAdd c gs f => Sys2Proof.Machine.execAtomlAdd c gs f s
  | .atomlMin c gs f => Sys2Proof.Machine.execAtomlMin c gs f s
  | .atomlMax c gs f => Sys2Proof.Machine.execAtomlMax c gs f s
  | .atomlAnd c gs f => Sys2Proof.Machine.execAtomlAnd c gs f s
  | .atomlOr c gs f => Sys2Proof.Machine.execAtomlOr c gs f s
  | .atomlXor c gs f => Sys2Proof.Machine.execAtomlXor c gs f s
  | .atomlExch c gs f => Sys2Proof.Machine.execAtomlExch c gs f s
  | .atomlCas c gs f => Sys2Proof.Machine.execAtomlCas c gs f s
  | .mxzero c gs f => Sys2Proof.Machine.execMxzero c gs f s
  | .mxstream c gs f => Sys2Proof.Machine.execMxstream c gs f s
  | .mxdiag c gs f => Sys2Proof.Machine.execMxdiag c gs f s
  | .mxdrain c gs f => Sys2Proof.Machine.execMxdrain c gs f s
  | .mxwait c gs f => Sys2Proof.Machine.execMxwait c gs f s
  | .bwdot c gs f => Sys2Proof.Machine.execBwdot c gs f s
  | .heldRegionTimeout c gs => Sys2Proof.Machine.execHeldRegionTimeout c gs s
  | .parkingLimitExpiry c gs => Sys2Proof.Machine.execParkingLimitExpiry c gs s
  | .groupSlotFree c gs => Sys2Proof.Machine.execGroupSlotFree c gs s
  | .dispatchBlock => Sys2Proof.Machine.execDispatchBlock s
  | .lmUnitZeroDone c b => Sys2Proof.Machine.execLmUnitZeroDone c b s
  | .matrixPhaseStart c e => Sys2Proof.Machine.execMatrixPhaseStart c e s
  | .matrixPassEnd c e => Sys2Proof.Machine.execMatrixPassEnd c e s
  | .matrixTokenComplete c e => Sys2Proof.Machine.execMatrixTokenComplete c e s
  | .bwdotComplete c b => Sys2Proof.Machine.execBwdotComplete c b s
  | .getS p => Sys2Proof.Machine.execGetS p s
  | .getM p => Sys2Proof.Machine.execGetM p s
  | .putS p => Sys2Proof.Machine.execPutS p s
  | .putE p => Sys2Proof.Machine.execPutE p s
  | .putO p => Sys2Proof.Machine.execPutO p s
  | .putM p => Sys2Proof.Machine.execPutM p s
  | .atomF p => Sys2Proof.Machine.execAtomF p s
  | .readU p => Sys2Proof.Machine.execReadU p s
  | .writeU p => Sys2Proof.Machine.execWriteU p s
  | .fwdGetS p => Sys2Proof.Machine.execFwdGetS p s
  | .fwdGetM p => Sys2Proof.Machine.execFwdGetM p s
  | .inv p => Sys2Proof.Machine.execInv p s
  | .recall p => Sys2Proof.Machine.execRecall p s
  | .evictAck p => Sys2Proof.Machine.execEvictAck p s
  | .data p => Sys2Proof.Machine.execData p s
  | .grant p => Sys2Proof.Machine.execGrant p s
  | .invAck p => Sys2Proof.Machine.execInvAck p s
  | .recallData p => Sys2Proof.Machine.execRecallData p s
  | .recallAck p => Sys2Proof.Machine.execRecallAck p s
  | .atomResp p => Sys2Proof.Machine.execAtomResp p s
  | .readData p => Sys2Proof.Machine.execReadData p s
  | .writeAck p => Sys2Proof.Machine.execWriteAck p s
  | .mirrorRepair sl line => Sys2Proof.Machine.execMirrorRepair sl line s
  | .wcbEntryTimeout sl line => Sys2Proof.Machine.execWcbEntryTimeout sl line s
  | .patrolScrubRead st ch pc ecc => Sys2Proof.Machine.execPatrolScrubRead st ch pc ecc s
  | .channelRetrain st ch => Sys2Proof.Machine.execChannelRetrain st ch s
  | .channelRetrainDone st ch good => Sys2Proof.Machine.execChannelRetrainDone st ch good s
  | .walkComplete agent who => Sys2Proof.Machine.execWalkComplete agent who s
  | .bargeDescriptorRead st => Sys2Proof.Machine.execBargeDescriptorRead st s
  | .streamAccessIssue st => Sys2Proof.Machine.execStreamAccessIssue st s
  | .copyComplete st => Sys2Proof.Machine.execCopyComplete st s
  | .streamStallLimitExpiry st => Sys2Proof.Machine.execStreamStallLimitExpiry st s
  | .unmapDrainComplete x => Sys2Proof.Machine.execUnmapDrainComplete x s
  | .unmapBoundExpiry x => Sys2Proof.Machine.execUnmapBoundExpiry x s
  | .bulkRead p => Sys2Proof.Machine.execBulkRead p s
  | .bulkWrite p => Sys2Proof.Machine.execBulkWrite p s
  | .bulkReduce p => Sys2Proof.Machine.execBulkReduce p s
  | .routeMark p => Sys2Proof.Machine.execRouteMark p s
  | .markAck p => Sys2Proof.Machine.execMarkAck p s
  | .errorResp p => Sys2Proof.Machine.execErrorResp p s
  | .heldRetry p => Sys2Proof.Machine.execHeldRetry p s
  | .coreHeldRetry c e => Sys2Proof.Machine.execCoreHeldRetry c e s
  | .mgmtRead p => Sys2Proof.Machine.execMgmtRead p s
  | .mgmtWrite p => Sys2Proof.Machine.execMgmtWrite p s
  | .mgmtResp p => Sys2Proof.Machine.execMgmtResp p s
  | .peerDown p => Sys2Proof.Machine.execPeerDown p s
  | .peerUp p => Sys2Proof.Machine.execPeerUp p s
  | .timeOffset p => Sys2Proof.Machine.execTimeOffset p s
  | .ping p => Sys2Proof.Machine.execPing p s
  | .packetForward p => Sys2Proof.Machine.execPacketForward p s
  | .flitReceive port f => Sys2Proof.Machine.execFlitReceive port f s
  | .hello port dev nport boot nonce => Sys2Proof.Machine.execHello port dev nport boot nonce s
  | .proof port sigOk => Sys2Proof.Machine.execProof port sigOk s
  | .timeProbe port turn => Sys2Proof.Machine.execTimeProbe port turn s
  | .timeReply port t2 t3 => Sys2Proof.Machine.execTimeReply port t2 t3 s
  | .gmac port ok => Sys2Proof.Machine.execGmac port ok s
  | .laneFail port lane => Sys2Proof.Machine.execLaneFail port lane s
  | .linkSilenceTimeout port => Sys2Proof.Machine.execLinkSilenceTimeout port s
  | .portRetrainDone port ok lanes => Sys2Proof.Machine.execPortRetrainDone port ok lanes s
  | .neighbourSeqTimeout port => Sys2Proof.Machine.execNeighbourSeqTimeout port s
  | .pingTimeout port => Sys2Proof.Machine.execPingTimeout port s
  | .fabPortRetrain port berth => Sys2Proof.Machine.execFabPortRetrain port berth s
  | .linkRekey port => Sys2Proof.Machine.execLinkRekey port s
  | .lpiEntry port => Sys2Proof.Machine.execLpiEntry port s
  | .ethernetFrame port f => Sys2Proof.Machine.execEthernetFrame port f s
  | .announce port => Sys2Proof.Machine.execAnnounce port s
  | .join k => Sys2Proof.Machine.execJoin k s
  | .joinAccept k => Sys2Proof.Machine.execJoinAccept k s
  | .joinReject k => Sys2Proof.Machine.execJoinReject k s
  | .joinConfirm k => Sys2Proof.Machine.execJoinConfirm k s
  | .joinConfirmTimeout n => Sys2Proof.Machine.execJoinConfirmTimeout n s
  | .regRead k => Sys2Proof.Machine.execRegRead k s
  | .regWrite k => Sys2Proof.Machine.execRegWrite k s
  | .memRead k => Sys2Proof.Machine.execMemRead k s
  | .memWrite k => Sys2Proof.Machine.execMemWrite k s
  | .doorbell k => Sys2Proof.Machine.execDoorbell k s
  | .windowOpen k => Sys2Proof.Machine.execWindowOpen k s
  | .windowClose k => Sys2Proof.Machine.execWindowClose k s
  | .subscribe k => Sys2Proof.Machine.execSubscribe k s
  | .unsubscribe k => Sys2Proof.Machine.execUnsubscribe k s
  | .resp k => Sys2Proof.Machine.execResp k s
  | .ack k => Sys2Proof.Machine.execAck k s
  | .retransmitTimeout n rseq => Sys2Proof.Machine.execRetransmitTimeout n rseq s
  | .heartbeat k => Sys2Proof.Machine.execHeartbeat k s
  | .heartbeatSend n => Sys2Proof.Machine.execHeartbeatSend n s
  | .heartbeatTimeout n => Sys2Proof.Machine.execHeartbeatTimeout n s
  | .leave k => Sys2Proof.Machine.execLeave k s
  | .windowAccessTimeout n tag => Sys2Proof.Machine.execWindowAccessTimeout n tag s
  | .eventCoalesceTimeout n berth => Sys2Proof.Machine.execEventCoalesceTimeout n berth s
  | .graceTimeExpiry berth => Sys2Proof.Machine.execGraceTimeExpiry berth s
  | .queDoorbell w q v => Sys2Proof.Machine.execQueDoorbell w q v s
  | .queEnable w q => Sys2Proof.Machine.execQueEnable w q s
  | .queDisable w q => Sys2Proof.Machine.execQueDisable w q s
  | .queResume w q => Sys2Proof.Machine.execQueResume w q s
  | .queDiscard w q => Sys2Proof.Machine.execQueDiscard w q s
  | .launch q => Sys2Proof.Machine.execLaunch q s
  | .copy q => Sys2Proof.Machine.execCopy q s
  | .fenceSignal q => Sys2Proof.Machine.execFenceSignal q s
  | .fenceWait q => Sys2Proof.Machine.execFenceWait q s
  | .batchMark q => Sys2Proof.Machine.execBatchMark q s
  | .queryUsage q => Sys2Proof.Machine.execQueryUsage q s
  | .timestampWrite q => Sys2Proof.Machine.execTimestampWrite q s
  | .ledgerMark q => Sys2Proof.Machine.execLedgerMark q s
  | .createContext q => Sys2Proof.Machine.execCreateContext q s
  | .destroyContext q => Sys2Proof.Machine.execDestroyContext q s
  | .map q => Sys2Proof.Machine.execMap q s
  | .unmap q => Sys2Proof.Machine.execUnmap q s
  | .resumeStream q => Sys2Proof.Machine.execResumeStream q s
  | .replayGroup q => Sys2Proof.Machine.execReplayGroup q s
  | .killGroup q => Sys2Proof.Machine.execKillGroup q s
  | .exportFence q => Sys2Proof.Machine.execExportFence q s
  | .berthReset q => Sys2Proof.Machine.execBerthReset q s
  | .berthResetComplete berth => Sys2Proof.Machine.execBerthResetComplete berth s
  | .commandCompletion q => Sys2Proof.Machine.execCommandCompletion q s
  | .fenceWaitTimeout q n => Sys2Proof.Machine.execFenceWaitTimeout q n s
  | .remoteFencePoll q n => Sys2Proof.Machine.execRemoteFencePoll q n s
  | .fenSignal w f v => Sys2Proof.Machine.execFenSignal w f v s
  | .fenRebase w f v => Sys2Proof.Machine.execFenRebase w f v s
  | .fenConfigWrite w f v => Sys2Proof.Machine.execFenConfigWrite w f v s
  | .contextAbortComplete x => Sys2Proof.Machine.execContextAbortComplete x s
  | .abortBoundExpiry x => Sys2Proof.Machine.execAbortBoundExpiry x s
  | .bthFqConsWrite w berth v => Sys2Proof.Machine.execBthFqConsWrite w berth v s
  | .bthRingConsWrite w berth ring v => Sys2Proof.Machine.execBthRingConsWrite w berth ring v s
  | .bthRingEnable w berth ring v => Sys2Proof.Machine.execBthRingEnable w berth ring v s
  | .bthGrantPage w v => Sys2Proof.Machine.execBthGrantPage w v s
  | .bthReleasePage w v => Sys2Proof.Machine.execBthReleasePage w v s
  | .grantApplyDone => Sys2Proof.Machine.execGrantApplyDone s
  | .tokenBucketRelease sl berth => Sys2Proof.Machine.execTokenBucketRelease sl berth s
  | .bthAttest w berth v => Sys2Proof.Machine.execBthAttest w berth v s
  | .attestDone berth => Sys2Proof.Machine.execAttestDone berth s
  | .coldStart b => Sys2Proof.Machine.execColdStart b s
  | .warmReset b => Sys2Proof.Machine.execWarmReset b s
  | .maintenanceEnter => Sys2Proof.Machine.execMaintenanceEnter s
  | .maintenanceExit b => Sys2Proof.Machine.execMaintenanceExit b s
  | .marginStacks r => Sys2Proof.Machine.execMarginStacks r s
  | .clearHealth => Sys2Proof.Machine.execClearHealth s
  | .fwUpdate img nvmOk => Sys2Proof.Machine.execFwUpdate img nvmOk s
  | .manifestUpdate m nvmOk => Sys2Proof.Machine.execManifestUpdate m nvmOk s
  | .remeasureTime => Sys2Proof.Machine.execRemeasureTime s
  | .debugConsent sigOk serial hash => Sys2Proof.Machine.execDebugConsent sigOk serial hash s
  | .debugUnlock sigOk serial hash => Sys2Proof.Machine.execDebugUnlock sigOk serial hash s
  | .domainGate pd => Sys2Proof.Machine.execDomainGate pd s
  | .domainWakeDone pd => Sys2Proof.Machine.execDomainWakeDone pd s
  | .pwrMoor w v => Sys2Proof.Machine.execPwrMoor w v s
  | .mooringQuiesced => Sys2Proof.Machine.execMooringQuiesced s
  | .mooringAbandon => Sys2Proof.Machine.execMooringAbandon s
  | .wakeTimeReached => Sys2Proof.Machine.execWakeTimeReached s
  | .wakeLand => Sys2Proof.Machine.execWakeLand s
  | .gaugeMeasurement g => Sys2Proof.Machine.execGaugeMeasurement g s
  | .journalAppend => Sys2Proof.Machine.execJournalAppend s
  | .derateStep => Sys2Proof.Machine.execDerateStep s
  | .thermalLoopStep temp => Sys2Proof.Machine.execThermalLoopStep temp s
  | .thermalTrip => Sys2Proof.Machine.execThermalTrip s
  | .currentLoopStep power avg alert => Sys2Proof.Machine.execCurrentLoopStep power avg alert s
  | .timingSafetyStep slack => Sys2Proof.Machine.execTimingSafetyStep slack s
  | .capLoopStep avg => Sys2Proof.Machine.execCapLoopStep avg s
  | .policyUnmet reason port => Sys2Proof.Machine.execPolicyUnmet reason port s
  | .policyMet reason port => Sys2Proof.Machine.execPolicyMet reason port s
  | .railTelemetryRead r => Sys2Proof.Machine.execRailTelemetryRead r s
  | .counterSample x => Sys2Proof.Machine.execCounterSample x s
  | .counterViewSample who w q last => Sys2Proof.Machine.execCounterViewSample who w q last s
  | .ledgerDelivery src => Sys2Proof.Machine.execLedgerDelivery src s
  | .ldgTrigger w => Sys2Proof.Machine.execLdgTrigger w s
  | .ledgerEnable w v => Sys2Proof.Machine.execLedgerEnable w v s
  | .ledgerDisable w v => Sys2Proof.Machine.execLedgerDisable w v s
  | .registerLoRead who off => Sys2Proof.Machine.execRegisterLoRead who off s
  | .registerLoWrite who off v => Sys2Proof.Machine.execRegisterLoWrite who off v s
  | .registerWrite who off v => Sys2Proof.Machine.execRegisterWrite who off v s
  | .readReg off pecOk => Sys2Proof.Machine.execReadReg off pecOk s
  | .readFatal off pecOk => Sys2Proof.Machine.execReadFatal off pecOk s
  | .wake pecOk => Sys2Proof.Machine.execWake pecOk s
  | .clearRetirement pecOk nvmOk => Sys2Proof.Machine.execClearRetirement pecOk nvmOk s
  | .sidebandPing pecOk => Sys2Proof.Machine.execSidebandPing pecOk s
  | .resetNAssert ns => Sys2Proof.Machine.execResetNAssert ns s
  | .vaonLoss ns => Sys2Proof.Machine.execVaonLoss ns s
  | .refclkLoss ns => Sys2Proof.Machine.execRefclkLoss ns s
  | .netPortDown port => Sys2Proof.Machine.execNetPortDown port s

end Sys2Proof.Machine
end

