-- ==== Sys2Proof/Machine/Ticks.lean ====
section
/-! DEFINITION. The clocks: the local count (R504) and the C-cycles and A-cycles of a frame of 32 C slots (R26). -/

namespace Sys2Proof.Machine

/-- C slots that a setting swallows (R26). -/
def swallowed (n : Nat) : List Nat :=
  if n = 15 then [15, 31]
  else if n = 14 then [7, 15, 23, 31]
  else if n = 13 then [4, 9, 15, 20, 25, 31]
  else if n = 12 then [3, 7, 11, 15, 19, 23, 27, 31]
  else []

/-- C edges that remain in the slots of a frame before slot `sl` (R26). -/
def edgesBefore (n sl : Nat) : Nat := ((List.range sl).filter fun i => !(swallowed n).contains i).length

/-- One C slot: its edge is a C-cycle unless the setting swallows it, and every second remaining edge is an A-cycle (R26). -/
def cSlot (k : Clock) : Clock :=
  let c := !(swallowed k.setting).contains k.slot
  let a := c && edgesBefore k.setting k.slot % 2 == 0
  { k with slot := (k.slot + 1) % 32, ccyc := k.ccyc + b2n c, acyc := k.acyc + b2n a }

/-- One tick of 2.5 ns (R2, R504): the local count runs while RESET_N is released, the reference runs and VAON holds; three C
slots pass unless every clock outside the always-on domain is stopped (R462). (DESIGN CHOICE, assumption 144.) -/
def tick (d : Dev) (k : Clock) : Clock :=
  if k.inReset || !k.refOk || !k.vaon then k
  else
    let k := { k with tsc := k.tsc + 16 }
    if d.stopped then k else cSlot (cSlot (cSlot k))

end Sys2Proof.Machine
end

