-- ==== Sys2Proof/Machine/Step.lean ====
section
/-! DEFINITION. The step of the block: the command at the front of the queue, or a tick of the clocks when none waits. -/

namespace Sys2Proof.Machine

/-- Take the command at the front of the queue and give it its meaning; on an empty queue the clocks run for one tick of
2.5 ns (DESIGN CHOICE, assumption 3). -/
def step (s : State) : Host.Outcome State Fault Refusal :=
  match s.pending with
  | [] => .next { s with clk := tick s.dev s.clk }
  | i :: rest => exec i { s with pending := rest }

/-- The state with the command that a table word spells at the front of its queue. The table gives no row a bit, so no word
spells a command. -/
def State.withFetchWord (s : State) (nbits w : Nat) : State :=
  match Sys2Proof.decodeTableWord nbits w with
  | some i => { s with pending := i :: s.pending }
  | none => s

end Sys2Proof.Machine
end

