-- ==== Sys2Proof/Terms.lean ====
section
/-! DEFINITION. The terms that the statements use: when a command meets nothing left to settle, when a group presents its
instruction, and what each kind of command leaves unchanged. -/

namespace Sys2Proof

open Sys2Proof.Machine

/-- Nothing waits to be settled: no notice is due (R474), no record for the fatal log (R473), no disable for the health
record (R219). -/
def Calm (d : Dev) : Prop := d.notices = [] ∧ d.fatalPend = [] ∧ d.healthDue = []

/-- The state after a command whose effect on the device is `d`: the queue, the non-volatile memory and the clocks are
unchanged, and besides `d` only the times since which core domains and ports are idle (R445, R448) and policies are unmet
(R467) are noted. -/
structure Settled (s : State) (d : Dev) (t : State) : Prop where
  pending : t.pending = s.pending
  perm : t.perm = s.perm
  clk : t.clk = s.clk
  dev : t.dev = { d with pwr := { d.pwr with idleSince := t.dev.pwr.idleSince, unmet := t.dev.pwr.unmet }
                         fab := { d.fab with ports := t.dev.fab.ports } }
  ports : ∀ p, t.dev.port p = { d.port p with idleSince := (t.dev.port p).idleSince }

/-- The frame of a command that acts on one core: every other core, every slice, memory, queue and register of the device
is unchanged. -/
structure CoreFrame (s : State) (c : Nat) (t : State) : Prop where
  pending : t.pending = s.pending
  perm : t.perm = s.perm
  clk : t.clk = s.clk
  dev : t.dev = { s.dev with
    cores := t.dev.cores
    pwr := { s.dev.pwr with idleSince := t.dev.pwr.idleSince, unmet := t.dev.pwr.unmet }
    fab := { s.dev.fab with ports := t.dev.fab.ports } }
  ports : ∀ p, t.dev.port p = { s.dev.port p with idleSince := (t.dev.port p).idleSince }
  others : ∀ c', c' ≠ c → t.dev.core c' = s.dev.core c'

/-- The frame of an instruction that acts on its own group (R38, R77): beside group `gs` of core `c` nothing is
changed. -/
structure GroupFrame (s : State) (c gs : Nat) (t : State) : Prop extends CoreFrame s c t where
  core : t.dev.core c = { s.dev.core c with groups := (t.dev.core c).groups }
  groups : ∀ g, g ≠ gs → t.dev.group c g = s.dev.group c g

/-- The fetch of a word at `va` answers (R81, R197, R217): the range permits it, and the core's instruction cache holds the line,
free of a storage error and its word not poisoned. -/
def Fetched (s : State) (c gs va : Nat) : Prop :=
  ∃ e ga l, s.dev.coreXlate c gs va 4 = .ok e ga ∧ (takeLatent 5 c (gaLine ga) s.dev).1 = none ∧
    (s.dev.core c).icFind (gaLine ga) ((s.dev.core c).blockOf gs).ctx = some l ∧ l.poison.getLsbD (ga % 128 / 8) = false

/-- The conditions under which group `gs` of core `c` reads an instruction (R50, R81): the group may present it, none of its
earlier memory instructions has faulted, and its fetch answers. -/
structure Ready (s : State) (c gs : Nat) : Prop where
  calm : Calm s.dev
  ready : s.dev.mayPresent c gs = true
  clean : s.dev.stuckOp c gs = none
  fetched : Fetched s c gs (s.dev.group c gs).pc.toNat
  sound : (takeLatent 4 c gs s.dev).1 = none

/-- The conditions under which it issues an instruction of a given shape: besides, the fetch of a wide one's second word answers
(R83), the word passes the checks of R87, and no register that it names awaits an earlier write (R50). -/
structure Presents (s : State) (c gs : Nat) (f : InsF) (sh : Shape) : Prop extends Ready s c gs where
  second : f.wide = true → sh.wideOk = true → Fetched s c gs ((s.dev.group c gs).pc.toNat + 8)
  word : sh.ok f = true
  waits : (sh.regs ++ guardRegs f).any (fun x => (s.dev.group c gs).await.contains x) = false

/-- What writing a destination of `n` registers leaves (R77, R78, R86): a u destination holds the value of lane 0, a v
destination the value of each lane that acts, a predicate the low bit of each lane that acts; a destination that is zero
takes nothing; every other register of every lane is unchanged. -/
structure Wrote (g g' : Group) (f : InsF) (n : Nat) (val : Nat → Nat) : Prop where
  uniform : isU f.d = true → g'.opnd f.d n 0 = val 0 % 2 ^ (32 * n)
  perLane : isV f.d = true → ∀ l, l < 32 → (g.acting f).getLsbD l = true → g'.opnd f.d n l = val l % 2 ^ (32 * n)
  predicate : isP f.d = true → ∀ l, l < 32 → (g.acting f).getLsbD l = true → (g'.reg f.d l).toNat = val l % 2
  others : ∀ r l, l < 32 → (r ∉ regList f.d n ∨ (isU f.d = false ∧ (g.acting f).getLsbD l = false)) → g'.reg r l = g.reg r l

/-- What writing a destination tile leaves (R189): element (t, j) in the rows whose lanes act; every other register of every
lane is unchanged. -/
structure TileWrote (g g' : Group) (f : InsF) (op : Nat → Nat → Nat → Nat) : Prop where
  element : ∀ t j, t < 32 → j < 32 → (g.acting f).getLsbD t = true →
    g'.reg (f.d + j) t = BitVec.ofNat 32 (op (tileElem g f.a false t j)
      (if f.wide then f.ext.toNat % 2 ^ 32 else tileElem g f.b (f.bits 59 59 == 1) t j) (tileElem g f.c (f.bits 60 60 == 1) t j))
  others : ∀ r l, l < 32 → (r < f.d ∨ f.d + 32 ≤ r ∨ (g.acting f).getLsbD l = false) → g'.reg r l = g.reg r l

/-- A group after an instruction that writes registers only: it moves on, and nothing but its registers differs. -/
def Moved (g g' : Group) (f : InsF) : Prop := g' = { g.advance f.len with v := g'.v, u := g'.u, p := g'.p }

/-- A vector instruction completes (R183, R188): whenever its group presents it, exec answers a next state in which the
destination holds the operation's result in every lane, or in every element of the tile form, the group has moved on, and
nothing else has changed. -/
def VecCompletes (i : Fin 512 → Fin 64 → InsF → Instr) (types : List Nat) (allow uses : Nat) (tile wide cPred bOne dOne : Bool)
    (more : InsF → Bool) (op : InsF → Nat → Nat → Nat → Nat) : Prop :=
  ∀ (c : Fin 512) (gs : Fin 64) (f : InsF) (s : State), s.dev.rOf c gs ≤ 255 →
    Presents s c gs f (vecShape (s.dev.rOf c gs) f types allow uses tile wide cPred bOne dOne (more f)) →
    ∃ t, exec (i c gs f) s = .next t ∧ GroupFrame s c gs t ∧ Moved (s.dev.group c gs) (t.dev.group c gs) f ∧
      (tiled tile f = true → TileWrote (s.dev.group c gs) (t.dev.group c gs) f (op f)) ∧
      (tiled tile f = false → Wrote (s.dev.group c gs) (t.dev.group c gs) f (if dOne || !is64 f.ty then 1 else 2)
        (laneEval (s.dev.group c gs) f (if is64 f.ty then 2 else 1) (if bOne || !is64 f.ty then 1 else 2) (op f)))

/-! ### Memory instructions -/

/-- Every lane of a memory instruction translates with the permission it needs to a tracked address (R198, R260) of the same line,
which the core's L1 holds whole and clean of poison; nothing else of the core concerns the line, and the pipe has room
(R52). -/
structure OneLine (s : State) (c gs : Nat) (lanes : List Nat) (va : Nat → Nat) (need : Nat) (ga : Nat → Nat) (line : Nat) (fl : L1Line) :
    Prop where
  xlate : ∀ l ∈ lanes, ∃ e, s.dev.coreXlate c gs (va l) need = .ok e (ga l) ∧ isTracked (reType e) = true ∧ gaLine (ga l) = line
  held : ∃ i, (s.dev.core c).l1Find line = some i ∧ mget? (s.dev.core c).l1 i = some fl
  alone : (s.dev.core c).ops = []
  noMiss : ∀ m ∈ (s.dev.core c).mshrs, m.2.line ≠ line
  noEvict : ∀ b ∈ (s.dev.core c).evict, b.line ≠ line
  sound : (takeLatent 2 c line s.dev).1 = none
  clean : fl.poison = 0
  room : (s.dev.core c).used + 1 ≤ 192

/-- The atomics that run near (R101, R254): the predictor does not send them far, and the L1 holds the line in M or E. -/
structure NearLine (s : State) (c hint line : Nat) (fl : L1Line) : Prop where
  near : hint ≠ 2 ∧ (hint = 0 → mget 0 (s.dev.core c).predictor (predIdx line) < 4)
  writable : fl.st = .m ∨ fl.st = .e

/-- The device outside the cores is unchanged, but for the ledger and what is noted after every command. -/
structure OutsideSame (s : State) (c : Nat) (t : State) : Prop where
  pending : t.pending = s.pending
  perm : t.perm = s.perm
  clk : t.clk = s.clk
  dev : t.dev = { s.dev with
    cores := t.dev.cores
    ldg := t.dev.ldg
    pwr := { s.dev.pwr with idleSince := t.dev.pwr.idleSince, unmet := t.dev.pwr.unmet }
    fab := { s.dev.fab with ports := t.dev.fab.ports } }
  others : ∀ c', c' ≠ c → t.dev.core c' = s.dev.core c'

/-- An ATOM of operation `op` whose lanes name one address of a line that the L1 holds in M or E (R98 to R100, R252): the
location takes the new value in the L1, every lane receives its result, and nothing outside the core changes. -/
def AtomCompletes (i : Fin 512 → Fin 64 → InsF → Instr) (op : Nat) : Prop :=
  ∀ (c : Fin 512) (gs : Fin 64) (f : InsF) (s : State) (g : Group) (a : Nat) (fl : L1Line), g = s.dev.group c gs →
    s.dev.rOf c gs ≤ 255 → Presents s c gs f (atomShape op (s.dev.rOf c gs) false f) →
    let lanes := memLanes g f (isU f.d)
    let w := accWidth f.ty
    let r := atomEval op f.ty (lineGet fl.data (a % 128) w)
      (lanes.flatMap fun l =>
        let x := atomFill f g l LaneAcc.reset
        if op = 7 then [x.data.toNat, x.data2.toNat] else [x.data.toNat])
    lanes ≠ [] → OneLine s c gs lanes (laneVa g f.a 0 w) 8 (fun _ => a) (gaLine a) fl → NearLine s c (f.bits 61 60) (gaLine a) fl →
    ∃ t, exec (i c gs f) s = .next t ∧ CoreFrame s c t ∧ (∀ j, j ≠ gs.val → t.dev.group c j = s.dev.group c j) ∧
      Wrote g (t.dev.group c gs) f (dstCount f.ty) (fun l => r.2.getD (lanes.idxOf l) 0) ∧ Moved g (t.dev.group c gs) f ∧
      ∃ j fl', (t.dev.core c).l1Find (gaLine a) = some j ∧ mget? (t.dev.core c).l1 j = some fl' ∧
        fl'.data = lineSet fl.data (a % 128) w r.1 ∧ fl'.st = .m ∧ fl'.dirty = fl.dirty ||| sectorsOf (spanMask (a % 128) w)

/-- `w` bytes of a block's local memory at an offset are open to an access: within the block's allocation (R45), outside every
held region for a store (R65), clean of poison and of storage errors (R69, R217). -/
structure LmOpen (s : State) (c : Nat) (g : Group) (off w : Nat) (store : Bool) : Prop where
  inside : off < ((s.dev.core c).block g.block).lmSize
  free : store = true → (s.dev.core c).heldBy g.block off w = none
  clean : (s.dev.core c).lmBad ((s.dev.core c).block g.block) off w = false
  sound : ∀ i < w, (takeLatent 3 c (((s.dev.core c).block g.block).phys (off + i) / 8) s.dev).1 = none

/-- An ATOML of operation `op` whose lanes name one location of the block's local memory (R98, R100): within bounds, outside
every held region (R65), clean of poison. The location takes the new value and every lane its result. -/
def AtomlCompletes (i : Fin 512 → Fin 64 → InsF → Instr) (op : Nat) : Prop :=
  ∀ (c : Fin 512) (gs : Fin 64) (f : InsF) (s : State) (g : Group) (off : Nat), g = s.dev.group c gs →
    s.dev.rOf c gs ≤ 255 → Presents s c gs f (atomShape op (s.dev.rOf c gs) true f) →
    let b := (s.dev.core c).block g.block
    let lanes := memLanes g f (isU f.d)
    let w := accWidth f.ty
    let n := dstCount f.ty
    let r := atomEval op f.ty ((s.dev.core c).lmGet b off w)
      (lanes.flatMap fun l => if op = 7 then [g.opnd f.b n l, g.opnd f.c n l] else [g.opnd f.b n l])
    lanes ≠ [] → (∀ l ∈ lanes, lmOff g f.a 0 w l = off) → (2 ≤ f.bits 59 58 → s.dev.hasOps c gs = false) →
    LmOpen s c g off w true →
    ∃ t, exec (i c gs f) s = .next t ∧ CoreFrame s c t ∧ (∀ j, j ≠ gs.val → t.dev.group c j = s.dev.group c j) ∧
      Wrote g (t.dev.group c gs) f n (fun l => r.2.getD (lanes.idxOf l) 0) ∧ Moved g (t.dev.group c gs) f ∧
      (t.dev.core c).lm = ((s.dev.core c).lmPut b (bytesAt off w r.1) false).lm

/-! ### The matrix queue -/

/-- The core's matrix queue accepts an instruction of group `gs` (R52, R109, R114): an entry below 8 holds it with the next
serial, the token goes to u register D, the group moves on, and no other group and nothing outside the core changes. -/
def MxAccepted (s : State) (c gs : Nat) (f : InsF) (op : MxOp) (t : State) : Prop :=
  CoreFrame s c t ∧ (∀ j, j ≠ gs → t.dev.group c j = s.dev.group c j) ∧
  (t.dev.core c).mxSerial = ((s.dev.core c).mxSerial + 1) % 2 ^ 29 ∧ Moved (s.dev.group c gs) (t.dev.group c gs) f ∧
  ∃ n e, n < 8 ∧ mget? (t.dev.core c).mxq n = some e ∧ e.op = op ∧ e.tile = f.bits 50 50 ∧
    e.block = (s.dev.group c gs).block ∧ e.serial = (s.dev.core c).mxSerial ∧ e.phase = .queued ∧ e.done = false ∧
    (t.dev.group c gs).reg f.d 0 = BitVec.ofNat 32 (n + e.serial * 8)

/-- Ring 0 of no berth is enabled: a record that the device writes of itself is only counted as lost (R411). -/
def RingsOff (d : Dev) : Prop := ∀ b, (d.ring b 0).enable = false

/-- The fault queue of a berth is full and a record of it waits already: another parking's record is held Pending with no
further effect (R73, R287). -/
def HoldsPending (d : Dev) (b : Nat) : Prop := (d.berth b).fqFull = true ∧ d.hasPending b = true

/-- The fault record of a group can be reported (R70, R73, R217, R411): it is held Pending with no further effect, or the memory that takes
it is free of storage errors and no ring takes a copy. -/
def Reports (s : State) (c gs : Nat) : Prop :=
  HoldsPending s.dev ((s.dev.core c).blockOf gs).berth ∨ (s.dev.latent = [] ∧ RingsOff s.dev)

/-- An instruction parks its group before any change (R55, R69): the group is Parked with the code and detail, the completed mask
is zero, the pc is the instruction's own, and the mask, the stack and every other group are as they were. The record is Pending
exactly when the fault queue is full; one held with another before it changes nothing in memory. -/
def ParksAs (i : Instr) (s : State) (c gs code : Nat) (detail : Option Nat) : Prop :=
  ∃ t p, exec i s = .next t ∧ (t.dev.group c gs).st = .parked ∧ (t.dev.group c gs).park = some p ∧ p.code = code ∧
    (∀ x, detail = some x → p.detail = x) ∧ p.completed = 0 ∧ p.pc = (s.dev.group c gs).pc ∧
    p.pend = (s.dev.berth ((s.dev.core c).blockOf gs).berth).fqFull ∧
    (t.dev.group c gs).stack = (s.dev.group c gs).stack ∧
    ((s.dev.group c gs).replay = none → (t.dev.group c gs).active = (s.dev.group c gs).active) ∧
    (HoldsPending s.dev ((s.dev.core c).blockOf gs).berth → t.dev.mem = s.dev.mem) ∧ ∀ j, j ≠ gs → t.dev.group c j = s.dev.group c j

/-- Nothing of a slice waits for room in its eviction buffer (R242): no recall, no far line, no line of a disabled unit. -/
structure SliceQuiet (x : Slice) : Prop where
  recalls : x.recalls = []
  near : ∀ e ∈ x.dir, e.2.far = false
  units : x.off = [] ∧ x.vOff = []

/-- No slot of a core's bywash waits for anything but lines on their way: no line of one is to be translated afresh, and one whose lines
have all come has met no fault (R177, R290). -/
def BwQuiet (k : Core) : Prop :=
  ∀ e ∈ k.bw, (∀ a ∈ e.2.wLines, a.stale = false) ∧ (e.2.wLines = [] → e.2.cancelled = true ∨ e.2.bad = [])

/-! ### Packets -/

/-- A packet of opcode `op` that waits in the mesh for an agent of this device (R304), and is the next of its sender about its line
where the class keeps order (R239). -/
structure Arrives (s : State) (p : Packet) (op : PktOp) : Prop where
  calm : Calm s.dev
  code : p.op = op
  here : p.dst = s.dev.id
  waits : p ∈ s.dev.fab.net
  runs : s.dev.stopped = false
  first : ∀ q ∈ s.dev.fab.net.takeWhile (fun q => q != p), isVc2 q.op = true → q.line = p.line → q.src = p.src → q.dst = p.dst → q.tgt ≠ p.tgt

/-- One packet leaves the mesh and another enters it. -/
def Replaced (s t : State) (p a : Packet) : Prop := t.dev.fab.net = s.dev.fab.net.erase p ++ [a]

/-- Packet `a` answers request `p` in its landing buffer (R304, R307). -/
def AnswerTo (s : State) (p a : Packet) : Prop :=
  a.dst = p.src ∧ a.src = s.dev.id ∧ a.tgt = p.agent ∧ a.entry = p.entry ∧ a.gen = p.gen ∧ a.line = p.line

/-- A request that its home serves at once: no error, no recall of the line, no storage error in the directory entry (R36, R248,
R256, R398). -/
structure AtHome (s : State) (p : Packet) : Prop where
  home : s.dev.isHome p.line = true
  allowed : s.dev.homeError p = none
  free : ∀ r ∈ (s.dev.slice (s.dev.lineSlice p.line)).recalls, r.ent.line ≠ p.line
  sound : ∀ k, k = 6 ∨ k = 7 → (takeLatent k (s.dev.lineSlice p.line) p.line s.dev).1 = none

/-- The home's slice holds the whole line, clean of poison and of storage errors, and no mirror repair of it runs (R209, R217,
R476). -/
structure HomeHolds (s : State) (p : Packet) (fr : SLine) : Prop where
  frame : ∃ i, (s.dev.slice (s.dev.lineSlice p.line)).frameOf (s.dev.setOfLine p.line) p.line = some i ∧
    mget? (s.dev.slice (s.dev.lineSlice p.line)).frames i = some fr
  whole : fr.valid = 0xF#4
  clean : fr.poison = 0
  sound : (takeLatent 1 (s.dev.lineSlice p.line) p.line s.dev).1 = none
  settled : ∀ r ∈ (s.dev.slice (s.dev.lineSlice p.line)).repairs, r.line ≠ p.line
  normal : p.mtype ≠ 2

/-- A way of the line's directory set is free (R234). -/
def DirRoom (s : State) (line : Nat) : Prop :=
  ∃ w < 16, mhas (s.dev.slice (s.dev.lineSlice line)).dir (16 * (s.dev.setOfLine line % 512) + w) = false

/-- The mirror sectors of a repair are at hand, right and clean (R476): the slice's own read of them is answered by a peer, whose
packet leaves the mesh, or their slice of this device holds them. `data` is the line as the primary sees it, `left` what stays in
the mesh. -/
def MirrorComes (s : State) (n : Nat) (r : Repair) (data : Line) (left : List Packet) : Prop :=
  let lo := s.dev.mirrorLow r.req.mirror
  let p := { r.req with op := .readU, line := r.mline, lines := 1, mirror := 0, sectors := flipSectors lo r.sectors }
  (r.mline / 2 ^ 38 ≠ s.dev.id ∧ ∃ q x, (s.dev.slice n).outs.find? (fun q => q.op == .readU && q.line == r.mline) = some q ∧
    s.dev.fab.net.find? (fun p => (p.op == .readData || p.op == .errorResp) && p.dst == s.dev.id && p.tgt == 512 + n
      && p.entry == q.entry && p.gen == q.gen) = some x ∧
    x.op = .readData ∧ x.poison = [] ∧ data = flipLine lo (lineOfWords x.data) ∧ left = s.dev.fab.net.erase x) ∨
  (r.mline / 2 ^ 38 = s.dev.id ∧ ∃ fm, s.dev.homeError p = none ∧ HomeHolds s p fm ∧ data = flipLine lo fm.data ∧ left = s.dev.fab.net)

/-- What a request leaves when the home serves it from its own slice: cores, memory and the other slices are unchanged. -/
structure HomeFrame (s : State) (line : Nat) (t : State) : Prop where
  pending : t.pending = s.pending
  perm : t.perm = s.perm
  clk : t.clk = s.clk
  cores : t.dev.cores = s.dev.cores
  mem : t.dev.mem = s.dev.mem
  whf : t.dev.whf = s.dev.whf
  slices : ∀ n, n ≠ s.dev.lineSlice line → t.dev.slice n = s.dev.slice n

/-- Directory entry of a line after a command. -/
def entryAt (s : State) (line : Nat) : Option DirEntry := (s.dev.slice (s.dev.lineSlice line)).dirOf line

/-- The home's frame of a line holds this data. -/
def FrameData (s : State) (line : Nat) (data : Line) : Prop :=
  ∃ i fr, (s.dev.slice (s.dev.lineSlice line)).frameOf (s.dev.setOfLine line) line = some i ∧
    mget? (s.dev.slice (s.dev.lineSlice line)).frames i = some fr ∧ fr.data = data

/-- A packet acts on one core: what is outside it keeps its value, but for the mesh. -/
structure AtCore (s : State) (c : Nat) (t : State) : Prop where
  pending : t.pending = s.pending
  perm : t.perm = s.perm
  clk : t.clk = s.clk
  mem : t.dev.mem = s.dev.mem
  slices : t.dev.slices = s.dev.slices
  others : ∀ x, x ≠ c → t.dev.core x = s.dev.core x

/-- The core that a forward reaches holds the line in its L1 without a storage error (R217), awaits no answer for it, has no earlier
forward of it queued, and room for more (R243). -/
structure HoldsLine (s : State) (p : Packet) (i : Nat) (f : L1Line) : Prop where
  core : p.tgt < 512
  found : (s.dev.core p.tgt).l1Find p.line = some i
  line : mget? (s.dev.core p.tgt).l1 i = some f
  quiet : (s.dev.core p.tgt).asking p.line = false
  first : ∀ q ∈ (s.dev.core p.tgt).fwdq, q.line ≠ p.line
  room : (s.dev.core p.tgt).fwdq.length < 16
  sound : (takeLatent 2 p.tgt p.line s.dev).1 = none

/-- A response reaches landing buffer `m` of a core (R307), for which one memory instruction `o` waits, the only one in flight
(R52), all of whose accesses still to be performed are in the response's line; its group has gone on. -/
structure OneAwaits (s : State) (p : Packet) (m : Mshr) (n : Nat) (o : MemOp) : Prop where
  core : p.tgt < 512
  buffer : (s.dev.core p.tgt).landing p = some m
  plain : m.bw = none
  waits : m.ops = [n]
  only : (s.dev.core p.tgt).ops = [(n, o)]
  noBw : (s.dev.core p.tgt).bw = []
  busy : o.lanes ≠ []
  lanes : ∀ a ∈ o.lanes, a.line = p.line ∧ a.lane < 32
  distinct : (o.lanes.map LaneAcc.lane).Nodup
  moved : o.adv = true
  fine : o.flt = []
  slot : o.slot < 64
  inFile : isV o.dst = true → o.dst + dstCount o.ty ≤ 255

/-- No line of a core's L1 lies in a disabled unit (R219). -/
def UnitsClear (k : Core) : Prop := ∀ e ∈ k.l1, k.l1Off.contains (8 * (e.1 / 8 / 16) + e.1 % 8) = false

/-- The line of a tracked access is at rest in its core, but for the landing buffer: the L1 meets no storage error (R217), the line
is in no other buffer, and no forward of it is queued at the core or the device's slice (R243). -/
structure LineRests (s : State) (p : Packet) (o : MemOp) : Prop where
  tracked : ∀ a ∈ o.lanes, isTracked a.mtype = true
  alone : ∀ e ∈ (s.dev.core p.tgt).mshrs, e.2.line = p.line → e.1 = p.entry
  noEvict : ∀ b ∈ (s.dev.core p.tgt).evict, b.line ≠ p.line
  sound : (takeLatent 2 p.tgt p.line s.dev).1 = none
  noFwd : ∀ q ∈ (s.dev.core p.tgt).fwdq, q.line ≠ p.line
  noFar : ∀ q ∈ (s.dev.slice (s.dev.lineSlice p.line)).fwdq, q.line ≠ p.line
  fresh : ∀ a ∈ o.lanes, a.stale = false
  units : UnitsClear (s.dev.core p.tgt)

/-- The response's landing buffer is free again under its next generation (R307), and the instruction has left the pipe. -/
def Landed (s t : State) (p : Packet) : Prop :=
  mhas (t.dev.core p.tgt).mshrs p.entry = false ∧
  mget 0 (t.dev.core p.tgt).gens p.entry = (mget 0 (s.dev.core p.tgt).gens p.entry + 1) % 16 ∧ (t.dev.core p.tgt).ops = []

/-- The lanes of an instruction that writes v registers hold its values. -/
def LanesHold (t : State) (c : Nat) (o : MemOp) (val : LaneAcc → Nat) : Prop :=
  isV o.dst = true → ∀ a ∈ o.lanes, (t.dev.group c o.slot).opnd o.dst (dstCount o.ty) a.lane = val a % 2 ^ (32 * dstCount o.ty)

/-- A command of a queue that has no status yet finishes with this status and result (R369). -/
def Finishes (s t : State) (q n status result : Nat) : Prop :=
  ∀ m ∈ (s.dev.queue q).cmds, m.order = n → m.status = none →
    ∃ m' ∈ (t.dev.queue q).cmds, m'.order = n ∧ m'.q = m.q ∧ m'.status = some status ∧ m'.result = BitVec.ofNat 64 result

/-- No agent holds a line of this device, and none is being asked for it (R233, R247, R253). -/
structure Unheld (d : Dev) (line : Nat) : Prop where
  entry : (d.slice (d.lineSlice line)).dirOf line = none
  called : ∀ r ∈ (d.slice (d.lineSlice line)).recalls, r.ent.line ≠ line
  atom : ∀ a ∈ (d.slice (d.lineSlice line)).atoms, a.line ≠ line

/-! ### Hosts -/

/-- An authentic packet of host session `n`, in state `st`, arrives at its open port and is not a repeat (R333, R334, R342); no session
has spent its keys (R339), and nothing of the session waits to be acknowledged or sent. -/
structure FromHost (s : State) (n : Nat) (st : SessSt) (p : HostPkt) : Prop where
  calm : Calm s.dev
  runs : s.dev.netOpen p.port = true
  role : (s.dev.port p.port).role = .host
  number : p.session = n ∧ n < 256
  state : (s.dev.session n).st = st ∧ st ≠ .free ∧ st ≠ .moored
  place : (s.dev.session n).port = p.port ∧ (s.dev.session n).addr = p.addr ∧ (s.dev.session n).sport = p.sport
  auth : p.tagOk = true
  fresh : (s.dev.session n).rxSeen.contains p.seq = false ∧ (s.dev.session n).rxHigh < p.seq + 8192
  keys : (∀ e ∈ s.dev.whf.sessions, e.2.spent = false) ∧ (s.dev.session n).spent = false ∧ (s.dev.session n).txSeq + 8 < 2 ^ 63
  quiet : (s.dev.session n).waitq = [] ∧ (s.dev.session n).gapFrom = []

/-- It is reliable and the next in the session's order, and none is staged behind it (R342, R343). -/
structure NextFromHost (s : State) (n : Nat) (st : SessSt) (p : HostPkt) : Prop extends FromHost s n st p where
  reliable : p.reliable = true
  turn : p.rseq = (s.dev.session n).rxRseq ∧ p.rseq < 2 ^ 32
  staged : (s.dev.session n).staged = []
  acked : (s.dev.session n).unacked = []

/-- Operation `o` of an Active session arrives, no other one of the session is in progress, and it passes the wharf's checks (R344,
R345). -/
structure OpFromHost (s : State) (n o : Nat) (p : HostPkt) : Prop extends NextFromHost s n .active p where
  typ : p.typ = 0x10
  code : p.op.op = o
  alone : (s.dev.session n).ops = []
  checked : s.dev.hostCheck n p = none

/-- Every operation of a host session that the wharf holds is issued already. -/
def HostsWait (d : Dev) : Prop := ∀ e ∈ d.whf.sessions, ∀ o ∈ e.2.ops, o.issued = true

/-- Some host session subscribes to a ring (R349). -/
def Subscribed (d : Dev) (x : Nat × Nat × Nat) : Prop := ∃ e ∈ d.whf.sessions, e.2.subs.contains x = true

/-- What a change of a subscription sends to the device of the ring (R349): nothing to this device itself nor while another session
subscribes (`other`), else one management write. How it carries the change is the model's choice (assumption 127). -/
def Told (s t : State) (x : Nat × Nat × Nat) (on : Nat) (other : Prop) : Prop :=
  ((x.1 = s.dev.id ∨ other) → t.dev.fab.net = s.dev.fab.net) ∧
  (x.1 ≠ s.dev.id → ¬other → ∃ a, t.dev.fab.net = s.dev.fab.net ++ [a] ∧ a.op = .mgmtWrite ∧ a.dst = x.1 ∧ a.aop = 6 ∧ a.berth = x.2.1 ∧
    a.no = x.2.2 ∧ a.cnt = on)

/-- What an operation of a session leaves when it is answered at once: a RESP with status OK, then the acknowledgement of the packet
(R342, R344). -/
def Responded (s t : State) (n : Nat) (p : HostPkt) : Prop :=
  ∃ a b, t.dev.whf.out = s.dev.whf.out ++ [a, b] ∧ a.typ = 0x11 ∧ a.session = n ∧ a.op.status = 0 ∧ a.op.tag = p.op.tag ∧ a.op.op = p.op.op ∧
    b.typ = 0x13 ∧ b.session = n ∧ b.ack = (p.rseq + 1) % 2 ^ 32

/-! ### Commands -/

/-- The record at the head of queue `q` is one of opcode `op` that may begin now (R362 to R365, R372, R373): the device reads queues,
the queue is enabled and not halted, its berth is Live, no agent holds the record's line, no storage error waits to be met, and
the order of the queue lets it begin. `m` is the command that it becomes. -/
structure AtHead (s : State) (q op : Nat) (m : Cmd) : Prop where
  calm : Calm s.dev
  sound : s.dev.latent = []
  runs : s.dev.admits = true
  enabled : (s.dev.queue q).enable = true ∧ (s.dev.queue q).halted = false ∧ (s.dev.queue q).head ≠ (s.dev.queue q).tail
  live : (s.dev.berth (s.dev.queue q).berth).st = .live
  line : Unheld s.dev (2 ^ 38 * s.dev.id +
    ((s.dev.queue q).base + 64 * ((s.dev.queue q).head.toNat % 2 ^ (s.dev.queue q).sizeLog2)) / 128)
  record : m = { Cmd.reset with
    order := (s.dev.queue q).nextOrder, begin := gtime s.clk s.dev, poisoned := m.poisoned
    q := (List.range 8).map fun i => BitVec.ofNat 64 (s.dev.peek (keyId (s.dev.queue q).berth 0)
      ((s.dev.queue q).base + 64 * ((s.dev.queue q).head.toNat % 2 ^ (s.dev.queue q).sizeLog2) + 8 * i) 8) }
  poison : m.poisoned = (List.range 8).any fun i => s.dev.peekPoison
    ((s.dev.queue q).base + 64 * ((s.dev.queue q).head.toNat % 2 ^ (s.dev.queue q).sizeLog2) + 8 * i)
  code : m.opcode = op
  turn : s.dev.mayBegin q m = true

/-- It passes every check of R363 as well. -/
structure Begins (s : State) (q op : Nat) (m : Cmd) : Prop extends AtHead s q op m where
  checked : s.dev.cmdCheck q m = none

/-- The head of a queue has moved past one record (R362). -/
def Took (s t : State) (q : Nat) : Prop :=
  (t.dev.queue q).head = (s.dev.queue q).head + 1 ∧ (t.dev.queue q).nextOrder = (s.dev.queue q).nextOrder + 1

/-- A queue holds a command with this status and result, as yet unposted (R369). -/
def HasStatus (t : State) (q : Nat) (m : Cmd) (status result : Nat) : Prop :=
  ∃ x ∈ (t.dev.queue q).cmds, x.order = m.order ∧ x.q = m.q ∧ x.status = some status ∧ x.result = BitVec.ofNat 64 result

/-- What a command that reads no memory but its record, and writes none, leaves: memory, caches, hosts, clocks. -/
structure QueueFrame (s t : State) : Prop where
  pending : t.pending = s.pending
  perm : t.perm = s.perm
  clk : t.clk = s.clk
  mem : t.dev.mem = s.dev.mem
  cores : t.dev.cores = s.dev.cores
  slices : t.dev.slices = s.dev.slices
  whf : t.dev.whf = s.dev.whf

/-- A result write of a command (R537): one bulk write of its bytes, under its context, to the place that range `e` gives. -/
def ResultSent (s t : State) (q : Nat) (m : Cmd) (e : BitVec 256) (va : Nat) (bytes : List Byte) : Prop :=
  ∃ a, t.dev.fab.net = s.dev.fab.net ++ [a] ∧ a.op = .bulkWrite ∧ a.src = s.dev.id ∧ a.ctx = m.ctx ∧ a.berth = (s.dev.queue q).berth ∧
    a.cnt = bytes.length ∧ (reKind e = 0 → a.dst = gaDev (reMap e va) ∧ a.line = gaLine (reMap e va) ∧ a.off = reMap e va % 128 ∧
      a.data = lineWords (bytes.zipIdx.foldl (fun l x => lineSet l (reMap e va % 128 + x.2) 1 x.1.toNat) 0))

/-- A range accepts the result write of `len` bytes (R260, R537), and its target can be reached (R322). -/
structure ResultOpen (s : State) (m : Cmd) (e : BitVec 256) (va len : Nat) : Prop where
  found : s.dev.walk m.ctx va = .hit e
  covers : reCovers e va = true ∧ reCovers e (va + len - 1) = true
  usable : reWithdrawing e = false ∧ reRes e = 0 ∧ rePerm e / 2 % 2 = 1
  near : s.dev.reachable (if reKind e = 0 then gaDev (reMap e va) else rePort e) = true

/-- A line of own HBM that nothing but HBM holds, with room for a new entry of the write-combining buffer (R212, R233). -/
structure AtRest (d : Dev) (line : Nat) : Prop extends Unheld d line where
  noCopy : ∀ e ∈ d.cores, e.2.copyOf line = none
  noFrame : (d.slice (d.lineSlice line)).frameOf (d.setOfLine line) line = none
  noVictim : ∀ f ∈ (d.slice (d.lineSlice line)).victim, f.line ≠ line
  noWcb : ∀ e ∈ (d.slice (d.lineSlice line)).wcb, e.line ≠ line
  room : (d.slice (d.lineSlice line)).wcb.length < 64

/-! ### The whole machine -/

/-- The limits of what the non-volatile memory holds (R219, R421, R460, R473) and of the frame of C slots (R26): a boot count of 28 bits, one
half of the journal, both halves of the fatal log, no way disable twice, a slot below 32. -/
structure WithinLimits (s : State) : Prop where
  boots : s.perm.boots < 2 ^ 28
  journal : s.perm.journal.length ≤ journalHalf
  fatal : s.perm.fatal.length ≤ 2 * fatalHalf
  ways : s.perm.wayOff.Nodup
  slot : s.clk.slot < 32

/-- The commands that change the clocks beside their tick: a step of the setting (R27), boots, and the loss of reset, supply or
reference (R523 to R525). -/
def touchesClock : Instr → Bool
  | .derateStep | .coldStart _ | .warmReset _ | .maintenanceExit _ | .resetNAssert _ | .vaonLoss _ | .refclkLoss _ => true
  | _ => false

end Sys2Proof
end

