-- ==== Sys2Proof/Certificates/Slice0/Obligations.lean ====
section
/-! DEFINITION. The statements about the model, for the provers. Where a statement says that a command completes, its
hypotheses are the conditions on the state and the operands under which the spec gives the command its effect. -/

open Sys2Proof Sys2Proof.Machine

/-! ### Instructions of groups -/

/-- R183, R184: the integer and logic instructions write their result in every lane that acts (or in every element of the
tile form, R189), move the group on and change nothing else. -/
def Obligations.IntegerResults : Prop :=
  VecCompletes .iadd intTypes 0b000111100 2 true true false false false satOk (fun f a b _ => narrow f (intVal f.ty a + intVal f.ty b)) ∧
  VecCompletes .isub intTypes 0b000111100 2 true true false false false satOk (fun f a b _ => narrow f (intVal f.ty a - intVal f.ty b)) ∧
  VecCompletes .imul [0, 1] 0b000111100 2 true true false false false (fun _ => true)
    (fun f a b _ => narrow f (intVal f.ty a * intVal f.ty b)) ∧
  VecCompletes .imad [0, 1] 0b000111100 3 true true false false false (fun _ => true)
    (fun f a b c => narrow f (intVal f.ty a * intVal f.ty b + intVal f.ty c)) ∧
  VecCompletes .imin intTypes 0b000111000 2 true true false false false (fun _ => true)
    (fun f a b _ => if intVal f.ty b < intVal f.ty a then b else a) ∧
  VecCompletes .imax intTypes 0b000111000 2 true true false false false (fun _ => true)
    (fun f a b _ => if intVal f.ty a < intVal f.ty b then b else a) ∧
  VecCompletes .and intTypes 0b000111000 2 true true false false false (fun _ => true) (fun _ a b _ => a &&& b) ∧
  VecCompletes .or intTypes 0b000111000 2 true true false false false (fun _ => true) (fun _ a b _ => a ||| b) ∧
  VecCompletes .xor intTypes 0b000111000 2 true true false false false (fun _ => true) (fun _ a b _ => a ^^^ b) ∧
  VecCompletes .not intTypes 0b000001000 1 true false false false false (fun _ => true)
    (fun f a _ _ => 2 ^ intWidth f.ty - 1 - a % 2 ^ intWidth f.ty) ∧
  VecCompletes .shl intTypes 0b000111000 2 true true false true false (fun _ => true)
    (fun f a b _ => a * 2 ^ (b % 256) % 2 ^ intWidth f.ty) ∧
  VecCompletes .shr intTypes 0b000111000 2 true true false true false (fun _ => true)
    (fun f a b _ => ofSigned (intWidth f.ty) (intVal f.ty a / 2 ^ (b % 256))) ∧
  VecCompletes .popc [0, 2] 0 1 false false false false true (fun _ => true)
    (fun _ a _ _ => ((List.range 64).filter fun i => bitAt a i).length) ∧
  VecCompletes .clz [0, 2] 0 1 false false false false true (fun _ => true) (fun f a _ _ => intWidth f.ty - bitLen a)

/-- R183 to R185: SEL takes A or B by predicate C, SETP writes the condition and PLOP the truth table's bit to a predicate. -/
def Obligations.SelectsAndPredicates : Prop :=
  VecCompletes .sel [0, 1, 4, 5, 6] 0b000011000 3 true true true false false (fun _ => true) (fun _ a b p => if p % 2 = 1 then a else b) ∧
  VecCompletes .setp [0, 1, 2, 3, 4] 0b011110000 2 false true false false true
    (fun f => isP f.d && decide (f.bits 62 59 < (if f.ty = 4 then 8 else 6)))
    (fun f a b _ => b2n (if f.ty = 4 then fltCond (f.bits 62 59) a b else intCond f.ty (f.bits 62 59) a b)) ∧
  VecCompletes .plop [0] 0b011111111 3 false false false false false (fun f => isP f.d)
    (fun f a b c => bitsAt (f.bits 62 55) (4 * (a % 2) + 2 * (b % 2) + c % 2) 1)

/-- R183, R184: MOV writes its immediate, SHFL the value of its source lane, VOTE the vote of the active lanes; NOP (R88)
only moves the group on. -/
def Obligations.MovesAndLaneExchange : Prop :=
  ∀ (c : Fin 512) (gs : Fin 64) (f : InsF) (s : State), s.dev.rOf c gs ≤ 255 →
    (Presents s c gs f (movShape (s.dev.rOf c gs) f) →
      ∃ t, exec (.mov c gs f) s = .next t ∧ GroupFrame s c gs t ∧ Moved (s.dev.group c gs) (t.dev.group c gs) f ∧
        Wrote (s.dev.group c gs) (t.dev.group c gs) f (if is64 f.ty then 2 else 1)
          (fun _ => if f.wide then f.ext.toNat else ofSigned 64 (toSigned 18 f.imm18))) ∧
    (Presents s c gs f (vecShape (s.dev.rOf c gs) f [0] 0b000110000 2 false false false false false true) →
      ∃ t, exec (.shfl c gs f) s = .next t ∧ GroupFrame s c gs t ∧ Moved (s.dev.group c gs) (t.dev.group c gs) f ∧
        Wrote (s.dev.group c gs) (t.dev.group c gs) f 1
          (fun l => ((s.dev.group c gs).reg f.a (shflLane (f.bits 60 59) ((s.dev.group c gs).reg f.b l).toNat l)).toNat)) ∧
    (Presents s c gs f (voteShape f) →
      ∃ t, exec (.vote c gs f) s = .next t ∧ GroupFrame s c gs t ∧ Moved (s.dev.group c gs) (t.dev.group c gs) f ∧
        (t.dev.group c gs).reg f.d 0 =
          voteOf (f.bits 60 59) (s.dev.group c gs).active (mget 0 (s.dev.group c gs).p (f.a - 0x140)) ∧
        ∀ r l, l < 32 → r ≠ f.d → (t.dev.group c gs).reg r l = (s.dev.group c gs).reg r l) ∧
    (Presents s c gs f (nopShape f) →
      ∃ t, exec (.nop c gs f) s = .next t ∧ GroupFrame s c gs t ∧ t.dev.group c gs = (s.dev.group c gs).advance f.len)

/-- R80: RDSV writes the special value that its index names, 64 bits for the three clocks and 32 for the others; a unit
that the block does not hold reads as all ones. -/
def Obligations.SpecialValues : Prop :=
  ∀ (c : Fin 512) (gs : Fin 64) (f : InsF) (s : State), s.dev.rOf c gs ≤ 255 →
    Presents s c gs f (rdsvShape (s.dev.rOf c gs) f) →
      ∃ t, exec (.rdsv c gs f) s = .next t ∧ GroupFrame s c gs t ∧ Moved (s.dev.group c gs) (t.dev.group c gs) f ∧
        ∃ val : Nat → Nat, Wrote (s.dev.group c gs) (t.dev.group c gs) f (rdsvCount f) val ∧
          ∀ l,
            (f.imm18 % 256 = 0x00 → val l = l) ∧ (f.imm18 % 256 = 0x01 → val l = c) ∧ (f.imm18 % 256 = 0x02 → val l = gs) ∧
            (f.imm18 % 256 = 0x03 → val l = (s.dev.group c gs).block) ∧ (f.imm18 % 256 = 0x04 → val l = s.dev.id) ∧
            (f.imm18 % 256 = 0x05 → val l = ((s.dev.core c).blockOf gs).ctx) ∧
            (f.imm18 % 256 = 0x06 → val l = ((s.dev.core c).blockOf gs).berth) ∧
            (f.imm18 % 256 = 0x07 → val l = (s.dev.group c gs).active.toNat) ∧
            (f.imm18 % 256 = 0x08 → val l = ((s.dev.core c).blockOf gs).barGen) ∧
            (f.imm18 % 256 = 0x09 → val l = s.clk.setting) ∧ (f.imm18 % 256 = 0x0A → val l = s.clk.tsc % 2 ^ 64) ∧
            (f.imm18 % 256 = 0x0B → val l = gtime s.clk s.dev) ∧
            (f.imm18 % 256 = 0x0C → val l = (s.clk.ccyc - (s.dev.core c).ccBase) % 2 ^ 64) ∧
            (f.imm18 % 256 = 0x0D → ((s.dev.core c).blockOf gs).units[((s.dev.group c gs).reg f.a l).toNat]? = none → val l = 0xFFFFFFFF) ∧
            (f.imm18 % 256 = 0x0D → ∀ u, ((s.dev.core c).blockOf gs).units[((s.dev.group c gs).reg f.a l).toNat]? = some u → val l = u)

/-- R185, R99, R186: the floating-point instructions round the exact result once; FMIN and FMAX choose an operand; the four
transcendentals write the result that R186 bounds. Which F32 value a transcendental gives within R186's bound is a free value of
the model (assumption 10). -/
def Obligations.FloatResults : Prop :=
  VecCompletes .fadd [4, 5, 6] 0b000111011 2 true true false false false (fun f => decide (f.bits 56 55 ≤ 1))
    (fun f => onParts f.ty fun m a b _ => farith m (fRound f) (fadd (fdecode m a) (fdecode m b))) ∧
  VecCompletes .fsub [4, 5, 6] 0b000111011 2 true true false false false (fun f => decide (f.bits 56 55 ≤ 1))
    (fun f => onParts f.ty fun m a b _ => farith m (fRound f) (fadd (fdecode m a) (fneg (fdecode m b)))) ∧
  VecCompletes .fmul [4, 5, 6] 0b000111011 2 true true false false false (fun f => decide (f.bits 56 55 ≤ 1))
    (fun f => onParts f.ty fun m a b _ => farith m (fRound f) (fmul (fdecode m a) (fdecode m b))) ∧
  VecCompletes .ffma [4, 5, 6] 0b000111011 3 true true false false false (fun f => decide (f.bits 56 55 ≤ 1))
    (fun f => onParts f.ty fun m a b c => farith m (fRound f) (fadd (fmul (fdecode m a) (fdecode m b)) (fdecode m c))) ∧
  VecCompletes .fmin [4, 5, 6] 0b000111000 2 true true false false false (fun _ => true)
    (fun f => onParts f.ty fun m a b _ => farith m .rne (fminmax false (fdecode m a) (fdecode m b))) ∧
  VecCompletes .fmax [4, 5, 6] 0b000111000 2 true true false false false (fun _ => true)
    (fun f => onParts f.ty fun m a b _ => farith m .rne (fminmax true (fdecode m a) (fdecode m b))) ∧
  VecCompletes .exp2 [4, 5] 0b000001000 1 true false false false false (fun _ => true) (fun f => onParts f.ty fun m a _ _ => transOp m 0 a) ∧
  VecCompletes .log2 [4, 5] 0b000001000 1 true false false false false (fun _ => true) (fun f => onParts f.ty fun m a _ _ => transOp m 1 a) ∧
  VecCompletes .rsqrt [4, 5] 0b000001000 1 true false false false false (fun _ => true) (fun f => onParts f.ty fun m a _ _ => transOp m 2 a) ∧
  VecCompletes .rcp [4, 5] 0b000001000 1 true false false false false (fun _ => true) (fun f => onParts f.ty fun m a _ _ => transOp m 3 a)

/-- R106, R107, R162: CVT writes the rounded element in place, CVT.AMAX the rounded product and, in C, the maximum; each takes
one draw of the core's generator for every lane that it rounds stochastically. -/
def Obligations.Conversions : Prop :=
  ∀ (c : Fin 512) (gs : Fin 64) (f : InsF) (s : State), s.dev.rOf c gs ≤ 255 →
    (Presents s c gs f (cvtShape (s.dev.rOf c gs) f) →
      ∃ t, exec (.cvt c gs f) s = .next t ∧ CoreFrame s c t ∧
        t.dev.core c = { s.dev.core c with
          groups := (t.dev.core c).groups
          draws := (s.dev.core c).draws + drawCount f (s.dev.group c gs) } ∧
        (∀ g, g ≠ gs → t.dev.group c g = s.dev.group c g) ∧ Moved (s.dev.group c gs) (t.dev.group c gs) f ∧
        Wrote (s.dev.group c gs) (t.dev.group c gs) f (cvtDst f).nreg (cvtVal (s.dev.group c gs) f c (s.dev.core c).draws)) ∧
    (Presents s c gs f (cvtAmaxShape (s.dev.rOf c gs) f) →
      ∃ t, exec (.cvtAmax c gs f) s = .next t ∧ CoreFrame s c t ∧
        t.dev.core c = { s.dev.core c with
          groups := (t.dev.core c).groups
          draws := (s.dev.core c).draws + drawCount f (s.dev.group c gs) } ∧
        (∀ g, g ≠ gs → t.dev.group c g = s.dev.group c g) ∧ Moved (s.dev.group c gs) (t.dev.group c gs) f ∧
        (t.dev.group c gs).reg f.c 0 = cvtAmaxMax (s.dev.group c gs) f ∧
        (isV f.d = true → ∀ l, l < 32 → ((s.dev.group c gs).acting f).getLsbD l = true →
          (t.dev.group c gs).opnd f.d (cvtDst f).nreg l =
            cvtAmaxVal (s.dev.group c gs) f c (s.dev.core c).draws l % 2 ^ (32 * (cvtDst f).nreg)))

/-- R54, R55, R56, R82, R88, R89: branches, the mask stack and calls. Each completes whenever its group presents it: the group's place,
mask and stack become what the rule says, CALL also writes u62 and u63, and nothing else changes; where a mask that POPM or SWAPM
takes is zero the stack unwinds, and the group exits when it runs out. PUSHM and a branch that would push at depth 16 park the
group with MASK_OVERFLOW before any change, and POPM on an empty stack parks it with ILLEGAL_INSTRUCTION, detail 1. -/
def Obligations.BranchesAndMaskStack : Prop :=
  ∀ (c : Fin 512) (gs : Fin 64) (f : InsF) (s : State) (g : Group), g = s.dev.group c gs →
    let pred : List Nat := [0x140 + f.bits 16 14]
    let taken := g.active &&& braPred g f
    let jump := g.goTo (braTarget g.pc f)
    let next := g.goTo g.nextPc
    let rest : MaskEntry := { kind := .deferred, mask := g.active &&& ~~~taken, addr := g.nextPc.setWidth 56 }
    let self : MaskEntry := { kind := .deferred, mask := g.active, addr := g.nextPc.setWidth 56 }
    let gives := fun (i : Instr) (g' : Group) => ∃ t, exec i s = .next t ∧ GroupFrame s c gs t ∧ t.dev.group c gs = g'
    let ends := fun (i : Instr) => ∃ t, exec i s = .next t ∧ ((t.dev.group c gs).st = .exited ∨ (t.dev.group c gs).st = .free)
    (Presents s c gs f (braShape f false []) →
      gives (.bra c gs f) (jump g.active) ∧
      (g.stack.length < 16 → gives (.pushm c gs f)
        { next g.active with stack := { kind := .reconverge, mask := g.active, addr := (braTarget g.pc f).setWidth 56 } :: g.stack }) ∧
      (16 ≤ g.stack.length → Reports s c gs → ParksAs (.pushm c gs f) s c gs 4 none)) ∧
    (Presents s c gs f (braShape f true pred) →
      (taken = g.active → gives (.brx c gs f) (jump g.active)) ∧
      (taken ≠ g.active → taken = 0 → gives (.brx c gs f) (next g.active)) ∧
      (taken ≠ g.active → taken ≠ 0 → g.stack.length < 16 → gives (.brx c gs f) { jump taken with stack := rest :: g.stack }) ∧
      (taken ≠ g.active → taken ≠ 0 → 16 ≤ g.stack.length → Reports s c gs → ParksAs (.brx c gs f) s c gs 4 none)) ∧
    (Presents s c gs f (braShape f true pred) →
      (taken ≠ 0 → taken = g.active → gives (.brxAny c gs f) (jump g.active)) ∧
      (∀ e st, g.stack = e :: st → e.kind = .deferred → e.addr.setWidth 64 = g.nextPc →
        (taken = 0 → gives (.brxAny c gs f) { next (g.active ||| e.mask) with stack := st }) ∧
        (taken ≠ 0 → taken ≠ g.active →
          gives (.brxAny c gs f) { jump taken with stack := { e with mask := e.mask ||| (g.active &&& ~~~taken) } :: st })) ∧
      ((∀ e ∈ g.stack.head?, e.kind = .deferred → e.addr.setWidth 64 ≠ g.nextPc) →
        (taken = 0 → gives (.brxAny c gs f) (next g.active)) ∧
        (taken ≠ 0 → taken ≠ g.active → g.stack.length < 16 → gives (.brxAny c gs f) { jump taken with stack := rest :: g.stack }) ∧
        (taken ≠ 0 → taken ≠ g.active → 16 ≤ g.stack.length → Reports s c gs → ParksAs (.brxAny c gs f) s c gs 4 none))) ∧
    (Presents s c gs f (ctlShape f false) →
      (g.stack = [] → gives (.swapm c gs f) (next g.active) ∧ (Reports s c gs → ParksAs (.popm c gs f) s c gs 7 (some 1))) ∧
      ∀ e st, g.stack = e :: st →
        (e.mask ≠ 0 → gives (.popm c gs f) { g.goTo (if e.kind = .deferred then e.addr.setWidth 64 else g.nextPc) e.mask with stack := st }) ∧
        (∀ a pc st', e.mask = 0 → unwind st = some (a, pc, st') → gives (.popm c gs f) { g.goTo pc a with stack := st' }) ∧
        (e.mask = 0 → unwind st = none → ends (.popm c gs f)) ∧
        (e.kind = .reconverge → gives (.swapm c gs f) (next g.active)) ∧
        (e.kind = .deferred → e.mask ≠ 0 →
          gives (.swapm c gs f) { g.goTo (e.addr.setWidth 64) e.mask with stack := self :: st, spins := [] }) ∧
        (∀ a pc st', e.kind = .deferred → e.mask = 0 → unwind (self :: st) = some (a, pc, st') →
          gives (.swapm c gs f) { g.goTo pc a with stack := st', spins := [] }) ∧
        (e.kind = .deferred → e.mask = 0 → unwind (self :: st) = none → ends (.swapm c gs f))) ∧
    (Presents s c gs f (braShape f false [0x13E, 0x13F]) →
      ∃ t, exec (.call c gs f) s = .next t ∧ GroupFrame s c gs t ∧
        (t.dev.group c gs).opnd 0x13E 2 0 = g.nextPc.toNat ∧
        (∀ r l, l < 32 → r ≠ 0x13E → r ≠ 0x13F → (t.dev.group c gs).reg r l = g.reg r l) ∧
        t.dev.group c gs = { jump g.active with u := (t.dev.group c gs).u }) ∧
    (Presents s c gs f (ctlShape f true) →
      gives (.ret c gs f) (g.goTo (BitVec.ofNat 64 (g.opnd f.a 2 0)) g.active) ∧
      gives (.bri c gs f) (g.goTo (BitVec.ofNat 64 (g.opnd f.a 2 0)) g.active))

/-- R56, R58, R59: EXIT ends the active lanes and the group goes on with the lanes that its stack still holds, or exits; BAR makes the
group wait until every group of its block has arrived, and releases them all when the last one arrives. -/
def Obligations.ExitAndBarrier : Prop :=
  ∀ (c : Fin 512) (gs : Fin 64) (f : InsF) (s : State) (g : Group), g = s.dev.group c gs →
    Presents s c gs f (ctlShape f false) →
    (∀ a pc rest, unwind (g.stack.map fun e => { e with mask := e.mask &&& ~~~g.active }) = some (a, pc, rest) →
      ∃ t, exec (.exit c gs f) s = .next t ∧ GroupFrame s c gs t ∧
        t.dev.group c gs = { g.goTo pc a with live := g.live &&& ~~~g.active, stack := rest }) ∧
    (unwind (g.stack.map fun e => { e with mask := e.mask &&& ~~~g.active }) = none →
      ∃ t, exec (.exit c gs f) s = .next t ∧ ((t.dev.group c gs).st = .exited ∨ (t.dev.group c gs).st = .free)) ∧
    (g.active = g.live → (∃ i ∈ (s.dev.core c).slotsOf g.block, i ≠ gs.val ∧ (s.dev.group c i).arrived = false) →
      ∃ t, exec (.bar c gs f) s = .next t ∧ t.dev.group c gs = { g.goTo g.nextPc g.active with st := .barrier } ∧
        (∀ i, i ≠ gs.val → t.dev.group c i = s.dev.group c i) ∧ (∀ x, x ≠ c.val → t.dev.core x = s.dev.core x) ∧
        t.dev.mem = s.dev.mem ∧ t.dev.slices = s.dev.slices ∧ t.dev.ctl = s.dev.ctl) ∧
    (g.active = g.live → (∀ i ∈ (s.dev.core c).slotsOf g.block, i ≠ gs.val → (s.dev.group c i).arrived = true) →
      ∃ t, exec (.bar c gs f) s = .next t ∧ t.dev.group c gs = { g.goTo g.nextPc g.active with st := .running } ∧
        ((t.dev.core c).block g.block).barGen = (((s.dev.core c).block g.block).barGen + 1) % 65536 ∧
        (∀ x, x ≠ c.val → t.dev.core x = s.dev.core x) ∧
        t.dev.mem = s.dev.mem ∧ t.dev.slices = s.dev.slices ∧ t.dev.ctl = s.dev.ctl)

/-- R69, R87: an instruction whose word breaks a check of R87 parks its group with ILLEGAL_INSTRUCTION, with completed mask
zero and fault address 0; here the fault queue is full and a record of the berth waits already, so that the record is held
Pending (R73) and nothing is written to memory. -/
def Obligations.IllegalWordParks : Prop :=
  ∀ (c : Fin 512) (gs : Fin 64) (f : InsF) (s : State), Ready s c gs →
    let b := ((s.dev.core c).blockOf gs).berth
    HoldsPending s.dev b → (nopShape f).ok f = false →
    ∃ t p, exec (.nop c gs f) s = .next t ∧ (t.dev.group c gs).st = .parked ∧ (t.dev.group c gs).park = some p ∧
      p.code = 7 ∧ p.completed = 0 ∧ p.addr = 0 ∧ p.detail = 0 ∧ p.pend = true ∧ p.pc = (s.dev.group c gs).pc ∧
      t.dev.mem = s.dev.mem ∧ (∀ i, i ≠ gs.val → t.dev.group c i = s.dev.group c i)

/-- R90 to R92: LD binds the bytes of a line that the L1 holds to its destination, and ST writes its data into a line that the L1
holds in M or E: the highest lane's bytes stay where lanes overlap. Nothing outside the core changes. -/
def Obligations.LoadAndStoreHit : Prop :=
  ∀ (c : Fin 512) (gs : Fin 64) (f : InsF) (s : State) (g : Group) (ga : Nat → Nat) (line : Nat) (fl : L1Line),
    g = s.dev.group c gs → s.dev.rOf c gs ≤ 255 →
    (Presents s c gs f (ldShape (s.dev.rOf c gs) f) →
      OneLine s c gs (memLanes g f (isU f.d)) (laneVa g f.a (memImm f) (accWidth f.ty)) 1 ga line fl →
      ∃ t, exec (.ld c gs f) s = .next t ∧ CoreFrame s c t ∧ (∀ j, j ≠ gs.val → t.dev.group c j = s.dev.group c j) ∧
        Wrote g (t.dev.group c gs) f (dstCount f.ty) (fun l => loadValue f.ty (lineGet fl.data (ga l % 128) (accWidth f.ty))) ∧
        Moved g (t.dev.group c gs) f ∧ (t.dev.core c).l1 = (s.dev.core c).l1) ∧
    (Presents s c gs f (stShape (s.dev.rOf c gs) f) → memLanes g f false ≠ [] → (fl.st = .m ∨ fl.st = .e) →
      OneLine s c gs (memLanes g f false) (laneVa g f.a (memImm f) (accWidth f.ty)) 2 ga line fl →
      let mine := (memLanes g f false).map fun l =>
        ({ LaneAcc.reset with ga := ga l, data := BitVec.ofNat 128 (g.opnd f.d (dstCount f.ty) l) } : LaneAcc)
      let stored := storeBytes { MemOp.reset with kind := .store, ty := f.ty } mine
      ∃ t, exec (.st c gs f) s = .next t ∧ CoreFrame s c t ∧ (∀ j, j ≠ gs.val → t.dev.group c j = s.dev.group c j) ∧
        t.dev.group c gs = g.advance f.len ∧
        ∃ i fl', (t.dev.core c).l1Find line = some i ∧ mget? (t.dev.core c).l1 i = some fl' ∧ fl'.st = .m ∧
          fl'.dirty = fl.dirty ||| sectorsOf stored.1 ∧ fl'.data = lineMerge stored.1 stored.2 fl.data ∧
          ∀ j, j ≠ i → mget? (t.dev.core c).l1 j = mget? (s.dev.core c).l1 j)

/-- R98 to R100, R252: the eight ATOM operations on one address of a line that the core's L1 holds in M or E. -/
def Obligations.AtomicsNear : Prop :=
  AtomCompletes .atomAdd 0 ∧ AtomCompletes .atomMin 1 ∧ AtomCompletes .atomMax 2 ∧ AtomCompletes .atomAnd 3 ∧
  AtomCompletes .atomOr 4 ∧ AtomCompletes .atomXor 5 ∧ AtomCompletes .atomExch 6 ∧ AtomCompletes .atomCas 7

/-- R98, R100: the eight ATOML operations on one location of the block's local memory. -/
def Obligations.AtomicsLocal : Prop :=
  AtomlCompletes .atomlAdd 0 ∧ AtomlCompletes .atomlMin 1 ∧ AtomlCompletes .atomlMax 2 ∧ AtomlCompletes .atomlAnd 3 ∧
  AtomlCompletes .atomlOr 4 ∧ AtomlCompletes .atomlXor 5 ∧ AtomlCompletes .atomlExch 6 ∧ AtomlCompletes .atomlCas 7

/-- R65, R90, R96: LDL reads and STL writes the block's local memory at each lane's offset. -/
def Obligations.LocalMemoryAccess : Prop :=
  ∀ (c : Fin 512) (gs : Fin 64) (f : InsF) (s : State) (g : Group), g = s.dev.group c gs → s.dev.rOf c gs ≤ 255 →
    let b := (s.dev.core c).block g.block
    let w := accWidth f.ty
    (Presents s c gs f (lmShape (s.dev.rOf c gs) f true) →
      (∀ l ∈ memLanes g f (isU f.d), LmOpen s c g (lmOff g f.a (memImm f) w l) w false) →
      ∃ t, exec (.ldl c gs f) s = .next t ∧ GroupFrame s c gs t ∧ Moved g (t.dev.group c gs) f ∧
        Wrote g (t.dev.group c gs) f (dstCount f.ty)
          (fun l => loadValue f.ty ((s.dev.core c).lmGet b (lmOff g f.a (memImm f) w l) w))) ∧
    (Presents s c gs f (lmShape (s.dev.rOf c gs) f false) → (f.bits 59 58 = 2 → s.dev.hasOps c gs = false) →
      (∀ l ∈ memLanes g f false, LmOpen s c g (lmOff g f.a (memImm f) w l) w true) →
      ∃ t, exec (.stl c gs f) s = .next t ∧ CoreFrame s c t ∧ (∀ j, j ≠ gs.val → t.dev.group c j = s.dev.group c j) ∧
        t.dev.group c gs = g.advance f.len ∧
        (t.dev.core c).lm = ((s.dev.core c).lmPut b
          ((memLanes g f false).flatMap fun l => bytesAt (lmOff g f.a (memImm f) w l) w (g.opnd f.d (dstCount f.ty) l)) false).lm)

/-- R93, R95, R199: MFENCE lets the group go on once no access of it is outstanding; CFLUSH of a remote streaming line that
the device's slice holds dirty sends its dirty bytes home as one masked write; CINV drops the slice's copy of such a line. -/
def Obligations.FencesAndCacheOperations : Prop :=
  ∀ (c : Fin 512) (gs : Fin 64) (f : InsF) (s : State) (g : Group), g = s.dev.group c gs →
    (Presents s c gs f (mfenceShape f) → s.dev.hasOps c gs = false →
      ∃ t, exec (.mfence c gs f) s = .next t ∧ GroupFrame s c gs t ∧ t.dev.group c gs = g.advance 8) ∧
    (∀ l e ga i fr, Presents s c gs f (cacheShape (s.dev.rOf c gs) f) → memLanes g f false = [l] →
      s.dev.coreXlate c gs (laneVa g f.a (memImm f) 1 l) 0 = .ok e ga → reType e = 1 → s.dev.isHome (gaLine ga) = false →
      (s.dev.core c).ops = [] → (s.dev.core c).used + 1 ≤ 192 → (∀ m ∈ (s.dev.core c).mshrs, m.2.line ≠ gaLine ga) →
      (∀ b ∈ (s.dev.core c).evict, b.line ≠ gaLine ga) →
      let sl := s.dev.lineSlice (gaLine ga)
      (s.dev.slice sl).frameOf (s.dev.setOfLine (gaLine ga)) (gaLine ga) = some i → mget? (s.dev.slice sl).frames i = some fr →
      (fr.bytes ≠ 0 →
        ∃ t p, exec (.cflush c gs f) s = .next t ∧ (t.dev.group c gs).pc = (g.advance f.len).pc ∧
          t.dev.fab.net = s.dev.fab.net ++ [p] ∧ p.op = .writeU ∧ p.line = gaLine ga ∧ p.mask = fr.bytes ∧
          p.data = lineWords fr.data ∧ p.dst = gaLine ga / 2 ^ 38 ∧ mget? (t.dev.slice sl).frames i = some { fr with bytes := 0 }) ∧
      ∃ t, exec (.cinv c gs f) s = .next t ∧ t.dev.group c gs = g.advance f.len ∧
        t.dev.slice sl = (s.dev.slice sl).dropLine (gaLine ga) ∧ t.dev.fab.net = s.dev.fab.net ∧ t.dev.mem = s.dev.mem)

/-- R102, R103: an ACQ and a REL of one lane on a lock word that the L1 holds in M or E: the word and the status become what
the rule says. -/
def Obligations.LockWords : Prop :=
  ∀ (c : Fin 512) (gs : Fin 64) (f : InsF) (s : State) (g : Group) (l a : Nat) (fl : L1Line),
    g = s.dev.group c gs → s.dev.rOf c gs ≤ 255 → Presents s c gs f (lockShape (s.dev.rOf c gs) f) → l < 32 →
    memLanes g f (isU f.d) = [l] → OneLine s c gs [l] (laneVa g f.a 0 8) 8 (fun _ => a) (gaLine a) fl →
    NearLine s c (f.bits 61 60) (gaLine a) fl →
    let me := lockId l gs c s.dev.id (mget 0 (s.dev.core c).fills gs % 256)
    let x := lineGet fl.data (a % 128) 8
    (mget 0 g.spins l / 32 < 64 →
      ∃ t i fl', exec (.acq c gs f) s = .next t ∧ OutsideSame s c t ∧
        Wrote g (t.dev.group c gs) f 1 (fun _ => (lockAcq x me).2) ∧ (t.dev.group c gs).pc = (g.advance f.len).pc ∧
        (t.dev.core c).l1Find (gaLine a) = some i ∧ mget? (t.dev.core c).l1 i = some fl' ∧
        fl'.data = lineSet fl.data (a % 128) 8 (lockAcq x me).1) ∧
    ∃ t i fl', exec (.rel c gs f) s = .next t ∧ OutsideSame s c t ∧
      Wrote g (t.dev.group c gs) f 1 (fun _ => (lockRel x me).2) ∧ (t.dev.group c gs).pc = (g.advance f.len).pc ∧
      (t.dev.group c gs).spins = [] ∧
      (t.dev.core c).l1Find (gaLine a) = some i ∧ mget? (t.dev.core c).l1 i = some fl' ∧
      fl'.data = lineSet fl.data (a % 128) 8 (lockRel x me).1

/-- R108, R109, R114, R123, R131: a matrix instruction whose tile and queue are free to its block and whose descriptors pass every
check is accepted and its token returned; MXWAIT returns the status word of a token that has completed. -/
def Obligations.MatrixInstructionsAccepted : Prop :=
  ∀ (c : Fin 512) (gs : Fin 64) (f : InsF) (s : State) (g : Group) (k : Core) (b : Block),
    g = s.dev.group c gs → k = s.dev.core c → b = k.block g.block →
    let tile := f.bits 50 50
    let offA := mxOff g f f.a 0
    let offB := mxOff g f f.b 21
    let fuse := if f.b = 0xFF then none else some offB
    let steps := (g.reg f.c 0).toNat
    (k.mxAccepts tile g.block = true →
      (Presents s c gs f (mxShape f 0b111 false false false) →
        ∃ t, exec (.mxzero c gs f) s = .next t ∧ MxAccepted s c gs f .zero t) ∧
      (Presents s c gs f (mxShape f 0b1 true true true) → checkOperands false (issueKindOf k tile g.block) offA offB steps k b = none →
        ∃ t, exec (.mxstream c gs f) s = .next t ∧ MxAccepted s c gs f .stream t) ∧
      (Presents s c gs f (mxShape f 0b1 true true true) → checkOperands true (issueKindOf k tile g.block) offA offB steps k b = none →
        ∃ t, exec (.mxdiag c gs f) s = .next t ∧ MxAccepted s c gs f .diag t) ∧
      (Presents s c gs f (mxShape f 0b111 true (f.b != 0xFF) false) → checkDrain offA fuse k b = none →
        ∃ t, exec (.mxdrain c gs f) s = .next t ∧ MxAccepted s c gs f .drain t)) ∧
    (∀ w, Presents s c gs f (mxwaitShape f) → mxStatus k g.block (g.reg f.a 0).toNat = some w →
      ∃ t, exec (.mxwait c gs f) s = .next t ∧ GroupFrame s c gs t ∧ (t.dev.group c gs).reg f.d 0 = BitVec.ofNat 32 w ∧
        (t.dev.group c gs).pc = (g.advance 8).pc ∧ ∀ r l, l < 32 → r ≠ f.d → (t.dev.group c gs).reg r l = g.reg r l)

/-- R133, R134, R136, R153: a matrix instruction's phases. The first one begins once the instruction is ready, and a pass once the
multipliers will be free for its update; of the passes in order, one in which no cell overflowed ends the instruction, and one that overflowed runs again a level higher; the token completes after the final
phase. That a pass and a drain each act in one step is the model's choice (assumption 41). -/
def Obligations.MatrixPhases : Prop :=
  ∀ (c : Fin 512) (n : Fin 8) (s : State) (k : Core) (x : MxEntry), k = s.dev.core c → mget? k.mxq n = some x → Calm s.dev →
    x.done = false → s.dev.stopped = false → (∀ l ∈ s.dev.latent, l.kind ≠ 3) →
    let t0 := if x.claims then (k.tile x.tile).zeroed .unset else k.tile x.tile
    let pass := runPass k (k.block x.block) x (k.tile x.tile)
    (x.phase = .queued → k.mxReady x = true → (x.op = .drain → k.drainFree = true) →
      ∃ t y, exec (.matrixPhaseStart c n) s = .next t ∧ CoreFrame s c t ∧ mget? (t.dev.core c).mxq n = some y ∧
        (x.op = .zero → y.phase = .zero ∧ y.since = s.clk.acyc ∧ (t.dev.core c).tile x.tile = t0.zeroed x.kindArg) ∧
        (x.op = .drain → y.phase = .drain ∧ y.since = s.clk.acyc) ∧
        (x.op = .stream ∨ x.op = .diag →
          let start := s.clk.acyc + (if x.claims then 2 else 0)
          (k.mulEnd ≤ start + x.lead → y.phase = .pass ∧ y.since = s.clk.acyc ∧ y.leadAt = start ∧
            (t.dev.core c).tile x.tile = { t0 with kind := kindAfter x.da.fmt t0.kind }) ∧
          (start + x.lead < k.mulEnd → x.claims = true → y.phase = .zero ∧ y.since = s.clk.acyc ∧ (t.dev.core c).tile x.tile = t0) ∧
          (start + x.lead < k.mulEnd → x.claims = false → y = x ∧ (t.dev.core c).tile x.tile = k.tile x.tile))) ∧
    (x.phase = .zero → x.op = .stream ∨ x.op = .diag → k.mulEnd ≤ max s.clk.acyc x.ownAt + x.lead →
      ∃ t y, exec (.matrixPhaseStart c n) s = .next t ∧ CoreFrame s c t ∧ mget? (t.dev.core c).mxq n = some y ∧ y.phase = .pass ∧
        y.leadAt = max s.clk.acyc x.ownAt ∧
        (t.dev.core c).tile x.tile = { k.tile x.tile with kind := kindAfter x.da.fmt (k.tile x.tile).kind }) ∧
    (x.phase = .pass → k.mulq.head? = some n.val → pass.bad = false → pass.flag = false →
      ∃ t y, exec (.matrixPassEnd c n) s = .next t ∧ CoreFrame s c t ∧ mget? (t.dev.core c).mxq n = some y ∧
        y.phase = .done ∧ y.status = (if x.replays = 0 then 0 else 1) ∧
        (t.dev.core c).tile x.tile = { k.tile x.tile with acc := pass.acc }) ∧
    (x.phase = .pass → k.mulq.head? = some n.val → pass.bad = false → pass.flag = true → (k.block x.block).scalePinned = false → (k.tile x.tile).level < 3 →
      ∃ t y, exec (.matrixPassEnd c n) s = .next t ∧ CoreFrame s c t ∧ mget? (t.dev.core c).mxq n = some y ∧
        y.phase = .pass ∧ y.replays = x.replays + 1 ∧ ((t.dev.core c).tile x.tile).level = (k.tile x.tile).level + 1 ∧
        ((t.dev.core c).tile x.tile).acc = rescale (k.tile x.tile).kind ((k.tile x.tile).level + 1 - x.n0) x.snap) ∧
    ((x.phase = .zero ∧ x.op = .zero) ∨ x.phase = .drain ∨ x.phase = .done →
      ∃ t y, exec (.matrixTokenComplete c n) s = .next t ∧ mget? (t.dev.core c).mxq n = some y ∧ y.done = true ∧
        y.status = (if x.op = .drain then drainStatus (k.tile x.tile) else x.status) ∧ t.dev.mem = s.dev.mem)

/-- R168, R170, R175 to R177: BWDOT takes a bywash slot and holds its group; when the oldest slot has computed every row, the accumulators of
the lanes below cols are written and the slot is free. -/
def Obligations.BywashInstruction : Prop :=
  ∀ (c : Fin 512) (gs : Fin 64) (f : InsF) (s : State) (g : Group) (k : Core), g = s.dev.group c gs → k = s.dev.core c → BwQuiet k →
    (∀ n, Presents s c gs f (bwShape f (s.dev.bwSlot c gs f).vcount (s.dev.bwSlot c gs f).chunks) →
      let x := s.dev.bwSlot c gs f
      let off := mxOff g f f.a 0
      let blk := k.block g.block
      lowestFree 4 (k.bw.map Prod.fst) = some n → off + 32 ≤ blk.lmSize → bwRegsBad blk.r f.d f.b x.vcount x.chunks = false →
      bwCheck g f blk.lmSize blk.lmUnits off (descWords k blk off) x = none →
      (∀ va ∈ spanLines x.wSpan ++ spanLines x.sSpan, ∃ e ga, s.dev.coreXlate c gs va 1 = .ok e ga) →
      ∃ t y, exec (.bwdot c gs f) s = .next t ∧ mget? (t.dev.core c).bw n = some y ∧ y.slot = gs ∧ y.order = k.bwOrder ∧
        y.d = f.d ∧ y.vcount = x.vcount ∧ y.k0 = x.k0 ∧ y.chunks = x.chunks ∧ y.fmt = x.fmt ∧ y.rowsIn = 0 ∧
        (t.dev.group c gs).bwHold = some n ∧ (t.dev.group c gs).pc = g.pc ∧
        (∀ r l, (t.dev.group c gs).reg r l = g.reg r l) ∧ t.dev.mem = s.dev.mem) ∧
    (∀ (n : Fin 4) (x : BwSlot), mget? k.bw n = some x → Calm s.dev → x.slot = gs → x.written s.clk.ccyc = true → x.cancelled = false → k.ops = [] →
      (∀ e ∈ k.bw, e.2.cancelled = true ∨ x.order ≤ e.2.order) → s.dev.stopped = false → x.d + x.vcount ≤ 255 → x.cols ≤ 32 →
      ∃ t, exec (.bwdotComplete c n) s = .next t ∧ mhas (t.dev.core c).bw n = false ∧ t.dev.mem = s.dev.mem ∧
        (∀ j l, j < x.vcount → l < x.cols → x.active.getLsbD l = true →
          (t.dev.group c gs).reg (x.d + j) l = BitVec.ofNat 32 (x.dot j l (if x.fresh then 0 else (g.reg (x.d + j) l).toNat))) ∧
        ∀ r l, l < 32 → (r < x.d ∨ x.d + x.vcount ≤ r ∨ x.cols ≤ l ∨ x.active.getLsbD l = false) →
          (t.dev.group c gs).reg r l = g.reg r l)

/-- R41, R46, R66, R74: a store held too long parks its group with HELD_REGION_TIMEOUT; a group parked beyond the limit has its
context aborted; an Exited group with nothing outstanding leaves its slot and registers; a block whose units are zero
starts. The address and entry that the timeout's record names are the model's reading (assumption 37). -/
def Obligations.CoreEvents : Prop :=
  ∀ (c : Fin 512) (gs : Fin 64) (s : State) (g : Group), g = s.dev.group c gs → Calm s.dev → s.dev.stopped = false →
    (∀ since h, g.heldSince = some since → g.st = .running → 2 ^ 20 ≤ s.clk.ccyc - since →
      (s.dev.core c).heldHit g.block g.heldWidth g.heldAccs = some h → HoldsPending s.dev ((s.dev.core c).block g.block).berth →
      ∃ t p, exec (.heldRegionTimeout c gs) s = .next t ∧ (t.dev.group c gs).st = .parked ∧ (t.dev.group c gs).park = some p ∧
        p.code = 0x0A ∧ p.pc = g.pc ∧ p.addr = BitVec.ofNat 64 h.1 ∧ p.detail = h.2 ∧ p.completed = 0 ∧ t.dev.mem = s.dev.mem) ∧
    (∀ p, g.park = some p → g.st = .parked → (s.dev.ctx ((s.dev.core c).block g.block).ctx).st = .live →
      p.time + msec s.dev.lkp.parkLimit < gtime s.clk s.dev →
      ∃ t, exec (.parkingLimitExpiry c gs) s = .next t ∧ (t.dev.ctx ((s.dev.core c).block g.block).ctx).st = .aborted) ∧
    (g.st = .exited → (s.dev.core c).awaits gs = false →
      ∃ t, exec (.groupSlotFree c gs) s = .next t ∧ t.dev.group c gs = Group.reset ∧
        (t.dev.core c).freeRegs = (s.dev.core c).freeRegs + groupRegs ((s.dev.core c).block g.block).r ∧ t.dev.mem = s.dev.mem) ∧
    (∀ (b : Fin 32) x, mget? (s.dev.core c).blocks b = some x → x.started = false →
      ∃ t, exec (.lmUnitZeroDone c b) s = .next t ∧ CoreFrame s c t ∧ ((t.dev.core c).block b).started = true ∧
        (∀ a, a / 8192 ∈ x.zeroing → mget 0 (t.dev.core c).lm a = 0) ∧
        ∀ a, a / 8192 ∉ x.zeroing → mget 0 (t.dev.core c).lm a = mget 0 (s.dev.core c).lm a)

/-- R46, R49, R402, R404, R405: the dispatcher places the next block of the launch whose turn it is on the chosen core, which is
powered and free of storage errors: the block takes a slot of the core, and the launch counts one more block. Which free slot
and units the block takes is the model's choice (assumption 44). -/
def Obligations.DispatchPlacesBlock : Prop :=
  ∀ (s : State) (b c q : Nat) (m : Cmd), Calm s.dev → s.dev.admits = true →
    let ready := (List.range 32).filter fun b => (s.dev.readyLaunch b).isSome
    let heldCores := (s.dev.cores.filter fun e => !e.2.blocks.isEmpty).length
    heldCores < 512 → heldCores < s.dev.pwr.coreLimit → s.dev.offered ready = some b → s.dev.readyLaunch b = some (q, m) →
    s.dev.chooseCore ((s.dev.berth b).spread || !s.dev.pwr.packing) ((List.range 512).filter fun c => match s.dev.holder c with
      | none => (s.dev.core c).fits m
      | some h => h == b && (s.dev.core c).fits m) = some c →
    s.dev.pwr.gated.getLsbD (coreDomain c) = false → (takeLatent 8 b 0 s.dev).1 = none →
    ∃ t n, exec .dispatchBlock s = .next t ∧ (t.dev.core c).block n = s.dev.launchBlock q m (s.dev.core c) ∧
      (t.dev.core c).freeRegs = (s.dev.core c).freeRegs - groupRegs m.regs * m.groups ∧
      (∀ x, x ≠ c → t.dev.core x = s.dev.core x) ∧ t.dev.mem = s.dev.mem ∧ t.dev.slices = s.dev.slices ∧
      ∀ y ∈ (t.dev.queue q).cmds, y.order = m.order → ∃ z ∈ (s.dev.queue q).cmds, z.order = m.order ∧ y.nextBlock = z.nextBlock + 1

/-! ### Coherence -/

/-- R241, R243: GetS and GetM at the home. A line without an entry is granted from the home's own copy, E to a GetS and M to a
GetM, and its entry names the requester as owner; a line that another agent owns is forwarded to the owner, and the entry
becomes Owned with the requester as a sharer, or Exclusive with the requester as owner. -/
def Obligations.DirectoryGets : Prop :=
  ∀ (s : State) (p : Packet) (fr : SLine), AtHome s p →
    (entryAt s p.line = none → DirRoom s p.line → HomeHolds s p fr →
      (Arrives s p .getS → ∃ t a, exec (.getS p) s = .next t ∧ HomeFrame s p.line t ∧ Replaced s t p a ∧ AnswerTo s p a ∧
        a.op = .data ∧ a.grant = 2 ∧ a.data = lineWords fr.data ∧ a.acks = 0 ∧
        ∃ e, entryAt t p.line = some e ∧ e.st = .exclusive ∧ e.owner = ownerPtr s.dev p ∧ e.sharers = []) ∧
      (Arrives s p .getM → ∃ t a, exec (.getM p) s = .next t ∧ HomeFrame s p.line t ∧ Replaced s t p a ∧ AnswerTo s p a ∧
        a.op = .data ∧ a.grant = 3 ∧ a.data = lineWords fr.data ∧ a.acks = 0 ∧
        ∃ e, entryAt t p.line = some e ∧ e.st = .exclusive ∧ e.owner = ownerPtr s.dev p ∧ e.sharers = [])) ∧
    ∀ e x, entryAt s p.line = some e → e.st = .exclusive → e.sharers = [] → e.coarse = false → e.far = false →
      e.owner ≠ ownerPtr s.dev p → ownerAsPtr e.owner = some x →
      (Arrives s p .getS → ∃ t a, exec (.getS p) s = .next t ∧ HomeFrame s p.line t ∧ Replaced s t p a ∧ a.op = .fwdGetS ∧
        a.dst = (if x < 4096 then s.dev.id else x - 4096) ∧ a.reqDev = p.src ∧ a.agent = p.agent ∧ a.entry = p.entry ∧ a.gen = p.gen ∧
        entryAt t p.line = some { e with st := .owned, sharers := [sharerPtr s.dev p] }) ∧
      (Arrives s p .getM → ∃ t a, exec (.getM p) s = .next t ∧ HomeFrame s p.line t ∧ Replaced s t p a ∧ a.op = .fwdGetM ∧
        a.dst = (if x < 4096 then s.dev.id else x - 4096) ∧ a.reqDev = p.src ∧ a.agent = p.agent ∧ a.entry = p.entry ∧ a.gen = p.gen ∧
        a.acks = 0 ∧ ∃ e', entryAt t p.line = some e' ∧ e'.st = .exclusive ∧ e'.owner = ownerPtr s.dev p ∧ e'.sharers = [])

/-- R241, R242: the Puts at the home. The directory entry loses the sender, the sectors of PutO and PutM are written into the home's
frame, and an EvictAck answers. -/
def Obligations.DirectoryPuts : Prop :=
  ∀ (s : State) (p : Packet) (e : DirEntry), s.dev.isHome p.line = true →
    (∀ k, k = 6 ∨ k = 7 → (takeLatent k (s.dev.lineSlice p.line) p.line s.dev).1 = none) →
    entryAt s p.line = some e → e.far = false → e.coarse = false →
    let ack := fun (a : Packet) => a.op = .evictAck ∧ a.dst = p.src ∧ a.tgt = p.agent ∧ a.line = p.line
    let left := e.sharers.filter fun y => y != sharerPtr s.dev p
    let gone : Option DirEntry := if e.sharers = [] then none else some { e with owner := 0, st := .shared }
    (Arrives s p .putS → e.st ≠ .uncached → e.sharers.contains (sharerPtr s.dev p) = true →
      ∃ t a, exec (.putS p) s = .next t ∧ HomeFrame s p.line t ∧ Replaced s t p a ∧ ack a ∧
        entryAt t p.line = if left = [] ∧ e.owner = 0 then none else some { e with sharers := left }) ∧
    (e.owner = ownerPtr s.dev p →
      (Arrives s p .putE → ∃ t a, exec (.putE p) s = .next t ∧ HomeFrame s p.line t ∧ Replaced s t p a ∧ ack a ∧ entryAt t p.line = gone) ∧
      ∀ fr, HomeHolds s p fr →
        let data := lineMerge (sectorBytes p.sectors) (lineOfWords p.data) fr.data
        (Arrives s p .putO → ∃ t a, exec (.putO p) s = .next t ∧ HomeFrame s p.line t ∧ Replaced s t p a ∧ ack a ∧
          entryAt t p.line = gone ∧ FrameData t p.line data) ∧
        (Arrives s p .putM → ∃ t a, exec (.putM p) s = .next t ∧ HomeFrame s p.line t ∧ Replaced s t p a ∧ ack a ∧
          entryAt t p.line = gone ∧ FrameData t p.line data))

/-- R100, R200, R212, R253: untracked reads and writes, and far atomics, on a line that the home's slice holds and whose directory
names no holder: the line is read, merged with the write's bytes, or replaced at the atomic's location, and the answer
goes back. -/
def Obligations.HomeReadsWritesAndAtomics : Prop :=
  ∀ (s : State) (p : Packet) (fr : SLine), AtHome s p → HomeHolds s p fr → entryAt s p.line = none →
    (Arrives s p .readU → ∃ t a, exec (.readU p) s = .next t ∧ HomeFrame s p.line t ∧ Replaced s t p a ∧ AnswerTo s p a ∧
      a.op = .readData ∧ a.data = lineWords fr.data ∧ a.poison = [] ∧ FrameData t p.line fr.data) ∧
    (Arrives s p .writeU → ∃ t a, exec (.writeU p) s = .next t ∧ HomeFrame s p.line t ∧ Replaced s t p a ∧ AnswerTo s p a ∧
      a.op = .writeAck ∧ FrameData t p.line (lineMerge p.mask (lineOfWords p.data) fr.data)) ∧
    (Arrives s p .atomF → (s.dev.slice (s.dev.lineSlice p.line)).atomSlots < 64 → (∀ x ∈ (s.dev.slice (s.dev.lineSlice p.line)).atoms, x.line ≠ p.line) →
      let w := atomWidth p.aop p.aty
      let r := atomEval p.aop p.aty (lineGet fr.data p.off w) (p.data.map BitVec.toNat)
      ∃ t a, exec (.atomF p) s = .next t ∧ HomeFrame s p.line t ∧ Replaced s t p a ∧ AnswerTo s p a ∧
        a.op = .atomResp ∧ a.data = r.2.map (BitVec.ofNat 64) ∧
        FrameData t p.line (lineMerge (spanMask p.off w) (lineSet 0 p.off w r.1) fr.data))

/-- R243, R245, R247: forwards, recalls and invalidations at a core that holds the line. FwdGetS sends the data with grant S and the
copy becomes O, or stays O or S; FwdGetM sends it with grant M; Recall returns the dirty sectors of M and O, and an
acknowledgement of E and S; Inv is acknowledged to its ack target. After the last three the core has the line no more. -/
def Obligations.HoldersAnswer : Prop :=
  ∀ (s : State) (p : Packet) (i : Nat) (f : L1Line), HoldsLine s p i f →
    let toReq := fun (a : Packet) => a.op = .data ∧ a.dst = p.reqDev ∧ a.tgt = p.agent ∧ a.entry = p.entry ∧ a.gen = p.gen ∧
      a.line = p.line ∧ a.data = lineWords f.data ∧ a.contended = true
    let kept := f.st = .m ∨ f.st = .o
    (Arrives s p .fwdGetS → ∃ t a, exec (.fwdGetS p) s = .next t ∧ AtCore s p.tgt t ∧ Replaced s t p a ∧ toReq a ∧ a.grant = 1 ∧
      mget? (t.dev.core p.tgt).l1 i = some { f with st := afterFwdGetS f.st }) ∧
    (Arrives s p .fwdGetM → ∃ t a, exec (.fwdGetM p) s = .next t ∧ AtCore s p.tgt t ∧ Replaced s t p a ∧ toReq a ∧ a.grant = 3 ∧
      a.acks = p.acks ∧ a.sectors = f.dirty ∧ mget? (t.dev.core p.tgt).l1 i = none) ∧
    (Arrives s p .recall → ∃ t a, exec (.recall p) s = .next t ∧ AtCore s p.tgt t ∧ Replaced s t p a ∧
      a.tgt = 512 + s.dev.lineSlice p.line ∧ a.line = p.line ∧ (kept → a.op = .recallData ∧ a.sectors = f.dirty ∧ a.data = lineWords f.data) ∧
      (¬kept → a.op = .recallAck ∧ a.sectors = 0 ∧ a.data = []) ∧ mget? (t.dev.core p.tgt).l1 i = none) ∧
    (Arrives s p .inv → ∃ t a, exec (.inv p) s = .next t ∧ AtCore s p.tgt t ∧ Replaced s t p a ∧ a.op = .invAck ∧ a.dst = p.ackDev ∧
      a.tgt = p.ackTag % 1024 ∧ a.line = p.line ∧ mget? (t.dev.core p.tgt).l1 i = none)

/-- R100, R243, R246, R307: responses at the core that waits for them. Data brings the line into the L1 and completes the load; Grant
makes the copy M and completes the store; so does the last InvAck; ReadData completes an untracked load, AtomResp a far
atomic and WriteAck an untracked store. The landing buffer is free again under its next generation. -/
def Obligations.ResponsesComplete : Prop :=
  ∀ (s : State) (p : Packet) (m : Mshr) (n : Nat) (o : MemOp), OneAwaits s p m n o →
    let c := p.tgt
    let free := ∃ w < 8, (s.dev.core c).l1Off.contains (8 * (l1Set p.line / 16) + w) = false ∧ mhas (s.dev.core c).l1 (8 * l1Set p.line + w) = false
    let load := fun (data : Line) (a : LaneAcc) => loadValue o.ty (lineGet data a.off (accWidth o.ty))
    (Arrives s p .data → LineRests s p o → m.kind = .getS → o.kind = .load → m.invSeen = false → m.got = 0 →
      (s.dev.core c).l1Find p.line = none → free → p.grant ≠ 3 → p.poison = [] →
      ∃ t, exec (.data p) s = .next t ∧ AtCore s c t ∧ t.dev.fab.net = s.dev.fab.net.erase p ∧ Landed s t p ∧
        LanesHold t c o (load (lineOfWords p.data)) ∧
        ∃ i f, (t.dev.core c).l1Find p.line = some i ∧ mget? (t.dev.core c).l1 i = some f ∧ f.data = lineOfWords p.data ∧
          f.st = (if p.grant = 2 then .e else .s)) ∧
    (∀ i f, LineRests s p o → o.kind = .store → (s.dev.core c).l1Find p.line = some i → mget? (s.dev.core c).l1 i = some f →
      let stored := storeBytes o o.lanes
      let done := fun (t : State) => AtCore s c t ∧ t.dev.fab.net = s.dev.fab.net.erase p ∧ Landed s t p ∧
        ∃ f', (t.dev.core c).l1Find p.line = some i ∧ mget? (t.dev.core c).l1 i = some f' ∧ f'.st = .m ∧
          f'.data = lineMerge stored.1 stored.2 f.data ∧ f'.dirty = f.dirty ||| sectorsOf stored.1
      (Arrives s p .grant → p.acks = m.got → ∃ t, exec (.grant p) s = .next t ∧ done t) ∧
      (Arrives s p .invAck → m.granted = true → m.need = some (m.got + 1) → f.st = .m → ∃ t, exec (.invAck p) s = .next t ∧ done t)) ∧
    (Arrives s p .readData → m.kind ≠ .fetch → o.kind = .load → p.poison = [] →
      ∃ t, exec (.readData p) s = .next t ∧ AtCore s c t ∧ t.dev.fab.net = s.dev.fab.net.erase p ∧ Landed s t p ∧
        LanesHold t c o (load (lineOfWords p.data))) ∧
    (Arrives s p .atomResp → o.kind = .atomic → p.poison = [] → (∀ a ∈ o.lanes, a.off = p.off) →
      ∃ t, exec (.atomResp p) s = .next t ∧ AtCore s c t ∧ t.dev.fab.net = s.dev.fab.net.erase p ∧ Landed s t p ∧
        LanesHold t c o (fun a => ((p.data.map BitVec.toNat).getD (o.lanes.idxOf a) 0))) ∧
    (Arrives s p .writeAck → ∃ t, exec (.writeAck p) s = .next t ∧ AtCore s c t ∧ t.dev.fab.net = s.dev.fab.net.erase p ∧ Landed s t p ∧
      ∀ r l, (t.dev.group c o.slot).reg r l = (s.dev.group c o.slot).reg r l)

/-- R69, R242, R247, R398, R407: an error response makes the lanes of the instruction that waits for it fault with PERMISSION, detail
0x10, and the group parks for the lowest lane (here its record is held Pending); a HeldRetry keeps the landing buffer, and 256
F-cycles later the core sends the request again; an EvictAck empties the buffer of the line; the owner's answer to a Recall
ends the recall, with the dirty sectors written into the home's frame. -/
def Obligations.RefusalsRetriesAndRecalls : Prop :=
  ∀ (s : State) (p : Packet),
    (∀ m n o, OneAwaits s p m n o → m.kind ≠ .atomF → m.kind ≠ .fetch → (s.dev.group p.tgt o.slot).st = .running → (s.dev.group p.tgt o.slot).bwHold = none → (s.dev.group p.tgt o.slot).replay = none →
      HoldsPending s.dev ((s.dev.core p.tgt).blockOf o.slot).berth → Arrives s p .errorResp →
      ∃ t i a, exec (.errorResp p) s = .next t ∧ AtCore s p.tgt t ∧ Landed s t p ∧ (t.dev.group p.tgt o.slot).st = .parked ∧
        (t.dev.group p.tgt o.slot).park = some i ∧ i.code = 2 ∧ i.detail = 0x10 ∧ i.pc = o.pc ∧ i.completed = o.done ∧
        a ∈ o.lanes ∧ (∀ b ∈ o.lanes, a.lane ≤ b.lane) ∧ i.addr = BitVec.ofNat 64 a.va) ∧
    (∀ m, p.tgt < 512 → (s.dev.core p.tgt).landing p = some m → Arrives s p .heldRetry →
      ∃ t, exec (.heldRetry p) s = .next t ∧ AtCore s p.tgt t ∧ t.dev.fab.net = s.dev.fab.net.erase p ∧
        mget? (t.dev.core p.tgt).mshrs p.entry = some { m with retryAt := some s.clk.tsc }) ∧
    (∀ (c : Fin 512) e m since, mget? (s.dev.core c).mshrs e = some m → m.retryAt = some since → s.dev.stopped = false →
      256 * 8 ≤ 3 * (s.clk.tsc - since) →
      ∃ t a, exec (.coreHeldRetry c e) s = .next t ∧ AtCore s c t ∧ t.dev.fab.net = s.dev.fab.net ++ [a] ∧ a.op = m.req.op ∧
        a.dst = m.req.dst ∧ a.entry = m.req.entry ∧ a.gen = m.req.gen ∧ a.line = m.req.line ∧
        ∃ m', mget? (t.dev.core c).mshrs e = some m' ∧ m'.retryAt = none) ∧
    (Arrives s p .evictAck → 512 ≤ p.tgt → SliceQuiet (s.dev.slice (p.tgt - 512)) →
      ∃ t, exec (.evictAck p) s = .next t ∧ t.dev.cores = s.dev.cores ∧ t.dev.fab.net = s.dev.fab.net.erase p ∧
        t.dev.slice (p.tgt - 512) = { s.dev.slice (p.tgt - 512) with evict := (s.dev.slice (p.tgt - 512)).evict.filter fun b => b.line != p.line }) ∧
    (Arrives s p .evictAck → p.tgt < 512 → (s.dev.core p.tgt).ops = [] → (s.dev.core p.tgt).bw = [] → UnitsClear (s.dev.core p.tgt) →
      ∃ t, exec (.evictAck p) s = .next t ∧ AtCore s p.tgt t ∧ t.dev.fab.net = s.dev.fab.net.erase p ∧
        t.dev.core p.tgt = { s.dev.core p.tgt with evict := (s.dev.core p.tgt).evict.filter fun b => b.line != p.line }) ∧
    ∀ r, let sl := s.dev.slice (s.dev.lineSlice p.line)
      sl.recalls.find? (fun x => x.ent.line == p.line) = some r → r.owner = true → r.acks = 0 → r.waiting = [] → r.putBack = false →
      r.entry = p.entry → r.gen = p.gen → s.dev.isHome p.line = true → (∀ y ∈ sl.far, y.granted = false) →
      (Arrives s p .recallAck →
        ∃ t, exec (.recallAck p) s = .next t ∧ HomeFrame s p.line t ∧ t.dev.fab.net = s.dev.fab.net.erase p ∧
          (t.dev.slice (s.dev.lineSlice p.line)).recalls = sl.recalls.filter fun x => x.ent.line != p.line) ∧
      ∀ fr, HomeHolds s p fr → Arrives s p .recallData →
        ∃ t, exec (.recallData p) s = .next t ∧ HomeFrame s p.line t ∧ t.dev.fab.net = s.dev.fab.net.erase p ∧
          (t.dev.slice (s.dev.lineSlice p.line)).recalls = sl.recalls.filter (fun x => x.ent.line != p.line) ∧
          FrameData t p.line (lineMerge (sectorBytes p.sectors) (lineOfWords p.data) fr.data)

/-! ### What the memory system does by itself -/

/-- R213, R222, R227, R271, R406, R476: a write-combining entry that times out goes to HBM; the scrub reads the next location of its
pseudo-channel and poisons a sector that it finds uncorrectable; retraining begins and ends, and one that fails retires the device;
a request that waits for tokens goes on when the bucket covers it; a walk enters its entry into the range cache of the core or the
stream, or tells the group that there is none; a mirror's sectors, of this device or of a peer, replace the poisoned ones and the
request is answered. -/
def Obligations.MemoryServices : Prop :=
  ∀ (s : State), Calm s.dev → s.dev.stopped = false →
    (∀ (n : Fin 128) line e, (s.dev.slice n).wcb.find? (fun x => x.line == line) = some e → fcyclesPassed s.clk e.last 1024 = true →
      s.dev.latent = [] →
      ∃ t, exec (.wcbEntryTimeout n line) s = .next t ∧ t.dev.cores = s.dev.cores ∧ (t.dev.slice n).wcb = (s.dev.slice n).wcb.erase e ∧
        (e.mirror = 0 → isNarrowKey line = false → (∀ i < 4, s.dev.stackLost (s.dev.stackOf (32 * (line % 2 ^ 38 * 4 + i))) = false) →
          ∀ i < 128, e.mask.getLsbD i = true → t.dev.hbmByte (keyId e.berth e.key) (line % 2 ^ 38 * 128 + i) = lineByte e.data i)) ∧
    (∀ (x : Fin 8) (ch : Fin 16) (pc : Fin 2) (ecc : Fin 3), (s.dev.stack x).st = 2 → (s.dev.stack x).selfRefresh = false →
      (s.dev.stack x).retraining.getLsbD ch = false →
      let sec := s.dev.addrOf x ch pc (32 * (s.dev.stack x).scrubAt ch pc) / 32
      let poisoned := (mget SectorTag.reset s.dev.mem.tags sec).poison
      let next := mput (s.dev.stack x).scrubbed (2 * ch + pc) (mget 0 (s.dev.stack x).scrubbed (2 * ch + pc) + 1)
      (takeLatent 0 0 sec s.dev).1 = none → RingsOff s.dev →
      (ecc ≠ 2 → ∃ t, exec (.patrolScrubRead x ch pc ecc) s = .next t ∧ t.dev.cores = s.dev.cores ∧ t.dev.slices = s.dev.slices ∧
        t.dev.mem = { s.dev.mem with stks := t.dev.mem.stks } ∧ t.dev.stack x = { s.dev.stack x with
          scrubbed := next, poisonSeen := (s.dev.stack x).poisonSeen + (if poisoned then 1 else 0) }) ∧
      (ecc = 2 → poisoned = false → (s.dev.stack x).unc = [] → ∃ t, exec (.patrolScrubRead x ch pc ecc) s = .next t ∧ t.dev.cores = s.dev.cores ∧
        t.dev.slices = s.dev.slices ∧ t.dev.mem.hbm = s.dev.mem.hbm ∧ (mget SectorTag.reset t.dev.mem.tags sec).poison = true ∧
        (t.dev.stack x).scrubbed = next)) ∧
    (∀ (x : Fin 8) (ch : Fin 16),
      ((s.dev.stack x).st = 2 → (s.dev.stack x).retraining.getLsbD ch = false → (∀ e ∈ (s.dev.stack x).retrains, e.1 ≠ ch.val) →
        ∃ t, exec (.channelRetrain x ch) s = .next t ∧ (t.dev.stack x).st = 2 ∧
          (t.dev.stack x).retraining = (s.dev.stack x).retraining ||| (1#16 <<< ch.val)) ∧
      ((s.dev.stack x).retraining.getLsbD ch = true →
        ((s.dev.stack x).st = 2 → (s.dev.slice (16 * x.val + ch.val)).stalled = [] →
          ∃ t, exec (.channelRetrainDone x ch true) s = .next t ∧ (t.dev.stack x).st = 2 ∧
            (t.dev.stack x).retraining = (s.dev.stack x).retraining &&& ~~~(1#16 <<< ch.val)) ∧
        (s.dev.lkp.st ≠ .retired → ∃ t, exec (.channelRetrainDone x ch false) s = .next t ∧ t.perm.retire = true ∧
          t.dev.lkp.st = .retired))) ∧
    (∀ (n : Fin 128) (b : Fin 32) p rest fr, mget [] (s.dev.slice n).held b = p :: rest → p.op = .readU → AtHome s p → HomeHolds s p fr →
      entryAt s p.line = none →
      ∃ t a, exec (.tokenBucketRelease n b) s = .next t ∧ t.dev.fab.net = s.dev.fab.net ++ [a] ∧ AnswerTo s p a ∧ a.op = .readData ∧
        a.data = lineWords fr.data ∧ mget [] (t.dev.slice n).held b = rest) ∧
    (∀ c g w, c < 512 → g < 64 → (s.dev.core c).inWalk.find? (fun w => w.who == g) = some w →
      (∀ e, s.dev.walked w = .hit e → ∃ t, exec (.walkComplete c g) s = .next t ∧ (t.dev.group c g).walkVa = none ∧
        (t.dev.core c).xlat = xcPut (s.dev.core c).xlat 64 w.ctx e) ∧
      (s.dev.walked w = .miss → ∃ t, exec (.walkComplete c g) s = .next t ∧ (t.dev.group c g).walkVa = none ∧
        (t.dev.group c g).absent = w.va / 4096 :: (s.dev.group c g).absent)) ∧
    (∀ n w e, n < 4096 → (s.dev.ctl.inWalk (streamQuarter n)).find? (fun w => w.who == n) = some w → (s.dev.stream n).st = .translating →
      s.dev.walked w = .hit e → ∃ t, exec (.walkComplete (640 + n / 64) n) s = .next t ∧ (t.dev.stream n).st = .running ∧
        (t.dev.stream n).walkVa = none ∧ (t.dev.stream n).xlat = xcPut (s.dev.stream n).xlat 16 (s.dev.stream n).ctx e) ∧
    ∀ (n : Fin 128) line r data left i fr, (s.dev.slice n).repairs.find? (fun r => r.line == line) = some r → MirrorComes s n r data left →
      r.sectors ≠ 0 → r.cancel = 0 → r.waiting = [] → r.req.op = .readU → r.req.line = line → s.dev.lineSlice line = n → AtHome s r.req →
      r.req.mtype ≠ 2 → RingsOff s.dev → entryAt s line = none → (∀ y ∈ (s.dev.slice n).repairs.erase r, y.line ≠ line) →
      (takeLatent 1 n line s.dev).1 = none → (s.dev.slice n).frameOf (s.dev.setOfLine line) line = some i →
      mget? (s.dev.slice n).frames i = some fr → fr.valid = 0xF#4 → poisonSectors fr.poison &&& ~~~r.sectors = 0 →
      ∃ t a, exec (.mirrorRepair n line) s = .next t ∧ t.dev.fab.net = left ++ [a] ∧ AnswerTo s r.req a ∧ a.op = .readData ∧ a.poison = [] ∧
        a.data = lineWords (lineMerge (sectorBytes r.sectors) data fr.data) ∧ (t.dev.slice n).repairs = (s.dev.slice n).repairs.erase r

/-! ### Barge engines -/

/-- R273, R276, R278, R281, R288: a stream reads its descriptor from own memory, issues the read of its next access, completes its
COPY when every access is performed, and its context is aborted when a fault stall outlasts the parking limit. -/
def Obligations.StreamsRun : Prop :=
  ∀ (n : Fin 4096) (s : State) (x : Stream), x = s.dev.stream n → Calm s.dev → s.dev.stopped = false →
    (∀ e, x.st = .running → x.failed = none → x.desc = none → x.di < x.count → (∀ y ∈ x.txns, y.what ≠ 2 ∨ y.dead = true) →
      s.dev.streamXlate n (x.list + 64 * x.di) 1 = .ok e →
      let ga := reMap e (x.list + 64 * x.di)
      let a := gaLocal ga
      let q := (List.range 8).map fun i => BitVec.ofNat 64 (s.dev.peek (keyId x.berth (reKey e)) (a + 8 * i) 8)
      reKind e = 0 → gaDev ga = s.dev.id → isLmWindow a = false → (s.dev.locOf a).isSome = true → s.dev.mayAccess x.berth (reKey e) a true = true →
      Unheld s.dev (gaLine ga) → (∀ i < 8, s.dev.peekPoison (a + 8 * i) = false) → descInvalid q = false →
      (dKind q = 4 ∨ s.dev.windowSide x.ctx (qw q 1) = false ∨ windowSkew q true = false) →
      (s.dev.windowSide x.ctx (qw q 2) = false ∨ windowSkew q false = false) →
      ∃ t, exec (.bargeDescriptorRead n) s = .next t ∧ (t.dev.stream n).desc = some q ∧ (t.dev.stream n).di = x.di ∧
        (t.dev.stream n).cur = 0 ∧ t.dev.mem = s.dev.mem ∧ t.dev.cores = s.dev.cores) ∧
    (∀ q eS eD, x.st = .running → x.failed = none → x.desc = some q → dKind q = 0 → dFence q = false → x.owes = false → x.cur < dTotal q →
      (s.dev.engineUsed (n.val / 64)).length < 512 →
      let src := (dPlace q x.cur 0).1
      let dst := (dPlace q x.cur 0).2.1
      let len := min (dPlace q x.cur 0).2.2 (min (128 - src % 128) (128 - dst % 128))
      s.dev.streamXlate n src 1 = .ok eS → s.dev.streamXlate n dst 2 = .ok eD → reKind eS = 0 → reKind eD = 0 →
      ∃ t a, exec (.streamAccessIssue n) s = .next t ∧ t.dev.fab.net = s.dev.fab.net ++ [a] ∧ a.op = .bulkRead ∧
        a.dst = gaDev (reMap eS src) ∧ a.line = gaLine (reMap eS src) ∧ a.cnt = len ∧ a.agent = 640 + n.val / 64 ∧ a.berth = x.berth ∧
        (t.dev.stream n).cur = x.cur + len ∧ (t.dev.stream n).txns.length = x.txns.length + 1 ∧ t.dev.mem = s.dev.mem) ∧
    (∀ q, x.st = .running → x.txns = [] → x.failed = none → x.desc = some q → x.di + 1 = x.count → dTotal q ≤ x.cur →
      ∃ t, exec (.copyComplete n) s = .next t ∧ Finishes s t x.queue x.order 0 x.di ∧ (t.dev.stream n).st = .idle ∧ t.dev.mem = s.dev.mem) ∧
    (∀ f, x.fault = some f → (x.st = .faulted ∨ x.st = .pending) → f.time + msec s.dev.lkp.parkLimit < gtime s.clk s.dev →
      (s.dev.ctx x.ctx).st = .live →
      ∃ t, exec (.streamStallLimitExpiry n) s = .next t ∧ (t.dev.ctx x.ctx).st = .aborted)

/-- R277, R278, R306: bulk reads, writes and reductions of one line that the home's slice holds and that no agent holds: the line's
bytes are returned, the bytes of the write replace the line's, or the words of the write are added to the line's. -/
def Obligations.BulkAccesses : Prop :=
  ∀ (s : State) (p : Packet) (fr : SLine), AtHome s p → HomeHolds s p fr → Unheld s.dev p.line → p.lines = 1 → p.tgt ≠ 705 →
    isLmWindow (p.line % 2 ^ 38 * 128) = false → (p.agent = 705 → p.aty ≠ 2) →
    let m := spanMask p.off p.cnt
    (Arrives s p .bulkRead → ∃ t a, exec (.bulkRead p) s = .next t ∧ HomeFrame s p.line t ∧ Replaced s t p a ∧ AnswerTo s p a ∧
      a.op = .readData ∧ a.data = lineWords fr.data ∧ a.poison = [] ∧ FrameData t p.line fr.data) ∧
    (0 < p.cnt → p.off + p.cnt ≤ 128 →
      (Arrives s p .bulkWrite → ∃ t a, exec (.bulkWrite p) s = .next t ∧ HomeFrame s p.line t ∧ Replaced s t p a ∧ AnswerTo s p a ∧
        a.op = .writeAck ∧ FrameData t p.line (lineMerge m (lineOfWords p.data) fr.data)) ∧
      (Arrives s p .bulkReduce → (∀ q ∈ (s.dev.slice (s.dev.lineSlice p.line)).outs, q.op ≠ .bulkRead ∨ q.line ≠ p.line) → ∃ t a, exec (.bulkReduce p) s = .next t ∧ HomeFrame s p.line t ∧ Replaced s t p a ∧ AnswerTo s p a ∧
        a.op = .writeAck ∧ FrameData t p.line (lineMerge m (reduceLine p.rtype m (lineOfWords p.data) fr.data 0 0).1 fr.data)))

/-! ### The fabric -/

/-- R312, R315, R321 to R323, R328: messages of the fabric. A RouteMark is sent on by the neighbour and answered at its destination; the
answer releases the packets held, once what the Down port left unanswered is known; a Ping is answered; PeerDown marks a device down and PeerUp clears the mark; a TimeOffset of
the parent gives a device without one, or one that measured again, its own offset; a packet for another device goes to the port that routing chooses and takes its
credits, or is answered on behalf of a device that cannot be reached. Where a TimeOffset and a RouteMark carry their values is
the model's choice (assumption 88). -/
def Obligations.FabricMessages : Prop :=
  ∀ (s : State) (p : Packet),
    (Arrives s p .routeMark →
      ∃ t a, exec (.routeMark p) s = .next t ∧ Replaced s t p a ∧ t.dev.mem = s.dev.mem ∧
        (p.reqDev = s.dev.id → a.op = .markAck ∧ a.dst = p.who ∧ a.src = s.dev.id ∧ a.no = p.no) ∧
        (p.reqDev ≠ s.dev.id → a.op = .routeMark ∧ a.dst = p.reqDev ∧ a.who = p.who ∧ a.no = p.no)) ∧
    (∀ m, s.dev.fab.marks.find? (fun m => m.no == p.no && m.dst == p.src) = some m → Arrives s p .markAck →
      ((s.dev.port m.port).seqAsk = none → ∃ t, exec (.markAck p) s = .next t ∧ t.dev.mem = s.dev.mem ∧
        t.dev.fab.marks = (s.dev.fab.marks.filter fun y => !(y.no == m.no && y.dst == m.dst)) ∧
        t.dev.fab.net = m.held ++ s.dev.fab.net.erase p ∧ m.dst ∈ (t.dev.port m.port).moved) ∧
      ((s.dev.port m.port).seqAsk ≠ none → ∃ t, exec (.markAck p) s = .next t ∧ t.dev.mem = s.dev.mem ∧
        t.dev.fab.marks = (s.dev.fab.marks.map fun y => if y = m then { y with acked := true } else y) ∧
        t.dev.fab.net = s.dev.fab.net.erase p)) ∧
    (Arrives s p .ping → ∃ t a, exec (.ping p) s = .next t ∧ Replaced s t p a ∧ AnswerTo s p a ∧ a.op = .mgmtResp ∧ a.err = false) ∧
    (Arrives s p .peerDown → p.who ≠ s.dev.id → s.dev.fab.flooded.contains (p.who, p.boot) = false →
      ∃ t, exec (.peerDown p) s = .next t ∧ mget? t.dev.fab.down p.who = some p.boot) ∧
    (Arrives s p .peerUp → p.who ≠ s.dev.id → s.dev.fab.flooded.contains (p.who, 2 ^ 28 + p.boot) = false →
      ∃ t, exec (.peerUp p) s = .next t ∧ mget? t.dev.fab.down p.who = none) ∧
    (∀ q, Arrives s p .timeOffset → s.dev.tim.valid = false ∨ s.dev.tim.due = true → s.dev.timeParent = some q → (s.dev.port q).nbrDev = p.src →
      ∃ t, exec (.timeOffset p) s = .next t ∧ t.dev.tim.off = p.toff - p.tlink ∧ t.dev.tim.valid = true ∧ t.dev.tim.hops = min 15 (p.no + 1)) ∧
    (p.dst ≠ s.dev.id → p ∈ s.dev.fab.net → s.dev.stopped = false → Calm s.dev → vcOf p.op ≠ 2 →
      (∀ q esc, s.dev.reachable p.dst = true → s.dev.choosePort p = some (q, esc) →
        ∃ t, exec (.packetForward p) s = .next t ∧ t.dev.fab.net = s.dev.fab.net.erase p ∧
          mget 0 (t.dev.port q).credits (pktChan { p with esc := esc }) =
            mget 0 (s.dev.port q).credits (pktChan { p with esc := esc }) + pktSlots { p with esc := esc } ∧ t.dev.mem = s.dev.mem) ∧
      (∀ a, s.dev.reachable p.dst = false → s.dev.behalf p = some a →
        ∃ t b, exec (.packetForward p) s = .next t ∧ Replaced s t p b ∧ b.op = a.op ∧ b.dst = a.dst ∧ b.entry = a.entry ∧ b.data = a.data ∧
          b.poison = a.poison ∧ b.notPerf = a.notPerf))

/-- R300 to R302, R318, R320, R323, R324, R440, R448: a peer port. A Data flit in sequence delivers its packets, or waits for its GMAC
when the link encrypts, and a good GMAC delivers its 16 flits; a lane that fails and a silent link lead to a retrain, after
which the port is Up at the width of the lanes still good; Hello and Proof let the neighbour in; rekeying and the idle state. -/
def Obligations.PeerPorts : Prop :=
  ∀ (port : Fin 18) (s : State) (x : Port), x = s.dev.port port → Calm s.dev → s.dev.stopped = false → x.role = .peer →
    (∀ f, x.st = .up → HostsWait s.dev → f.ok = true → f.fecBad = false → f.kind = 0 → f.seq = x.rxSeq →
      ∃ t, exec (.flitReceive port f) s = .next t ∧ (t.dev.port port).rxSeq = (x.rxSeq + 1) % 4096 ∧
        (x.encrypt = false → t.dev.fab.net = s.dev.fab.net ++ f.pkts.map fun p => { p with via := some port.val }) ∧
        (x.encrypt = true → t.dev.fab.net = s.dev.fab.net ∧ (t.dev.port port).gmacRun = x.gmacRun ++ [{ seq := f.seq, kind := 0, pkts := f.pkts }])) ∧
    (x.st = .up → x.encrypt = true → x.gmacRun.length = 16 →
      ∃ t, exec (.gmac port true) s = .next t ∧ (t.dev.port port).gmacRun = [] ∧ (t.dev.port port).gmacFails = 0 ∧
        t.dev.fab.net = s.dev.fab.net ++ (x.gmacRun.flatMap Flit.pkts).map fun p => { p with via := some port.val }) ∧
    (∀ lane : Fin 8, x.st = .up → ∃ t, exec (.laneFail port lane) s = .next t ∧ (t.dev.port port).st = .retraining ∧
      (t.dev.port port).lanes = x.lanes &&& ~~~(1#8 <<< lane.val) ∧ (t.dev.port port).retrains = satAdd 255 x.retrains 1) ∧
    (x.st = .up → x.lpi = false → x.lastFlit + usec 10 ≤ s.clk.tsc →
      ∃ t, exec (.linkSilenceTimeout port) s = .next t ∧ (t.dev.port port).st = .retraining ∧ (t.dev.port port).replay = x.replay ∧
        (t.dev.port port).credits = x.credits ∧ (t.dev.port port).txSeq = x.txSeq) ∧
    (∀ lanes, x.st = .retraining → min x.width (laneWidth (x.lanes &&& lanes)) ≠ 0 →
      ∃ t, exec (.portRetrainDone port true lanes) s = .next t ∧ (t.dev.port port).st = .up ∧ (t.dev.port port).lanes = x.lanes &&& lanes ∧
        (t.dev.port port).width = min x.width (laneWidth (x.lanes &&& lanes))) ∧
    (∀ dev np boot nonce, ((x.st = .training ∧ x.width ≠ 0) ∨ x.st = .up) → dev.toNat = x.nbrDev → np.toNat = x.nbrPort →
      mhas s.dev.fab.down dev.toNat = false →
      ∃ t, exec (.hello port dev np boot nonce) s = .next t ∧ (t.dev.port port).hello = some (dev.toNat, np.toNat, boot.toNat) ∧
        (t.dev.port port).proved = false ∧ (t.dev.port port).st = x.st) ∧
    (x.hello.isSome = true → x.proved = false → ((x.st = .training ∧ x.linkOff = none) ∨ x.st = .up) →
      ∃ t, exec (.proof port true) s = .next t ∧ (t.dev.port port).proved = true ∧ (t.dev.port port).st = x.st ∧
        (x.st = .training → (t.dev.port port).keyEpoch = 0 ∧ (t.dev.port port).probeT1 = some (Int.ofNat s.clk.tsc))) ∧
    (x.st = .up → x.encrypt = true → ∃ t, exec (.linkRekey port) s = .next t ∧ (t.dev.port port).keyEpoch = x.keyEpoch + 1 ∧
      (t.dev.port port).nonce = Config.entropy s.dev.fresh ∧ (x.ctlq = [] → (t.dev.port port).txCount ≤ 1) ∧ (t.dev.port port).proved = false) ∧
    (x.st = .up → s.dev.busyPorts.contains port.val = false → x.idleSince + usec 2 ≤ s.clk.tsc →
      ∃ t, exec (.lpiEntry port) s = .next t ∧ (t.dev.port port).lpi = true ∧ (t.dev.port port).st = .up)

/-- R320, R322, R326, R327: time exchanges and what a silent neighbour leads to. A probe's times are taken as it arrives and as the
reply leaves; each reply adds an exchange and the 16th gives the link's offset; a neighbour that answers neither its ping nor
the question for its last sequence number is taken as down. The order of the probes is the model's reading (assumption 92). -/
def Obligations.LinkTime : Prop :=
  ∀ (port : Fin 18) (s : State) (x : Port), x = s.dev.port port → Calm s.dev → s.dev.stopped = false →
    (∀ turn, x.role = .peer → (x.st = .up ∨ x.st = .training) → ∃ t, exec (.timeProbe port turn) s = .next t ∧
      (t.dev.port port).replyT = some (Int.ofNat s.clk.tsc, Int.ofNat (s.clk.tsc + turn))) ∧
    (∀ t1 t2 t3, x.probeT1 = some t1 → (x.st = .up ∨ x.st = .training) →
      let t4 := Int.ofNat s.clk.tsc
      let es := x.exch ++ [{ off2 := (Int.ofNat t2.toNat - t1) + (Int.ofNat t3.toNat - t4), delay2 := (t4 - t1) - (Int.ofNat t3.toNat - Int.ofNat t2.toNat) }]
      ∃ t, exec (.timeReply port t2 t3) s = .next t ∧ (t.dev.port port).exch = es ∧
        (es.length < 16 → (t.dev.port port).probeT1 = some t4 ∧ (t.dev.port port).linkOff = x.linkOff) ∧
        (16 ≤ es.length → (t.dev.port port).probeT1 = none ∧ (t.dev.port port).linkOff = some (linkOffset es))) ∧
    (∀ t0, x.pingAt = some t0 → t0 + msec 50 ≤ s.clk.tsc → x.nbrDev ≠ s.dev.id →
      let boot := (x.hello.map fun h => h.2.2).getD 0
      s.dev.fab.flooded.contains (x.nbrDev, boot) = false →
      ∃ t, exec (.pingTimeout port) s = .next t ∧ mget? t.dev.fab.down x.nbrDev = some boot) ∧
    (∀ t0, x.seqAsk = some t0 → t0 + msec 50 ≤ s.clk.tsc →
      ∃ t, exec (.neighbourSeqTimeout port) s = .next t ∧ (t.dev.port port).replay = [] ∧ (t.dev.port port).seqAsk = none ∧
        (t.dev.port port).credits = [])

/-- R315, R511, R512: management accesses. A read of a populated register answers with its value and a write takes effect and is
acknowledged; the answer to a ping ends the wait for it. -/
def Obligations.ManagementAccess : Prop :=
  ∀ (s : State) (p : Packet),
    (∀ v d, Arrives s p .mgmtRead → p.aop ≠ 5 → p.cnt ≤ 4 → regPopulated p.off = true → hostWindow p = true →
      (s.dev.take p).regRead s.perm s.clk (mgmtWho p) p.off = (some v, d) → Calm d →
      ∃ t a, exec (.mgmtRead p) s = .next t ∧ AnswerTo { s with dev := d } p a ∧ a.op = .mgmtResp ∧ a.err = false ∧ a.data = [BitVec.ofNat 64 v] ∧
        Settled s { d with fab := { d.fab with net := d.fab.net ++ [a] } } t) ∧
    (∀ d, Arrives s p .mgmtWrite → p.aop = 0 → p.cnt ≤ 4 → regPopulated p.off = true → hostWindow p = true →
      (s.dev.take p).regWrite s.clk (mgmtWho p) p.off ((p.data.headD 0).setWidth 32) = (true, d) → Calm d →
      ∃ t a, exec (.mgmtWrite p) s = .next t ∧ AnswerTo { s with dev := d } p a ∧ a.op = .mgmtResp ∧ a.err = false ∧
        Settled s { d with fab := { d.fab with net := d.fab.net ++ [a] } } t) ∧
    ∀ r, Arrives s p .mgmtResp → p.tgt ≠ 705 → mget? s.dev.fab.mgmtOut p.entry = some r → r.gen = p.gen → r.agent = p.tgt → r.op = .ping →
      p.err = false →
      ∃ t, exec (.mgmtResp p) s = .next t ∧ mget? t.dev.fab.mgmtOut p.entry = none ∧ t.dev.fab.net = s.dev.fab.net.erase p ∧
        ∀ q < 18, (s.dev.port q).nbrDev = r.dst → (t.dev.port q).pingAt = none

/-! ### Hosts and storage appliances -/

/-- R342, R344, R348, R349: operations of a host session. Register operations and doorbells become one management request, memory
operations the bulk requests of their lines; those of another device leave by its port when they have the credit (R343); windows and
subscriptions change the session and are answered at once. -/
def Obligations.HostOperations : Prop :=
  ∀ (s : State) (n : Nat) (p : HostPkt),
    (∀ es, s.dev.bridgeFree s.clk (hostParts p.op) = some es →
      let reqs := (s.dev.hostRequests n p es).map HPart.req
      p.op.device = s.dev.id ∨ (s.dev.admitAll reqs).isSome = true →
      let issued := fun (t : State) => t.dev.fab.net = s.dev.fab.net ++ (if p.op.device = s.dev.id then reqs else []) ∧ t.dev.mem = s.dev.mem ∧
        t.dev.cores = s.dev.cores ∧ ∃ x, (t.dev.session n).ops = [x] ∧ x.issued = true ∧ x.pkt = p ∧ x.parts = s.dev.hostRequests n p es
      (OpFromHost s n 1 p → (∃ t, exec (.regRead p) s = .next t ∧ issued t) ∧
        ∃ a, reqs = [a] ∧ a.op = .mgmtRead ∧ a.dst = p.op.device ∧ a.off = p.op.addr ∧ a.cnt = p.op.bytes ∧ a.berth = p.op.berth) ∧
      (OpFromHost s n 2 p → (∃ t, exec (.regWrite p) s = .next t ∧ issued t) ∧
        ∃ a, reqs = [a] ∧ a.op = .mgmtWrite ∧ a.dst = p.op.device ∧ a.off = p.op.addr ∧ a.data = [BitVec.ofNat 64 (natOf p.data)]) ∧
      (OpFromHost s n 5 p → (∃ t, exec (.doorbell p) s = .next t ∧ issued t) ∧
        ∃ a, reqs = [a] ∧ a.op = .mgmtWrite ∧ a.dst = p.op.device ∧ a.off = p.op.addr ∧ a.data = [BitVec.ofNat 64 (natOf p.data)]) ∧
      (OpFromHost s n 3 p → (∃ t, exec (.memRead p) s = .next t ∧ issued t) ∧
        ∀ a ∈ reqs, a.op = .bulkRead ∧ a.dst = p.op.device ∧ a.berth = p.op.berth) ∧
      (OpFromHost s n 4 p → (∃ t, exec (.memWrite p) s = .next t ∧ issued t) ∧
        ∀ a ∈ reqs, a.op = .bulkWrite ∧ a.dst = p.op.device ∧ a.berth = p.op.berth)) ∧
    (OpFromHost s n 8 p → ∃ t, exec (.windowOpen p) s = .next t ∧ Responded s t n p ∧ t.dev.fab.net = s.dev.fab.net ∧
      mget? (t.dev.session n).windows p.op.obj = some p.op.bytes ∧ (t.dev.session n).ops = []) ∧
    (OpFromHost s n 9 p → (∀ a ∈ (s.dev.session n).winOut, a.req.no ≠ p.op.obj) →
      ∃ t, exec (.windowClose p) s = .next t ∧ Responded s t n p ∧ t.dev.fab.net = s.dev.fab.net ∧
        mget? (t.dev.session n).windows p.op.obj = none ∧ (t.dev.session n).ops = []) ∧
    (OpFromHost s n 0xA p → ∃ t, exec (.subscribe p) s = .next t ∧ Responded s t n p ∧
      Told s t (p.op.device, p.op.berth, p.op.obj) 1 (Subscribed s.dev (p.op.device, p.op.berth, p.op.obj)) ∧
      (p.op.device, p.op.berth, p.op.obj) ∈ (t.dev.session n).subs) ∧
    (OpFromHost s n 0xB p → ∃ t, exec (.unsubscribe p) s = .next t ∧ Responded s t n p ∧
      Told s t (p.op.device, p.op.berth, p.op.obj) 0 (Subscribed t.dev (p.op.device, p.op.berth, p.op.obj)) ∧
      (t.dev.session n).subs = (s.dev.session n).subs.filter fun x => x != (p.op.device, p.op.berth, p.op.obj))

/-- R335, R339, R341, R342, R346, R347, R353, R354: how sessions begin, carry packets and end. JOIN takes the lowest free slot with the
berths asked for and granted, JOIN_CONFIRM makes it Active, and a storage appliance's answers do the same for its port; a RESP
ends a window access; ACK and HEARTBEAT are noted, the latter only within ten intervals of the last; LEAVE frees the slot. -/
def Obligations.HostSessions : Prop :=
  ∀ (s : State) (p : HostPkt), Calm s.dev →
    (∀ n g, p.typ = 0x02 → s.dev.netOpen p.port = true → (s.dev.port p.port).role = .host → (∀ e ∈ s.dev.whf.sessions, e.2.spent = false) →
      p.formOk = true → s.dev.whf.grants.find? (fun x => x.1 == p.key) = some (p.key, g) → p.mask &&& g ≠ 0 → s.dev.lkp.st = .ready →
      s.dev.sessionsUsed < min 256 s.dev.whf.limit →
      (List.range 256).find? (fun i => (s.dev.session i).st == .free && ((s.dev.session i).endAt.elim true fun t => passed s.clk t (msec 10000))) = some n →
      ∃ t a, exec (.join p) s = .next t ∧ (t.dev.session n).st = .joining ∧ (t.dev.session n).berths = p.mask &&& g ∧
        (t.dev.session n).joinAt = s.clk.tsc ∧ t.dev.whf.out = s.dev.whf.out ++ [a] ∧ a.typ = 0x03 ∧ a.session = n ∧ a.mask = p.mask &&& g ∧
        a.port = p.port ∧ a.addr = p.addr) ∧
    (∀ n, NextFromHost s n .joining p → p.typ = 0x05 → p.sigOk = true →
      ∃ t, exec (.joinConfirm p) s = .next t ∧ (t.dev.session n).st = .active ∧ (t.dev.session n).beatAt = s.clk.tsc) ∧
    (s.dev.netOpen p.port = true → (s.dev.port p.port).role = .storage → (∀ e ∈ s.dev.whf.sessions, e.2.spent = false) →
      (s.dev.session (256 + p.port)).st = .joining → (s.dev.session (256 + p.port)).txSeq + 8 < 2 ^ 63 →
      (s.dev.session (256 + p.port)).waitq = [] → (s.dev.session (256 + p.port)).unacked = [] →
      (p.typ = 0x03 → p.sigOk = true → p.key = (mget NetPort.reset s.dev.whf.netPorts p.port).appl →
        ∃ t a, exec (.joinAccept p) s = .next t ∧ (t.dev.session (256 + p.port)).st = .active ∧ t.dev.whf.out = s.dev.whf.out ++ [a] ∧ a.typ = 0x05) ∧
      (p.typ = 0x04 → ∃ t, exec (.joinReject p) s = .next t ∧ t.dev.session (256 + p.port) = Session.reset)) ∧
    (∀ n a x, NextFromHost s n .active p → p.typ = 0x11 → p.op.status = 0 → (s.dev.session n).winOut = [a] → a.req.op = .bulkWrite → a.bad = false →
      a.parts = [x] → x.1 = p.op.tag → (s.dev.session n).ops = [] →
      ∃ t b, exec (.resp p) s = .next t ∧ (t.dev.session n).winOut = [] ∧ t.dev.fab.net = s.dev.fab.net ++ [b] ∧ b.op = .writeAck ∧
        b.notPerf = false ∧ AnswerTo s a.req b) ∧
    (∀ n, FromHost s n .active p → p.typ = 0x13 → p.bitmap = 0 → p.reliable = false →
      ∃ t, exec (.ack p) s = .next t ∧ t.dev.whf.out = s.dev.whf.out ∧
        (t.dev.session n).unacked = (s.dev.session n).unacked.filter fun u => !decide (2 ^ 31 ≤ seqAfter u.rseq p.ack)) ∧
    (∀ n, FromHost s n .active p → p.typ = 0x14 → p.ackValid = false →
      let m := (s.dev.session n).missedBy s.clk
      (m.1 < 10 → ∃ t, exec (.heartbeat p) s = .next t ∧ (t.dev.session n).beat = true ∧ (t.dev.session n).missed = 0 ∧
        (t.dev.session n).beatAt = m.2 ∧ t.dev.whf.out = s.dev.whf.out) ∧
      (10 ≤ m.1 → ∃ t, exec (.heartbeat p) s = .next t ∧ (t.dev.session n).st = .free ∧ (t.dev.session n).lastEnd = 2)) ∧
    (∀ n, NextFromHost s n .active p → p.typ = 0x15 →
      ∃ t, exec (.leave p) s = .next t ∧ (t.dev.session n).st = .free ∧ (t.dev.session n).lastEnd = 1 ∧ (t.dev.session n).subs = [])

/-- R333, R338, R340, R342, R348, R351, R353, R354, R412: what the host bridge does in its own time, and at the ports: frames that the
port answers or discards, announcements, time limits, retransmission, heartbeats, held records, the grace time of a berth. The
formula of the smoothed round trip is the model's own (assumption 65); the statement holds for every value of it. -/
def Obligations.HostTimers : Prop :=
  ∀ (s : State), Calm s.dev → s.dev.stopped = false → (∀ e ∈ s.dev.whf.sessions, e.2.spent = false) →
    (∀ (port : Fin 18) f, (s.dev.port port).role = .host → (mget NetPort.reset s.dev.whf.netPorts port).up = true → s.dev.pwr.st ≠ .moored →
      f.kind ≠ .pause →
      let x := mget NetPort.reset s.dev.whf.netPorts port
      (f.kind = .arp → f.len ≤ x.frame → f.vlan = x.vlan → f.mine = true → f.fragment = false → f.cksumOk = true →
        ∃ t a, exec (.ethernetFrame port f) s = .next t ∧ t.dev.whf.out = s.dev.whf.out ++ [a] ∧ a.typ = 256 ∧ a.port = port.val ∧
          a.mac = x.mac ∧ a.addr = f.src) ∧
      (x.frame < f.len → ∃ t, exec (.ethernetFrame port f) s = .next t ∧ t.dev.whf.out = s.dev.whf.out ∧
        t.dev.whf.frames = satAdd 65535 s.dev.whf.frames 1)) ∧
    (∀ (port : Fin 18), (s.dev.port port).role = .host → s.dev.netOpen port = true →
      (mget NetPort.reset s.dev.whf.netPorts port).annAt + msec 1000 ≤ s.clk.tsc →
      ∃ t a, exec (.announce port) s = .next t ∧ t.dev.whf.out = s.dev.whf.out ++ [a] ∧ a.typ = 0x01 ∧ a.port = port.val ∧
        a.limit = packetLimit (mget NetPort.reset s.dev.whf.netPorts port).frame ∧ a.free = min 256 s.dev.whf.limit - s.dev.sessionsUsed ∧
        (mget NetPort.reset t.dev.whf.netPorts port).annAt = s.clk.tsc) ∧
    (∀ n : Fin 256, (s.dev.session n).st = .joining → (s.dev.session n).joinAt + msec 1000 ≤ s.clk.tsc →
      ∃ t, exec (.joinConfirmTimeout n) s = .next t ∧ (t.dev.session n).st = .free ∧ (t.dev.session n).endAt = some s.clk.tsc) ∧
    (∀ (n : Fin 512) (r : BitVec 32) u, (s.dev.session n).unacked.find? (fun u => u.rseq == r.toNat) = some u → (s.dev.session n).st = .active →
      u.sentAt + max (usec 50) (min (msec 20) (4 * (s.dev.session n).srtt)) ≤ s.clk.tsc → (s.dev.session n).txSeq < 2 ^ 63 →
      (s.dev.session n).spent = false →
      ∃ t a, exec (.retransmitTimeout n r) s = .next t ∧ t.dev.whf.out = s.dev.whf.out ++ [a] ∧ a.typ = u.pkt.typ ∧ a.rseq = u.pkt.rseq ∧
        a.seq = (s.dev.session n).txSeq ∧ (t.dev.session n).txSeq = (s.dev.session n).txSeq + 1) ∧
    (∀ n : Fin 512, (s.dev.session n).st = .active → (s.dev.session n).spent = false →
      ((s.dev.session n).hbAt + msec 100 ≤ s.clk.tsc → (s.dev.session n).txSeq < 2 ^ 63 →
        ∃ t a, exec (.heartbeatSend n) s = .next t ∧ t.dev.whf.out = s.dev.whf.out ++ [a] ∧ a.typ = 0x14 ∧ (t.dev.session n).hbAt = s.clk.tsc) ∧
      (let gone := (s.clk.tsc - (s.dev.session n).beatAt) / msec 100
       let missed := if (s.dev.session n).beat then gone - 1 else (s.dev.session n).missed + gone
       gone ≠ 0 →
        (missed < 10 → ∃ t, exec (.heartbeatTimeout n) s = .next t ∧ (t.dev.session n).missed = missed ∧ (t.dev.session n).beat = false ∧
          (t.dev.session n).st = .active) ∧
        (10 ≤ missed → ∃ t, exec (.heartbeatTimeout n) s = .next t ∧ (t.dev.session n).st = .free ∧ (t.dev.session n).lastEnd = 2)) ∧
      (∀ a x, (s.dev.session n).winOut = [a] → a.parts = [x] → a.since + msec 1000 ≤ s.clk.tsc →
        ∃ t, exec (.windowAccessTimeout n x.1) s = .next t ∧ (t.dev.session n).st = .free ∧ (t.dev.session n).lastEnd = 3)) ∧
    (∀ (n : Fin 256) (b : Fin 32) h, (s.dev.session n).held = [h] → h.berth = b.val → (s.dev.session n).st = .active →
      h.heldAt + usec (s.dev.berth b).coalesce ≤ s.clk.tsc → 1 ≤ s.dev.eventMax n → (s.dev.session n).unacked = [] → (s.dev.session n).waitq = [] →
      (s.dev.session n).gapFrom = [] → (s.dev.session n).txSeq < 2 ^ 63 → (s.dev.session n).spent = false →
      ∃ t a, exec (.eventCoalesceTimeout n b) s = .next t ∧ t.dev.whf.out = s.dev.whf.out ++ [a] ∧ a.typ = 0x12 ∧ a.reliable = true ∧
        a.events = [entryOf h] ∧ (t.dev.session n).held = []) ∧
    (∀ (b : Fin 32) since, (s.dev.berth b).graceSince = some since → since + msec (10 * (s.dev.berth b).grace) ≤ s.clk.tsc →
      s.dev.boundSessions b = 0 → (s.dev.berth b).st = .live →
      ((s.dev.berth b).headlessPol = true → ∃ t, exec (.graceTimeExpiry b) s = .next t ∧ (t.dev.berth b).headless = true ∧
        (t.dev.berth b).graceSince = none ∧ t.dev.ctl.ctxs = s.dev.ctl.ctxs) ∧
      ((s.dev.berth b).headlessPol = false → ∃ t, exec (.graceTimeExpiry b) s = .next t ∧
        ∀ x, (s.dev.ctx x).berth = b.val → (t.dev.ctx x).st ≠ .live)) ∧
    ∀ port : Fin 18, (mget NetPort.reset s.dev.whf.netPorts port).up = true →
      ∃ t, exec (.netPortDown port) s = .next t ∧ (mget NetPort.reset t.dev.whf.netPorts port).up = false ∧
        ∀ e ∈ s.dev.whf.sessions, e.2.st ≠ .free → e.2.port = port.val → (t.dev.session e.1).st = .free

/-! ### Commands and contexts -/

/-- R369, R372 to R377, R382, R383, R493, R497, R537: a work command that begins is read from its queue and has its effect: a LAUNCH is
in progress with its banks switched, a COPY is given a stream, a signal raises its fence and ends the waits that it reaches, a
wait ends or waits, a mark, a figure or a time is delivered. Memory, caches, hosts and clocks are unchanged. -/
def Obligations.WorkCommands : Prop :=
  ∀ (s : State) (q : Fin 4096) (m : Cmd),
    (Begins s q 1 m → bitAt (m.word 0) 8 = false → groupRegs m.regs * m.groups ≤ 131072 →
      ∃ t, exec (.launch q) s = .next t ∧ Took s t q ∧ QueueFrame s t ∧ m ∈ (t.dev.queue q).cmds ∧ m.status = none ∧
        (t.dev.queue q).cur = { Bank.reset with tag := BitVec.ofNat 64 m.seq, opener := 1, opened := true } ∧
        (t.dev.queue q).last = { (s.dev.queue q).cur with final := true, opened := false }) ∧
    (∀ n, Begins s q 2 m → s.dev.streamsOf (s.dev.queue q).berth < (s.dev.berth (s.dev.queue q).berth).streamLimit → s.dev.freeStream q = some n →
      ∃ t, exec (.copy q) s = .next t ∧ Took s t q ∧ QueueFrame s t ∧ m ∈ (t.dev.queue q).cmds ∧ (t.dev.stream n).st = .running ∧
        (t.dev.stream n).ctx = m.ctx ∧ (t.dev.stream n).queue = q ∧ (t.dev.stream n).order = m.order ∧ (t.dev.stream n).list = m.word 3 ∧
        (t.dev.stream n).count = m.word 4 ∧ (t.dev.stream n).di = 0 ∧ ∀ i, i ≠ n → t.dev.stream i = s.dev.stream i) ∧
    (Begins s q 3 m → m.fenceDev = s.dev.id → s.dev.mayFence m.fenceNo m.ctx s.dev.id true = true →
      (s.dev.fence m.fenceNo).value ≠ aborted → (s.dev.fence m.fenceNo).value.toNat < m.word 4 →
      ∃ t, exec (.fenceSignal q) s = .next t ∧ Took s t q ∧ QueueFrame s t ∧ (∃ x ∈ (t.dev.queue q).cmds, x.order = m.order ∧ x.status = some 0) ∧
        (t.dev.fence m.fenceNo).value = BitVec.ofNat 64 (m.word 4) ∧
        (t.dev.fence m.fenceNo).waiters = (s.dev.fence m.fenceNo).waiters.filter (fun w => !decide (w.target.toNat ≤ m.word 4)) ∧
        ∀ w ∈ (s.dev.fence m.fenceNo).waiters, w.target.toNat ≤ m.word 4 → Finishes s t w.queue w.order 0 (m.word 4)) ∧
    (Begins s q 3 m → m.fenceDev ≠ s.dev.id → s.dev.imported m.ctx m.fenceNo m.fenceDev = true → s.dev.reachable m.fenceDev = true →
      ∃ t a b, exec (.fenceSignal q) s = .next t ∧ Took s t q ∧ QueueFrame s t ∧ t.dev.fab.net = s.dev.fab.net ++ [a, b] ∧
        a.op = .mgmtWrite ∧ a.dst = m.fenceDev ∧ a.off = fenOff m.fenceNo + 0x18 ∧ a.data = [BitVec.ofNat 64 (m.word 4 % 2 ^ 32)] ∧
        b.op = .mgmtWrite ∧ b.dst = m.fenceDev ∧ b.off = fenOff m.fenceNo + 0x1C ∧ b.data = [BitVec.ofNat 64 (m.word 4 / 2 ^ 32)]) ∧
    (Begins s q 4 m → m.fenceDev = s.dev.id → s.dev.mayFence m.fenceNo m.ctx s.dev.id false = true →
      (s.dev.fence m.fenceNo).value ≠ aborted →
      (m.word 4 ≤ (s.dev.fence m.fenceNo).value.toNat → ∃ t, exec (.fenceWait q) s = .next t ∧ Took s t q ∧ QueueFrame s t ∧
        HasStatus t q m 0 (s.dev.fence m.fenceNo).value.toNat) ∧
      ((s.dev.fence m.fenceNo).value.toNat < m.word 4 → ∃ t, exec (.fenceWait q) s = .next t ∧ Took s t q ∧ QueueFrame s t ∧
        (t.dev.fence m.fenceNo).waiters = (s.dev.fence m.fenceNo).waiters ++
          [{ queue := q, order := m.order, ctx := m.ctx, target := BitVec.ofNat 64 (m.word 4) }] ∧
        ∃ x ∈ (t.dev.queue q).cmds, x.order = m.order ∧ x.status = none ∧ x.waiting = true ∧
          x.deadline = if bitsAt (m.word 5) 0 32 = 0 then none else some (s.clk.tsc + usec (bitsAt (m.word 5) 0 32)))) ∧
    (Begins s q 5 m → ∃ t, exec (.batchMark q) s = .next t ∧ Took s t q ∧ QueueFrame s t ∧ HasStatus t q m 0 0 ∧
      (t.dev.queue q).cur = { Bank.reset with tag := BitVec.ofNat 64 (m.word 3), opener := 5, opened := true } ∧
      (t.dev.queue q).last = { (s.dev.queue q).cur with final := true, opened := false }) ∧
    (∀ e, Begins s q 6 m → ResultOpen s m e (m.word 3) 64 → m.word 4 < 4096 → (s.dev.ctx (m.word 4)).st = .live →
      (s.dev.ctx (m.word 4)).berth = (s.dev.queue q).berth →
      ∃ t, exec (.queryUsage q) s = .next t ∧ Took s t q ∧ QueueFrame s t ∧
        ResultSent s t q m e (m.word 3) ((s.dev.usage s.clk (m.word 4)).flatMap fun v => bytesOf 8 v)) ∧
    (∀ e, Begins s q 7 m → ResultOpen s m e (m.word 3) 8 →
      ∃ t, exec (.timestampWrite q) s = .next t ∧ Took s t q ∧ QueueFrame s t ∧ ResultSent s t q m e (m.word 3) (bytesOf 8 (gtime s.clk s.dev))) ∧
    (Begins s q 8 m →
      (s.dev.ldg.enable = false → (∀ r ∈ (mget LdgBuf.reset s.dev.ldg.bufs (cpSource q)).recs, r.queue ≠ some (q.val, m.order)) →
        ∃ t, exec (.ledgerMark q) s = .next t ∧ Took s t q ∧ QueueFrame s t ∧ HasStatus t q m 0 0 ∧ t.dev.ldg = s.dev.ldg) ∧
      (s.dev.ldg.enable = true → (s.dev.ctx m.ctx).ledger = true → (mget LdgBuf.reset s.dev.ldg.bufs (cpSource q)).recs.length < 63 →
        ∃ t, exec (.ledgerMark q) s = .next t ∧ Took s t q ∧ QueueFrame s t ∧ m ∈ (t.dev.queue q).cmds ∧
          ∃ r ∈ (mget LdgBuf.reset t.dev.ldg.bufs (cpSource q)).recs, r.kind = 0x0A ∧ r.queue = some (q.val, m.order) ∧
            r.obj = BitVec.ofNat 64 (m.word 3) ∧ r.ctx = m.ctx ∧ r.time = gtime s.clk s.dev))

/-- R264 to R269, R285, R290, R359, R360, R368, R369, R381, R413, R416, R71 to R74: what the commands of an admin queue do to contexts,
ranges, fences, parked groups and streams, and berths. An UNMAP's, an abort's and a reset's first stage in one step are the
model's choice (assumption 39). -/
def Obligations.AdminCommands : Prop :=
  ∀ (s : State) (q : Fin 4096) (m : Cmd),
    (∀ x, Begins s q 0x40 m → lowestFree 4096 (s.dev.ctl.ctxs.filterMap fun e => if e.2.st = .free then none else some e.1) = some x →
      (s.dev.ctl.ctxs.filter fun e => e.2.st != .free && e.2.berth == (s.dev.queue q).berth).length < (s.dev.berth (s.dev.queue q).berth).ctxLimit →
      ∃ t, exec (.createContext q) s = .next t ∧ Took s t q ∧ QueueFrame s t ∧ HasStatus t q m 0 x ∧
        t.dev.ctx x = { Ctx.reset with
          st := .live, berth := (s.dev.queue q).berth, inst := s.dev.ctl.nextInst, area := m.word 3, cap := bitsAt (m.word 4) 0 5
          scalePinned := bitAt (m.word 4) 5, ledger := bitAt (m.word 4) 6 } ∧
        ∀ y, y ≠ x → t.dev.ctx y = s.dev.ctx y) ∧
    (Begins s q 0x41 m → (s.dev.ctx m.ctx).st = .aborted → (s.dev.ctx m.ctx).abort = none → (s.dev.ctx m.ctx).orphans = 0 →
      ∃ t, exec (.destroyContext q) s = .next t ∧ Took s t q ∧ QueueFrame s t ∧ HasStatus t q m 0 0 ∧ t.dev.ctx m.ctx = Ctx.reset ∧
        ∀ y, y ≠ m.ctx → t.dev.ctx y = s.dev.ctx y) ∧
    (let e := BitVec.ofNat 256 (m.word 3 + 2 ^ 64 * m.word 4 + 2 ^ 128 * m.word 5 + 2 ^ 192 * m.word 6)
     let hits := (s.dev.table m.ctx).filter fun o => reOverlaps o (reStart e) (reEnd e)
     let table := reInsert e ((s.dev.table m.ctx).flatMap fun o =>
       if reOverlaps o (reStart e) (reEnd e) then reOutside o (reStart e) (reEnd e) else [o])
     let may := fun o => !reWithdrawing o && (decide (2 ≤ reRes o) || reWidens o e)
     Begins s q 0x42 m →
      (s.dev.mapInvalid (s.dev.ctx m.ctx).berth e = true → ∃ t, exec (.map q) s = .next t ∧ Took s t q ∧ QueueFrame s t ∧ HasStatus t q m 1 0) ∧
      (s.dev.mapInvalid (s.dev.ctx m.ctx).berth e = false →
        (hits.all may = false → ∃ t, exec (.map q) s = .next t ∧ Took s t q ∧ QueueFrame s t ∧ HasStatus t q m 2 0) ∧
        (hits.all may = true → 2 ^ (s.dev.ctx m.ctx).cap < table.length →
          ∃ t, exec (.map q) s = .next t ∧ Took s t q ∧ QueueFrame s t ∧ HasStatus t q m 3 0) ∧
        (hits.all may = true → table.length ≤ 2 ^ (s.dev.ctx m.ctx).cap →
          (s.dev.oldWalks m.ctx = true → ∃ o, hits = [o] ∧ reWidens o e = true) →
          ∃ t, exec (.map q) s = .next t ∧ Took s t q ∧ HasStatus t q m 0 0 ∧ (t.dev.ctx m.ctx).epoch = (s.dev.ctx m.ctx).epoch ∧
            (∀ o, hits = [o] → reWidens o e = true → (t.dev.ctx m.ctx).count = (s.dev.ctx m.ctx).count ∧
              (t.dev.ctx m.ctx).image = (s.dev.ctx m.ctx).image) ∧
            ((∀ o, hits = [o] → reWidens o e = false) → (t.dev.ctx m.ctx).count = table.length ∧
              (t.dev.ctx m.ctx).image = 1 - (s.dev.ctx m.ctx).image)))) ∧
    (let a := m.word 3 / 4096
     let b := (m.word 3 + m.word 4) / 4096
     let hit := fun o => reOverlaps o a b && !reWithdrawing o
     let table := (s.dev.table m.ctx).flatMap fun o => if hit o then
         (if reStart o < a then [rePiece o (reStart o) a] else []) ++
         [reSet (rePiece o (max a (reStart o)) (min b (reEnd o))) 52 1 1] ++ (if b < reEnd o then [rePiece o b (reEnd o)] else [])
       else [o]
     Begins s q 0x43 m → (s.dev.ctx m.ctx).unmaps.length < 4 → s.dev.oldWalks m.ctx = false →
      ((s.dev.table m.ctx).any hit = false → ∃ t, exec (.unmap q) s = .next t ∧ Took s t q ∧ QueueFrame s t ∧ HasStatus t q m 4 0) ∧
      ((s.dev.table m.ctx).any hit = true → table.length ≤ 2 ^ (s.dev.ctx m.ctx).cap →
        ∃ t, exec (.unmap q) s = .next t ∧ Took s t q ∧ m ∈ (t.dev.queue q).cmds ∧
          (t.dev.ctx m.ctx).epoch = ((s.dev.ctx m.ctx).epoch + 1) % 65536 ∧ (t.dev.ctx m.ctx).count = table.length ∧
          (t.dev.ctx m.ctx).unmaps = (s.dev.ctx m.ctx).unmaps ++ [{ UnmapRec.reset with
            queue := q, order := m.order, start := m.word 3, len := m.word 4, epoch := ((s.dev.ctx m.ctx).epoch + 1) % 65536, since := s.clk.tsc }])) ∧
    (let n := bitsAt (m.word 3) 0 12
     ∀ f, Begins s q 0x44 m → (s.dev.stream n).st = .faulted → (s.dev.stream n).fault = some f →
      ((s.dev.stream n).ctx = m.ctx → f.tag = bitsAt (m.word 3) 16 16 → f.pend = false → gtime s.clk s.dev ≤ f.time + msec s.dev.lkp.parkLimit →
        ∃ t, exec (.resumeStream q) s = .next t ∧ Took s t q ∧ QueueFrame s t ∧ HasStatus t q m 0 0 ∧ (t.dev.stream n).st = .running ∧
          (t.dev.stream n).fault = none ∧ ∀ i, i ≠ n → t.dev.stream i = s.dev.stream i) ∧
      (f.tag ≠ bitsAt (m.word 3) 16 16 → ∃ t, exec (.resumeStream q) s = .next t ∧ Took s t q ∧ QueueFrame s t ∧ HasStatus t q m 8 0 ∧
        t.dev.stream n = s.dev.stream n)) ∧
    (∀ c gs p, Begins s q 0x45 m → s.dev.parkedOf s.clk m = some (c, gs, p) →
      ∃ t, exec (.replayGroup q) s = .next t ∧ Took s t q ∧ HasStatus t q m 0 0 ∧ (t.dev.group c gs).st = .running ∧
        (t.dev.group c gs).pc = p.pc ∧ (t.dev.group c gs).active = p.active &&& ~~~p.completed ∧ (t.dev.group c gs).park = none) ∧
    (Begins s q 0x45 m → s.dev.parkedOf s.clk m = none →
      ∃ t, exec (.replayGroup q) s = .next t ∧ Took s t q ∧ QueueFrame s t ∧ HasStatus t q m 7 0) ∧
    (∀ c gs p, Begins s q 0x46 m → s.dev.parkedOf s.clk m = some (c, gs, p) → ((s.dev.core c).blockOf gs).queue ≠ q →
      ∃ t, exec (.killGroup q) s = .next t ∧ Took s t q ∧ HasStatus t q m 0 0 ∧
        ((t.dev.group c gs).st = .exited ∨ (t.dev.group c gs).st = .free)) ∧
    (let f := m.fenceNo
     let x := bitsAt (m.word 4) 0 16
     let new : Export := { ctx := x, dev := s.dev.id, signal := bitAt (m.word 4) 28 }
     Begins s q 0x47 m → bitsAt (m.word 4) 16 12 = s.dev.id → bitAt (m.word 4) 29 = false → (s.dev.fence f).valid = true →
      (s.dev.fence f).owner = m.ctx → (∀ e ∈ (s.dev.fence f).exports, ¬ (e.ctx = x ∧ e.dev = s.dev.id)) →
      ((s.dev.fence f).exports.length + s.dev.exporting f < 8 → s.dev.ctl.imports.length < 16384 → s.dev.imported x f s.dev.id = false →
        ∃ t, exec (.exportFence q) s = .next t ∧ Took s t q ∧ QueueFrame s t ∧ HasStatus t q m 0 0 ∧
          (t.dev.fence f).exports = (s.dev.fence f).exports ++ [new] ∧
          t.dev.ctl.imports = s.dev.ctl.imports ++ [{ ctx := x, fence := f, dev := s.dev.id, signal := new.signal }]) ∧
      ((s.dev.fence f).exports.length = 8 → ∃ t, exec (.exportFence q) s = .next t ∧ Took s t q ∧ QueueFrame s t ∧ HasStatus t q m 3 0 ∧
        t.dev.fence f = s.dev.fence f)) ∧
    (let b := bitsAt (m.word 3) 0 5
     Begins s q 0x48 m →
      (∀ r, (s.dev.berth b).st = .resetting → (s.dev.berth b).rst = some r → ∃ t, exec (.berthReset q) s = .next t ∧ Took s t q ∧
        QueueFrame s t ∧ m ∈ (t.dev.queue q).cmds ∧ (t.dev.berth b).rst = some { r with waits := r.waits ++ [(q.val, m.order)] }) ∧
      ((s.dev.berth b).st = .live → (∀ e ∈ s.dev.ctl.ctxs, e.2.berth ≠ b) → (∀ n, mget [] (s.dev.slice n).held b = []) →
        ∃ t, exec (.berthReset q) s = .next t ∧ Took s t q ∧ m ∈ (t.dev.queue q).cmds ∧ (t.dev.berth b).st = .resetting ∧
          (t.dev.berth b).rst = some { ResetRec.reset with scrub := bitAt (m.word 3) 5, begin := gtime s.clk s.dev, waits := [(q.val, m.order)] }))

/-- R362, R363, R366, R369 to R371, R376, R377, R382, R411: a finished command is posted: its signal is applied, its record written, and it
leaves the queue, which halts on an error when it is set to; a record waits for room in its ring, with the queue halted already. A record that is refused and
a NOP finish at once. A wait times out, and a remote fence is polled. That a NOP and a refused record begin as they finish is
the model's choice (assumption 47). -/
def Obligations.CommandsPost : Prop :=
  ∀ (s : State) (q : Fin 4096) (m : Cmd), Calm s.dev → s.dev.latent = [] → s.dev.stopped = false →
    let b := (s.dev.queue q).berth
    let r := bitsAt (m.word 1) 4 4
    let a := (s.dev.ring b r).base + 64 * ((s.dev.ring b r).prod.toNat % 2 ^ (s.dev.ring b r).sizeLog2)
    let rest := (s.dev.queue q).cmds.filter fun x => x.order != m.order
    (s.dev.berth b).st ≠ .resetting →
    (∀ st, s.dev.nextPost q = some m → s.dev.cmd q m.order = some m → m.status = some st → m.signalled = false →
      (bitAt (m.word 1) 8 = false → st = 0 → bitAt (m.word 0) 9 = false →
        ∃ t, exec (.commandCompletion q) s = .next t ∧ QueueFrame s t ∧ (t.dev.queue q).cmds = rest ∧
          (t.dev.queue q).halted = ((s.dev.queue q).halted || m.poisoned)) ∧
      (bitAt (m.word 1) 8 = true → st = 0 → bitAt (m.word 0) 9 = false →
        let f := bitsAt (m.word 1) 16 16
        s.dev.mayFence f m.ctx s.dev.id true = true → (s.dev.fence f).value.toNat < m.word 2 → m.word 2 ≠ 2 ^ 64 - 1 →
        ∃ t, exec (.commandCompletion q) s = .next t ∧ QueueFrame s t ∧ (t.dev.queue q).cmds.filter (fun x => x.order == m.order) = [] ∧
          (t.dev.fence f).value = BitVec.ofNat 64 (m.word 2)) ∧
      (bitAt (m.word 1) 8 = false → st ≠ 0 ∨ bitAt (m.word 0) 9 = true → (s.dev.ring b r).enable = true →
        ((s.dev.ring b r).full = false → (s.dev.ring b r).base % 64 = 0 → AtRest s.dev (2 ^ 38 * s.dev.id + a / 128) →
          ∃ t, exec (.commandCompletion q) s = .next t ∧ (t.dev.queue q).cmds = rest ∧ (t.dev.ring b r).prod = (s.dev.ring b r).prod + 1 ∧
            (t.dev.queue q).halted = ((s.dev.queue q).halted || m.poisoned || ((s.dev.queue q).haltOn && st != 0)) ∧
            t.dev.peek (keyId b 0) a 64 = (eventRec 0x10 st m.opcode (s.dev.effClass b m.cls) m.ctx q m.seq m.result.toNat
              (gtime s.clk s.dev) m.begin).toNat) ∧
        ((s.dev.ring b r).full = true → ∃ t, exec (.commandCompletion q) s = .next t ∧ QueueFrame s t ∧
          (t.dev.queue q).halted = ((s.dev.queue q).halted || m.poisoned || ((s.dev.queue q).haltOn && st != 0)) ∧
          t.dev.ring b r = s.dev.ring b r ∧ ∃ x ∈ (t.dev.queue q).cmds, x.order = m.order ∧ x.status = some st ∧ x.signalled = true))) ∧
    (s.dev.nextPost q = none →
      (Begins s q 0 m → ∃ t, exec (.commandCompletion q) s = .next t ∧ Took s t q ∧ QueueFrame s t ∧ HasStatus t q m 0 0) ∧
      (∀ op st, AtHead s q op m → s.dev.cmdCheck q m = some st →
        ∃ t, exec (.commandCompletion q) s = .next t ∧ Took s t q ∧ QueueFrame s t ∧ HasStatus t q m st 0)) ∧
    (∀ n, s.dev.cmd q n = some m → m.opcode = 4 → m.status = none →
      (∀ late, m.fenceDev = s.dev.id → m.deadline = some late → late ≤ s.clk.tsc →
        ∃ t, exec (.fenceWaitTimeout q n) s = .next t ∧ QueueFrame s t ∧ Finishes s t q n 0x0D (s.dev.fence m.fenceNo).value.toNat ∧
          (t.dev.fence m.fenceNo).waiters = (s.dev.fence m.fenceNo).waiters.filter fun w => !(w.queue == q.val && w.order == n)) ∧
      (m.fenceDev ≠ s.dev.id → m.reqs = [] → m.pollAt + usec 1 ≤ s.clk.tsc → s.dev.reachable m.fenceDev = true →
        ∃ t x y, exec (.remoteFencePoll q n) s = .next t ∧ QueueFrame s t ∧ t.dev.fab.net = s.dev.fab.net ++ [x, y] ∧ x.op = .mgmtRead ∧
          x.dst = m.fenceDev ∧ x.off = fenOff m.fenceNo ∧ x.cnt = 4 ∧ y.op = .mgmtRead ∧ y.dst = m.fenceDev ∧
          y.off = fenOff m.fenceNo + 4 ∧ y.cnt = 4))

/-- R290, R292, R359, R379, R385, R386, R413: how an UNMAP, an abort and a berth reset end: the commands that wait for them finish, with
ORPHANED and the count when transactions were left behind; an aborted context's fences hold ABORTED; a reset berth has a new
key, empty queues and no contexts. -/
def Obligations.ContextsEnd : Prop :=
  ∀ (s : State), Calm s.dev → s.dev.latent = [] → s.dev.stopped = false →
    (∀ (x : Fin 4096) u rest, (s.dev.ctx x).unmaps = u :: rest → (s.dev.ctx x).st = .live → s.dev.oldWalks x = false →
      let old := olderTag (s.dev.ctx x).epoch u.epoch
      let gone := fun o => reWithdrawing o && decide (u.start / 4096 ≤ reStart o) && decide (reEnd o ≤ (u.start + u.len) / 4096)
      let count := ((s.dev.table x).filter fun o => !gone o).length
      (s.dev.outstanding x old = 0 → ∃ t, exec (.unmapDrainComplete x) s = .next t ∧ (t.dev.ctx x).unmaps = rest ∧
        (t.dev.ctx x).count = count ∧ Finishes s t u.queue u.order 0 0) ∧
      (s.dev.outstanding x old ≠ 0 → u.since + msec 50 ≤ s.clk.tsc → ∃ t, exec (.unmapBoundExpiry x) s = .next t ∧
        (t.dev.ctx x).unmaps = rest ∧ (t.dev.ctx x).count = count ∧ Finishes s t u.queue u.order 5 (s.dev.orphan x old false).1 ∧
        (t.dev.ctx x).orphans = satAdd 65535 (s.dev.ctx x).orphans (s.dev.orphan x old false).1)) ∧
    (∀ (x : Fin 4096) a, (s.dev.ctx x).abort = some a →
      (s.dev.outstanding x (fun _ => true) = 0 → s.dev.cancelling x = [] →
        ∃ t, exec (.contextAbortComplete x) s = .next t ∧ (t.dev.ctx x).abort = none ∧ (t.dev.ctx x).count = 0 ∧ (t.dev.ctx x).unmaps = [] ∧
          (∀ f, (s.dev.fence f).valid = true → (s.dev.fence f).owner = x.val → (t.dev.fence f).value = aborted ∧ (t.dev.fence f).waiters = []) ∧
          (∀ i ∈ t.dev.ctl.imports, i.ctx ≠ x.val) ∧ (∀ u ∈ (s.dev.ctx x).unmaps, Finishes s t u.queue u.order 0 0) ∧
          ((∀ e ∈ s.dev.ctl.fences, e.2.valid = true → e.2.owner ≠ x.val) → ∀ w ∈ a.waits, Finishes s t w.1 w.2 0 0)) ∧
      (s.dev.outstanding x (fun _ => true) ≠ 0 → a.since + msec 12 ≤ s.clk.tsc →
        ∃ t, exec (.abortBoundExpiry x) s = .next t ∧ (t.dev.ctx x).abort = none ∧ (t.dev.ctx x).count = 0 ∧ (t.dev.ctx x).unmaps = [] ∧
          ((∀ e ∈ s.dev.ctl.fences, e.2.valid = true → e.2.owner ≠ x.val) → (s.dev.orphan x (fun _ => true) true).1 ≠ 0 →
            ∀ w ∈ a.waits, (∀ m ∈ (s.dev.queue w.1).cmds, m.order = w.2 → m.opcode = 0x41) →
              (∀ e ∈ s.dev.ctl.streams, (e.2.queue, e.2.order) ≠ w) → Finishes s t w.1 w.2 5 (s.dev.orphan x (fun _ => true) true).1))) ∧
    ∀ (b : Fin 32) r, (s.dev.berth b).rst = some r → s.dev.dirLines b = [] → s.dev.farLines b = [] →
      (∀ e ∈ s.dev.ctl.ctxs, e.2.berth = b.val → s.dev.ctx e.1 = e.2 ∧ e.2.st = .aborted ∧ e.2.abort = none ∧ e.2.orphans = 0) →
      ∃ t, exec (.berthResetComplete b) s = .next t ∧ (t.dev.berth b).st = .live ∧ (t.dev.berth b).rst = none ∧
        (t.dev.berth b).keyGen = (s.dev.berth b).keyGen + 1 ∧ (t.dev.berth b).resets = ((s.dev.berth b).resets + 1) % 256 ∧
        (t.dev.berth b).fqProd = 0 ∧ (t.dev.berth b).fqCons = 0 ∧ (t.dev.berth b).overflow = false ∧
        (∀ x, (s.dev.ctx x).berth = b.val → (s.dev.ctx x).st ≠ .free → t.dev.ctx x = Ctx.reset) ∧
        (∀ q, (s.dev.queue q).berth = b.val → (t.dev.queue q).cmds = [] ∧ (t.dev.queue q).enable = false) ∧
        (∀ f, (s.dev.fence f).berth = b.val → (t.dev.fence f).valid = false) ∧
        ∀ w ∈ r.waits, (s.dev.queue w.1).berth ≠ b.val → Finishes s t w.1 w.2 0 0

/-! ### Registers -/

/-- R362, R366, R392, R509, R513: what a write of a queue's registers through a window that reaches it changes: a doorbell in range moves
the tail and one out of range sets the error bit; enabling starts the queue empty; an idle or halted queue may be disabled; a
halted one resumes, or discards its records. Nothing else changes. A window that does not reach the queue changes nothing. -/
def Obligations.QueueRegisters : Prop :=
  ∀ (s : State) (w : Fin 32) (q : Fin 4096), Calm s.dev →
    let x := s.dev.queue q
    let gives := fun (c : Instr) (f : Queue → Queue) => ∃ t, exec c s = .next t ∧ Settled s (s.dev.updQueue q f) t
    let same := fun (c : Instr) => ∃ t, exec c s = .next t ∧ Settled s s.dev t
    (s.dev.queWindow w q = false → ∀ v, same (.queDoorbell w q v) ∧ same (.queEnable w q) ∧ same (.queDisable w q) ∧
      same (.queResume w q) ∧ same (.queDiscard w q)) ∧
    (s.dev.queWindow w q = true →
      (∀ v : BitVec 32, x.enable = true →
        ((x.tail - x.head).toNat ≤ (v - x.head).toNat → (v - x.head).toNat ≤ 2 ^ x.sizeLog2 →
          gives (.queDoorbell w q v) fun x => { x with tail := v }) ∧
        ((v - x.head).toNat < (x.tail - x.head).toNat ∨ 2 ^ x.sizeLog2 < (v - x.head).toNat →
          gives (.queDoorbell w q v) fun x => { x with dbErr := true })) ∧
      (x.enable = false → x.granted = true → 4 ≤ x.sizeLog2 ∧ x.sizeLog2 ≤ 16 →
        ((x.base % (64 * 2 ^ x.sizeLog2) = 0 ∧ s.dev.ownsSpan x.berth x.base (64 * 2 ^ x.sizeLog2) = true) →
          gives (.queEnable w q) fun x => { x with
            enable := true, head := 0, tail := 0, recent := [], cur := Bank.reset, last := Bank.reset, halted := false }) ∧
        ((x.base % (64 * 2 ^ x.sizeLog2) ≠ 0 ∨ s.dev.ownsSpan x.berth x.base (64 * 2 ^ x.sizeLog2) = false) →
          gives (.queEnable w q) id)) ∧
      (x.enable = true → x.sizeLog2 ≤ 16 →
        (x.state = 1 ∨ x.state = 4 → gives (.queDisable w q) fun x => { x with enable := false, halted := false }) ∧
        (x.state = 2 ∨ x.state = 3 → gives (.queDisable w q) id)) ∧
      (x.halted = true → gives (.queResume w q) (fun x => { x with halted := false }) ∧
        gives (.queDiscard w q) fun x => { x with head := x.tail, halted := false }) ∧
      (x.halted = false → gives (.queResume w q) id ∧ gives (.queDiscard w q) id))

/-- R374 to R376, R378, R380, R392: what a write of a fence's registers changes: a signal raises the value and ends the waits that it
reaches; a rebase sets the value of a valid fence on which nothing waits, and is refused otherwise; a configuration makes a Live
context of the berth its owner with value 0, and is refused while the fence is in use. That a rebase of a fence that is not
valid is refused is the model's reading (assumption 58). -/
def Obligations.FenceRegisters : Prop :=
  ∀ (s : State) (w : Fin 32) (f : Fin 65536), Calm s.dev → s.dev.latent = [] →
    let x := s.dev.fence f
    let gives := fun (c : Instr) (g : Fence → Fence) => ∃ t, exec c s = .next t ∧ Settled s (s.dev.updFence f g) t
    let same := fun (c : Instr) => ∃ t, exec c s = .next t ∧ Settled s s.dev t
    (s.dev.fenWindow w f = false → ∀ v u, same (.fenSignal w f v) ∧ same (.fenRebase w f v) ∧ same (.fenConfigWrite w f u)) ∧
    (s.dev.fenWindow w f = true →
      (∀ v : BitVec 64, x.valid = true → x.value ≠ aborted → x.value.toNat < v.toNat → v ≠ aborted →
        ∃ t, exec (.fenSignal w f v) s = .next t ∧ QueueFrame s t ∧ (t.dev.fence f).value = v ∧
          (t.dev.fence f).waiters = x.waiters.filter (fun y => !decide (y.target.toNat ≤ v.toNat)) ∧
          ∀ y ∈ x.waiters, y.target.toNat ≤ v.toNat → Finishes s t y.queue y.order 0 v.toNat) ∧
      (∀ v : BitVec 64, x.valid = true → x.value = v ∨ x.value = aborted → same (.fenSignal w f v)) ∧
      (∀ v : BitVec 64, x.valid = true → x.value ≠ aborted → v.toNat < x.value.toNat → ∃ t, exec (.fenSignal w f v) s = .next t ∧
        t.dev.fence f = { x with ooo := satAdd (2 ^ 32 - 1) x.ooo 1 } ∧ (x.strict = false → QueueFrame s t) ∧
        (x.strict = true → (s.dev.ring x.berth 0).enable = true → (s.dev.ring x.berth 0).full = false →
          (t.dev.ring x.berth 0).prod = (s.dev.ring x.berth 0).prod + 1)) ∧
      (∀ v : BitVec 64,
        (x.waiters = [] → x.valid = true → v ≠ aborted → gives (.fenRebase w f v) fun x => { x with value := v }) ∧
        (x.waiters ≠ [] ∨ x.valid = false ∨ v = aborted → gives (.fenRebase w f v) fun x => { x with rebRefused := true })) ∧
      (∀ v : BitVec 32,
        let o := bitsAt v.toNat 0 16
        let flags := fun (x : Fence) => { x with
          strict := bitAt v.toNat 17, rebRefused := x.rebRefused && !bitAt v.toNat 18, cfgRefused := x.cfgRefused && !bitAt v.toNat 29 }
        (o = x.owner → bitAt v.toNat 16 = x.valid → gives (.fenConfigWrite w f v) flags) ∧
        (x.valid = false → bitAt v.toNat 16 = true → x.granted = true → (s.dev.ctx o).st = .live → (s.dev.ctx o).berth = x.berth →
          gives (.fenConfigWrite w f v) fun x => { flags x with owner := o, valid := true, value := 0, ooo := 0 }) ∧
        (x.valid = true → o ≠ x.owner ∨ bitAt v.toNat 16 = false → x.waiters ≠ [] ∨ x.exports ≠ [] →
          gives (.fenConfigWrite w f v) fun x => { flags x with cfgRefused := true })))

/-- R286, R287, R397, R410, R411, R419, R437: what a write of a berth's registers changes: consumer indexes free slots of the fault queue and
of the rings, a Pending record is posted in a freed slot, rings are enabled empty, the owner of a page changes in two steps, a
report is asked for and given. -/
def Obligations.BerthRegisters : Prop :=
  ∀ (s : State) (w b : Fin 32), Calm s.dev → s.dev.latent = [] → s.dev.bthWindow w b = true →
    let x := s.dev.berth b
    (∀ v : BitVec 32, (v - x.fqCons).toNat ≤ (x.fqProd - x.fqCons).toNat →
      (s.dev.hasPending b = false → ∃ t, exec (.bthFqConsWrite w b v) s = .next t ∧ t.dev.mem = s.dev.mem ∧
        t.dev.berth b = { x with fqCons := v, overflow := false } ∧ ∀ o, o ≠ b.val → t.dev.berth o = s.dev.berth o) ∧
      (∀ n f, s.dev.pendings b = [n] → n < 4096 → (s.dev.stream n).berth = b.val → (s.dev.stream n).fault = some f → f.pend = true → 0 < (v - x.fqCons).toNat → (x.fqProd - v).toNat < 2 ^ x.fqSize →
        ∃ t, exec (.bthFqConsWrite w b v) s = .next t ∧ (t.dev.berth b).fqCons = v ∧ (t.dev.berth b).fqProd = x.fqProd + 1 ∧
          (t.dev.stream n).st = .faulted ∧ (t.dev.stream n).fault = some { f with pend := false })) ∧
    (∀ (r : Fin 16) (v : BitVec 32),
      let y := s.dev.ring b r
      ((v - y.cons).toNat ≤ (y.prod - y.cons).toNat →
        ∃ t, exec (.bthRingConsWrite w b r v) s = .next t ∧ Settled s (s.dev.updRing b r fun y => { y with cons := v }) t) ∧
      ((y.prod - y.cons).toNat < (v - y.cons).toNat →
        ∃ t, exec (.bthRingConsWrite w b r v) s = .next t ∧ Settled s (s.dev.updRing b r id) t) ∧
      (r = 0 → ∃ t, exec (.bthRingEnable w b r v) s = .next t ∧ Settled s s.dev t) ∧
      (r ≠ 0 → y.enable = false → bitAt v.toNat 0 = true → 4 ≤ bitsAt v.toNat 1 5 ∧ bitsAt v.toNat 1 5 ≤ 20 →
        y.base % (64 * 2 ^ bitsAt v.toNat 1 5) = 0 → s.dev.ownsSpan b y.base (64 * 2 ^ bitsAt v.toNat 1 5) = true →
        ∃ t, exec (.bthRingEnable w b r v) s = .next t ∧
          Settled s (s.dev.updRing b r fun y => { y with sizeLog2 := bitsAt v.toNat 1 5, enable := true, prod := 0, cons := 0 }) t) ∧
      (r ≠ 0 → y.enable = true → bitAt v.toNat 0 = false →
        ∃ t, exec (.bthRingEnable w b r v) s = .next t ∧ Settled s (s.dev.updRing b r fun y => { y with enable := false }) t)) ∧
    (∀ v : BitVec 32, s.dev.bthWindow 0 0 = true → s.dev.mem.grant = none →
      let page := bitsAt v.toNat 0 25
      let o := bitsAt v.toNat 25 5
      let entry := mget 0 s.dev.mem.owner page
      (page < hbmSize / 65536 → bitAt entry 5 = false → entry % 32 = 0 → o ≠ 0 → (s.dev.berth o).st ≠ .absent →
        ∃ t, exec (.bthGrantPage 0 v) s = .next t ∧
          Settled s { s.dev with mem := { s.dev.mem with grant := some { page := page, berth := o } } } t) ∧
      (page < hbmSize / 65536 → bitAt entry 5 = false → o = 0 →
        ∃ t, exec (.bthReleasePage 0 v) s = .next t ∧
          Settled s { s.dev with mem := { s.dev.mem with grant := some { page := page, berth := 0 } } } t) ∧
      (hbmSize / 65536 ≤ page ∨ bitAt entry 5 = true → ∀ c, c = .bthGrantPage 0 v ∨ c = .bthReleasePage 0 v →
        ∃ t, exec c s = .next t ∧ Settled s { s.dev with mem := { s.dev.mem with grantRef := true } } t)) ∧
    (∀ g, s.dev.stopped = false → s.dev.mem.grant = some g →
      ∃ t, exec .grantApplyDone s = .next t ∧ t.dev.mem.grant = none ∧ mget 0 t.dev.mem.owner g.page % 32 = g.berth % 32 ∧
        ∀ p, p ≠ g.page → mget 0 t.dev.mem.owner p = mget 0 s.dev.mem.owner p) ∧
    (∀ v : BitVec 64,
      (x.attest = none → ∃ t, exec (.bthAttest w b v) s = .next t ∧
        Settled s (s.dev.updBerth b fun x => { x with attest := some (v.toNat % 2 ^ 45) }) t) ∧
      (x.attest ≠ none → ∃ t, exec (.bthAttest w b v) s = .next t ∧ Settled s (s.dev.updBerth b id) t)) ∧
    ∀ a, x.attest = some a → s.dev.lkp.identityOff = false → (s.dev.ring b 0).enable = true → (s.dev.ring b 0).full = false →
      ∃ t, exec (.attestDone b) s = .next t ∧ (t.dev.berth b).attest = none ∧ (t.dev.ring b 0).prod = (s.dev.ring b 0).prod + 1

/-- R10, R13, R332, R449, R452, R496, R507 to R513: register accesses. The first half of a 64-bit register that is read holds the other
half for its requester; a first half that is written is held until the second; a word takes its value; a requester who may not
reach an offset changes nothing; the first word of a counter view holds the whole view; retraining and mooring begin. That one
LO read of a time captures both HI halves is the model's reading (assumption 97). -/
def Obligations.RegisterAccesses : Prop :=
  ∀ (s : State) (who : Nat) (off v : BitVec 32), Calm s.dev → s.dev.stopped = false →
    let o := off.toNat % regWindow
    let b := off.toNat / regWindow
    (s.dev.regRead s.perm s.clk who off.toNat).1.isSome = (regAligned off.toNat && s.dev.mayReach who off.toNat false) ∧
    (regAligned off.toNat = true → s.dev.mayReach who off.toNat false = true → isPair o = true → o ≠ 0x4010 → o ≠ 0x4018 →
      (s.dev.regRead s.perm s.clk who off.toNat).1 = some (s.dev.windowValue b o (s.dev.liveReg s.perm s.clk o)) ∧
      ∃ t x, exec (.registerLoRead who off) s = .next t ∧ t.dev.shadowOf who (o + 4) true = some x ∧
        x.val = [BitVec.ofNat 32 (s.dev.windowValue b (o + 4) (s.dev.liveReg s.perm s.clk (o + 4)))] ∧
        Settled s { s.dev with shadows := t.dev.shadows } t) ∧
    (regAligned off.toNat = true → s.dev.mayReach who off.toNat true = true → b = 0 → isPair o = true →
      ∃ t x, exec (.registerLoWrite who off v) s = .next t ∧ t.dev.shadowOf who o false = some x ∧ x.val = [v] ∧
        Settled s { s.dev with shadows := t.dev.shadows } t) ∧
    (s.dev.mayReach who off.toNat true = false → ∃ t, exec (.registerWrite who off v) s = .next t ∧ Settled s s.dev t) ∧
    (s.dev.mayReach who off.toNat true = true → s.dev.lkp.applied = true →
      (off = 0x14 → ∃ t, exec (.registerWrite who off v) s = .next t ∧ Settled s { s.dev with lkp := { s.dev.lkp with len := v } } t) ∧
      (off = 0x5028 → ∃ t, exec (.registerWrite who off v) s = .next t ∧ Settled s { s.dev with ldg := { s.dev.ldg with matchV := v } } t) ∧
      (∀ lo, off = 0x10 → (s.dev.shadowOf who 0xC false).map Shadow.val = some [lo] →
        ∃ t, exec (.registerWrite who off v) s = .next t ∧ t.dev.lkp = { s.dev.lkp with arg := v ++ lo } ∧ t.dev.shadowOf who 0xC false = none ∧
          Settled s { s.dev with lkp := t.dev.lkp, shadows := t.dev.shadows } t)) ∧
    (∀ (w : Fin 32) (q : Fin 4096) (last : Bool), s.dev.mayReach who (regWindow * w.val + 0x110000 + 0x80 * q.val + 0x40 * b2n last) false = true →
      ∃ t x, exec (.counterViewSample who w q last) s = .next t ∧
        t.dev.shadowOf who (0x110000 + 0x80 * q.val + 0x40 * b2n last) true = some x ∧
        x.val = (if last then (s.dev.queue q).last else (s.dev.queue q).cur).view ∧ Settled s { s.dev with shadows := t.dev.shadows } t) ∧
    (∀ port : Fin 18, (s.dev.port port).role ≠ .unused → ∃ t, exec (.fabPortRetrain port 0) s = .next t ∧
      (t.dev.port port).st = .training ∧ (t.dev.port port).retrains = satAdd 255 (s.dev.port port).retrains 1 ∧
      (t.dev.port port).role = (s.dev.port port).role) ∧
    (∀ (port : Fin 18) (w : Fin 32), w ≠ 0 → ∃ t, exec (.fabPortRetrain port w) s = .next t ∧ Settled s s.dev t) ∧
    (s.dev.pwr.st = .underway → s.dev.lkp.st = .ready → bitAt v.toNat 0 = true →
      ∃ t, exec (.pwrMoor 0 v) s = .next t ∧
        Settled s { s.dev with pwr := { s.dev.pwr with wakeEn := bitAt v.toNat 1, st := .mooring, moorSince := s.clk.tsc, wakePend := false } } t) ∧
    (s.dev.pwr.st = .underway → bitAt v.toNat 0 = false →
      ∃ t, exec (.pwrMoor 0 v) s = .next t ∧ Settled s { s.dev with pwr := { s.dev.pwr with wakeEn := bitAt v.toNat 1 } } t)

/-- R497 to R503: what the ledger's registers and its assembly do: enabling starts an empty recording, disabling discards what is
buffered and ends the marks that wait for it, a trigger takes the slot that LDG_TRIG_INDEX then names, and a delivered record is
written in the next slot of the ring, or counted as lost. The details of assumption 78 are the model's reading. -/
def Obligations.LedgerRows : Prop :=
  ∀ (s : State), Calm s.dev → s.dev.latent = [] → s.dev.stopped = false →
    let l := s.dev.ldg
    let a := l.base + 32 * (l.prod.toNat % l.slots)
    let same := fun (c : Instr) => ∃ t, exec c s = .next t ∧ Settled s s.dev t
    (∀ w : Fin 32, w ≠ 0 → ∀ v, same (.ldgTrigger w) ∧ same (.ledgerEnable w v) ∧ same (.ledgerDisable w v)) ∧
    (l.st = .recording → l.mode = 2 → l.slots ≠ 0 → ∃ t, exec (.ldgTrigger 0) s = .next t ∧ t.dev.ldg.st = .triggered ∧
      t.dev.ldg.cause = 1 ∧ t.dev.ldg.trig = l.prod.toNat % l.slots ∧ t.dev.ldg.prod = l.prod + 1 ∧
      t.dev.ldg.postLeft = l.slots * (16 - l.pre) / 16 - 2) ∧
    (l.st ≠ .recording ∨ l.mode ≠ 2 → same (.ldgTrigger 0)) ∧
    (∀ v : BitVec 32,
      (l.enable = true → same (.ledgerEnable 0 v)) ∧
      (l.enable = false → bitsAt v.toNat 0 2 ≠ 3 → ∃ t, exec (.ledgerEnable 0 v) s = .next t ∧ Settled s { s.dev with ldg := { l with
        mode := bitsAt v.toNat 0 2, pre := bitsAt v.toNat 2 4, matchEn := bitAt v.toNat 7, abortEn := bitAt v.toNat 8, enable := true, st := .recording
        prod := 0, lost := 0, trig := 0, postLeft := 0 } } t) ∧
      (l.enable = true → ∃ t, exec (.ledgerDisable 0 v) s = .next t ∧ QueueFrame s t ∧
        t.dev.ldg = { l with enable := false, st := .off, bufs := [], postLeft := 0 } ∧
        ∀ e ∈ l.bufs, ∀ r ∈ e.2.recs, ∀ q n m, r.queue = some (q, n) → s.dev.cmd q n = some m → m.status = none →
          ∃ x ∈ (t.dev.queue q).cmds, x.order = n ∧ x.status = some 0)) ∧
    (∀ src r rest, (mget LdgBuf.reset l.bufs src).recs = r :: rest → l.enable = true → l.causes r = 0 →
      (l.slots = 0 ∨ l.st = .stopped → ∃ t, exec (.ledgerDelivery src) s = .next t ∧ QueueFrame s t ∧
        t.dev.ldg.lost = satAdd (2 ^ 32 - 1) l.lost 1 ∧ t.dev.ldg.prod = l.prod ∧ (mget LdgBuf.reset t.dev.ldg.bufs src).recs = rest) ∧
      (l.slots ≠ 0 → l.st = .recording → l.mode ≠ 1 → ∃ t, exec (.ledgerDelivery src) s = .next t ∧
        t.dev.ldg.prod = l.prod + 1 ∧ t.dev.ldg.lost = l.lost ∧ (mget LdgBuf.reset t.dev.ldg.bufs src).recs = rest ∧
        (l.base % 32 = 0 → AtRest s.dev (2 ^ 38 * s.dev.id + a / 128) → t.dev.peek 0 a 32 = natOf (ldgBytes s.dev.id r)) ∧
        ∀ q n m, r.queue = some (q, n) → s.dev.cmd q n = some m → m.status = none →
          ∃ x ∈ (t.dev.queue q).cmds, x.order = n ∧ x.status = some 0))

/-! ### Power -/

/-- R27, R461 to R464, R467: the loops that hold the operating point: the setting moves one sixteenth toward the level that every loop allows;
the thermal, current, timing and cap loops lower and raise theirs; a slack below the limit at 12/16 retires the device; a
thermal trip stops the clocks and is recorded; an unmet policy is reported once, and again when it is met. That a trip leaves
the retirement entry as it was is the model's reading (assumption 128). -/
def Obligations.LoopsHoldThePoint : Prop :=
  ∀ (s : State), Calm s.dev → s.dev.latent = [] →
    let k := s.clk
    let w := s.dev.pwr
    let power := fun (t : State) => Settled s { s.dev with pwr := t.dev.pwr } t
    (s.dev.stopped = false → k.inReset = false → k.slot = 0 → k.changedAt + usec 1 ≤ k.tsc →
      (s.dev.level < k.setting → exec .derateStep s = .next { s with clk := { k with setting := k.setting - 1, changedAt := k.tsc } }) ∧
      (k.setting < s.dev.level → k.upAt + msec 1 ≤ k.tsc →
        exec .derateStep s = .next { s with clk := { k with setting := k.setting + 1, changedAt := k.tsc, upAt := k.tsc } }) ∧
      (k.setting < s.dev.level → k.tsc < k.upAt + msec 1 → exec .derateStep s = .next s) ∧
      (k.setting = s.dev.level → exec .derateStep s = .next s)) ∧
    (k.slot ≠ 0 ∨ k.tsc < k.changedAt + usec 1 → exec .derateStep s = .next s) ∧
    s.dev.level = min s.dev.gau.ceiling (min w.thermal (min w.current (min w.timing w.capLvl))) ∧
    (s.dev.looping = true →
      (∀ temp, (100 ≤ temp → w.thermAt + usec 100 ≤ k.tsc → 12 < w.thermal → ∃ t, exec (.thermalLoopStep temp) s = .next t ∧ power t ∧
          t.dev.pwr.thermal = w.thermal - 1 ∧ t.dev.pwr.hottest = temp) ∧
        (∀ since, temp < 97 → w.coolSince = some since → since + msec 1 ≤ k.tsc → w.thermal < 16 →
          ∃ t, exec (.thermalLoopStep temp) s = .next t ∧ power t ∧ t.dev.pwr.thermal = w.thermal + 1 ∧ t.dev.pwr.hottest = temp) ∧
        (97 ≤ temp → temp < 100 → ∃ t, exec (.thermalLoopStep temp) s = .next t ∧ power t ∧ t.dev.pwr.thermal = w.thermal ∧
          t.dev.pwr.hottest = temp)) ∧
      (∀ p avg alert, (2400 < p ∨ alert = true → w.currAt + usec 1 ≤ k.tsc → 12 < w.current →
          ∃ t, exec (.currentLoopStep p avg alert) s = .next t ∧ power t ∧ t.dev.pwr.current = w.current - 1) ∧
        (p ≤ 2400 → alert = false → 2000 < avg → w.currAt + msec 1 ≤ k.tsc → 12 < w.current →
          ∃ t, exec (.currentLoopStep p avg alert) s = .next t ∧ power t ∧ t.dev.pwr.current = w.current - 1) ∧
        (∀ since, p ≤ 2400 → alert = false → avg < 1900 → w.avgLow = some since → since + msec 10 ≤ k.tsc → w.current < 16 →
          ∃ t, exec (.currentLoopStep p avg alert) s = .next t ∧ power t ∧ t.dev.pwr.current = w.current + 1)) ∧
      (∀ slack, (slack < 10 → 12 < w.timing → ∃ t, exec (.timingSafetyStep slack) s = .next t ∧ power t ∧
          t.dev.pwr.timing = w.timing - 1) ∧
        (slack < 10 → w.timing ≤ 12 → ∃ t, exec (.timingSafetyStep slack) s = .next t ∧ t.dev.lkp.st = .retired ∧ t.perm.retire = true) ∧
        (∀ since, 20 < slack → w.slackOk = some since → since + msec 1 ≤ k.tsc → w.timing < 16 →
          ∃ t, exec (.timingSafetyStep slack) s = .next t ∧ power t ∧ t.dev.pwr.timing = w.timing + 1)) ∧
      (∀ avg, (w.cap < avg → w.capAt + msec 1 ≤ k.tsc →
          (12 < w.capLvl → ∃ t, exec (.capLoopStep avg) s = .next t ∧ power t ∧ t.dev.pwr.capLvl = w.capLvl - 1 ∧
            t.dev.pwr.coreLimit = w.coreLimit) ∧
          (w.capLvl ≤ 12 → 0 < w.coreLimit → ∃ t, exec (.capLoopStep avg) s = .next t ∧ power t ∧ t.dev.pwr.capLvl = w.capLvl ∧
            t.dev.pwr.coreLimit = w.coreLimit - 16)) ∧
        (∀ since top rest, 100 * avg < 95 * w.cap → w.capLow = some since → since + msec 10 ≤ k.tsc → w.capStack = top :: rest →
          ∃ t, exec (.capLoopStep avg) s = .next t ∧ power t ∧ t.dev.pwr.capStack = rest ∧
            t.dev.pwr.coreLimit = (if top then w.coreLimit + 16 else w.coreLimit) ∧
            t.dev.pwr.capLvl = if top then w.capLvl else w.capLvl + 1))) ∧
    (s.dev.thermtrip = false → k.inReset = false → k.vaon = true → ∃ t r, exec .thermalTrip s = .next t ∧ t.dev.stopped = true ∧
      t.dev.thermtrip = true ∧ t.perm.retire = s.perm.retire ∧ t.perm.fatal.getLast? = some r ∧ r.cls = 4 ∧ r.code = 0x0F) ∧
    ∀ (reason : Fin 7) (port : Fin 18), s.dev.stopped = false →
      let u := mget Unmet.reset w.unmet (policyKey reason port)
      (∀ since, u.on = false → u.since = some since → since + msec 10 ≤ k.tsc → ∃ t, exec (.policyUnmet reason port) s = .next t ∧
        (mget Unmet.reset t.dev.pwr.unmet (policyKey reason port)).on = true) ∧
      (∀ since, u.on = true → u.held = some since → since + msec 1000 ≤ k.tsc → ∃ t, exec (.policyMet reason port) s = .next t ∧
        (mget Unmet.reset t.dev.pwr.unmet (policyKey reason port)).on = false)

/-- R445, R446, R449 to R452: a core domain that has been idle loses power with what R418 says, and wakes with it restored; a device that is
quiet and has given up every line moors, with its sessions held; one that does not become quiet within 1 s abandons it; a wake
source brings a Moored device under way, and is remembered while it is Mooring. That gating and unmooring are one event each is
the model's choice (assumptions 104, 108). -/
def Obligations.PowerStates : Prop :=
  ∀ (s : State), Calm s.dev → s.dev.latent = [] →
    (∀ pd : Fin 32, s.dev.admits = true → s.dev.pwr.idleUs ≠ 0 → s.dev.pwr.gated.getLsbD pd = false → pd.val ∉ s.dev.busyDomains →
      (∀ c ∈ domainCores pd, (s.dev.core c).mshrs = [] ∧ (s.dev.core c).ops = [] ∧ (s.dev.core c).l1 = [] ∧ (s.dev.core c).drained = true) →
      mget 0 s.dev.pwr.idleSince pd + usec s.dev.pwr.idleUs ≤ s.clk.tsc →
      ∃ t, exec (.domainGate pd) s = .next t ∧ t.dev.pwr.gated = s.dev.pwr.gated ||| (1#32 <<< pd.val) ∧
        (∀ c < 512, t.dev.core c = if coreDomain c = pd.val then (s.dev.core c).gate else s.dev.core c) ∧ t.dev.slices = s.dev.slices ∧
        t.dev.mem = s.dev.mem) ∧
    (∀ pd : Fin 32, s.dev.stopped = false → mhas s.dev.pwr.waking pd = true → ∃ t, exec (.domainWakeDone pd) s = .next t ∧
      t.dev.pwr.gated = s.dev.pwr.gated &&& ~~~(1#32 <<< pd.val) ∧ t.dev.mem = s.dev.mem ∧ t.dev.slices = s.dev.slices ∧
      ∀ c < 512, t.dev.core c = if coreDomain c = pd.val then { s.dev.core c with ccBase := s.clk.ccyc } else s.dev.core c) ∧
    (s.dev.stopped = false → s.dev.pwr.st = .mooring →
      (s.dev.moorQuiet = true → (s.dev.giveUp s.clk).1 = true → s.dev.pwr.wakePend = false →
        (∀ e ∈ s.dev.whf.sessions, (∀ o ∈ e.2.ops, o.parts = []) ∧ (e.2.st = .active → e.2.windowFull = false ∧ e.2.waitq = [])) →
        ∃ t, exec .mooringQuiesced s = .next t ∧ t.dev.pwr.st = .moored ∧ t.dev.stopped = true ∧ t.dev.fab.net = [] ∧ t.dev.ctl.quarter = [] ∧
          t.dev.cnt.restart = true ∧ (∀ c, (t.dev.core c).l1 = [] ∧ (t.dev.core c).xlat = []) ∧
          ∀ n, (s.dev.session n).st = .active → (t.dev.session n).st = .moored ∧ (t.dev.session n).mooredAt = s.clk.tsc) ∧
      (s.dev.moorQuiet = false → s.dev.pwr.moorSince + msec 1000 ≤ s.clk.tsc → ∃ t, exec .mooringAbandon s = .next t ∧
        Settled s { s.dev with pwr := { s.dev.pwr with st := .underway, last := 2, wakePend := false } } t)) ∧
    (∀ c, (c = .wakeLand ∨ (c = .wakeTimeReached ∧ s.dev.pwr.wakeEn = true ∧ s.dev.pwr.wake.toNat ≤ gtime s.clk s.dev)) →
      (s.dev.canWake s.clk = true → ∃ t, exec c s = .next t ∧ t.dev.pwr.st = .underway ∧ t.dev.stopped = false ∧ t.dev.pwr.gated = 0 ∧
        t.dev.pwr.last = 1) ∧
      (s.dev.pwr.st = .mooring → ∃ t, exec c s = .next t ∧ Settled s { s.dev with pwr := { s.dev.pwr with wakePend := true } } t) ∧
      (s.dev.pwr.st = .underway → ∃ t, exec c s = .next t ∧ Settled s s.dev t)) ∧
    (s.dev.pwr.wakeEn = false → ∃ t, exec .wakeTimeReached s = .next t ∧ Settled s s.dev t)

/-- R454, R456 to R460, R487, R488: what the Lockkeeper measures and records: a slack below the limit raises the offset of each rail of its
domain and is due for the journal; a due step is journalled; a rail fault retires the device; a counter sample takes the next
slot of its ring. Each sample in one step is the model's choice (assumption 122). -/
def Obligations.MeasurementsRecorded : Prop :=
  ∀ (s : State), Calm s.dev → s.dev.latent = [] → s.dev.stopped = false →
    (∀ m, (s.dev.lkp.st = .ready ∨ s.dev.lkp.st = .maintenance) → s.dev.pwr.st = .underway → s.dev.gau.measAt + msec 600000 ≤ s.clk.tsc →
      (m.domain < 32 → s.dev.pwr.gated.getLsbD m.domain = false) → s.dev.gau.eyes = [] →
      (m.slack < 30 → (∀ r < 10, (railDomains r).contains m.domain = true → (s.dev.rail r).off < railCap r) →
        ∃ t, exec (.gaugeMeasurement { meas := [m], eyeBad := false }) s = .next t ∧ t.dev.gau.measAt = s.clk.tsc ∧
          ∀ r < 10, if (railDomains r).contains m.domain = true then
              (t.dev.rail r).off = (s.dev.rail r).off + 1 ∧ (t.dev.rail r).slack = m.slack ∧
                ∃ e ∈ t.dev.gau.dueEntries, e.kind = 1 ∧ e.rail = r ∧ e.value = (s.dev.rail r).off + 1
            else t.dev.rail r = s.dev.rail r) ∧
      (30 ≤ m.slack → ∃ t, exec (.gaugeMeasurement { meas := [m], eyeBad := false }) s = .next t ∧
        t.dev.gau.dueEntries = s.dev.gau.dueEntries ∧ t.dev.gau.version = s.dev.gau.version ∧
        ∀ r < 10, (t.dev.rail r).off = (s.dev.rail r).off)) ∧
    (∀ e es, s.dev.gau.dueEntries = e :: es → s.dev.nvmUpdates = false → s.clk.inReset = false →
      exec .journalAppend s = .next { s with
        dev := { s.dev with gau := { s.dev.gau with dueEntries := es } }, perm := s.perm.journalAdd (gtime s.clk s.dev) e }) ∧
    (∀ x, s.clk.inReset = false → s.clk.vaon = true → s.dev.pwr.st ≠ .moored →
      (x.fault = false → x.inTol = true → ∃ t, exec (.railTelemetryRead [x]) s = .next t ∧
        Settled s (s.dev.updRail x.rail fun r => { r with current := x.current, outSince := none }) t) ∧
      (x.fault = true → s.dev.lkp.st ≠ .retired → ∃ t, exec (.railTelemetryRead [x]) s = .next t ∧ t.dev.lkp.st = .retired ∧ t.perm.retire = true)) ∧
    ∀ i, let n := (s.clk.tsc - s.dev.cnt.lastAt) / usec s.dev.cnt.inForce
      s.dev.cnt.enable = true → s.dev.cnt.size ≠ 0 → n ≠ 0 → ∃ t, exec (.counterSample i) s = .next t ∧
        t.dev.cnt.prod = s.dev.cnt.prod + 1 ∧ t.dev.cnt.sampleNo = s.dev.cnt.sampleNo + 1 ∧ t.dev.cnt.restart = false ∧
        t.dev.cnt.lastAt = s.dev.cnt.lastAt + n * usec s.dev.cnt.inForce ∧
        t.dev.pwr.energy = s.dev.pwr.energy + i.power * (s.clk.tsc - s.dev.cnt.lastAt) / 6400000

/-! ### Lockkeeper, boot and board -/

/-- R330, R433 to R435, R441: the Lockkeeper's commands: what each leaves in the non-volatile memory and the device, and its status; one
that is not for the present state ends with WRONG_STATE, and one that finds another running only sets overrun. That a row may
start its command itself is the model's choice (assumption 117). -/
def Obligations.LockkeeperCommands : Prop :=
  ∀ (s : State), Calm s.dev → s.dev.latent = [] → s.dev.lkpServes = true →
    let done := fun (t : State) (c status : Nat) => t.dev.lkp.busy = false ∧ t.dev.lkp.cmd = c ∧ t.dev.lkp.status = status
    (∀ i c, (i, c) ∈ [(Instr.maintenanceEnter, 2), (.marginStacks [], 4), (.clearHealth, 5), (.remeasureTime, 8)] →
      (s.dev.lkp.busy = true → s.dev.lkp.cmd ≠ c → s.dev.stopped = false → ∃ t, exec i s = .next t ∧
        Settled s { s.dev with lkp := { s.dev.lkp with overrun := true } } t) ∧
      (s.dev.lkpFree c = true → s.dev.lkp.st = .debug → ∃ t, exec i s = .next t ∧ done t c 1 ∧ t.perm = s.perm ∧ t.dev.lkp.st = .debug)) ∧
    (s.dev.lkpFree 2 = true → s.dev.lkp.st = .ready → (∀ e ∈ s.dev.ctl.ctxs, e.2.berth ≠ 0 → e.2.st ≠ .live ∧ e.2.abort = none) →
      ∃ t, exec .maintenanceEnter s = .next t ∧ done t 2 0 ∧ t.dev.lkp.st = .maintenance ∧ t.perm = s.perm) ∧
    (∀ xs, s.dev.lkpFree 4 = true → s.dev.lkp.st = .maintenance → ∃ t, exec (.marginStacks xs) s = .next t ∧ done t 4 0 ∧
      t.perm = (xs.map (marginEntry s.dev.gau.version (gtime s.clk s.dev))).foldl (Perm.journalAdd (gtime s.clk s.dev)) s.perm ∧
      (∀ b, mhas s.dev.ctl.berths b = true → (t.dev.berth b).keyGen = (s.dev.berth b).keyGen + 1) ∧
      ∀ x, xs = [x] → (x.stack, eyeUi x, eyeMv x) ∈ t.dev.gau.eyes) ∧
    (s.dev.lkpFree 5 = true → s.dev.lkp.st = .maintenance → ∃ t, exec .clearHealth s = .next t ∧ done t 5 0 ∧
      t.perm = { s.perm with wayOff := if bitAt s.dev.lkp.arg.toNat 0 then [] else s.perm.wayOff
                             characterised := s.perm.characterised && !bitAt s.dev.lkp.arg.toNat 1 }) ∧
    (∀ img ok, s.dev.lkpFree 6 = true → s.dev.serving = true →
      (s.dev.argOk = false → ∃ t, exec (.fwUpdate img ok) s = .next t ∧ done t 6 2 ∧ t.perm = s.perm) ∧
      (s.dev.argOk = true → s.perm.imageStatus img ≠ 0 →
        ∃ t, exec (.fwUpdate img ok) s = .next t ∧ done t 6 (s.perm.imageStatus img) ∧ t.perm = s.perm) ∧
      (s.dev.argOk = true → s.perm.imageStatus img = 0 → ∃ t, exec (.fwUpdate img ok) s = .next t ∧ done t 6 (if ok then 0 else 5) ∧
        t.perm = { s.perm with image := if ok then some img else none, imgState := if ok then 1 else 2 })) ∧
    (∀ m ok, s.dev.lkpFree 7 = true → s.dev.serving = true →
      (s.dev.argOk = false → ∃ t, exec (.manifestUpdate m ok) s = .next t ∧ done t 7 2 ∧ t.perm = s.perm) ∧
      (s.dev.argOk = true → s.perm.manifestStatus m ≠ 0 →
        ∃ t, exec (.manifestUpdate m ok) s = .next t ∧ done t 7 (s.perm.manifestStatus m) ∧ t.perm = s.perm) ∧
      (s.dev.argOk = true → s.perm.manifestStatus m = 0 → ∃ t, exec (.manifestUpdate m ok) s = .next t ∧ done t 7 (if ok then 0 else 5) ∧
        t.perm = { s.perm with man := if ok then some m else none, manState := if ok then 1 else 2
                               manSerial := if ok then m.serial else s.perm.manSerial })) ∧
    (s.dev.lkpFree 8 = true → s.dev.lkp.st = .ready →
      (s.dev.tim.root = s.dev.id → ∃ t, exec .remeasureTime s = .next t ∧ done t 8 0) ∧
      (s.dev.tim.root ≠ s.dev.id → s.dev.reachable s.dev.tim.root = true → ∃ t a, exec .remeasureTime s = .next t ∧ done t 8 0 ∧
        a ∈ t.dev.fab.net ∧ a.op = .mgmtWrite ∧ a.dst = s.dev.tim.root ∧ a.tgt = 708 ∧ a.who = s.dev.id) ∧
      (s.dev.tim.root ≠ s.dev.id → s.dev.reachable s.dev.tim.root = false → ∃ t, exec .remeasureTime s = .next t ∧ done t 8 6)) ∧
    (∀ sig serial hash, s.dev.lkpFree 9 = true → s.dev.serving = true → s.dev.lkp.len = 160 → s.dev.argOk = true →
      (sig = true → serial = s.perm.fuses.serial → ∃ t, exec (.debugConsent sig serial hash) s = .next t ∧ done t 9 0 ∧
        t.dev.lkp.consent = some hash ∧ t.perm = s.perm) ∧
      (sig = false ∨ serial ≠ s.perm.fuses.serial → ∃ t, exec (.debugConsent sig serial hash) s = .next t ∧ done t 9 3 ∧
        t.dev.lkp.consent = s.dev.lkp.consent ∧ t.perm = s.perm)) ∧
    ∀ sig serial hash, s.dev.stopped = false →
      (s.dev.serving = true → sig = true → serial = s.perm.fuses.serial → s.dev.lkp.consent = some hash →
        ∃ t, exec (.debugUnlock sig serial hash) s = .next t ∧ t.dev.lkp.st = .debug ∧ t.dev.lkp.identityOff = true ∧ t.dev.ctl.ctxs = [] ∧
          t.dev.whf.sessions = [] ∧ t.dev.mem.hbm = [] ∧ t.dev.fab.net = [] ∧ t.perm = s.perm ∧
          ∀ b, mhas s.dev.ctl.berths b = true → (t.dev.berth b).keyGen = (s.dev.berth b).keyGen + 1) ∧
      (sig = false ∨ serial ≠ s.perm.fuses.serial ∨ s.dev.lkp.consent ≠ some hash →
        ∃ t, exec (.debugUnlock sig serial hash) s = .next t ∧ Settled s s.dev t)

/-- R417, R418, R423 to R428, R433, R435, R484: how a boot ends. A hot device waits with THERMTRIP_N asserted; a bad image or manifest leads
to Recovery with its reason; a retired device stays so; otherwise the manifest is applied and the device is Ready, with the
manifest's queues, fences and page owners, no context, no session, and nothing in any cache. That a boot is one event is the
model's choice (assumption 109). -/
def Obligations.BootsEnd : Prop :=
  ∀ (s : State) (b : BootIn) (m : Manifest),
    let fresh := fun (t : State) => t.dev.lkp.st = .ready ∧ t.dev.lkp.device = m.device ∧ t.dev.lkp.applied = true ∧
      t.perm.boots = (s.perm.boots + 1) % 2 ^ 28 ∧ t.dev.lkp.boots = t.perm.boots ∧ t.dev.ctl.queues = m.queueMap ∧ t.dev.ctl.fences = m.fenceMap ∧
      t.dev.mem.owner = m.owners ∧ t.dev.ctl.ctxs = [] ∧ t.dev.whf.sessions = [] ∧ t.dev.fab.net = [] ∧ (∀ c, (t.dev.core c).l1 = []) ∧
      (∀ n, (t.dev.slice n).frames = [] ∧ (t.dev.slice n).dir = []) ∧ t.clk.setting = t.dev.gau.ceiling ∧
      t.perm.manSerial = max s.perm.manSerial m.serial ∧ t.pending = s.pending
    ((s.clk.inReset = true ∨ s.clk.vaon = false ∨ (s.dev.lkp.st = .booting ∧ s.dev.stopped = false)) →
      (b.hot = true → ∃ t, exec (.coldStart b) s = .next t ∧ t.dev.thermtrip = true ∧ t.dev.stopped = true ∧ t.clk.inReset = false ∧
        t.perm = s.perm) ∧
      (∀ r, b.hot = false → imageReason b s.perm = some r → ∃ t, exec (.coldStart b) s = .next t ∧ t.dev.lkp.st = .recovery ∧
        t.dev.lkp.recovery = r ∧ t.dev.lkp.step = 2 ∧ t.perm = s.perm) ∧
      (b.hot = false → imageReason b s.perm = none →
        (∀ r, loadManifest b (s.perm.fuseOperator b) = .inl r → ∃ t, exec (.coldStart b) s = .next t ∧ t.dev.lkp.st = .recovery ∧
          t.dev.lkp.recovery = r ∧ t.dev.lkp.step = 3) ∧
        (loadManifest b (s.perm.fuseOperator b) = .inr m →
          (s.perm.retire = true → ∃ t, exec (.coldStart b) s = .next t ∧ t.dev.lkp.st = .retired) ∧
          (s.perm.retire = false → (∀ n < 8, stackTrains (bootStack b n) false = true) →
            ∃ t, exec (.coldStart b) s = .next t ∧ fresh t ∧ t.dev.lkp.lastWarm = false)))) ∧
    (∀ i p, (i = .warmReset b ∧ s.dev.lkpFree 1 = true ∧ s.dev.serving = true ∧ s.dev.lkp.warmDue = false ∧ p = bitAt s.dev.lkp.arg.toNat 0 ∧
          (((s.dev.lkpBegin 1).haltWork s.clk).giveUp s.clk).1 = true) ∨
        (i = .maintenanceExit b ∧ s.dev.lkpFree 3 = true ∧ s.dev.lkp.st = .maintenance ∧ p = false ∧
          (((s.dev.lkpBegin 3).haltWork s.clk).giveUp s.clk).1 = true) →
      imageReason b s.perm = none → s.dev.lkp.manifest = some m → s.perm.retire = false → (∀ n < 8, stackTrains (bootStack b n) p = true) →
      ∃ t, exec i s = .next t ∧ fresh t ∧ t.dev.lkp.lastWarm = true ∧ t.dev.lkp.preserved = p ∧
        (s.dev.latent = [] → t.dev.erl.ring = s.dev.erl.ring))

/-- R434, R451, R484, R514, R523 to R525, R530 to R532: the side-band port answers each command with its status, and nothing while the device
is in reset or has no supply or reference; RESET_N, the always-on supply and the reference clock stop the device when they are lost
for long enough, and nothing shorter has an effect. When the side-band port gives no answer is the model's reading (assumption
123). -/
def Obligations.BoardRows : Prop :=
  ∀ (s : State), Calm s.dev →
    let answers := fun (i : Instr) (status : Nat) (bs : List Byte) =>
      ∃ t, exec i s = .next t ∧ Settled s { s.dev with sbResult := some (status, bs) } t
    (s.clk.sideband = false → ∀ off ok nv, ∀ i ∈ [Instr.readReg off ok, .readFatal off ok, .wake ok, .clearRetirement ok nv, .sidebandPing ok],
      ∃ t, exec i s = .next t ∧ Settled s s.dev t) ∧
    (s.clk.sideband = true →
      (∀ off nv, answers (.readReg off false) 2 [] ∧ answers (.readFatal off false) 2 [] ∧ answers (.wake false) 2 [] ∧
        answers (.clearRetirement false nv) 2 [] ∧ answers (.sidebandPing false) 2 []) ∧
      (∀ off : BitVec 24,
        (∀ v, (s.dev.regRead s.perm s.clk 1 off.toNat).1 = some v → ∃ t, exec (.readReg off true) s = .next t ∧
          t.dev.sbResult = some (0, bytesOf 4 v) ∧ t.dev.cores = s.dev.cores ∧ t.dev.mem = s.dev.mem ∧ t.dev.ctl = s.dev.ctl) ∧
        (s.dev.mayReach 1 off.toNat false = false → answers (.readReg off true) 3 []) ∧
        (off.toNat % 4 ≠ 0 ∨ 2 ^ 20 ≤ off.toNat → answers (.readFatal off true) 3 []) ∧
        (off.toNat % 4 = 0 → off.toNat < 2 ^ 20 → ∃ t, exec (.readFatal off true) s = .next t ∧ Settled s { s.dev with
          sbResult := some (0, s.perm.fatalWord off.toNat)
          erl := { s.dev.erl with unread := s.dev.erl.unread.filter fun i => i != s.perm.fatalOld + s.perm.fatalAt off.toNat } } t)) ∧
      (s.dev.canWake s.clk = true → ∃ t, exec (.wake true) s = .next t ∧ t.dev.pwr.st = .underway ∧ t.dev.stopped = false ∧
        t.dev.sbResult = some (0, [])) ∧
      (s.dev.pwr.st = .underway → answers (.wake true) 4 []) ∧
      (s.dev.lkp.st = .retired → ∃ t, exec (.clearRetirement true true) s = .next t ∧ t.perm = { s.perm with retire := false } ∧
        t.dev.sbResult = some (0, []) ∧ t.dev.lkp = s.dev.lkp) ∧
      (s.dev.lkp.st = .retired → answers (.clearRetirement true false) 5 []) ∧
      (s.dev.lkp.st ≠ .retired → ∀ nv, answers (.clearRetirement true nv) 4 []) ∧
      answers (.sidebandPing true) 0 [BitVec.ofNat 8 s.dev.lkp.st.ctorIdx, BitVec.ofNat 8 s.dev.lkp.step]) ∧
    (∀ ns, (ns < 10000 → exec (.resetNAssert ns) s = .next s) ∧
      (10000 ≤ ns → ∃ t, exec (.resetNAssert ns) s = .next t ∧ t.clk.inReset = true ∧ t.clk.tsc = 0 ∧ t.dev.stopped = true ∧
        t.dev.ctl = Ctl.reset ∧ t.dev.mem.hbm = [] ∧ t.dev.lkp.st = .booting ∧ t.perm = s.perm.cutUpdate s.dev ∧ t.dev.thermtrip = s.dev.thermtrip) ∧
      (ns ≤ 10000 → exec (.vaonLoss ns) s = .next s) ∧
      (10000 < ns → ∃ t, exec (.vaonLoss ns) s = .next t ∧ t.clk.vaon = false ∧ t.dev.stopped = true ∧ t.dev.thermtrip = false ∧
        t.dev.erl.ring = [] ∧ t.dev.ctl = Ctl.reset ∧ t.perm = s.perm.cutUpdate s.dev) ∧
      (ns ≤ 1000 → exec (.refclkLoss ns) s = .next s) ∧
      (1000 < ns → s.clk.vaon = true →
        exec (.refclkLoss ns) s = .next { s with dev := { s.dev with stopped := true }, clk := { s.clk with refOk := false } }))

/-! ### The whole machine -/

/-- The block's step: with command `i` at the front of the queue, a step is `exec i` with the queue's rest. The queue is the
model's own (assumption 134). -/
def Obligations.StepRunsTheFront : Prop :=
  ∀ (i : Instr) (rest : List Instr) (s : State), step { s with pending := i :: rest } = exec i { s with pending := rest }

/-- Assumption 3, R2, R26, R462, R504, R525: with no command waiting, one tick of 2.5 ns passes: the local count rises by 16 sixteenths while the
reference runs and RESET_N is released, and three C slots pass, each a C-cycle unless the setting swallows it; nothing else changes.
The model's choice (assumption 3). -/
def Obligations.EmptyQueueTicks : Prop :=
  ∀ s : State, s.pending = [] → ∃ t, step s = .next t ∧ t.dev = s.dev ∧ t.perm = s.perm ∧ t.pending = [] ∧
    (s.clk.inReset = true ∨ s.clk.refOk = false ∨ s.clk.vaon = false → t.clk = s.clk) ∧
    (s.clk.inReset = false → s.clk.refOk = true → s.clk.vaon = true → t.clk.tsc = s.clk.tsc + 16 ∧ t.clk.setting = s.clk.setting ∧
      (s.dev.stopped = true → t.clk.slot = s.clk.slot ∧ t.clk.ccyc = s.clk.ccyc ∧ t.clk.acyc = s.clk.acyc) ∧
      (s.dev.stopped = false → s.clk.slot < 32 → t.clk.slot = (s.clk.slot + 3) % 32 ∧
        t.clk.ccyc = s.clk.ccyc + ([0, 1, 2].filter fun i => !(swallowed s.clk.setting).contains ((s.clk.slot + i) % 32)).length))

/-- R14, R34, R332, R359, R362, R374, R392, R419, R443: after a cold reset the Lockkeeper is Booting, no command waits, no queue is enabled, no
context, session or valid fence exists, every port is Unused, and HBM holds nothing that was written. The empty queue and the
values that no rule gives are the model's choice (assumption 1). -/
def Obligations.ResetState : Prop :=
  State.reset.pending = [] ∧ State.reset.dev.lkp.st = .booting ∧ State.reset.dev.lkp.step = 0 ∧ State.reset.clk.setting = 16 ∧
    State.reset.perm.retire = false ∧ State.reset.dev.mem.hbm = [] ∧ State.reset.dev.fab.net = [] ∧ State.reset.dev.shadows = [] ∧
    (∀ q, (State.reset.dev.queue q).enable = false ∧ (State.reset.dev.queue q).sizeLog2 = 4) ∧ (∀ x, (State.reset.dev.ctx x).st = .free) ∧
    (∀ f, (State.reset.dev.fence f).valid = false) ∧ (∀ b, (State.reset.dev.berth b).st = .absent ∧ (State.reset.dev.berth b).ceiling = 3) ∧
    (∀ p, (State.reset.dev.port p).role = .unused) ∧ (∀ n, (State.reset.dev.session n).st = .free) ∧
    ∀ c g, (State.reset.dev.group c g).st = .free

/-- Every command completes in every state: none ends in a fault or a refusal, and none changes the queue. The model's choice
(assumption 2). -/
def Obligations.EveryCommandGoesOn : Prop :=
  ∀ (i : Instr) (s : State), ∃ t, exec i s = .next t ∧ t.pending = s.pending

/-- R26, R27, R523 to R525: only the step of the setting, a boot, and the loss of reset, supply or reference change the clocks' state. -/
def Obligations.OnlyClockRowsTouchClocks : Prop :=
  ∀ (i : Instr) (s t : State), touchesClock i = false → exec i s = .next t → t.clk = s.clk

/-- R420, R423, R428: no step clears a fuse: what is fused at manufacture stays, the operator key hash changes only while it is blank, and
a bit of the anti-rollback counter that is set stays set. -/
def Obligations.FusesOnlyBurn : Prop :=
  ∀ s t : State, step s = .next t →
    t.perm.fuses.secret = s.perm.fuses.secret ∧ t.perm.fuses.serial = s.perm.fuses.serial ∧ t.perm.fuses.cert = s.perm.fuses.cert ∧
    t.perm.fuses.fwKey = s.perm.fuses.fwKey ∧ t.perm.fuses.dbgKey = s.perm.fuses.dbgKey ∧
    (s.perm.fuses.opKey ≠ 0 → t.perm.fuses.opKey = s.perm.fuses.opKey) ∧
    ∀ i, s.perm.fuses.rollback.getLsbD i = true → t.perm.fuses.rollback.getLsbD i = true

/-- R484: a retired device stays retired: only CLEAR_RETIREMENT of the side-band port removes the entry, every cold start that gets past
its image and manifest enters Retired while the entry stands, without training a stack, a boot without it is an ordinary
boot, and a stack or rail that fails again retires the device again. That a boot is one event is the model's choice (assumption
109). -/
def Obligations.RetirementLasts : Prop :=
  (∀ s t : State, step s = .next t → s.perm.retire = true →
    t.perm.retire = true ∨ ∃ nv rest, s.pending = .clearRetirement true nv :: rest ∧ s.dev.lkp.st = .retired) ∧
  (∀ s : State, Calm s.dev → s.clk.sideband = true → s.dev.lkp.st = .retired → ∃ t, exec (.clearRetirement true true) s = .next t ∧
    t.perm.retire = false) ∧
  (∀ (s : State) (x : RailIn), Calm s.dev → s.dev.stopped = false → s.clk.inReset = false → s.clk.vaon = true → s.dev.pwr.st ≠ .moored →
    s.dev.lkp.st ≠ .retired → x.fault = true →
    ∃ t, exec (.railTelemetryRead [x]) s = .next t ∧ t.dev.lkp.st = .retired ∧ t.perm.retire = true) ∧
  ∀ (s : State) (b : BootIn) (m : Manifest), s.clk.inReset = true → b.hot = false → imageReason b s.perm = none →
    loadManifest b (s.perm.fuseOperator b) = .inr m →
    (s.perm.retire = true → ∃ t, exec (.coldStart b) s = .next t ∧ t.dev.lkp.st = .retired ∧ t.perm.retire = true ∧ t.dev.mem.stks = [] ∧
      t.dev.ctl = Ctl.reset) ∧
    (s.perm.retire = false → (∀ n < 8, stackTrains (bootStack b n) false = true) →
      ∃ t, exec (.coldStart b) s = .next t ∧ t.dev.lkp.st = .ready ∧ t.perm.retire = false) ∧
    (s.perm.retire = false → (∃ n < 8, stackTrains (bootStack b n) false = false) →
      ∃ t, exec (.coldStart b) s = .next t ∧ t.dev.lkp.st = .retired ∧ t.perm.retire = true)

/-- R26, R219, R421, R460, R473: no step takes the non-volatile memory or the frame of C slots beyond its limits. -/
def Obligations.LimitsAreKept : Prop :=
  ∀ s t : State, WithinLimits s → step s = .next t → WithinLimits t

/-- The state after reset is within these limits. -/
def Obligations.ResetIsWithinLimits : Prop := WithinLimits State.reset
end

