-- ==== Sys2Proof/Laws/Maps.lean ====
section
/-! SUPPORT. Laws of the sparse maps: reading after writing, and the canonical form. -/

namespace Sys2Proof.Machine

variable {α : Type}

theorem mget_mput_same (dflt : α) (m : List (Nat × α)) (k : Nat) (v : α) : mget dflt (mput m k v) k = v := by
  induction m with
  | nil => simp [mput, mget]
  | cons e t ih =>
    obtain ⟨j, w⟩ := e
    by_cases h1 : k < j
    · simp [mput, h1, mget]
    · by_cases h2 : j = k
      · simp [mput, h2, mget]
      · simp [mput, h1, h2, mget, ih]

theorem mget_mput_other (dflt : α) (m : List (Nat × α)) {k j : Nat} (v : α) (h : j ≠ k) :
    mget dflt (mput m k v) j = mget dflt m j := by
  induction m with
  | nil => simp [mput, mget, Ne.symm h]
  | cons e t ih =>
    obtain ⟨i, w⟩ := e
    by_cases h1 : k < i
    · simp [mput, h1, mget, Ne.symm h]
    · by_cases h2 : i = k
      · subst h2; simp [mput, mget, Ne.symm h]
      · by_cases h3 : i = j
        · subst h3; simp [mput, h1, h2, mget]
        · simp [mput, h1, h2, mget, h3, ih]

@[simp] theorem mget_mput (dflt : α) (m : List (Nat × α)) (k j : Nat) (v : α) :
    mget dflt (mput m k v) j = if j = k then v else mget dflt m j := by
  by_cases h : j = k
  · subst h; simp [mget_mput_same]
  · simp [h, mget_mput_other dflt m v h]

theorem mget_mdel_other (dflt : α) (m : List (Nat × α)) {k j : Nat} (h : j ≠ k) : mget dflt (mdel m k) j = mget dflt m j := by
  induction m with
  | nil => rfl
  | cons e t ih =>
    obtain ⟨i, w⟩ := e
    by_cases h1 : i = k
    · subst h1; simpa [mdel, mget, Ne.symm h] using ih
    · by_cases h2 : i = j
      · subst h2; simp [mdel, mget, h1]
      · simpa [mdel, mget, h1, h2] using ih

theorem mget_mdel_same (dflt : α) (m : List (Nat × α)) (k : Nat) : mget dflt (mdel m k) k = dflt := by
  induction m with
  | nil => rfl
  | cons e t ih =>
    obtain ⟨i, w⟩ := e
    by_cases h1 : i = k
    · subst h1; simpa [mdel, mget] using ih
    · simpa [mdel, mget, h1] using ih

@[simp] theorem mget_mset [DecidableEq α] (dflt : α) (m : List (Nat × α)) (k j : Nat) (v : α) :
    mget dflt (mset dflt m k v) j = if j = k then v else mget dflt m j := by
  by_cases hv : v = dflt
  · by_cases h : j = k
    · subst h; simp [mset, hv, mget_mdel_same]
    · simp [mset, hv, h, mget_mdel_other dflt m h]
  · simp [mset, hv]

/-- Every key of a map is above a bound. -/
def keysAbove (n : Nat) (m : List (Nat × α)) : Prop := ∀ e ∈ m, n < e.1

theorem keysRise_cons (a : Nat) (v : α) (t : List (Nat × α)) :
    keysRise ((a, v) :: t) = true ↔ keysAbove a t ∧ keysRise t = true := by
  induction t generalizing a v with
  | nil => simp [keysRise, keysAbove]
  | cons e t ih =>
    obtain ⟨b, w⟩ := e
    simp only [keysRise, Bool.and_eq_true, decide_eq_true_eq]
    constructor
    · rintro ⟨hab, hr⟩
      refine ⟨?_, hr⟩
      intro x hx
      rcases List.mem_cons.mp hx with rfl | hx
      · exact hab
      · exact Nat.lt_trans hab (((ih b w).mp hr).1 x hx)
    · rintro ⟨ha, hr⟩
      exact ⟨ha _ (List.mem_cons_self ..), hr⟩

theorem mem_mput {m : List (Nat × α)} {k : Nat} {v : α} {e : Nat × α} (h : e ∈ mput m k v) : e = (k, v) ∨ e ∈ m := by
  induction m with
  | nil => simp_all [mput]
  | cons x t ih =>
    obtain ⟨j, w⟩ := x
    simp only [mput] at h
    split at h
    · simp_all
    · split at h
      · rcases List.mem_cons.mp h with h | h
        · exact .inl h
        · exact .inr (List.mem_cons_of_mem _ h)
      · rcases List.mem_cons.mp h with h | h
        · exact .inr (h ▸ List.mem_cons_self ..)
        · rcases ih h with h | h
          · exact .inl h
          · exact .inr (List.mem_cons_of_mem _ h)

/-- Listing a value keeps the keys rising. -/
theorem keysRise_mput (m : List (Nat × α)) (k : Nat) (v : α) (h : keysRise m = true) : keysRise (mput m k v) = true := by
  induction m with
  | nil => rfl
  | cons e t ih =>
    obtain ⟨j, w⟩ := e
    have hj := (keysRise_cons j w t).mp h
    simp only [mput]
    split
    · rename_i hk
      refine (keysRise_cons ..).mpr ⟨?_, h⟩
      intro x hx
      rcases List.mem_cons.mp hx with rfl | hx
      · exact hk
      · exact Nat.lt_trans hk (hj.1 x hx)
    · split
      · rename_i _ hk
        subst hk
        exact (keysRise_cons ..).mpr hj
      · rename_i h1 h2
        refine (keysRise_cons ..).mpr ⟨?_, ih hj.2⟩
        intro x hx
        rcases mem_mput hx with rfl | hx
        · show j < k; omega
        · exact hj.1 x hx

/-- Dropping a key keeps the keys rising. -/
theorem keysRise_mdel (m : List (Nat × α)) (k : Nat) (h : keysRise m = true) : keysRise (mdel m k) = true := by
  induction m with
  | nil => rfl
  | cons e t ih =>
    obtain ⟨j, w⟩ := e
    have hj := (keysRise_cons j w t).mp h
    by_cases hk : j = k
    · simpa [mdel, hk] using ih hj.2
    · have : mdel ((j, w) :: t) k = (j, w) :: mdel t k := by simp [mdel, hk]
      rw [this]
      refine (keysRise_cons ..).mpr ⟨?_, ih hj.2⟩
      intro x hx
      exact hj.1 x (List.mem_filter.mp hx).1

/-- The one write of a byte keeps the canonical form of a memory. -/
theorem mset_keeps_wf (m : List (Nat × BitVec 8)) (k : Nat) (v : BitVec 8) (h : Memory.wf m = true) :
    Memory.wf (mset 0 m k v) = true := by
  simp only [Memory.wf, Bool.and_eq_true, List.all_eq_true] at h ⊢
  by_cases hv : v = 0
  · rw [mset, if_pos hv]
    exact ⟨keysRise_mdel m k h.1, fun e he => h.2 e (List.mem_filter.mp he).1⟩
  · rw [mset, if_neg hv]
    refine ⟨keysRise_mput m k v h.1, fun e he => ?_⟩
    rcases mem_mput he with rfl | he
    · simpa using hv
    · exact h.2 e he

end Sys2Proof.Machine
end

