-- ==== Sys2Proof/Laws/OnMem.lean ====
section
/-! SUPPORT. What follows every command (Retire.lean), said once: a command that leaves nothing to settle changes the device as its
effect does, beside the times since which domains and ports are idle and policies unmet. -/

namespace Sys2Proof.Machine

@[simp] theorem onDev_next (s : State) (f : Dev → Dev) : onDev s f = .next { s with dev := f s.dev } := rfl

/-- Two devices that differ only in what is noted after a command. -/
structure Noted (d t : Dev) : Prop where
  dev : t = { d with pwr := { d.pwr with idleSince := t.pwr.idleSince, unmet := t.pwr.unmet }, fab := { d.fab with ports := t.fab.ports } }
  ports : ∀ p, t.port p = { d.port p with idleSince := (t.port p).idleSince }

theorem Noted.self (d : Dev) : Noted d d := ⟨by cases d; rfl, fun _ => by rfl⟩

theorem Noted.trans {a b c : Dev} (h1 : Noted a b) (h2 : Noted b c) : Noted a c := by
  refine ⟨?_, fun p => ?_⟩
  · rw [h2.dev, h1.dev]
  · rw [h2.ports p, h1.ports p]

theorem noted_updPort_idle (d : Dev) (q t : Nat) : Noted d (d.updPort q fun x => { x with idleSince := t }) := by
  refine ⟨by simp [Dev.updPort], fun p => ?_⟩
  by_cases h : p = q
  · subst h; simp [Dev.updPort, Dev.port]
  · simp [Dev.updPort, Dev.port, h]

theorem noted_foldl {α : Type} (f : Dev → α → Dev) (h : ∀ d a, Noted d (f d a)) (l : List α) (d : Dev) : Noted d (l.foldl f d) := by
  induction l generalizing d with
  | nil => exact Noted.self d
  | cons a t ih => exact (h d a).trans (ih _)

theorem noteIdle_noted (d0 d : Dev) (k : Clock) : Noted d (Dev.noteIdle d0 d k) := by
  refine Noted.trans ?_ (noted_foldl _ (fun d q => noted_updPort_idle d q k.tsc) _ _)
  exact ⟨by cases d; rfl, fun _ => by rfl⟩

theorem noted_unmet (d : Dev) (u : List (Nat × Unmet)) : Noted d { d with pwr := { d.pwr with unmet := u } } :=
  ⟨by cases d; rfl, fun _ => by rfl⟩

theorem trackPolicy_noted (k : Clock) (d : Dev) (key : Nat) : Noted d (Dev.trackPolicy k d key) := by
  unfold Dev.trackPolicy
  dsimp only
  generalize (if d.policyBroken key = true then _ else _ : Unmet) = u'
  by_cases h : u' = mget Unmet.reset d.pwr.unmet key
  · rw [if_pos h]; exact Noted.self d
  · rw [if_neg h]; exact noted_unmet d _

theorem trackPolicies_noted (d : Dev) (k : Clock) : Noted d (d.trackPolicies k) :=
  noted_foldl _ (trackPolicy_noted k) _ _

/-- With nothing to settle, settling changes nothing. -/
theorem settle_calm (d : Dev) (p : Perm) (h1 : d.fatalPend = []) (h2 : d.healthDue = []) : settle d p = (d, p) := by
  unfold settle
  simp only [h1, h2, List.foldl_nil, List.isEmpty_nil, List.any_nil, List.length_nil, List.range_zero, List.map_nil,
    List.append_nil, true_or, if_true, Bool.false_and, Bool.false_eq_true, if_false]
  congr 1
  cases d
  simp only at h1 h2
  subst h1 h2
  rfl

theorem flushNotices_calm (d : Dev) (k : Clock) (h : d.notices = []) : d.flushNotices k = d := by
  unfold Dev.flushNotices
  dsimp only
  rw [h, List.foldl_nil]
  cases d
  simp only at h
  subst h
  rfl

theorem settled_of_noted (s : State) {d e : Dev} (h : Noted d e) : Settled s d { s with dev := e } :=
  ⟨rfl, rfl, rfl, h.dev, h.ports⟩

theorem settle_noted {d e : Dev} (h : Noted d e) (p : Perm) (h2 : d.fatalPend = []) (h3 : d.healthDue = []) :
    settle e p = (e, p) :=
  settle_calm e p (by rw [h.dev]; exact h2) (by rw [h.dev]; exact h3)

/-- A command that leaves nothing to settle: its effect is whole, and nothing else changes. -/
theorem onMem_calm (s : State) (f : Dev → Dev) (h : Calm (f s.dev)) : ∃ t, onMem s f = .next t ∧ Settled s (f s.dev) t := by
  obtain ⟨h1, h2, h3⟩ := h
  have hn := (noteIdle_noted s.dev (f s.dev) s.clk).trans (trackPolicies_noted _ s.clk)
  refine ⟨_, ?_, settled_of_noted s hn⟩
  unfold onMem
  dsimp only
  rw [flushNotices_calm _ _ h1, settle_noted hn _ h2 h3]

/-- A command of this kind always answers a next state. -/
theorem onMem_goes (s : State) (f : Dev → Dev) : ∃ t, onMem s f = .next t ∧ t.pending = s.pending ∧ t.clk = s.clk := ⟨_, rfl, rfl, rfl⟩

end Sys2Proof.Machine
end

