-- ==== Sys2Proof/Laws/Issue.lean ====
section
/-! SUPPORT. What the issue of an instruction does (Operands.lean), said once. -/

namespace Sys2Proof.Machine

theorem takeLatent_none {kind unit place : Nat} {d : Dev} (h : (takeLatent kind unit place d).1 = none) :
    takeLatent kind unit place d = (none, d) := by
  unfold takeLatent at h ⊢
  split <;> simp_all

@[simp] theorem core_setCore (d : Dev) (c j : Nat) (k : Core) : (d.setCore c k).core j = if j = c then k else d.core j := by
  simp [Dev.core, Dev.setCore]

@[simp] theorem core_updCore (d : Dev) (c j : Nat) (f : Core → Core) :
    (d.updCore c f).core j = if j = c then f (d.core c) else d.core j := by
  simp [Dev.updCore]

@[simp] theorem group_setGroup (k : Core) (s j : Nat) (g : Group) (h : s < 64) :
    (k.setGroup s g).group j = if j = s then g else k.group j := by
  simp [Core.group, Core.setGroup, h]

theorem group_updGroup (d : Dev) (c s c' j : Nat) (f : Group → Group) (h : s < 64) :
    (d.updGroup c s f).group c' j = if c' = c ∧ j = s then f (d.group c s) else d.group c' j := by
  by_cases hc : c' = c
  · subst hc; simp [Dev.updGroup, Dev.setGroup, Dev.group, h]
  · simp [Dev.updGroup, Dev.setGroup, Dev.group, hc]

/-- The fetch of a word that the instruction cache holds answers, and changes nothing. -/
theorem fetchWord_fetched {s : State} {c gs va : Nat} (h : Fetched s c gs va) : s.dev.fetchWord s.clk c gs va = (true, s.dev) := by
  obtain ⟨e, ga, l, hx, hl, hi, hp⟩ := h
  simp only [Dev.fetchWord, hx, Dev.meetIc, takeLatent_none hl, hi, hp, Bool.false_eq_true, if_false]

/-- An instruction that presents issues: its effect acts on the device as it is. -/
theorem issue_presents {s : State} {c gs : Nat} {f : InsF} {sh : Shape} (h : Presents s c gs f sh) (eff : Dev → Dev) :
    issue s.clk c gs f sh eff s.dev = eff s.dev := by
  have hf : s.dev.fetch s.clk c gs (f.wide && sh.wideOk) = (true, s.dev) := by
    simp only [Dev.fetch, fetchWord_fetched h.fetched, Bool.true_and]
    split
    · rename_i hw
      obtain ⟨hw, ho⟩ := Bool.and_eq_true_iff.mp hw
      exact fetchWord_fetched (h.second hw ho)
    · rfl
  have hm : s.dev.meetRegs s.clk c gs = (true, s.dev) := by simp only [Dev.meetRegs, takeLatent_none h.sound]
  simp only [issue, h.ready, h.clean, hf, hm, h.word, h.waits, Bool.not_true, Bool.false_eq_true, if_false, if_true]

theorem updGroup_calm {d : Dev} {c s : Nat} {f : Group → Group} (hc : Calm d) : Calm (d.updGroup c s f) := hc

/-- Setting one group of a core changes nothing else of it. -/
theorem updGroup_core (d : Dev) (c s : Nat) (f : Group → Group) :
    (d.updGroup c s f).core c = { d.core c with groups := ((d.updGroup c s f).core c).groups } := by
  simp only [Dev.updGroup, Dev.setGroup, core_updCore, if_true]
  unfold Core.setGroup
  split <;> rfl

theorem updGroup_others (d : Dev) {c c' : Nat} (s : Nat) (f : Group → Group) (h : c' ≠ c) :
    (d.updGroup c s f).core c' = d.core c' := by
  simp [Dev.updGroup, Dev.setGroup, h]

/-- The frame of an effect on one group. -/
theorem groupFrame_of {s t : State} {c gs : Nat} {f : Group → Group} (hg : gs < 64) (h : Settled s (s.dev.updGroup c gs f) t) :
    GroupFrame s c gs t ∧ t.dev.group c gs = f (s.dev.group c gs) := by
  have hcores : t.dev.cores = (s.dev.updGroup c gs f).cores := by rw [h.dev]
  have hcore : ∀ x, t.dev.core x = (s.dev.updGroup c gs f).core x := fun x => by simp only [Dev.core, hcores]
  have hgrp : ∀ x j, t.dev.group x j = (s.dev.updGroup c gs f).group x j := fun x j => by simp only [Dev.group, hcore]
  refine ⟨⟨⟨h.pending, h.perm, h.clk, ?_, ?_, ?_⟩, ?_, ?_⟩, ?_⟩
  · rw [h.dev]; rfl
  · intro p; rw [h.ports p]; rfl
  · intro c' hc; rw [hcore, updGroup_others _ _ _ hc]
  · rw [hcore, updGroup_core]
  · intro g hne; rw [hgrp, group_updGroup _ _ _ _ _ _ hg, if_neg (fun e => hne e.2)]
  · rw [hgrp, group_updGroup _ _ _ _ _ _ hg]; simp

/-- An instruction that acts on its own group completes: the group has its effect and moves on, and nothing else changes. -/
theorem issueGroup_presents {s : State} {c gs : Nat} {f : InsF} {sh : Shape} (h : Presents s c gs f sh) (hg : gs < 64)
    (eff : Group → Group) : ∃ t, onMem s (fun d => issueGroup s.clk c gs f sh eff d) = .next t ∧ GroupFrame s c gs t ∧
      t.dev.group c gs = (eff (s.dev.group c gs)).advance f.len := by
  have hi : issueGroup s.clk c gs f sh eff s.dev = s.dev.updGroup c gs fun g => (eff g).advance f.len := issue_presents h _
  obtain ⟨t, ht, hs⟩ := onMem_calm s (fun d => issueGroup s.clk c gs f sh eff d) (by rw [hi]; exact updGroup_calm h.calm)
  rw [show issueGroup s.clk c gs f sh eff s.dev = _ from hi] at hs
  exact ⟨t, ht, groupFrame_of hg hs⟩

end Sys2Proof.Machine
end

