-- ==== Sys2Proof/Laws/Registers.lean ====
section
/-! SUPPORT. Reading a register after writing it (R77, R78), and what a result leaves in the registers (R86, R189). -/

namespace Sys2Proof.Machine

/-- A register number that names something. -/
def named (r : Nat) : Bool := isV r || isU r || isP r

theorem setReg_v (g : Group) (r l : Nat) (v : W32) (h : isV r = true) : g.setReg r l v = { g with v := mput g.v (32 * r + l) v } := by
  simp [Group.setReg, h]

/-- A group that differs in its registers only. -/
def RegsOnly (g g' : Group) : Prop := ∃ v u p, g' = { g with v := v, u := u, p := p }

theorem RegsOnly.self (g : Group) : RegsOnly g g := ⟨g.v, g.u, g.p, rfl⟩

theorem RegsOnly.trans {a b c : Group} (h1 : RegsOnly a b) (h2 : RegsOnly b c) : RegsOnly a c := by
  obtain ⟨_, _, _, rfl⟩ := h1
  obtain ⟨v, u, p, rfl⟩ := h2
  exact ⟨v, u, p, rfl⟩

theorem regsOnly_foldl {α : Type} (f : Group → α → Group) (h : ∀ g a, RegsOnly g (f g a)) (l : List α) (g : Group) :
    RegsOnly g (l.foldl f g) := by
  induction l generalizing g with
  | nil => exact RegsOnly.self g
  | cons a t ih => exact (h g a).trans (ih _)

theorem setReg_regsOnly (g : Group) (r l : Nat) (v : W32) : RegsOnly g (g.setReg r l v) := by
  unfold Group.setReg
  split
  · exact ⟨mput g.v (32 * r + l) v, g.u, g.p, rfl⟩
  · split
    · exact ⟨g.v, mput g.u (r - 0x100) v, g.p, rfl⟩
    · split
      · exact ⟨g.v, g.u, _, rfl⟩
      · exact RegsOnly.self g

theorem setOpnd_regsOnly (g : Group) (r n l v : Nat) : RegsOnly g (g.setOpnd r n l v) := by
  unfold Group.setOpnd
  split
  · exact RegsOnly.self g
  · exact regsOnly_foldl _ (fun _ _ => setReg_regsOnly ..) _ _

theorem putResult_regsOnly (g : Group) (f : InsF) (n : Nat) (val : Nat → Nat) : RegsOnly g (putResult g f n val) := by
  unfold putResult
  split
  · exact setOpnd_regsOnly ..
  · exact regsOnly_foldl _ (fun _ _ => setOpnd_regsOnly ..) _ _

theorem putTile_regsOnly (g : Group) (f : InsF) (op : Nat → Nat → Nat → Nat) : RegsOnly g (putTile g f op) :=
  regsOnly_foldl _ (fun _ _ => regsOnly_foldl _ (fun _ _ => setReg_regsOnly ..) _ _) _ _

/-- A group that changes its registers and goes on has moved. -/
theorem moved_of_regsOnly {g g' : Group} (f : InsF) (h : RegsOnly g g') : Moved g (g'.advance f.len) f := by
  obtain ⟨v, u, p, rfl⟩ := h
  unfold Moved Group.advance Group.whole
  rfl

/-- A write of another register, or of another lane of a v register or predicate, is not seen. -/
theorem reg_setReg_other (g : Group) (r l r' l' : Nat) (v : W32) (hl : l < 32) (hl' : l' < 32)
    (h : r' ≠ r ∨ (isU r = false ∧ l' ≠ l)) : (g.setReg r l v).reg r' l' = g.reg r' l' := by
  unfold Group.setReg
  split
  · rename_i hv
    have hk : 32 * r' + l' ≠ 32 * r + l := by
      intro e
      have h1 : r' = r := by omega
      have h2 : l' = l := by omega
      rcases h with h | h
      · exact h h1
      · exact h.2 h2
    simp only [Group.reg, mget_mput, hk, if_false]
  · split
    · rename_i hv hu
      simp only [Group.reg]
      by_cases hr : r' = r
      · rcases h with h | h
        · exact absurd hr h
        · simp [h.1] at hu
      · split
        · rfl
        · split
          · rename_i hu'
            have : r' - 256 ≠ r - 256 := by
              simp only [isU, Bool.and_eq_true, decide_eq_true_eq] at hu hu'
              omega
            simp [this]
          · rfl
    · split
      · rename_i hv hu hp
        simp only [Group.reg]
        split
        · rfl
        · split
          · rfl
          · split
            · rename_i hp'
              by_cases hr : r' = r
              · have hne : l' ≠ l := by
                  rcases h with h | h
                  · exact absurd hr h
                  · exact h.2
                subst hr
                have hb : (1#32 <<< l).getLsbD l' = false := by
                  simp only [BitVec.getLsbD_shiftLeft, hl', decide_true, Bool.true_and, BitVec.getLsbD_one]
                  rcases Nat.lt_or_ge l' l with hlt | hge
                  · simp [hlt]
                  · have : l' - l ≠ 0 := by omega
                    simp [this]
                simp only [mget_mput, if_true]
                split
                · rw [BitVec.getLsbD_or, hb, Bool.or_false]
                · rw [BitVec.getLsbD_and, BitVec.getLsbD_not, hb, decide_eq_true hl']
                  simp
              · have : r' - 320 ≠ r - 320 := by
                  simp only [isP, Bool.and_eq_true, decide_eq_true_eq] at hp hp'
                  omega
                simp [this]
            · rfl
      · rfl

/-- A write of a v or u register is read back. -/
theorem reg_setReg_same (g : Group) (r l : Nat) (v : W32) (h : isV r = true ∨ isU r = true) : (g.setReg r l v).reg r l = v := by
  unfold Group.setReg Group.reg
  rcases h with h | h
  · simp [h]
  · have hv : isV r = false := by
      simp only [isU, isV, Bool.and_eq_true, decide_eq_true_eq, decide_eq_false_iff_not] at h ⊢
      omega
    simp [h, hv]

/-- A write of a predicate is read back as its low bit. -/
theorem reg_setReg_pred (g : Group) (r l : Nat) (v : W32) (hl : l < 32) (h : isP r = true) :
    ((g.setReg r l v).reg r l).toNat = v.toNat % 2 := by
  have hv : isV r = false := by
    simp only [isP, isV, Bool.and_eq_true, decide_eq_true_eq, decide_eq_false_iff_not] at h ⊢
    omega
  have hu : isU r = false := by
    simp only [isP, isU, Bool.and_eq_true, decide_eq_true_eq, Bool.and_eq_false_iff, decide_eq_false_iff_not] at h ⊢
    omega
  unfold Group.setReg Group.reg
  simp only [h, hv, hu, Bool.false_eq_true, if_false, if_true, mget_mput]
  have hz : v.toNat % 2 = (v.getLsbD 0).toNat := by
    simp [BitVec.getLsbD, Nat.testBit_zero]
    rcases Nat.mod_two_eq_zero_or_one v.toNat with h | h <;> simp [h]
  rw [hz]
  cases hb : v.getLsbD 0 <;> simp [hl]

/-- A destination of one or two registers, after its write: what it reads, and what everything else reads. -/
theorem setOpnd_reg_other (g : Group) (r n l v r' l' : Nat) (hl : l < 32) (hl' : l' < 32)
    (h : r' ∉ regList r n ∨ (isU r = false ∧ isU (r + 1) = false ∧ l' ≠ l)) (hn : n = 1 ∨ n = 2) :
    (g.setOpnd r n l v).reg r' l' = g.reg r' l' := by
  unfold Group.setOpnd
  split
  · rfl
  · rename_i hz
    simp only [regList, hz] at h
    rcases hn with rfl | rfl
    · simp only [List.range_one, List.foldl_cons, List.foldl_nil, Nat.add_zero]
      apply reg_setReg_other _ _ _ _ _ _ hl hl'
      rcases h with h | h
      · left; intro e; exact h (by simp [e])
      · exact .inr ⟨h.1, h.2.2⟩
    · simp only [List.range_succ, List.range_zero, List.nil_append, List.cons_append, List.foldl_cons, List.foldl_nil, Nat.add_zero]
      rw [reg_setReg_other _ _ _ _ _ _ hl hl', reg_setReg_other _ _ _ _ _ _ hl hl']
      · rcases h with h | h
        · left; intro e; exact h (by simp [e, List.range_succ])
        · exact .inr ⟨h.1, h.2.2⟩
      · rcases h with h | h
        · left; intro e; exact h (by simp [e, List.range_succ])
        · exact .inr ⟨h.2.1, h.2.2⟩

theorem two_halves (a v : Nat) : v % a + v / a % a * a = v % (a * a) := by
  rw [Nat.mod_mul, Nat.mul_comm]

theorem toNat_part (w v : Nat) : (BitVec.ofNat w v).toNat = v % 2 ^ w := BitVec.toNat_ofNat ..

/-- The two halves of a pair's value. -/
theorem pair_value (w v : Nat) :
    0 + (BitVec.ofNat w (v >>> (w * 0))).toNat * 2 ^ (w * 0) + (BitVec.ofNat w (v >>> (w * 1))).toNat * 2 ^ (w * 1) = v % 2 ^ (w * 2) := by
  rw [toNat_part, toNat_part, Nat.mul_zero, Nat.mul_one, Nat.shiftRight_zero, Nat.shiftRight_eq_div_pow, Nat.pow_zero, Nat.mul_one,
    Nat.zero_add, Nat.pow_mul, Nat.pow_two]
  exact two_halves _ _

theorem single_value (w v : Nat) : 0 + (BitVec.ofNat w (v >>> (w * 0))).toNat * 2 ^ (w * 0) = v % 2 ^ (w * 1) := by
  rw [toNat_part, Nat.mul_zero, Nat.mul_one, Nat.shiftRight_zero, Nat.pow_zero, Nat.mul_one, Nat.zero_add]

/-- A pair or a single register reads back what was written, modulo its width. -/
theorem opnd_setOpnd_same (g : Group) (r n l v : Nat) (hl : l < 32) (hn : n = 1 ∨ n = 2)
    (h : ∀ i < n, isV (r + i) = true ∨ isU (r + i) = true) : (g.setOpnd r n l v).opnd r n l = v % 2 ^ (32 * n) := by
  have hz : isZero r = false := by
    have := h 0 (by omega)
    simp only [isV, isU, isZero, Nat.add_zero, decide_eq_true_eq, Bool.and_eq_true, beq_eq_false_iff_ne] at this ⊢
    omega
  have h0 : isV r = true ∨ isU r = true := h 0 (by omega)
  unfold Group.setOpnd Group.opnd
  simp only [hz, Bool.false_eq_true, if_false]
  rcases hn with rfl | rfl
  · rw [List.range_one, List.foldl_cons, List.foldl_nil, List.foldl_cons, List.foldl_nil, Nat.add_zero, reg_setReg_same _ _ _ _ h0]
    exact single_value 32 v
  · have h1 := h 1 (by omega)
    have hr : List.range 2 = [0, 1] := rfl
    rw [hr, List.foldl_cons, List.foldl_cons, List.foldl_nil, List.foldl_cons, List.foldl_cons, List.foldl_nil, Nat.add_zero,
      reg_setReg_same _ _ _ _ h1, reg_setReg_other _ _ _ _ _ _ hl hl (.inl (by omega)), reg_setReg_same _ _ _ _ h0]
    exact pair_value 32 v

theorem opnd_congr {g g' : Group} {r n l : Nat} (h : ∀ i < n, g'.reg (r + i) l = g.reg (r + i) l) : g'.opnd r n l = g.opnd r n l := by
  unfold Group.opnd
  split
  · rfl
  · have : ∀ (is : List Nat) (acc : Nat), (∀ i ∈ is, i < n) →
        is.foldl (fun acc i => acc + (g'.reg (r + i) l).toNat * 2 ^ (32 * i)) acc =
        is.foldl (fun acc i => acc + (g.reg (r + i) l).toNat * 2 ^ (32 * i)) acc := by
      intro is
      induction is with
      | nil => intro _ _; rfl
      | cons i t ih =>
        intro acc hb
        rw [List.foldl_cons, List.foldl_cons, h i (hb i (List.mem_cons_self ..)), ih _ fun x hx => hb x (List.mem_cons_of_mem _ hx)]
    exact this _ _ fun i hi => List.mem_range.mp hi

theorem lanesOf_mem (m : BitVec 32) (l : Nat) : l ∈ lanesOf m ↔ l < 32 ∧ m.getLsbD l = true := by
  simp [lanesOf]

theorem lanesOf_nodup (m : BitVec 32) : (lanesOf m).Nodup := List.Nodup.filter _ List.nodup_range

/-- A fold over lanes, each of which touches its own lane only: a lane of the list reads what its own write leaves. -/
theorem foldl_lanes_reg (f : Group → Nat → Group) (r l : Nat)
    (ho : ∀ g a, a < 32 → l ≠ a → (f g a).reg r l = g.reg r l) (ls : List Nat) (hb : ∀ a ∈ ls, a < 32) (h : l ∉ ls) (g : Group) :
    (ls.foldl f g).reg r l = g.reg r l := by
  induction ls generalizing g with
  | nil => rfl
  | cons a t ih =>
    rw [List.foldl_cons, ih (fun x hx => hb x (List.mem_cons_of_mem _ hx)) (fun hx => h (List.mem_cons_of_mem _ hx)),
      ho _ _ (hb a (List.mem_cons_self ..)) (fun e => h (e ▸ List.mem_cons_self ..))]

theorem foldl_lanes_split (f : Group → Nat → Group) (ls : List Nat) (hn : ls.Nodup) (l : Nat) (h : l ∈ ls) (g : Group) :
    ∃ a b, ls = a ++ l :: b ∧ l ∉ a ∧ l ∉ b ∧ ls.foldl f g = b.foldl f (f (a.foldl f g) l) := by
  obtain ⟨a, b, rfl⟩ := List.append_of_mem h
  have := List.nodup_append.mp hn
  refine ⟨a, b, rfl, ?_, ?_, by simp⟩
  · intro ha; exact (this.2.2 l ha l (List.mem_cons_self ..)) rfl
  · exact (List.nodup_cons.mp this.2.1).1

/-- What a field may be that names an operand of one or two registers. -/
theorem regOk_cases {r field n : Nat} (hr : r ≤ 255) (h : regOk r field n = true) :
    isZero field = true ∨ (isV field = true ∧ isU field = false ∧ isP field = false ∧ ∀ i < n, isV (field + i) = true ∧ isU (field + i) = false) ∨
    (isU field = true ∧ isV field = false ∧ isP field = false ∧ ∀ i < n, isU (field + i) = true) ∨
    (isP field = true ∧ isV field = false ∧ isU field = false ∧ n = 1) := by
  unfold regOk at h
  by_cases hz : isZero field = true
  · exact .inl hz
  · right
    simp only [hz, Bool.false_eq_true, if_false] at h
    by_cases hv : isV field = true
    · left
      simp only [hv, if_true, Bool.and_eq_true, decide_eq_true_eq] at h
      have hf : field + n ≤ 255 := Nat.le_trans h.2 hr
      refine ⟨hv, ?_, ?_, fun i hi => ⟨?_, ?_⟩⟩ <;>
        simp only [isV, isU, isP, Bool.and_eq_false_iff, decide_eq_true_eq, decide_eq_false_iff_not] <;> omega
    · right
      simp only [hv, Bool.false_eq_true, if_false] at h
      by_cases hu : isU field = true
      · left
        simp only [hu, if_true, Bool.and_eq_true, decide_eq_true_eq] at h
        have hu' := hu
        simp only [isU, Bool.and_eq_true, decide_eq_true_eq] at hu'
        refine ⟨hu, by simpa using hv, ?_, fun i hi => ?_⟩ <;>
          simp only [isU, isP, Bool.and_eq_true, Bool.and_eq_false_iff, decide_eq_true_eq, decide_eq_false_iff_not] <;> omega
      · right
        simp only [hu, Bool.false_eq_true, if_false, Bool.and_eq_true, beq_iff_eq] at h
        exact ⟨h.1, by simpa using hv, by simpa using hu, h.2⟩

theorem isZero_others {field : Nat} (h : isZero field = true) : isV field = false ∧ isU field = false ∧ isP field = false := by
  simp only [isZero, beq_iff_eq] at h
  subst h
  decide

/-- What a result leaves in the registers (R86). -/
theorem putResult_wrote (g : Group) (f : InsF) (n r : Nat) (val : Nat → Nat) (hr : r ≤ 255) (hn : n = 1 ∨ n = 2)
    (h : regOk r f.d n = true) : Wrote g (putResult g f n val) f n val := by
  rcases regOk_cases hr h with hz | ⟨hv, hu, hp, hi⟩ | ⟨hu, hv, hp, hi⟩ | ⟨hp, hv, hu, rfl⟩
  · -- zero: nothing is written
    obtain ⟨hv, hu, hp⟩ := isZero_others hz
    have hsame : ∀ l v, ∀ h : Group, h.setOpnd f.d n l v = h := fun l v h => by simp [Group.setOpnd, hz]
    have hput : putResult g f n val = g := by
      unfold putResult Group.writeLanes
      simp only [hu, Bool.false_eq_true, if_false, hsame]
      generalize lanesOf _ = ls
      induction ls with
      | nil => rfl
      | cons _ _ ih => exact ih
    rw [hput]
    exact ⟨fun e => absurd e (by simp [hu]), fun e => absurd e (by simp [hv]), fun e => absurd e (by simp [hp]), fun _ _ _ _ => rfl⟩
  · -- v: lane by lane
    have hu1 : n = 2 → isU (f.d + 1) = false := fun e => (hi 1 (by omega)).2
    have hput : putResult g f n val = g.writeLanes (g.acting f) f.d n val := by simp [putResult, hu]
    have hoth : ∀ (h : Group) (a r' l : Nat), a < 32 → l < 32 → (r' ∉ regList f.d n ∨ l ≠ a) →
        (h.setOpnd f.d n a (val a)).reg r' l = h.reg r' l := by
      intro h a r' l ha hl hc
      rcases hn with rfl | rfl
      · unfold Group.setOpnd
        split
        · rfl
        · rename_i hz
          simp only [List.range_one, List.foldl_cons, List.foldl_nil, Nat.add_zero]
          apply reg_setReg_other _ _ _ _ _ _ ha hl
          rcases hc with hc | hc
          · left; intro e; exact hc (by simp [regList, hz, e])
          · exact .inr ⟨hu, hc⟩
      · apply setOpnd_reg_other _ _ _ _ _ _ _ ha hl _ (.inr rfl)
        rcases hc with hc | hc
        · exact .inl hc
        · exact .inr ⟨hu, hu1 rfl, hc⟩
    rw [hput]
    refine ⟨fun e => absurd e (by simp [hu]), fun _ l hl ha => ?_, fun e => absurd e (by simp [hp]), fun r' l hl hc => ?_⟩
    · obtain ⟨as, bs, he, h1, h2, h3⟩ := foldl_lanes_split (fun h l => h.setOpnd f.d n l (val l)) (lanesOf (g.acting f))
        (lanesOf_nodup _) l ((lanesOf_mem _ _).mpr ⟨hl, ha⟩) g
      have hb : ∀ a ∈ bs, a < 32 := fun a hx => ((lanesOf_mem _ _).mp (he ▸ List.mem_append_right _ (List.mem_cons_of_mem _ hx))).1
      unfold Group.writeLanes
      rw [h3, opnd_congr (g := (Group.setOpnd (as.foldl _ g) f.d n l (val l)))]
      · exact opnd_setOpnd_same _ _ _ _ _ hl hn fun i hi' => .inl (hi i hi').1
      · intro i _
        exact foldl_lanes_reg _ _ _ (fun h a ha' hne => hoth h a _ l ha' hl (.inr hne)) bs hb h2 _
    · unfold Group.writeLanes
      rcases hc with hc | hc
      · have : ∀ (ls : List Nat) (h : Group), (∀ a ∈ ls, a < 32) →
            (ls.foldl (fun h l => h.setOpnd f.d n l (val l)) h).reg r' l = h.reg r' l := by
          intro ls
          induction ls with
          | nil => intro _ _; rfl
          | cons a t ih =>
            intro h hb
            rw [List.foldl_cons, ih _ fun x hx => hb x (List.mem_cons_of_mem _ hx),
              hoth h a r' l (hb a (List.mem_cons_self ..)) hl (.inl hc)]
        exact this _ _ fun a ha => ((lanesOf_mem _ _).mp ha).1
      · exact foldl_lanes_reg _ _ _ (fun h a ha' hne => hoth h a r' l ha' hl (.inr hne)) _
          (fun a ha => ((lanesOf_mem _ _).mp ha).1) (fun hm => by simp [((lanesOf_mem _ _).mp hm).2] at hc) g
  · -- u: once
    have hz : isZero f.d = false := by
      simp only [isU, isZero, Bool.and_eq_true, decide_eq_true_eq, beq_eq_false_iff_ne] at hu ⊢
      omega
    have hput : putResult g f n val = g.setOpnd f.d n 0 (val 0) := by simp [putResult, hu]
    rw [hput]
    refine ⟨fun _ => ?_, fun e => absurd e (by simp [hv]), fun e => absurd e (by simp [hp]), fun r' l hl hc => ?_⟩
    · exact opnd_setOpnd_same _ _ _ _ _ (by omega) hn fun i hi' => .inr (hi i hi')
    · rcases hc with hc | hc
      · exact setOpnd_reg_other _ _ _ _ _ _ _ (by omega) hl (.inl hc) hn
      · simp [hu] at hc
  · -- predicate: bit by bit
    have hz : isZero f.d = false := by
      simp only [isP, isZero, Bool.and_eq_true, decide_eq_true_eq, beq_eq_false_iff_ne] at hp ⊢
      omega
    have hone : ∀ (h : Group) (a : Nat), h.setOpnd f.d 1 a (val a) = h.setReg f.d a (BitVec.ofNat 32 (val a)) := by
      intro h a; simp [Group.setOpnd, hz]
    have hput : putResult g f 1 val = (lanesOf (g.acting f)).foldl (fun h l => h.setReg f.d l (BitVec.ofNat 32 (val l))) g := by
      simp [putResult, hu, Group.writeLanes, hone]
    rw [hput]
    refine ⟨fun e => absurd e (by simp [hu]), fun e => absurd e (by simp [hv]), fun _ l hl ha => ?_, fun r' l hl hc => ?_⟩
    · obtain ⟨as, bs, he, h1, h2, h3⟩ := foldl_lanes_split (fun h l => h.setReg f.d l (BitVec.ofNat 32 (val l))) (lanesOf (g.acting f))
        (lanesOf_nodup _) l ((lanesOf_mem _ _).mpr ⟨hl, ha⟩) g
      have hb : ∀ a ∈ bs, a < 32 := fun a hx => ((lanesOf_mem _ _).mp (he ▸ List.mem_append_right _ (List.mem_cons_of_mem _ hx))).1
      rw [h3, foldl_lanes_reg _ _ _ (fun h a ha' hne => reg_setReg_other _ _ _ _ _ _ ha' hl (.inr ⟨hu, hne⟩)) bs hb h2,
        reg_setReg_pred _ _ _ _ hl hp]
      simp
    · rcases hc with hc | hc
      · have hne : r' ≠ f.d := fun e => hc (by simp [regList, hz, e])
        have : ∀ (ls : List Nat) (h : Group), (∀ a ∈ ls, a < 32) →
            (ls.foldl (fun h l => h.setReg f.d l (BitVec.ofNat 32 (val l))) h).reg r' l = h.reg r' l := by
          intro ls
          induction ls with
          | nil => intro _ _; rfl
          | cons a t ih =>
            intro h hb
            rw [List.foldl_cons, ih _ fun x hx => hb x (List.mem_cons_of_mem _ hx),
              reg_setReg_other _ _ _ _ _ _ (hb a (List.mem_cons_self ..)) hl (.inl hne)]
        exact this _ _ fun a ha => ((lanesOf_mem _ _).mp ha).1
      · exact foldl_lanes_reg _ _ _ (fun h a ha' hne => reg_setReg_other _ _ _ _ _ _ ha' hl (.inr ⟨hu, hne⟩)) _
          (fun a ha => ((lanesOf_mem _ _).mp ha).1) (fun hm => by simp [((lanesOf_mem _ _).mp hm).2] at hc) g

end Sys2Proof.Machine
end

