-- ==== Sys2Proof/Laws/State.lean ====
section
/-! SUPPORT. Laws of the updates of Ops.lean: what an update of one numbered unit leaves unchanged, field by field and unit by unit, and what
reading that unit gives afterwards. -/

namespace Sys2Proof.Machine

variable (d : Dev)

/-! ### Fields that an update does not touch -/

@[simp] theorem Dev.setCore_slices (c : Nat) (k : Core) : (d.setCore c k).slices = d.slices := rfl
@[simp] theorem Dev.setCore_mem (c : Nat) (k : Core) : (d.setCore c k).mem = d.mem := rfl
@[simp] theorem Dev.setCore_ctl (c : Nat) (k : Core) : (d.setCore c k).ctl = d.ctl := rfl
@[simp] theorem Dev.setCore_fab (c : Nat) (k : Core) : (d.setCore c k).fab = d.fab := rfl
@[simp] theorem Dev.setCore_tim (c : Nat) (k : Core) : (d.setCore c k).tim = d.tim := rfl
@[simp] theorem Dev.setCore_whf (c : Nat) (k : Core) : (d.setCore c k).whf = d.whf := rfl
@[simp] theorem Dev.setCore_lkp (c : Nat) (k : Core) : (d.setCore c k).lkp = d.lkp := rfl
@[simp] theorem Dev.setCore_pwr (c : Nat) (k : Core) : (d.setCore c k).pwr = d.pwr := rfl
@[simp] theorem Dev.setCore_gau (c : Nat) (k : Core) : (d.setCore c k).gau = d.gau := rfl
@[simp] theorem Dev.setCore_erl (c : Nat) (k : Core) : (d.setCore c k).erl = d.erl := rfl
@[simp] theorem Dev.setCore_cnt (c : Nat) (k : Core) : (d.setCore c k).cnt = d.cnt := rfl
@[simp] theorem Dev.setCore_ldg (c : Nat) (k : Core) : (d.setCore c k).ldg = d.ldg := rfl
@[simp] theorem Dev.setCore_shadows (c : Nat) (k : Core) : (d.setCore c k).shadows = d.shadows := rfl
@[simp] theorem Dev.setCore_thermtrip (c : Nat) (k : Core) : (d.setCore c k).thermtrip = d.thermtrip := rfl
@[simp] theorem Dev.setCore_nvmOwner (c : Nat) (k : Core) : (d.setCore c k).nvmOwner = d.nvmOwner := rfl
@[simp] theorem Dev.setCore_stopped (c : Nat) (k : Core) : (d.setCore c k).stopped = d.stopped := rfl
@[simp] theorem Dev.setCore_latent (c : Nat) (k : Core) : (d.setCore c k).latent = d.latent := rfl
@[simp] theorem Dev.setCore_notices (c : Nat) (k : Core) : (d.setCore c k).notices = d.notices := rfl
@[simp] theorem Dev.setCore_fatalPend (c : Nat) (k : Core) : (d.setCore c k).fatalPend = d.fatalPend := rfl
@[simp] theorem Dev.setCore_healthDue (c : Nat) (k : Core) : (d.setCore c k).healthDue = d.healthDue := rfl
@[simp] theorem Dev.setCore_sbResult (c : Nat) (k : Core) : (d.setCore c k).sbResult = d.sbResult := rfl
@[simp] theorem Dev.setCore_fresh (c : Nat) (k : Core) : (d.setCore c k).fresh = d.fresh := rfl
@[simp] theorem Dev.setCore_id (c : Nat) (k : Core) : (d.setCore c k).id = d.id := rfl

@[simp] theorem Dev.updCore_slices (c : Nat) (f : Core → Core) : (d.updCore c f).slices = d.slices := rfl
@[simp] theorem Dev.updCore_mem (c : Nat) (f : Core → Core) : (d.updCore c f).mem = d.mem := rfl
@[simp] theorem Dev.updCore_ctl (c : Nat) (f : Core → Core) : (d.updCore c f).ctl = d.ctl := rfl
@[simp] theorem Dev.updCore_fab (c : Nat) (f : Core → Core) : (d.updCore c f).fab = d.fab := rfl
@[simp] theorem Dev.updCore_tim (c : Nat) (f : Core → Core) : (d.updCore c f).tim = d.tim := rfl
@[simp] theorem Dev.updCore_whf (c : Nat) (f : Core → Core) : (d.updCore c f).whf = d.whf := rfl
@[simp] theorem Dev.updCore_lkp (c : Nat) (f : Core → Core) : (d.updCore c f).lkp = d.lkp := rfl
@[simp] theorem Dev.updCore_pwr (c : Nat) (f : Core → Core) : (d.updCore c f).pwr = d.pwr := rfl
@[simp] theorem Dev.updCore_gau (c : Nat) (f : Core → Core) : (d.updCore c f).gau = d.gau := rfl
@[simp] theorem Dev.updCore_erl (c : Nat) (f : Core → Core) : (d.updCore c f).erl = d.erl := rfl
@[simp] theorem Dev.updCore_cnt (c : Nat) (f : Core → Core) : (d.updCore c f).cnt = d.cnt := rfl
@[simp] theorem Dev.updCore_ldg (c : Nat) (f : Core → Core) : (d.updCore c f).ldg = d.ldg := rfl
@[simp] theorem Dev.updCore_shadows (c : Nat) (f : Core → Core) : (d.updCore c f).shadows = d.shadows := rfl
@[simp] theorem Dev.updCore_thermtrip (c : Nat) (f : Core → Core) : (d.updCore c f).thermtrip = d.thermtrip := rfl
@[simp] theorem Dev.updCore_nvmOwner (c : Nat) (f : Core → Core) : (d.updCore c f).nvmOwner = d.nvmOwner := rfl
@[simp] theorem Dev.updCore_stopped (c : Nat) (f : Core → Core) : (d.updCore c f).stopped = d.stopped := rfl
@[simp] theorem Dev.updCore_latent (c : Nat) (f : Core → Core) : (d.updCore c f).latent = d.latent := rfl
@[simp] theorem Dev.updCore_notices (c : Nat) (f : Core → Core) : (d.updCore c f).notices = d.notices := rfl
@[simp] theorem Dev.updCore_fatalPend (c : Nat) (f : Core → Core) : (d.updCore c f).fatalPend = d.fatalPend := rfl
@[simp] theorem Dev.updCore_healthDue (c : Nat) (f : Core → Core) : (d.updCore c f).healthDue = d.healthDue := rfl
@[simp] theorem Dev.updCore_sbResult (c : Nat) (f : Core → Core) : (d.updCore c f).sbResult = d.sbResult := rfl
@[simp] theorem Dev.updCore_fresh (c : Nat) (f : Core → Core) : (d.updCore c f).fresh = d.fresh := rfl
@[simp] theorem Dev.updCore_id (c : Nat) (f : Core → Core) : (d.updCore c f).id = d.id := rfl

@[simp] theorem Dev.setGroup_slices (c s : Nat) (g : Group) : (d.setGroup c s g).slices = d.slices := rfl
@[simp] theorem Dev.setGroup_mem (c s : Nat) (g : Group) : (d.setGroup c s g).mem = d.mem := rfl
@[simp] theorem Dev.setGroup_ctl (c s : Nat) (g : Group) : (d.setGroup c s g).ctl = d.ctl := rfl
@[simp] theorem Dev.setGroup_fab (c s : Nat) (g : Group) : (d.setGroup c s g).fab = d.fab := rfl
@[simp] theorem Dev.setGroup_tim (c s : Nat) (g : Group) : (d.setGroup c s g).tim = d.tim := rfl
@[simp] theorem Dev.setGroup_whf (c s : Nat) (g : Group) : (d.setGroup c s g).whf = d.whf := rfl
@[simp] theorem Dev.setGroup_lkp (c s : Nat) (g : Group) : (d.setGroup c s g).lkp = d.lkp := rfl
@[simp] theorem Dev.setGroup_pwr (c s : Nat) (g : Group) : (d.setGroup c s g).pwr = d.pwr := rfl
@[simp] theorem Dev.setGroup_gau (c s : Nat) (g : Group) : (d.setGroup c s g).gau = d.gau := rfl
@[simp] theorem Dev.setGroup_erl (c s : Nat) (g : Group) : (d.setGroup c s g).erl = d.erl := rfl
@[simp] theorem Dev.setGroup_cnt (c s : Nat) (g : Group) : (d.setGroup c s g).cnt = d.cnt := rfl
@[simp] theorem Dev.setGroup_ldg (c s : Nat) (g : Group) : (d.setGroup c s g).ldg = d.ldg := rfl
@[simp] theorem Dev.setGroup_shadows (c s : Nat) (g : Group) : (d.setGroup c s g).shadows = d.shadows := rfl
@[simp] theorem Dev.setGroup_thermtrip (c s : Nat) (g : Group) : (d.setGroup c s g).thermtrip = d.thermtrip := rfl
@[simp] theorem Dev.setGroup_nvmOwner (c s : Nat) (g : Group) : (d.setGroup c s g).nvmOwner = d.nvmOwner := rfl
@[simp] theorem Dev.setGroup_stopped (c s : Nat) (g : Group) : (d.setGroup c s g).stopped = d.stopped := rfl
@[simp] theorem Dev.setGroup_latent (c s : Nat) (g : Group) : (d.setGroup c s g).latent = d.latent := rfl
@[simp] theorem Dev.setGroup_notices (c s : Nat) (g : Group) : (d.setGroup c s g).notices = d.notices := rfl
@[simp] theorem Dev.setGroup_fatalPend (c s : Nat) (g : Group) : (d.setGroup c s g).fatalPend = d.fatalPend := rfl
@[simp] theorem Dev.setGroup_healthDue (c s : Nat) (g : Group) : (d.setGroup c s g).healthDue = d.healthDue := rfl
@[simp] theorem Dev.setGroup_sbResult (c s : Nat) (g : Group) : (d.setGroup c s g).sbResult = d.sbResult := rfl
@[simp] theorem Dev.setGroup_fresh (c s : Nat) (g : Group) : (d.setGroup c s g).fresh = d.fresh := rfl
@[simp] theorem Dev.setGroup_id (c s : Nat) (g : Group) : (d.setGroup c s g).id = d.id := rfl

@[simp] theorem Dev.updGroup_slices (c s : Nat) (f : Group → Group) : (d.updGroup c s f).slices = d.slices := rfl
@[simp] theorem Dev.updGroup_mem (c s : Nat) (f : Group → Group) : (d.updGroup c s f).mem = d.mem := rfl
@[simp] theorem Dev.updGroup_ctl (c s : Nat) (f : Group → Group) : (d.updGroup c s f).ctl = d.ctl := rfl
@[simp] theorem Dev.updGroup_fab (c s : Nat) (f : Group → Group) : (d.updGroup c s f).fab = d.fab := rfl
@[simp] theorem Dev.updGroup_tim (c s : Nat) (f : Group → Group) : (d.updGroup c s f).tim = d.tim := rfl
@[simp] theorem Dev.updGroup_whf (c s : Nat) (f : Group → Group) : (d.updGroup c s f).whf = d.whf := rfl
@[simp] theorem Dev.updGroup_lkp (c s : Nat) (f : Group → Group) : (d.updGroup c s f).lkp = d.lkp := rfl
@[simp] theorem Dev.updGroup_pwr (c s : Nat) (f : Group → Group) : (d.updGroup c s f).pwr = d.pwr := rfl
@[simp] theorem Dev.updGroup_gau (c s : Nat) (f : Group → Group) : (d.updGroup c s f).gau = d.gau := rfl
@[simp] theorem Dev.updGroup_erl (c s : Nat) (f : Group → Group) : (d.updGroup c s f).erl = d.erl := rfl
@[simp] theorem Dev.updGroup_cnt (c s : Nat) (f : Group → Group) : (d.updGroup c s f).cnt = d.cnt := rfl
@[simp] theorem Dev.updGroup_ldg (c s : Nat) (f : Group → Group) : (d.updGroup c s f).ldg = d.ldg := rfl
@[simp] theorem Dev.updGroup_shadows (c s : Nat) (f : Group → Group) : (d.updGroup c s f).shadows = d.shadows := rfl
@[simp] theorem Dev.updGroup_thermtrip (c s : Nat) (f : Group → Group) : (d.updGroup c s f).thermtrip = d.thermtrip := rfl
@[simp] theorem Dev.updGroup_nvmOwner (c s : Nat) (f : Group → Group) : (d.updGroup c s f).nvmOwner = d.nvmOwner := rfl
@[simp] theorem Dev.updGroup_stopped (c s : Nat) (f : Group → Group) : (d.updGroup c s f).stopped = d.stopped := rfl
@[simp] theorem Dev.updGroup_latent (c s : Nat) (f : Group → Group) : (d.updGroup c s f).latent = d.latent := rfl
@[simp] theorem Dev.updGroup_notices (c s : Nat) (f : Group → Group) : (d.updGroup c s f).notices = d.notices := rfl
@[simp] theorem Dev.updGroup_fatalPend (c s : Nat) (f : Group → Group) : (d.updGroup c s f).fatalPend = d.fatalPend := rfl
@[simp] theorem Dev.updGroup_healthDue (c s : Nat) (f : Group → Group) : (d.updGroup c s f).healthDue = d.healthDue := rfl
@[simp] theorem Dev.updGroup_sbResult (c s : Nat) (f : Group → Group) : (d.updGroup c s f).sbResult = d.sbResult := rfl
@[simp] theorem Dev.updGroup_fresh (c s : Nat) (f : Group → Group) : (d.updGroup c s f).fresh = d.fresh := rfl
@[simp] theorem Dev.updGroup_id (c s : Nat) (f : Group → Group) : (d.updGroup c s f).id = d.id := rfl

@[simp] theorem Dev.setSlice_cores (n : Nat) (x : Slice) : (d.setSlice n x).cores = d.cores := rfl
@[simp] theorem Dev.setSlice_mem (n : Nat) (x : Slice) : (d.setSlice n x).mem = d.mem := rfl
@[simp] theorem Dev.setSlice_ctl (n : Nat) (x : Slice) : (d.setSlice n x).ctl = d.ctl := rfl
@[simp] theorem Dev.setSlice_fab (n : Nat) (x : Slice) : (d.setSlice n x).fab = d.fab := rfl
@[simp] theorem Dev.setSlice_tim (n : Nat) (x : Slice) : (d.setSlice n x).tim = d.tim := rfl
@[simp] theorem Dev.setSlice_whf (n : Nat) (x : Slice) : (d.setSlice n x).whf = d.whf := rfl
@[simp] theorem Dev.setSlice_lkp (n : Nat) (x : Slice) : (d.setSlice n x).lkp = d.lkp := rfl
@[simp] theorem Dev.setSlice_pwr (n : Nat) (x : Slice) : (d.setSlice n x).pwr = d.pwr := rfl
@[simp] theorem Dev.setSlice_gau (n : Nat) (x : Slice) : (d.setSlice n x).gau = d.gau := rfl
@[simp] theorem Dev.setSlice_erl (n : Nat) (x : Slice) : (d.setSlice n x).erl = d.erl := rfl
@[simp] theorem Dev.setSlice_cnt (n : Nat) (x : Slice) : (d.setSlice n x).cnt = d.cnt := rfl
@[simp] theorem Dev.setSlice_ldg (n : Nat) (x : Slice) : (d.setSlice n x).ldg = d.ldg := rfl
@[simp] theorem Dev.setSlice_shadows (n : Nat) (x : Slice) : (d.setSlice n x).shadows = d.shadows := rfl
@[simp] theorem Dev.setSlice_thermtrip (n : Nat) (x : Slice) : (d.setSlice n x).thermtrip = d.thermtrip := rfl
@[simp] theorem Dev.setSlice_nvmOwner (n : Nat) (x : Slice) : (d.setSlice n x).nvmOwner = d.nvmOwner := rfl
@[simp] theorem Dev.setSlice_stopped (n : Nat) (x : Slice) : (d.setSlice n x).stopped = d.stopped := rfl
@[simp] theorem Dev.setSlice_latent (n : Nat) (x : Slice) : (d.setSlice n x).latent = d.latent := rfl
@[simp] theorem Dev.setSlice_notices (n : Nat) (x : Slice) : (d.setSlice n x).notices = d.notices := rfl
@[simp] theorem Dev.setSlice_fatalPend (n : Nat) (x : Slice) : (d.setSlice n x).fatalPend = d.fatalPend := rfl
@[simp] theorem Dev.setSlice_healthDue (n : Nat) (x : Slice) : (d.setSlice n x).healthDue = d.healthDue := rfl
@[simp] theorem Dev.setSlice_sbResult (n : Nat) (x : Slice) : (d.setSlice n x).sbResult = d.sbResult := rfl
@[simp] theorem Dev.setSlice_fresh (n : Nat) (x : Slice) : (d.setSlice n x).fresh = d.fresh := rfl
@[simp] theorem Dev.setSlice_id (n : Nat) (x : Slice) : (d.setSlice n x).id = d.id := rfl

@[simp] theorem Dev.updSlice_cores (n : Nat) (f : Slice → Slice) : (d.updSlice n f).cores = d.cores := rfl
@[simp] theorem Dev.updSlice_mem (n : Nat) (f : Slice → Slice) : (d.updSlice n f).mem = d.mem := rfl
@[simp] theorem Dev.updSlice_ctl (n : Nat) (f : Slice → Slice) : (d.updSlice n f).ctl = d.ctl := rfl
@[simp] theorem Dev.updSlice_fab (n : Nat) (f : Slice → Slice) : (d.updSlice n f).fab = d.fab := rfl
@[simp] theorem Dev.updSlice_tim (n : Nat) (f : Slice → Slice) : (d.updSlice n f).tim = d.tim := rfl
@[simp] theorem Dev.updSlice_whf (n : Nat) (f : Slice → Slice) : (d.updSlice n f).whf = d.whf := rfl
@[simp] theorem Dev.updSlice_lkp (n : Nat) (f : Slice → Slice) : (d.updSlice n f).lkp = d.lkp := rfl
@[simp] theorem Dev.updSlice_pwr (n : Nat) (f : Slice → Slice) : (d.updSlice n f).pwr = d.pwr := rfl
@[simp] theorem Dev.updSlice_gau (n : Nat) (f : Slice → Slice) : (d.updSlice n f).gau = d.gau := rfl
@[simp] theorem Dev.updSlice_erl (n : Nat) (f : Slice → Slice) : (d.updSlice n f).erl = d.erl := rfl
@[simp] theorem Dev.updSlice_cnt (n : Nat) (f : Slice → Slice) : (d.updSlice n f).cnt = d.cnt := rfl
@[simp] theorem Dev.updSlice_ldg (n : Nat) (f : Slice → Slice) : (d.updSlice n f).ldg = d.ldg := rfl
@[simp] theorem Dev.updSlice_shadows (n : Nat) (f : Slice → Slice) : (d.updSlice n f).shadows = d.shadows := rfl
@[simp] theorem Dev.updSlice_thermtrip (n : Nat) (f : Slice → Slice) : (d.updSlice n f).thermtrip = d.thermtrip := rfl
@[simp] theorem Dev.updSlice_nvmOwner (n : Nat) (f : Slice → Slice) : (d.updSlice n f).nvmOwner = d.nvmOwner := rfl
@[simp] theorem Dev.updSlice_stopped (n : Nat) (f : Slice → Slice) : (d.updSlice n f).stopped = d.stopped := rfl
@[simp] theorem Dev.updSlice_latent (n : Nat) (f : Slice → Slice) : (d.updSlice n f).latent = d.latent := rfl
@[simp] theorem Dev.updSlice_notices (n : Nat) (f : Slice → Slice) : (d.updSlice n f).notices = d.notices := rfl
@[simp] theorem Dev.updSlice_fatalPend (n : Nat) (f : Slice → Slice) : (d.updSlice n f).fatalPend = d.fatalPend := rfl
@[simp] theorem Dev.updSlice_healthDue (n : Nat) (f : Slice → Slice) : (d.updSlice n f).healthDue = d.healthDue := rfl
@[simp] theorem Dev.updSlice_sbResult (n : Nat) (f : Slice → Slice) : (d.updSlice n f).sbResult = d.sbResult := rfl
@[simp] theorem Dev.updSlice_fresh (n : Nat) (f : Slice → Slice) : (d.updSlice n f).fresh = d.fresh := rfl
@[simp] theorem Dev.updSlice_id (n : Nat) (f : Slice → Slice) : (d.updSlice n f).id = d.id := rfl

@[simp] theorem Dev.updStack_cores (n : Nat) (f : Stack → Stack) : (d.updStack n f).cores = d.cores := rfl
@[simp] theorem Dev.updStack_slices (n : Nat) (f : Stack → Stack) : (d.updStack n f).slices = d.slices := rfl
@[simp] theorem Dev.updStack_ctl (n : Nat) (f : Stack → Stack) : (d.updStack n f).ctl = d.ctl := rfl
@[simp] theorem Dev.updStack_fab (n : Nat) (f : Stack → Stack) : (d.updStack n f).fab = d.fab := rfl
@[simp] theorem Dev.updStack_tim (n : Nat) (f : Stack → Stack) : (d.updStack n f).tim = d.tim := rfl
@[simp] theorem Dev.updStack_whf (n : Nat) (f : Stack → Stack) : (d.updStack n f).whf = d.whf := rfl
@[simp] theorem Dev.updStack_lkp (n : Nat) (f : Stack → Stack) : (d.updStack n f).lkp = d.lkp := rfl
@[simp] theorem Dev.updStack_pwr (n : Nat) (f : Stack → Stack) : (d.updStack n f).pwr = d.pwr := rfl
@[simp] theorem Dev.updStack_gau (n : Nat) (f : Stack → Stack) : (d.updStack n f).gau = d.gau := rfl
@[simp] theorem Dev.updStack_erl (n : Nat) (f : Stack → Stack) : (d.updStack n f).erl = d.erl := rfl
@[simp] theorem Dev.updStack_cnt (n : Nat) (f : Stack → Stack) : (d.updStack n f).cnt = d.cnt := rfl
@[simp] theorem Dev.updStack_ldg (n : Nat) (f : Stack → Stack) : (d.updStack n f).ldg = d.ldg := rfl
@[simp] theorem Dev.updStack_shadows (n : Nat) (f : Stack → Stack) : (d.updStack n f).shadows = d.shadows := rfl
@[simp] theorem Dev.updStack_thermtrip (n : Nat) (f : Stack → Stack) : (d.updStack n f).thermtrip = d.thermtrip := rfl
@[simp] theorem Dev.updStack_nvmOwner (n : Nat) (f : Stack → Stack) : (d.updStack n f).nvmOwner = d.nvmOwner := rfl
@[simp] theorem Dev.updStack_stopped (n : Nat) (f : Stack → Stack) : (d.updStack n f).stopped = d.stopped := rfl
@[simp] theorem Dev.updStack_latent (n : Nat) (f : Stack → Stack) : (d.updStack n f).latent = d.latent := rfl
@[simp] theorem Dev.updStack_notices (n : Nat) (f : Stack → Stack) : (d.updStack n f).notices = d.notices := rfl
@[simp] theorem Dev.updStack_fatalPend (n : Nat) (f : Stack → Stack) : (d.updStack n f).fatalPend = d.fatalPend := rfl
@[simp] theorem Dev.updStack_healthDue (n : Nat) (f : Stack → Stack) : (d.updStack n f).healthDue = d.healthDue := rfl
@[simp] theorem Dev.updStack_sbResult (n : Nat) (f : Stack → Stack) : (d.updStack n f).sbResult = d.sbResult := rfl
@[simp] theorem Dev.updStack_fresh (n : Nat) (f : Stack → Stack) : (d.updStack n f).fresh = d.fresh := rfl
@[simp] theorem Dev.updStack_mem_hbm (n : Nat) (f : Stack → Stack) : (d.updStack n f).mem.hbm = d.mem.hbm := rfl
@[simp] theorem Dev.updStack_mem_tags (n : Nat) (f : Stack → Stack) : (d.updStack n f).mem.tags = d.mem.tags := rfl
@[simp] theorem Dev.updStack_mem_nres (n : Nat) (f : Stack → Stack) : (d.updStack n f).mem.nres = d.mem.nres := rfl
@[simp] theorem Dev.updStack_mem_nwin (n : Nat) (f : Stack → Stack) : (d.updStack n f).mem.nwin = d.mem.nwin := rfl
@[simp] theorem Dev.updStack_mem_owner (n : Nat) (f : Stack → Stack) : (d.updStack n f).mem.owner = d.mem.owner := rfl
@[simp] theorem Dev.updStack_mem_grant (n : Nat) (f : Stack → Stack) : (d.updStack n f).mem.grant = d.mem.grant := rfl
@[simp] theorem Dev.updStack_mem_grantRef (n : Nat) (f : Stack → Stack) : (d.updStack n f).mem.grantRef = d.mem.grantRef := rfl
@[simp] theorem Dev.updStack_mem_ownerBase (n : Nat) (f : Stack → Stack) : (d.updStack n f).mem.ownerBase = d.mem.ownerBase := rfl
@[simp] theorem Dev.updStack_id (n : Nat) (f : Stack → Stack) : (d.updStack n f).id = d.id := rfl

@[simp] theorem Dev.updCtx_cores (x : Nat) (f : Ctx → Ctx) : (d.updCtx x f).cores = d.cores := rfl
@[simp] theorem Dev.updCtx_slices (x : Nat) (f : Ctx → Ctx) : (d.updCtx x f).slices = d.slices := rfl
@[simp] theorem Dev.updCtx_mem (x : Nat) (f : Ctx → Ctx) : (d.updCtx x f).mem = d.mem := rfl
@[simp] theorem Dev.updCtx_fab (x : Nat) (f : Ctx → Ctx) : (d.updCtx x f).fab = d.fab := rfl
@[simp] theorem Dev.updCtx_tim (x : Nat) (f : Ctx → Ctx) : (d.updCtx x f).tim = d.tim := rfl
@[simp] theorem Dev.updCtx_whf (x : Nat) (f : Ctx → Ctx) : (d.updCtx x f).whf = d.whf := rfl
@[simp] theorem Dev.updCtx_lkp (x : Nat) (f : Ctx → Ctx) : (d.updCtx x f).lkp = d.lkp := rfl
@[simp] theorem Dev.updCtx_pwr (x : Nat) (f : Ctx → Ctx) : (d.updCtx x f).pwr = d.pwr := rfl
@[simp] theorem Dev.updCtx_gau (x : Nat) (f : Ctx → Ctx) : (d.updCtx x f).gau = d.gau := rfl
@[simp] theorem Dev.updCtx_erl (x : Nat) (f : Ctx → Ctx) : (d.updCtx x f).erl = d.erl := rfl
@[simp] theorem Dev.updCtx_cnt (x : Nat) (f : Ctx → Ctx) : (d.updCtx x f).cnt = d.cnt := rfl
@[simp] theorem Dev.updCtx_ldg (x : Nat) (f : Ctx → Ctx) : (d.updCtx x f).ldg = d.ldg := rfl
@[simp] theorem Dev.updCtx_shadows (x : Nat) (f : Ctx → Ctx) : (d.updCtx x f).shadows = d.shadows := rfl
@[simp] theorem Dev.updCtx_thermtrip (x : Nat) (f : Ctx → Ctx) : (d.updCtx x f).thermtrip = d.thermtrip := rfl
@[simp] theorem Dev.updCtx_nvmOwner (x : Nat) (f : Ctx → Ctx) : (d.updCtx x f).nvmOwner = d.nvmOwner := rfl
@[simp] theorem Dev.updCtx_stopped (x : Nat) (f : Ctx → Ctx) : (d.updCtx x f).stopped = d.stopped := rfl
@[simp] theorem Dev.updCtx_latent (x : Nat) (f : Ctx → Ctx) : (d.updCtx x f).latent = d.latent := rfl
@[simp] theorem Dev.updCtx_notices (x : Nat) (f : Ctx → Ctx) : (d.updCtx x f).notices = d.notices := rfl
@[simp] theorem Dev.updCtx_fatalPend (x : Nat) (f : Ctx → Ctx) : (d.updCtx x f).fatalPend = d.fatalPend := rfl
@[simp] theorem Dev.updCtx_healthDue (x : Nat) (f : Ctx → Ctx) : (d.updCtx x f).healthDue = d.healthDue := rfl
@[simp] theorem Dev.updCtx_sbResult (x : Nat) (f : Ctx → Ctx) : (d.updCtx x f).sbResult = d.sbResult := rfl
@[simp] theorem Dev.updCtx_fresh (x : Nat) (f : Ctx → Ctx) : (d.updCtx x f).fresh = d.fresh := rfl
@[simp] theorem Dev.updCtx_ctl_queues (x : Nat) (f : Ctx → Ctx) : (d.updCtx x f).ctl.queues = d.ctl.queues := rfl
@[simp] theorem Dev.updCtx_ctl_fences (x : Nat) (f : Ctx → Ctx) : (d.updCtx x f).ctl.fences = d.ctl.fences := rfl
@[simp] theorem Dev.updCtx_ctl_berths (x : Nat) (f : Ctx → Ctx) : (d.updCtx x f).ctl.berths = d.ctl.berths := rfl
@[simp] theorem Dev.updCtx_ctl_streams (x : Nat) (f : Ctx → Ctx) : (d.updCtx x f).ctl.streams = d.ctl.streams := rfl
@[simp] theorem Dev.updCtx_ctl_imports (x : Nat) (f : Ctx → Ctx) : (d.updCtx x f).ctl.imports = d.ctl.imports := rfl
@[simp] theorem Dev.updCtx_ctl_shared (x : Nat) (f : Ctx → Ctx) : (d.updCtx x f).ctl.shared = d.ctl.shared := rfl
@[simp] theorem Dev.updCtx_ctl_mirrors (x : Nat) (f : Ctx → Ctx) : (d.updCtx x f).ctl.mirrors = d.ctl.mirrors := rfl
@[simp] theorem Dev.updCtx_ctl_lostWrites (x : Nat) (f : Ctx → Ctx) : (d.updCtx x f).ctl.lostWrites = d.ctl.lostWrites := rfl
@[simp] theorem Dev.updCtx_ctl_quarter (x : Nat) (f : Ctx → Ctx) : (d.updCtx x f).ctl.quarter = d.ctl.quarter := rfl
@[simp] theorem Dev.updCtx_ctl_nextInst (x : Nat) (f : Ctx → Ctx) : (d.updCtx x f).ctl.nextInst = d.ctl.nextInst := rfl
@[simp] theorem Dev.updCtx_ctl_bgens (x : Nat) (f : Ctx → Ctx) : (d.updCtx x f).ctl.bgens = d.ctl.bgens := rfl
@[simp] theorem Dev.updCtx_id (x : Nat) (f : Ctx → Ctx) : (d.updCtx x f).id = d.id := rfl

@[simp] theorem Dev.updQueue_cores (q : Nat) (f : Queue → Queue) : (d.updQueue q f).cores = d.cores := rfl
@[simp] theorem Dev.updQueue_slices (q : Nat) (f : Queue → Queue) : (d.updQueue q f).slices = d.slices := rfl
@[simp] theorem Dev.updQueue_mem (q : Nat) (f : Queue → Queue) : (d.updQueue q f).mem = d.mem := rfl
@[simp] theorem Dev.updQueue_fab (q : Nat) (f : Queue → Queue) : (d.updQueue q f).fab = d.fab := rfl
@[simp] theorem Dev.updQueue_tim (q : Nat) (f : Queue → Queue) : (d.updQueue q f).tim = d.tim := rfl
@[simp] theorem Dev.updQueue_whf (q : Nat) (f : Queue → Queue) : (d.updQueue q f).whf = d.whf := rfl
@[simp] theorem Dev.updQueue_lkp (q : Nat) (f : Queue → Queue) : (d.updQueue q f).lkp = d.lkp := rfl
@[simp] theorem Dev.updQueue_pwr (q : Nat) (f : Queue → Queue) : (d.updQueue q f).pwr = d.pwr := rfl
@[simp] theorem Dev.updQueue_gau (q : Nat) (f : Queue → Queue) : (d.updQueue q f).gau = d.gau := rfl
@[simp] theorem Dev.updQueue_erl (q : Nat) (f : Queue → Queue) : (d.updQueue q f).erl = d.erl := rfl
@[simp] theorem Dev.updQueue_cnt (q : Nat) (f : Queue → Queue) : (d.updQueue q f).cnt = d.cnt := rfl
@[simp] theorem Dev.updQueue_ldg (q : Nat) (f : Queue → Queue) : (d.updQueue q f).ldg = d.ldg := rfl
@[simp] theorem Dev.updQueue_shadows (q : Nat) (f : Queue → Queue) : (d.updQueue q f).shadows = d.shadows := rfl
@[simp] theorem Dev.updQueue_thermtrip (q : Nat) (f : Queue → Queue) : (d.updQueue q f).thermtrip = d.thermtrip := rfl
@[simp] theorem Dev.updQueue_nvmOwner (q : Nat) (f : Queue → Queue) : (d.updQueue q f).nvmOwner = d.nvmOwner := rfl
@[simp] theorem Dev.updQueue_stopped (q : Nat) (f : Queue → Queue) : (d.updQueue q f).stopped = d.stopped := rfl
@[simp] theorem Dev.updQueue_latent (q : Nat) (f : Queue → Queue) : (d.updQueue q f).latent = d.latent := rfl
@[simp] theorem Dev.updQueue_notices (q : Nat) (f : Queue → Queue) : (d.updQueue q f).notices = d.notices := rfl
@[simp] theorem Dev.updQueue_fatalPend (q : Nat) (f : Queue → Queue) : (d.updQueue q f).fatalPend = d.fatalPend := rfl
@[simp] theorem Dev.updQueue_healthDue (q : Nat) (f : Queue → Queue) : (d.updQueue q f).healthDue = d.healthDue := rfl
@[simp] theorem Dev.updQueue_sbResult (q : Nat) (f : Queue → Queue) : (d.updQueue q f).sbResult = d.sbResult := rfl
@[simp] theorem Dev.updQueue_fresh (q : Nat) (f : Queue → Queue) : (d.updQueue q f).fresh = d.fresh := rfl
@[simp] theorem Dev.updQueue_ctl_ctxs (q : Nat) (f : Queue → Queue) : (d.updQueue q f).ctl.ctxs = d.ctl.ctxs := rfl
@[simp] theorem Dev.updQueue_ctl_fences (q : Nat) (f : Queue → Queue) : (d.updQueue q f).ctl.fences = d.ctl.fences := rfl
@[simp] theorem Dev.updQueue_ctl_berths (q : Nat) (f : Queue → Queue) : (d.updQueue q f).ctl.berths = d.ctl.berths := rfl
@[simp] theorem Dev.updQueue_ctl_streams (q : Nat) (f : Queue → Queue) : (d.updQueue q f).ctl.streams = d.ctl.streams := rfl
@[simp] theorem Dev.updQueue_ctl_imports (q : Nat) (f : Queue → Queue) : (d.updQueue q f).ctl.imports = d.ctl.imports := rfl
@[simp] theorem Dev.updQueue_ctl_shared (q : Nat) (f : Queue → Queue) : (d.updQueue q f).ctl.shared = d.ctl.shared := rfl
@[simp] theorem Dev.updQueue_ctl_mirrors (q : Nat) (f : Queue → Queue) : (d.updQueue q f).ctl.mirrors = d.ctl.mirrors := rfl
@[simp] theorem Dev.updQueue_ctl_lostWrites (q : Nat) (f : Queue → Queue) : (d.updQueue q f).ctl.lostWrites = d.ctl.lostWrites := rfl
@[simp] theorem Dev.updQueue_ctl_quarter (q : Nat) (f : Queue → Queue) : (d.updQueue q f).ctl.quarter = d.ctl.quarter := rfl
@[simp] theorem Dev.updQueue_ctl_nextInst (q : Nat) (f : Queue → Queue) : (d.updQueue q f).ctl.nextInst = d.ctl.nextInst := rfl
@[simp] theorem Dev.updQueue_ctl_bgens (q : Nat) (f : Queue → Queue) : (d.updQueue q f).ctl.bgens = d.ctl.bgens := rfl
@[simp] theorem Dev.updQueue_id (q : Nat) (f : Queue → Queue) : (d.updQueue q f).id = d.id := rfl

@[simp] theorem Dev.updFence_cores (n : Nat) (f : Fence → Fence) : (d.updFence n f).cores = d.cores := rfl
@[simp] theorem Dev.updFence_slices (n : Nat) (f : Fence → Fence) : (d.updFence n f).slices = d.slices := rfl
@[simp] theorem Dev.updFence_mem (n : Nat) (f : Fence → Fence) : (d.updFence n f).mem = d.mem := rfl
@[simp] theorem Dev.updFence_fab (n : Nat) (f : Fence → Fence) : (d.updFence n f).fab = d.fab := rfl
@[simp] theorem Dev.updFence_tim (n : Nat) (f : Fence → Fence) : (d.updFence n f).tim = d.tim := rfl
@[simp] theorem Dev.updFence_whf (n : Nat) (f : Fence → Fence) : (d.updFence n f).whf = d.whf := rfl
@[simp] theorem Dev.updFence_lkp (n : Nat) (f : Fence → Fence) : (d.updFence n f).lkp = d.lkp := rfl
@[simp] theorem Dev.updFence_pwr (n : Nat) (f : Fence → Fence) : (d.updFence n f).pwr = d.pwr := rfl
@[simp] theorem Dev.updFence_gau (n : Nat) (f : Fence → Fence) : (d.updFence n f).gau = d.gau := rfl
@[simp] theorem Dev.updFence_erl (n : Nat) (f : Fence → Fence) : (d.updFence n f).erl = d.erl := rfl
@[simp] theorem Dev.updFence_cnt (n : Nat) (f : Fence → Fence) : (d.updFence n f).cnt = d.cnt := rfl
@[simp] theorem Dev.updFence_ldg (n : Nat) (f : Fence → Fence) : (d.updFence n f).ldg = d.ldg := rfl
@[simp] theorem Dev.updFence_shadows (n : Nat) (f : Fence → Fence) : (d.updFence n f).shadows = d.shadows := rfl
@[simp] theorem Dev.updFence_thermtrip (n : Nat) (f : Fence → Fence) : (d.updFence n f).thermtrip = d.thermtrip := rfl
@[simp] theorem Dev.updFence_nvmOwner (n : Nat) (f : Fence → Fence) : (d.updFence n f).nvmOwner = d.nvmOwner := rfl
@[simp] theorem Dev.updFence_stopped (n : Nat) (f : Fence → Fence) : (d.updFence n f).stopped = d.stopped := rfl
@[simp] theorem Dev.updFence_latent (n : Nat) (f : Fence → Fence) : (d.updFence n f).latent = d.latent := rfl
@[simp] theorem Dev.updFence_notices (n : Nat) (f : Fence → Fence) : (d.updFence n f).notices = d.notices := rfl
@[simp] theorem Dev.updFence_fatalPend (n : Nat) (f : Fence → Fence) : (d.updFence n f).fatalPend = d.fatalPend := rfl
@[simp] theorem Dev.updFence_healthDue (n : Nat) (f : Fence → Fence) : (d.updFence n f).healthDue = d.healthDue := rfl
@[simp] theorem Dev.updFence_sbResult (n : Nat) (f : Fence → Fence) : (d.updFence n f).sbResult = d.sbResult := rfl
@[simp] theorem Dev.updFence_fresh (n : Nat) (f : Fence → Fence) : (d.updFence n f).fresh = d.fresh := rfl
@[simp] theorem Dev.updFence_ctl_ctxs (n : Nat) (f : Fence → Fence) : (d.updFence n f).ctl.ctxs = d.ctl.ctxs := rfl
@[simp] theorem Dev.updFence_ctl_queues (n : Nat) (f : Fence → Fence) : (d.updFence n f).ctl.queues = d.ctl.queues := rfl
@[simp] theorem Dev.updFence_ctl_berths (n : Nat) (f : Fence → Fence) : (d.updFence n f).ctl.berths = d.ctl.berths := rfl
@[simp] theorem Dev.updFence_ctl_streams (n : Nat) (f : Fence → Fence) : (d.updFence n f).ctl.streams = d.ctl.streams := rfl
@[simp] theorem Dev.updFence_ctl_imports (n : Nat) (f : Fence → Fence) : (d.updFence n f).ctl.imports = d.ctl.imports := rfl
@[simp] theorem Dev.updFence_ctl_shared (n : Nat) (f : Fence → Fence) : (d.updFence n f).ctl.shared = d.ctl.shared := rfl
@[simp] theorem Dev.updFence_ctl_mirrors (n : Nat) (f : Fence → Fence) : (d.updFence n f).ctl.mirrors = d.ctl.mirrors := rfl
@[simp] theorem Dev.updFence_ctl_lostWrites (n : Nat) (f : Fence → Fence) : (d.updFence n f).ctl.lostWrites = d.ctl.lostWrites := rfl
@[simp] theorem Dev.updFence_ctl_quarter (n : Nat) (f : Fence → Fence) : (d.updFence n f).ctl.quarter = d.ctl.quarter := rfl
@[simp] theorem Dev.updFence_ctl_nextInst (n : Nat) (f : Fence → Fence) : (d.updFence n f).ctl.nextInst = d.ctl.nextInst := rfl
@[simp] theorem Dev.updFence_ctl_bgens (n : Nat) (f : Fence → Fence) : (d.updFence n f).ctl.bgens = d.ctl.bgens := rfl
@[simp] theorem Dev.updFence_id (n : Nat) (f : Fence → Fence) : (d.updFence n f).id = d.id := rfl

@[simp] theorem Dev.updBerth_cores (b : Nat) (f : Berth → Berth) : (d.updBerth b f).cores = d.cores := rfl
@[simp] theorem Dev.updBerth_slices (b : Nat) (f : Berth → Berth) : (d.updBerth b f).slices = d.slices := rfl
@[simp] theorem Dev.updBerth_mem (b : Nat) (f : Berth → Berth) : (d.updBerth b f).mem = d.mem := rfl
@[simp] theorem Dev.updBerth_fab (b : Nat) (f : Berth → Berth) : (d.updBerth b f).fab = d.fab := rfl
@[simp] theorem Dev.updBerth_tim (b : Nat) (f : Berth → Berth) : (d.updBerth b f).tim = d.tim := rfl
@[simp] theorem Dev.updBerth_whf (b : Nat) (f : Berth → Berth) : (d.updBerth b f).whf = d.whf := rfl
@[simp] theorem Dev.updBerth_lkp (b : Nat) (f : Berth → Berth) : (d.updBerth b f).lkp = d.lkp := rfl
@[simp] theorem Dev.updBerth_pwr (b : Nat) (f : Berth → Berth) : (d.updBerth b f).pwr = d.pwr := rfl
@[simp] theorem Dev.updBerth_gau (b : Nat) (f : Berth → Berth) : (d.updBerth b f).gau = d.gau := rfl
@[simp] theorem Dev.updBerth_erl (b : Nat) (f : Berth → Berth) : (d.updBerth b f).erl = d.erl := rfl
@[simp] theorem Dev.updBerth_cnt (b : Nat) (f : Berth → Berth) : (d.updBerth b f).cnt = d.cnt := rfl
@[simp] theorem Dev.updBerth_ldg (b : Nat) (f : Berth → Berth) : (d.updBerth b f).ldg = d.ldg := rfl
@[simp] theorem Dev.updBerth_shadows (b : Nat) (f : Berth → Berth) : (d.updBerth b f).shadows = d.shadows := rfl
@[simp] theorem Dev.updBerth_thermtrip (b : Nat) (f : Berth → Berth) : (d.updBerth b f).thermtrip = d.thermtrip := rfl
@[simp] theorem Dev.updBerth_nvmOwner (b : Nat) (f : Berth → Berth) : (d.updBerth b f).nvmOwner = d.nvmOwner := rfl
@[simp] theorem Dev.updBerth_stopped (b : Nat) (f : Berth → Berth) : (d.updBerth b f).stopped = d.stopped := rfl
@[simp] theorem Dev.updBerth_latent (b : Nat) (f : Berth → Berth) : (d.updBerth b f).latent = d.latent := rfl
@[simp] theorem Dev.updBerth_notices (b : Nat) (f : Berth → Berth) : (d.updBerth b f).notices = d.notices := rfl
@[simp] theorem Dev.updBerth_fatalPend (b : Nat) (f : Berth → Berth) : (d.updBerth b f).fatalPend = d.fatalPend := rfl
@[simp] theorem Dev.updBerth_healthDue (b : Nat) (f : Berth → Berth) : (d.updBerth b f).healthDue = d.healthDue := rfl
@[simp] theorem Dev.updBerth_sbResult (b : Nat) (f : Berth → Berth) : (d.updBerth b f).sbResult = d.sbResult := rfl
@[simp] theorem Dev.updBerth_fresh (b : Nat) (f : Berth → Berth) : (d.updBerth b f).fresh = d.fresh := rfl
@[simp] theorem Dev.updBerth_ctl_ctxs (b : Nat) (f : Berth → Berth) : (d.updBerth b f).ctl.ctxs = d.ctl.ctxs := rfl
@[simp] theorem Dev.updBerth_ctl_queues (b : Nat) (f : Berth → Berth) : (d.updBerth b f).ctl.queues = d.ctl.queues := rfl
@[simp] theorem Dev.updBerth_ctl_fences (b : Nat) (f : Berth → Berth) : (d.updBerth b f).ctl.fences = d.ctl.fences := rfl
@[simp] theorem Dev.updBerth_ctl_streams (b : Nat) (f : Berth → Berth) : (d.updBerth b f).ctl.streams = d.ctl.streams := rfl
@[simp] theorem Dev.updBerth_ctl_imports (b : Nat) (f : Berth → Berth) : (d.updBerth b f).ctl.imports = d.ctl.imports := rfl
@[simp] theorem Dev.updBerth_ctl_shared (b : Nat) (f : Berth → Berth) : (d.updBerth b f).ctl.shared = d.ctl.shared := rfl
@[simp] theorem Dev.updBerth_ctl_mirrors (b : Nat) (f : Berth → Berth) : (d.updBerth b f).ctl.mirrors = d.ctl.mirrors := rfl
@[simp] theorem Dev.updBerth_ctl_lostWrites (b : Nat) (f : Berth → Berth) : (d.updBerth b f).ctl.lostWrites = d.ctl.lostWrites := rfl
@[simp] theorem Dev.updBerth_ctl_quarter (b : Nat) (f : Berth → Berth) : (d.updBerth b f).ctl.quarter = d.ctl.quarter := rfl
@[simp] theorem Dev.updBerth_ctl_nextInst (b : Nat) (f : Berth → Berth) : (d.updBerth b f).ctl.nextInst = d.ctl.nextInst := rfl
@[simp] theorem Dev.updBerth_ctl_bgens (b : Nat) (f : Berth → Berth) : (d.updBerth b f).ctl.bgens = d.ctl.bgens := rfl
@[simp] theorem Dev.updBerth_id (b : Nat) (f : Berth → Berth) : (d.updBerth b f).id = d.id := rfl

@[simp] theorem Dev.updStream_cores (n : Nat) (f : Stream → Stream) : (d.updStream n f).cores = d.cores := rfl
@[simp] theorem Dev.updStream_slices (n : Nat) (f : Stream → Stream) : (d.updStream n f).slices = d.slices := rfl
@[simp] theorem Dev.updStream_mem (n : Nat) (f : Stream → Stream) : (d.updStream n f).mem = d.mem := rfl
@[simp] theorem Dev.updStream_fab (n : Nat) (f : Stream → Stream) : (d.updStream n f).fab = d.fab := rfl
@[simp] theorem Dev.updStream_tim (n : Nat) (f : Stream → Stream) : (d.updStream n f).tim = d.tim := rfl
@[simp] theorem Dev.updStream_whf (n : Nat) (f : Stream → Stream) : (d.updStream n f).whf = d.whf := rfl
@[simp] theorem Dev.updStream_lkp (n : Nat) (f : Stream → Stream) : (d.updStream n f).lkp = d.lkp := rfl
@[simp] theorem Dev.updStream_pwr (n : Nat) (f : Stream → Stream) : (d.updStream n f).pwr = d.pwr := rfl
@[simp] theorem Dev.updStream_gau (n : Nat) (f : Stream → Stream) : (d.updStream n f).gau = d.gau := rfl
@[simp] theorem Dev.updStream_erl (n : Nat) (f : Stream → Stream) : (d.updStream n f).erl = d.erl := rfl
@[simp] theorem Dev.updStream_cnt (n : Nat) (f : Stream → Stream) : (d.updStream n f).cnt = d.cnt := rfl
@[simp] theorem Dev.updStream_ldg (n : Nat) (f : Stream → Stream) : (d.updStream n f).ldg = d.ldg := rfl
@[simp] theorem Dev.updStream_shadows (n : Nat) (f : Stream → Stream) : (d.updStream n f).shadows = d.shadows := rfl
@[simp] theorem Dev.updStream_thermtrip (n : Nat) (f : Stream → Stream) : (d.updStream n f).thermtrip = d.thermtrip := rfl
@[simp] theorem Dev.updStream_nvmOwner (n : Nat) (f : Stream → Stream) : (d.updStream n f).nvmOwner = d.nvmOwner := rfl
@[simp] theorem Dev.updStream_stopped (n : Nat) (f : Stream → Stream) : (d.updStream n f).stopped = d.stopped := rfl
@[simp] theorem Dev.updStream_latent (n : Nat) (f : Stream → Stream) : (d.updStream n f).latent = d.latent := rfl
@[simp] theorem Dev.updStream_notices (n : Nat) (f : Stream → Stream) : (d.updStream n f).notices = d.notices := rfl
@[simp] theorem Dev.updStream_fatalPend (n : Nat) (f : Stream → Stream) : (d.updStream n f).fatalPend = d.fatalPend := rfl
@[simp] theorem Dev.updStream_healthDue (n : Nat) (f : Stream → Stream) : (d.updStream n f).healthDue = d.healthDue := rfl
@[simp] theorem Dev.updStream_sbResult (n : Nat) (f : Stream → Stream) : (d.updStream n f).sbResult = d.sbResult := rfl
@[simp] theorem Dev.updStream_fresh (n : Nat) (f : Stream → Stream) : (d.updStream n f).fresh = d.fresh := rfl
@[simp] theorem Dev.updStream_ctl_ctxs (n : Nat) (f : Stream → Stream) : (d.updStream n f).ctl.ctxs = d.ctl.ctxs := rfl
@[simp] theorem Dev.updStream_ctl_queues (n : Nat) (f : Stream → Stream) : (d.updStream n f).ctl.queues = d.ctl.queues := rfl
@[simp] theorem Dev.updStream_ctl_fences (n : Nat) (f : Stream → Stream) : (d.updStream n f).ctl.fences = d.ctl.fences := rfl
@[simp] theorem Dev.updStream_ctl_berths (n : Nat) (f : Stream → Stream) : (d.updStream n f).ctl.berths = d.ctl.berths := rfl
@[simp] theorem Dev.updStream_ctl_imports (n : Nat) (f : Stream → Stream) : (d.updStream n f).ctl.imports = d.ctl.imports := rfl
@[simp] theorem Dev.updStream_ctl_shared (n : Nat) (f : Stream → Stream) : (d.updStream n f).ctl.shared = d.ctl.shared := rfl
@[simp] theorem Dev.updStream_ctl_mirrors (n : Nat) (f : Stream → Stream) : (d.updStream n f).ctl.mirrors = d.ctl.mirrors := rfl
@[simp] theorem Dev.updStream_ctl_lostWrites (n : Nat) (f : Stream → Stream) : (d.updStream n f).ctl.lostWrites = d.ctl.lostWrites := rfl
@[simp] theorem Dev.updStream_ctl_quarter (n : Nat) (f : Stream → Stream) : (d.updStream n f).ctl.quarter = d.ctl.quarter := rfl
@[simp] theorem Dev.updStream_ctl_nextInst (n : Nat) (f : Stream → Stream) : (d.updStream n f).ctl.nextInst = d.ctl.nextInst := rfl
@[simp] theorem Dev.updStream_ctl_bgens (n : Nat) (f : Stream → Stream) : (d.updStream n f).ctl.bgens = d.ctl.bgens := rfl
@[simp] theorem Dev.updStream_id (n : Nat) (f : Stream → Stream) : (d.updStream n f).id = d.id := rfl

@[simp] theorem Dev.updPort_cores (p : Nat) (f : Port → Port) : (d.updPort p f).cores = d.cores := rfl
@[simp] theorem Dev.updPort_slices (p : Nat) (f : Port → Port) : (d.updPort p f).slices = d.slices := rfl
@[simp] theorem Dev.updPort_mem (p : Nat) (f : Port → Port) : (d.updPort p f).mem = d.mem := rfl
@[simp] theorem Dev.updPort_ctl (p : Nat) (f : Port → Port) : (d.updPort p f).ctl = d.ctl := rfl
@[simp] theorem Dev.updPort_tim (p : Nat) (f : Port → Port) : (d.updPort p f).tim = d.tim := rfl
@[simp] theorem Dev.updPort_whf (p : Nat) (f : Port → Port) : (d.updPort p f).whf = d.whf := rfl
@[simp] theorem Dev.updPort_lkp (p : Nat) (f : Port → Port) : (d.updPort p f).lkp = d.lkp := rfl
@[simp] theorem Dev.updPort_pwr (p : Nat) (f : Port → Port) : (d.updPort p f).pwr = d.pwr := rfl
@[simp] theorem Dev.updPort_gau (p : Nat) (f : Port → Port) : (d.updPort p f).gau = d.gau := rfl
@[simp] theorem Dev.updPort_erl (p : Nat) (f : Port → Port) : (d.updPort p f).erl = d.erl := rfl
@[simp] theorem Dev.updPort_cnt (p : Nat) (f : Port → Port) : (d.updPort p f).cnt = d.cnt := rfl
@[simp] theorem Dev.updPort_ldg (p : Nat) (f : Port → Port) : (d.updPort p f).ldg = d.ldg := rfl
@[simp] theorem Dev.updPort_shadows (p : Nat) (f : Port → Port) : (d.updPort p f).shadows = d.shadows := rfl
@[simp] theorem Dev.updPort_thermtrip (p : Nat) (f : Port → Port) : (d.updPort p f).thermtrip = d.thermtrip := rfl
@[simp] theorem Dev.updPort_nvmOwner (p : Nat) (f : Port → Port) : (d.updPort p f).nvmOwner = d.nvmOwner := rfl
@[simp] theorem Dev.updPort_stopped (p : Nat) (f : Port → Port) : (d.updPort p f).stopped = d.stopped := rfl
@[simp] theorem Dev.updPort_latent (p : Nat) (f : Port → Port) : (d.updPort p f).latent = d.latent := rfl
@[simp] theorem Dev.updPort_notices (p : Nat) (f : Port → Port) : (d.updPort p f).notices = d.notices := rfl
@[simp] theorem Dev.updPort_fatalPend (p : Nat) (f : Port → Port) : (d.updPort p f).fatalPend = d.fatalPend := rfl
@[simp] theorem Dev.updPort_healthDue (p : Nat) (f : Port → Port) : (d.updPort p f).healthDue = d.healthDue := rfl
@[simp] theorem Dev.updPort_sbResult (p : Nat) (f : Port → Port) : (d.updPort p f).sbResult = d.sbResult := rfl
@[simp] theorem Dev.updPort_fresh (p : Nat) (f : Port → Port) : (d.updPort p f).fresh = d.fresh := rfl
@[simp] theorem Dev.updPort_fab_net (p : Nat) (f : Port → Port) : (d.updPort p f).fab.net = d.fab.net := rfl
@[simp] theorem Dev.updPort_fab_routes (p : Nat) (f : Port → Port) : (d.updPort p f).fab.routes = d.fab.routes := rfl
@[simp] theorem Dev.updPort_id (p : Nat) (f : Port → Port) : (d.updPort p f).id = d.id := rfl

@[simp] theorem Dev.updSession_cores (n : Nat) (f : Session → Session) : (d.updSession n f).cores = d.cores := rfl
@[simp] theorem Dev.updSession_slices (n : Nat) (f : Session → Session) : (d.updSession n f).slices = d.slices := rfl
@[simp] theorem Dev.updSession_mem (n : Nat) (f : Session → Session) : (d.updSession n f).mem = d.mem := rfl
@[simp] theorem Dev.updSession_ctl (n : Nat) (f : Session → Session) : (d.updSession n f).ctl = d.ctl := rfl
@[simp] theorem Dev.updSession_fab (n : Nat) (f : Session → Session) : (d.updSession n f).fab = d.fab := rfl
@[simp] theorem Dev.updSession_tim (n : Nat) (f : Session → Session) : (d.updSession n f).tim = d.tim := rfl
@[simp] theorem Dev.updSession_lkp (n : Nat) (f : Session → Session) : (d.updSession n f).lkp = d.lkp := rfl
@[simp] theorem Dev.updSession_pwr (n : Nat) (f : Session → Session) : (d.updSession n f).pwr = d.pwr := rfl
@[simp] theorem Dev.updSession_gau (n : Nat) (f : Session → Session) : (d.updSession n f).gau = d.gau := rfl
@[simp] theorem Dev.updSession_erl (n : Nat) (f : Session → Session) : (d.updSession n f).erl = d.erl := rfl
@[simp] theorem Dev.updSession_cnt (n : Nat) (f : Session → Session) : (d.updSession n f).cnt = d.cnt := rfl
@[simp] theorem Dev.updSession_ldg (n : Nat) (f : Session → Session) : (d.updSession n f).ldg = d.ldg := rfl
@[simp] theorem Dev.updSession_shadows (n : Nat) (f : Session → Session) : (d.updSession n f).shadows = d.shadows := rfl
@[simp] theorem Dev.updSession_thermtrip (n : Nat) (f : Session → Session) : (d.updSession n f).thermtrip = d.thermtrip := rfl
@[simp] theorem Dev.updSession_nvmOwner (n : Nat) (f : Session → Session) : (d.updSession n f).nvmOwner = d.nvmOwner := rfl
@[simp] theorem Dev.updSession_stopped (n : Nat) (f : Session → Session) : (d.updSession n f).stopped = d.stopped := rfl
@[simp] theorem Dev.updSession_latent (n : Nat) (f : Session → Session) : (d.updSession n f).latent = d.latent := rfl
@[simp] theorem Dev.updSession_notices (n : Nat) (f : Session → Session) : (d.updSession n f).notices = d.notices := rfl
@[simp] theorem Dev.updSession_fatalPend (n : Nat) (f : Session → Session) : (d.updSession n f).fatalPend = d.fatalPend := rfl
@[simp] theorem Dev.updSession_healthDue (n : Nat) (f : Session → Session) : (d.updSession n f).healthDue = d.healthDue := rfl
@[simp] theorem Dev.updSession_sbResult (n : Nat) (f : Session → Session) : (d.updSession n f).sbResult = d.sbResult := rfl
@[simp] theorem Dev.updSession_fresh (n : Nat) (f : Session → Session) : (d.updSession n f).fresh = d.fresh := rfl
@[simp] theorem Dev.updSession_whf_isWharf (n : Nat) (f : Session → Session) : (d.updSession n f).whf.isWharf = d.whf.isWharf := rfl
@[simp] theorem Dev.updSession_whf_limit (n : Nat) (f : Session → Session) : (d.updSession n f).whf.limit = d.whf.limit := rfl
@[simp] theorem Dev.updSession_whf_netPorts (n : Nat) (f : Session → Session) : (d.updSession n f).whf.netPorts = d.whf.netPorts := rfl
@[simp] theorem Dev.updSession_whf_grants (n : Nat) (f : Session → Session) : (d.updSession n f).whf.grants = d.whf.grants := rfl
@[simp] theorem Dev.updSession_whf_out (n : Nat) (f : Session → Session) : (d.updSession n f).whf.out = d.whf.out := rfl
@[simp] theorem Dev.updSession_whf_opened (n : Nat) (f : Session → Session) : (d.updSession n f).whf.opened = d.whf.opened := rfl
@[simp] theorem Dev.updSession_whf_hgens (n : Nat) (f : Session → Session) : (d.updSession n f).whf.hgens = d.whf.hgens := rfl
@[simp] theorem Dev.updSession_whf_ghosts (n : Nat) (f : Session → Session) : (d.updSession n f).whf.ghosts = d.whf.ghosts := rfl
@[simp] theorem Dev.updSession_id (n : Nat) (f : Session → Session) : (d.updSession n f).id = d.id := rfl

@[simp] theorem Dev.updBank_cores (q : Nat) (f : Bank → Bank) : (d.updBank q f).cores = d.cores := rfl
@[simp] theorem Dev.updBank_slices (q : Nat) (f : Bank → Bank) : (d.updBank q f).slices = d.slices := rfl
@[simp] theorem Dev.updBank_mem (q : Nat) (f : Bank → Bank) : (d.updBank q f).mem = d.mem := rfl
@[simp] theorem Dev.updBank_fab (q : Nat) (f : Bank → Bank) : (d.updBank q f).fab = d.fab := rfl
@[simp] theorem Dev.updBank_tim (q : Nat) (f : Bank → Bank) : (d.updBank q f).tim = d.tim := rfl
@[simp] theorem Dev.updBank_whf (q : Nat) (f : Bank → Bank) : (d.updBank q f).whf = d.whf := rfl
@[simp] theorem Dev.updBank_lkp (q : Nat) (f : Bank → Bank) : (d.updBank q f).lkp = d.lkp := rfl
@[simp] theorem Dev.updBank_pwr (q : Nat) (f : Bank → Bank) : (d.updBank q f).pwr = d.pwr := rfl
@[simp] theorem Dev.updBank_gau (q : Nat) (f : Bank → Bank) : (d.updBank q f).gau = d.gau := rfl
@[simp] theorem Dev.updBank_erl (q : Nat) (f : Bank → Bank) : (d.updBank q f).erl = d.erl := rfl
@[simp] theorem Dev.updBank_cnt (q : Nat) (f : Bank → Bank) : (d.updBank q f).cnt = d.cnt := rfl
@[simp] theorem Dev.updBank_ldg (q : Nat) (f : Bank → Bank) : (d.updBank q f).ldg = d.ldg := rfl
@[simp] theorem Dev.updBank_shadows (q : Nat) (f : Bank → Bank) : (d.updBank q f).shadows = d.shadows := rfl
@[simp] theorem Dev.updBank_thermtrip (q : Nat) (f : Bank → Bank) : (d.updBank q f).thermtrip = d.thermtrip := rfl
@[simp] theorem Dev.updBank_nvmOwner (q : Nat) (f : Bank → Bank) : (d.updBank q f).nvmOwner = d.nvmOwner := rfl
@[simp] theorem Dev.updBank_stopped (q : Nat) (f : Bank → Bank) : (d.updBank q f).stopped = d.stopped := rfl
@[simp] theorem Dev.updBank_latent (q : Nat) (f : Bank → Bank) : (d.updBank q f).latent = d.latent := rfl
@[simp] theorem Dev.updBank_notices (q : Nat) (f : Bank → Bank) : (d.updBank q f).notices = d.notices := rfl
@[simp] theorem Dev.updBank_fatalPend (q : Nat) (f : Bank → Bank) : (d.updBank q f).fatalPend = d.fatalPend := rfl
@[simp] theorem Dev.updBank_healthDue (q : Nat) (f : Bank → Bank) : (d.updBank q f).healthDue = d.healthDue := rfl
@[simp] theorem Dev.updBank_sbResult (q : Nat) (f : Bank → Bank) : (d.updBank q f).sbResult = d.sbResult := rfl
@[simp] theorem Dev.updBank_fresh (q : Nat) (f : Bank → Bank) : (d.updBank q f).fresh = d.fresh := rfl
@[simp] theorem Dev.updBank_ctl_ctxs (q : Nat) (f : Bank → Bank) : (d.updBank q f).ctl.ctxs = d.ctl.ctxs := rfl
@[simp] theorem Dev.updBank_ctl_fences (q : Nat) (f : Bank → Bank) : (d.updBank q f).ctl.fences = d.ctl.fences := rfl
@[simp] theorem Dev.updBank_ctl_berths (q : Nat) (f : Bank → Bank) : (d.updBank q f).ctl.berths = d.ctl.berths := rfl
@[simp] theorem Dev.updBank_ctl_streams (q : Nat) (f : Bank → Bank) : (d.updBank q f).ctl.streams = d.ctl.streams := rfl
@[simp] theorem Dev.updBank_ctl_imports (q : Nat) (f : Bank → Bank) : (d.updBank q f).ctl.imports = d.ctl.imports := rfl
@[simp] theorem Dev.updBank_ctl_shared (q : Nat) (f : Bank → Bank) : (d.updBank q f).ctl.shared = d.ctl.shared := rfl
@[simp] theorem Dev.updBank_ctl_mirrors (q : Nat) (f : Bank → Bank) : (d.updBank q f).ctl.mirrors = d.ctl.mirrors := rfl
@[simp] theorem Dev.updBank_ctl_lostWrites (q : Nat) (f : Bank → Bank) : (d.updBank q f).ctl.lostWrites = d.ctl.lostWrites := rfl
@[simp] theorem Dev.updBank_ctl_quarter (q : Nat) (f : Bank → Bank) : (d.updBank q f).ctl.quarter = d.ctl.quarter := rfl
@[simp] theorem Dev.updBank_ctl_nextInst (q : Nat) (f : Bank → Bank) : (d.updBank q f).ctl.nextInst = d.ctl.nextInst := rfl
@[simp] theorem Dev.updBank_ctl_bgens (q : Nat) (f : Bank → Bank) : (d.updBank q f).ctl.bgens = d.ctl.bgens := rfl
@[simp] theorem Dev.updBank_id (q : Nat) (f : Bank → Bank) : (d.updBank q f).id = d.id := rfl

@[simp] theorem Dev.updCmd_cores (q n : Nat) (f : Cmd → Cmd) : (d.updCmd q n f).cores = d.cores := rfl
@[simp] theorem Dev.updCmd_slices (q n : Nat) (f : Cmd → Cmd) : (d.updCmd q n f).slices = d.slices := rfl
@[simp] theorem Dev.updCmd_mem (q n : Nat) (f : Cmd → Cmd) : (d.updCmd q n f).mem = d.mem := rfl
@[simp] theorem Dev.updCmd_fab (q n : Nat) (f : Cmd → Cmd) : (d.updCmd q n f).fab = d.fab := rfl
@[simp] theorem Dev.updCmd_tim (q n : Nat) (f : Cmd → Cmd) : (d.updCmd q n f).tim = d.tim := rfl
@[simp] theorem Dev.updCmd_whf (q n : Nat) (f : Cmd → Cmd) : (d.updCmd q n f).whf = d.whf := rfl
@[simp] theorem Dev.updCmd_lkp (q n : Nat) (f : Cmd → Cmd) : (d.updCmd q n f).lkp = d.lkp := rfl
@[simp] theorem Dev.updCmd_pwr (q n : Nat) (f : Cmd → Cmd) : (d.updCmd q n f).pwr = d.pwr := rfl
@[simp] theorem Dev.updCmd_gau (q n : Nat) (f : Cmd → Cmd) : (d.updCmd q n f).gau = d.gau := rfl
@[simp] theorem Dev.updCmd_erl (q n : Nat) (f : Cmd → Cmd) : (d.updCmd q n f).erl = d.erl := rfl
@[simp] theorem Dev.updCmd_cnt (q n : Nat) (f : Cmd → Cmd) : (d.updCmd q n f).cnt = d.cnt := rfl
@[simp] theorem Dev.updCmd_ldg (q n : Nat) (f : Cmd → Cmd) : (d.updCmd q n f).ldg = d.ldg := rfl
@[simp] theorem Dev.updCmd_shadows (q n : Nat) (f : Cmd → Cmd) : (d.updCmd q n f).shadows = d.shadows := rfl
@[simp] theorem Dev.updCmd_thermtrip (q n : Nat) (f : Cmd → Cmd) : (d.updCmd q n f).thermtrip = d.thermtrip := rfl
@[simp] theorem Dev.updCmd_nvmOwner (q n : Nat) (f : Cmd → Cmd) : (d.updCmd q n f).nvmOwner = d.nvmOwner := rfl
@[simp] theorem Dev.updCmd_stopped (q n : Nat) (f : Cmd → Cmd) : (d.updCmd q n f).stopped = d.stopped := rfl
@[simp] theorem Dev.updCmd_latent (q n : Nat) (f : Cmd → Cmd) : (d.updCmd q n f).latent = d.latent := rfl
@[simp] theorem Dev.updCmd_notices (q n : Nat) (f : Cmd → Cmd) : (d.updCmd q n f).notices = d.notices := rfl
@[simp] theorem Dev.updCmd_fatalPend (q n : Nat) (f : Cmd → Cmd) : (d.updCmd q n f).fatalPend = d.fatalPend := rfl
@[simp] theorem Dev.updCmd_healthDue (q n : Nat) (f : Cmd → Cmd) : (d.updCmd q n f).healthDue = d.healthDue := rfl
@[simp] theorem Dev.updCmd_sbResult (q n : Nat) (f : Cmd → Cmd) : (d.updCmd q n f).sbResult = d.sbResult := rfl
@[simp] theorem Dev.updCmd_fresh (q n : Nat) (f : Cmd → Cmd) : (d.updCmd q n f).fresh = d.fresh := rfl
@[simp] theorem Dev.updCmd_ctl_ctxs (q n : Nat) (f : Cmd → Cmd) : (d.updCmd q n f).ctl.ctxs = d.ctl.ctxs := rfl
@[simp] theorem Dev.updCmd_ctl_fences (q n : Nat) (f : Cmd → Cmd) : (d.updCmd q n f).ctl.fences = d.ctl.fences := rfl
@[simp] theorem Dev.updCmd_ctl_berths (q n : Nat) (f : Cmd → Cmd) : (d.updCmd q n f).ctl.berths = d.ctl.berths := rfl
@[simp] theorem Dev.updCmd_ctl_streams (q n : Nat) (f : Cmd → Cmd) : (d.updCmd q n f).ctl.streams = d.ctl.streams := rfl
@[simp] theorem Dev.updCmd_ctl_imports (q n : Nat) (f : Cmd → Cmd) : (d.updCmd q n f).ctl.imports = d.ctl.imports := rfl
@[simp] theorem Dev.updCmd_ctl_shared (q n : Nat) (f : Cmd → Cmd) : (d.updCmd q n f).ctl.shared = d.ctl.shared := rfl
@[simp] theorem Dev.updCmd_ctl_mirrors (q n : Nat) (f : Cmd → Cmd) : (d.updCmd q n f).ctl.mirrors = d.ctl.mirrors := rfl
@[simp] theorem Dev.updCmd_ctl_lostWrites (q n : Nat) (f : Cmd → Cmd) : (d.updCmd q n f).ctl.lostWrites = d.ctl.lostWrites := rfl
@[simp] theorem Dev.updCmd_ctl_quarter (q n : Nat) (f : Cmd → Cmd) : (d.updCmd q n f).ctl.quarter = d.ctl.quarter := rfl
@[simp] theorem Dev.updCmd_ctl_nextInst (q n : Nat) (f : Cmd → Cmd) : (d.updCmd q n f).ctl.nextInst = d.ctl.nextInst := rfl
@[simp] theorem Dev.updCmd_ctl_bgens (q n : Nat) (f : Cmd → Cmd) : (d.updCmd q n f).ctl.bgens = d.ctl.bgens := rfl
@[simp] theorem Dev.updCmd_id (q n : Nat) (f : Cmd → Cmd) : (d.updCmd q n f).id = d.id := rfl

/-! ### Units that an update does not touch -/

@[simp] theorem Dev.setCore_slice_of (c : Nat) (k : Core) (j : Nat) : (d.setCore c k).slice j = d.slice j := rfl
@[simp] theorem Dev.setCore_stack_of (c : Nat) (k : Core) (j : Nat) : (d.setCore c k).stack j = d.stack j := rfl
@[simp] theorem Dev.setCore_ctx_of (c : Nat) (k : Core) (j : Nat) : (d.setCore c k).ctx j = d.ctx j := rfl
@[simp] theorem Dev.setCore_queue_of (c : Nat) (k : Core) (j : Nat) : (d.setCore c k).queue j = d.queue j := rfl
@[simp] theorem Dev.setCore_fence_of (c : Nat) (k : Core) (j : Nat) : (d.setCore c k).fence j = d.fence j := rfl
@[simp] theorem Dev.setCore_berth_of (c : Nat) (k : Core) (j : Nat) : (d.setCore c k).berth j = d.berth j := rfl
@[simp] theorem Dev.setCore_stream_of (c : Nat) (k : Core) (j : Nat) : (d.setCore c k).stream j = d.stream j := rfl
@[simp] theorem Dev.setCore_port_of (c : Nat) (k : Core) (j : Nat) : (d.setCore c k).port j = d.port j := rfl
@[simp] theorem Dev.setCore_session_of (c : Nat) (k : Core) (j : Nat) : (d.setCore c k).session j = d.session j := rfl

@[simp] theorem Dev.updCore_slice_of (c : Nat) (f : Core → Core) (j : Nat) : (d.updCore c f).slice j = d.slice j := rfl
@[simp] theorem Dev.updCore_stack_of (c : Nat) (f : Core → Core) (j : Nat) : (d.updCore c f).stack j = d.stack j := rfl
@[simp] theorem Dev.updCore_ctx_of (c : Nat) (f : Core → Core) (j : Nat) : (d.updCore c f).ctx j = d.ctx j := rfl
@[simp] theorem Dev.updCore_queue_of (c : Nat) (f : Core → Core) (j : Nat) : (d.updCore c f).queue j = d.queue j := rfl
@[simp] theorem Dev.updCore_fence_of (c : Nat) (f : Core → Core) (j : Nat) : (d.updCore c f).fence j = d.fence j := rfl
@[simp] theorem Dev.updCore_berth_of (c : Nat) (f : Core → Core) (j : Nat) : (d.updCore c f).berth j = d.berth j := rfl
@[simp] theorem Dev.updCore_stream_of (c : Nat) (f : Core → Core) (j : Nat) : (d.updCore c f).stream j = d.stream j := rfl
@[simp] theorem Dev.updCore_port_of (c : Nat) (f : Core → Core) (j : Nat) : (d.updCore c f).port j = d.port j := rfl
@[simp] theorem Dev.updCore_session_of (c : Nat) (f : Core → Core) (j : Nat) : (d.updCore c f).session j = d.session j := rfl

@[simp] theorem Dev.setGroup_slice_of (c s : Nat) (g : Group) (j : Nat) : (d.setGroup c s g).slice j = d.slice j := rfl
@[simp] theorem Dev.setGroup_stack_of (c s : Nat) (g : Group) (j : Nat) : (d.setGroup c s g).stack j = d.stack j := rfl
@[simp] theorem Dev.setGroup_ctx_of (c s : Nat) (g : Group) (j : Nat) : (d.setGroup c s g).ctx j = d.ctx j := rfl
@[simp] theorem Dev.setGroup_queue_of (c s : Nat) (g : Group) (j : Nat) : (d.setGroup c s g).queue j = d.queue j := rfl
@[simp] theorem Dev.setGroup_fence_of (c s : Nat) (g : Group) (j : Nat) : (d.setGroup c s g).fence j = d.fence j := rfl
@[simp] theorem Dev.setGroup_berth_of (c s : Nat) (g : Group) (j : Nat) : (d.setGroup c s g).berth j = d.berth j := rfl
@[simp] theorem Dev.setGroup_stream_of (c s : Nat) (g : Group) (j : Nat) : (d.setGroup c s g).stream j = d.stream j := rfl
@[simp] theorem Dev.setGroup_port_of (c s : Nat) (g : Group) (j : Nat) : (d.setGroup c s g).port j = d.port j := rfl
@[simp] theorem Dev.setGroup_session_of (c s : Nat) (g : Group) (j : Nat) : (d.setGroup c s g).session j = d.session j := rfl

@[simp] theorem Dev.updGroup_slice_of (c s : Nat) (f : Group → Group) (j : Nat) : (d.updGroup c s f).slice j = d.slice j := rfl
@[simp] theorem Dev.updGroup_stack_of (c s : Nat) (f : Group → Group) (j : Nat) : (d.updGroup c s f).stack j = d.stack j := rfl
@[simp] theorem Dev.updGroup_ctx_of (c s : Nat) (f : Group → Group) (j : Nat) : (d.updGroup c s f).ctx j = d.ctx j := rfl
@[simp] theorem Dev.updGroup_queue_of (c s : Nat) (f : Group → Group) (j : Nat) : (d.updGroup c s f).queue j = d.queue j := rfl
@[simp] theorem Dev.updGroup_fence_of (c s : Nat) (f : Group → Group) (j : Nat) : (d.updGroup c s f).fence j = d.fence j := rfl
@[simp] theorem Dev.updGroup_berth_of (c s : Nat) (f : Group → Group) (j : Nat) : (d.updGroup c s f).berth j = d.berth j := rfl
@[simp] theorem Dev.updGroup_stream_of (c s : Nat) (f : Group → Group) (j : Nat) : (d.updGroup c s f).stream j = d.stream j := rfl
@[simp] theorem Dev.updGroup_port_of (c s : Nat) (f : Group → Group) (j : Nat) : (d.updGroup c s f).port j = d.port j := rfl
@[simp] theorem Dev.updGroup_session_of (c s : Nat) (f : Group → Group) (j : Nat) : (d.updGroup c s f).session j = d.session j := rfl

@[simp] theorem Dev.setSlice_core_of (n : Nat) (x : Slice) (j : Nat) : (d.setSlice n x).core j = d.core j := rfl
@[simp] theorem Dev.setSlice_stack_of (n : Nat) (x : Slice) (j : Nat) : (d.setSlice n x).stack j = d.stack j := rfl
@[simp] theorem Dev.setSlice_ctx_of (n : Nat) (x : Slice) (j : Nat) : (d.setSlice n x).ctx j = d.ctx j := rfl
@[simp] theorem Dev.setSlice_queue_of (n : Nat) (x : Slice) (j : Nat) : (d.setSlice n x).queue j = d.queue j := rfl
@[simp] theorem Dev.setSlice_fence_of (n : Nat) (x : Slice) (j : Nat) : (d.setSlice n x).fence j = d.fence j := rfl
@[simp] theorem Dev.setSlice_berth_of (n : Nat) (x : Slice) (j : Nat) : (d.setSlice n x).berth j = d.berth j := rfl
@[simp] theorem Dev.setSlice_stream_of (n : Nat) (x : Slice) (j : Nat) : (d.setSlice n x).stream j = d.stream j := rfl
@[simp] theorem Dev.setSlice_port_of (n : Nat) (x : Slice) (j : Nat) : (d.setSlice n x).port j = d.port j := rfl
@[simp] theorem Dev.setSlice_session_of (n : Nat) (x : Slice) (j : Nat) : (d.setSlice n x).session j = d.session j := rfl

@[simp] theorem Dev.updSlice_core_of (n : Nat) (f : Slice → Slice) (j : Nat) : (d.updSlice n f).core j = d.core j := rfl
@[simp] theorem Dev.updSlice_stack_of (n : Nat) (f : Slice → Slice) (j : Nat) : (d.updSlice n f).stack j = d.stack j := rfl
@[simp] theorem Dev.updSlice_ctx_of (n : Nat) (f : Slice → Slice) (j : Nat) : (d.updSlice n f).ctx j = d.ctx j := rfl
@[simp] theorem Dev.updSlice_queue_of (n : Nat) (f : Slice → Slice) (j : Nat) : (d.updSlice n f).queue j = d.queue j := rfl
@[simp] theorem Dev.updSlice_fence_of (n : Nat) (f : Slice → Slice) (j : Nat) : (d.updSlice n f).fence j = d.fence j := rfl
@[simp] theorem Dev.updSlice_berth_of (n : Nat) (f : Slice → Slice) (j : Nat) : (d.updSlice n f).berth j = d.berth j := rfl
@[simp] theorem Dev.updSlice_stream_of (n : Nat) (f : Slice → Slice) (j : Nat) : (d.updSlice n f).stream j = d.stream j := rfl
@[simp] theorem Dev.updSlice_port_of (n : Nat) (f : Slice → Slice) (j : Nat) : (d.updSlice n f).port j = d.port j := rfl
@[simp] theorem Dev.updSlice_session_of (n : Nat) (f : Slice → Slice) (j : Nat) : (d.updSlice n f).session j = d.session j := rfl

@[simp] theorem Dev.updStack_core_of (n : Nat) (f : Stack → Stack) (j : Nat) : (d.updStack n f).core j = d.core j := rfl
@[simp] theorem Dev.updStack_slice_of (n : Nat) (f : Stack → Stack) (j : Nat) : (d.updStack n f).slice j = d.slice j := rfl
@[simp] theorem Dev.updStack_ctx_of (n : Nat) (f : Stack → Stack) (j : Nat) : (d.updStack n f).ctx j = d.ctx j := rfl
@[simp] theorem Dev.updStack_queue_of (n : Nat) (f : Stack → Stack) (j : Nat) : (d.updStack n f).queue j = d.queue j := rfl
@[simp] theorem Dev.updStack_fence_of (n : Nat) (f : Stack → Stack) (j : Nat) : (d.updStack n f).fence j = d.fence j := rfl
@[simp] theorem Dev.updStack_berth_of (n : Nat) (f : Stack → Stack) (j : Nat) : (d.updStack n f).berth j = d.berth j := rfl
@[simp] theorem Dev.updStack_stream_of (n : Nat) (f : Stack → Stack) (j : Nat) : (d.updStack n f).stream j = d.stream j := rfl
@[simp] theorem Dev.updStack_port_of (n : Nat) (f : Stack → Stack) (j : Nat) : (d.updStack n f).port j = d.port j := rfl
@[simp] theorem Dev.updStack_session_of (n : Nat) (f : Stack → Stack) (j : Nat) : (d.updStack n f).session j = d.session j := rfl

@[simp] theorem Dev.updCtx_core_of (x : Nat) (f : Ctx → Ctx) (j : Nat) : (d.updCtx x f).core j = d.core j := rfl
@[simp] theorem Dev.updCtx_slice_of (x : Nat) (f : Ctx → Ctx) (j : Nat) : (d.updCtx x f).slice j = d.slice j := rfl
@[simp] theorem Dev.updCtx_stack_of (x : Nat) (f : Ctx → Ctx) (j : Nat) : (d.updCtx x f).stack j = d.stack j := rfl
@[simp] theorem Dev.updCtx_queue_of (x : Nat) (f : Ctx → Ctx) (j : Nat) : (d.updCtx x f).queue j = d.queue j := rfl
@[simp] theorem Dev.updCtx_fence_of (x : Nat) (f : Ctx → Ctx) (j : Nat) : (d.updCtx x f).fence j = d.fence j := rfl
@[simp] theorem Dev.updCtx_berth_of (x : Nat) (f : Ctx → Ctx) (j : Nat) : (d.updCtx x f).berth j = d.berth j := rfl
@[simp] theorem Dev.updCtx_stream_of (x : Nat) (f : Ctx → Ctx) (j : Nat) : (d.updCtx x f).stream j = d.stream j := rfl
@[simp] theorem Dev.updCtx_port_of (x : Nat) (f : Ctx → Ctx) (j : Nat) : (d.updCtx x f).port j = d.port j := rfl
@[simp] theorem Dev.updCtx_session_of (x : Nat) (f : Ctx → Ctx) (j : Nat) : (d.updCtx x f).session j = d.session j := rfl

@[simp] theorem Dev.updQueue_core_of (q : Nat) (f : Queue → Queue) (j : Nat) : (d.updQueue q f).core j = d.core j := rfl
@[simp] theorem Dev.updQueue_slice_of (q : Nat) (f : Queue → Queue) (j : Nat) : (d.updQueue q f).slice j = d.slice j := rfl
@[simp] theorem Dev.updQueue_stack_of (q : Nat) (f : Queue → Queue) (j : Nat) : (d.updQueue q f).stack j = d.stack j := rfl
@[simp] theorem Dev.updQueue_ctx_of (q : Nat) (f : Queue → Queue) (j : Nat) : (d.updQueue q f).ctx j = d.ctx j := rfl
@[simp] theorem Dev.updQueue_fence_of (q : Nat) (f : Queue → Queue) (j : Nat) : (d.updQueue q f).fence j = d.fence j := rfl
@[simp] theorem Dev.updQueue_berth_of (q : Nat) (f : Queue → Queue) (j : Nat) : (d.updQueue q f).berth j = d.berth j := rfl
@[simp] theorem Dev.updQueue_stream_of (q : Nat) (f : Queue → Queue) (j : Nat) : (d.updQueue q f).stream j = d.stream j := rfl
@[simp] theorem Dev.updQueue_port_of (q : Nat) (f : Queue → Queue) (j : Nat) : (d.updQueue q f).port j = d.port j := rfl
@[simp] theorem Dev.updQueue_session_of (q : Nat) (f : Queue → Queue) (j : Nat) : (d.updQueue q f).session j = d.session j := rfl

@[simp] theorem Dev.updFence_core_of (n : Nat) (f : Fence → Fence) (j : Nat) : (d.updFence n f).core j = d.core j := rfl
@[simp] theorem Dev.updFence_slice_of (n : Nat) (f : Fence → Fence) (j : Nat) : (d.updFence n f).slice j = d.slice j := rfl
@[simp] theorem Dev.updFence_stack_of (n : Nat) (f : Fence → Fence) (j : Nat) : (d.updFence n f).stack j = d.stack j := rfl
@[simp] theorem Dev.updFence_ctx_of (n : Nat) (f : Fence → Fence) (j : Nat) : (d.updFence n f).ctx j = d.ctx j := rfl
@[simp] theorem Dev.updFence_queue_of (n : Nat) (f : Fence → Fence) (j : Nat) : (d.updFence n f).queue j = d.queue j := rfl
@[simp] theorem Dev.updFence_berth_of (n : Nat) (f : Fence → Fence) (j : Nat) : (d.updFence n f).berth j = d.berth j := rfl
@[simp] theorem Dev.updFence_stream_of (n : Nat) (f : Fence → Fence) (j : Nat) : (d.updFence n f).stream j = d.stream j := rfl
@[simp] theorem Dev.updFence_port_of (n : Nat) (f : Fence → Fence) (j : Nat) : (d.updFence n f).port j = d.port j := rfl
@[simp] theorem Dev.updFence_session_of (n : Nat) (f : Fence → Fence) (j : Nat) : (d.updFence n f).session j = d.session j := rfl

@[simp] theorem Dev.updBerth_core_of (b : Nat) (f : Berth → Berth) (j : Nat) : (d.updBerth b f).core j = d.core j := rfl
@[simp] theorem Dev.updBerth_slice_of (b : Nat) (f : Berth → Berth) (j : Nat) : (d.updBerth b f).slice j = d.slice j := rfl
@[simp] theorem Dev.updBerth_stack_of (b : Nat) (f : Berth → Berth) (j : Nat) : (d.updBerth b f).stack j = d.stack j := rfl
@[simp] theorem Dev.updBerth_ctx_of (b : Nat) (f : Berth → Berth) (j : Nat) : (d.updBerth b f).ctx j = d.ctx j := rfl
@[simp] theorem Dev.updBerth_queue_of (b : Nat) (f : Berth → Berth) (j : Nat) : (d.updBerth b f).queue j = d.queue j := rfl
@[simp] theorem Dev.updBerth_fence_of (b : Nat) (f : Berth → Berth) (j : Nat) : (d.updBerth b f).fence j = d.fence j := rfl
@[simp] theorem Dev.updBerth_stream_of (b : Nat) (f : Berth → Berth) (j : Nat) : (d.updBerth b f).stream j = d.stream j := rfl
@[simp] theorem Dev.updBerth_port_of (b : Nat) (f : Berth → Berth) (j : Nat) : (d.updBerth b f).port j = d.port j := rfl
@[simp] theorem Dev.updBerth_session_of (b : Nat) (f : Berth → Berth) (j : Nat) : (d.updBerth b f).session j = d.session j := rfl

@[simp] theorem Dev.updStream_core_of (n : Nat) (f : Stream → Stream) (j : Nat) : (d.updStream n f).core j = d.core j := rfl
@[simp] theorem Dev.updStream_slice_of (n : Nat) (f : Stream → Stream) (j : Nat) : (d.updStream n f).slice j = d.slice j := rfl
@[simp] theorem Dev.updStream_stack_of (n : Nat) (f : Stream → Stream) (j : Nat) : (d.updStream n f).stack j = d.stack j := rfl
@[simp] theorem Dev.updStream_ctx_of (n : Nat) (f : Stream → Stream) (j : Nat) : (d.updStream n f).ctx j = d.ctx j := rfl
@[simp] theorem Dev.updStream_queue_of (n : Nat) (f : Stream → Stream) (j : Nat) : (d.updStream n f).queue j = d.queue j := rfl
@[simp] theorem Dev.updStream_fence_of (n : Nat) (f : Stream → Stream) (j : Nat) : (d.updStream n f).fence j = d.fence j := rfl
@[simp] theorem Dev.updStream_berth_of (n : Nat) (f : Stream → Stream) (j : Nat) : (d.updStream n f).berth j = d.berth j := rfl
@[simp] theorem Dev.updStream_port_of (n : Nat) (f : Stream → Stream) (j : Nat) : (d.updStream n f).port j = d.port j := rfl
@[simp] theorem Dev.updStream_session_of (n : Nat) (f : Stream → Stream) (j : Nat) : (d.updStream n f).session j = d.session j := rfl

@[simp] theorem Dev.updPort_core_of (p : Nat) (f : Port → Port) (j : Nat) : (d.updPort p f).core j = d.core j := rfl
@[simp] theorem Dev.updPort_slice_of (p : Nat) (f : Port → Port) (j : Nat) : (d.updPort p f).slice j = d.slice j := rfl
@[simp] theorem Dev.updPort_stack_of (p : Nat) (f : Port → Port) (j : Nat) : (d.updPort p f).stack j = d.stack j := rfl
@[simp] theorem Dev.updPort_ctx_of (p : Nat) (f : Port → Port) (j : Nat) : (d.updPort p f).ctx j = d.ctx j := rfl
@[simp] theorem Dev.updPort_queue_of (p : Nat) (f : Port → Port) (j : Nat) : (d.updPort p f).queue j = d.queue j := rfl
@[simp] theorem Dev.updPort_fence_of (p : Nat) (f : Port → Port) (j : Nat) : (d.updPort p f).fence j = d.fence j := rfl
@[simp] theorem Dev.updPort_berth_of (p : Nat) (f : Port → Port) (j : Nat) : (d.updPort p f).berth j = d.berth j := rfl
@[simp] theorem Dev.updPort_stream_of (p : Nat) (f : Port → Port) (j : Nat) : (d.updPort p f).stream j = d.stream j := rfl
@[simp] theorem Dev.updPort_session_of (p : Nat) (f : Port → Port) (j : Nat) : (d.updPort p f).session j = d.session j := rfl

@[simp] theorem Dev.updSession_core_of (n : Nat) (f : Session → Session) (j : Nat) : (d.updSession n f).core j = d.core j := rfl
@[simp] theorem Dev.updSession_slice_of (n : Nat) (f : Session → Session) (j : Nat) : (d.updSession n f).slice j = d.slice j := rfl
@[simp] theorem Dev.updSession_stack_of (n : Nat) (f : Session → Session) (j : Nat) : (d.updSession n f).stack j = d.stack j := rfl
@[simp] theorem Dev.updSession_ctx_of (n : Nat) (f : Session → Session) (j : Nat) : (d.updSession n f).ctx j = d.ctx j := rfl
@[simp] theorem Dev.updSession_queue_of (n : Nat) (f : Session → Session) (j : Nat) : (d.updSession n f).queue j = d.queue j := rfl
@[simp] theorem Dev.updSession_fence_of (n : Nat) (f : Session → Session) (j : Nat) : (d.updSession n f).fence j = d.fence j := rfl
@[simp] theorem Dev.updSession_berth_of (n : Nat) (f : Session → Session) (j : Nat) : (d.updSession n f).berth j = d.berth j := rfl
@[simp] theorem Dev.updSession_stream_of (n : Nat) (f : Session → Session) (j : Nat) : (d.updSession n f).stream j = d.stream j := rfl
@[simp] theorem Dev.updSession_port_of (n : Nat) (f : Session → Session) (j : Nat) : (d.updSession n f).port j = d.port j := rfl

@[simp] theorem Dev.updBank_core_of (q : Nat) (f : Bank → Bank) (j : Nat) : (d.updBank q f).core j = d.core j := rfl
@[simp] theorem Dev.updBank_slice_of (q : Nat) (f : Bank → Bank) (j : Nat) : (d.updBank q f).slice j = d.slice j := rfl
@[simp] theorem Dev.updBank_stack_of (q : Nat) (f : Bank → Bank) (j : Nat) : (d.updBank q f).stack j = d.stack j := rfl
@[simp] theorem Dev.updBank_ctx_of (q : Nat) (f : Bank → Bank) (j : Nat) : (d.updBank q f).ctx j = d.ctx j := rfl
@[simp] theorem Dev.updBank_fence_of (q : Nat) (f : Bank → Bank) (j : Nat) : (d.updBank q f).fence j = d.fence j := rfl
@[simp] theorem Dev.updBank_berth_of (q : Nat) (f : Bank → Bank) (j : Nat) : (d.updBank q f).berth j = d.berth j := rfl
@[simp] theorem Dev.updBank_stream_of (q : Nat) (f : Bank → Bank) (j : Nat) : (d.updBank q f).stream j = d.stream j := rfl
@[simp] theorem Dev.updBank_port_of (q : Nat) (f : Bank → Bank) (j : Nat) : (d.updBank q f).port j = d.port j := rfl
@[simp] theorem Dev.updBank_session_of (q : Nat) (f : Bank → Bank) (j : Nat) : (d.updBank q f).session j = d.session j := rfl

@[simp] theorem Dev.updCmd_core_of (q n : Nat) (f : Cmd → Cmd) (j : Nat) : (d.updCmd q n f).core j = d.core j := rfl
@[simp] theorem Dev.updCmd_slice_of (q n : Nat) (f : Cmd → Cmd) (j : Nat) : (d.updCmd q n f).slice j = d.slice j := rfl
@[simp] theorem Dev.updCmd_stack_of (q n : Nat) (f : Cmd → Cmd) (j : Nat) : (d.updCmd q n f).stack j = d.stack j := rfl
@[simp] theorem Dev.updCmd_ctx_of (q n : Nat) (f : Cmd → Cmd) (j : Nat) : (d.updCmd q n f).ctx j = d.ctx j := rfl
@[simp] theorem Dev.updCmd_fence_of (q n : Nat) (f : Cmd → Cmd) (j : Nat) : (d.updCmd q n f).fence j = d.fence j := rfl
@[simp] theorem Dev.updCmd_berth_of (q n : Nat) (f : Cmd → Cmd) (j : Nat) : (d.updCmd q n f).berth j = d.berth j := rfl
@[simp] theorem Dev.updCmd_stream_of (q n : Nat) (f : Cmd → Cmd) (j : Nat) : (d.updCmd q n f).stream j = d.stream j := rfl
@[simp] theorem Dev.updCmd_port_of (q n : Nat) (f : Cmd → Cmd) (j : Nat) : (d.updCmd q n f).port j = d.port j := rfl
@[simp] theorem Dev.updCmd_session_of (q n : Nat) (f : Cmd → Cmd) (j : Nat) : (d.updCmd q n f).session j = d.session j := rfl

/-! ### The unit that an update changes -/

@[simp] theorem Dev.setSlice_slice (n : Nat) (x : Slice) (j : Nat) : (d.setSlice n x).slice j = if j = n then x else d.slice j := mget_mput _ _ _ _ _
@[simp] theorem Dev.updSlice_slice (n : Nat) (f : Slice → Slice) (j : Nat) : (d.updSlice n f).slice j = if j = n then f (d.slice n) else d.slice j := mget_mput _ _ _ _ _
@[simp] theorem Dev.updStack_stack (n : Nat) (f : Stack → Stack) (j : Nat) : (d.updStack n f).stack j = if j = n then f (d.stack n) else d.stack j := mget_mput _ _ _ _ _
@[simp] theorem Dev.updCtx_ctx (x : Nat) (f : Ctx → Ctx) (j : Nat) : (d.updCtx x f).ctx j = if j = x then f (d.ctx x) else d.ctx j := mget_mput _ _ _ _ _
@[simp] theorem Dev.updQueue_queue (q : Nat) (f : Queue → Queue) (j : Nat) : (d.updQueue q f).queue j = if j = q then f (d.queue q) else d.queue j := mget_mput _ _ _ _ _
@[simp] theorem Dev.updFence_fence (n : Nat) (f : Fence → Fence) (j : Nat) : (d.updFence n f).fence j = if j = n then f (d.fence n) else d.fence j := mget_mput _ _ _ _ _
@[simp] theorem Dev.updBerth_berth (b : Nat) (f : Berth → Berth) (j : Nat) : (d.updBerth b f).berth j = if j = b then f (d.berth b) else d.berth j := mget_mput _ _ _ _ _
@[simp] theorem Dev.updStream_stream (n : Nat) (f : Stream → Stream) (j : Nat) : (d.updStream n f).stream j = if j = n then f (d.stream n) else d.stream j := mget_mput _ _ _ _ _
@[simp] theorem Dev.updPort_port (p : Nat) (f : Port → Port) (j : Nat) : (d.updPort p f).port j = if j = p then f (d.port p) else d.port j := mget_mput _ _ _ _ _
@[simp] theorem Dev.updSession_session (n : Nat) (f : Session → Session) (j : Nat) : (d.updSession n f).session j = if j = n then f (d.session n) else d.session j := mget_mput _ _ _ _ _
@[simp] theorem Dev.updBank_queue (q : Nat) (f : Bank → Bank) (j : Nat) :
    (d.updBank q f).queue j = if j = q then { d.queue q with cur := f (d.queue q).cur } else d.queue j := mget_mput _ _ _ _ _

end Sys2Proof.Machine
end

