-- ==== Sys2Proof/Laws/Stores.lean ====
section
/-! SUPPORT. What the device's own engines can do when they read and write HBM through the slices and no storage error is met: only the
caches, the bytes and tags of HBM, the counters, the mesh and the taint list change, and HBM keeps its canonical form. -/

namespace Sys2Proof.Machine

/-- What accesses to memory leave unchanged. -/
structure Stored (d e : Dev) : Prop where
  dev : e = { d with
    cores := e.cores, slices := e.slices, cnt := e.cnt, mem := { d.mem with hbm := e.mem.hbm, tags := e.mem.tags }
    fab := { d.fab with net := e.fab.net }, erl := { d.erl with taint := e.erl.taint } }
  wf : Memory.wf d.mem.hbm = true → Memory.wf e.mem.hbm = true

theorem Stored.self (d : Dev) : Stored d d := ⟨by cases d; rfl, id⟩

theorem Stored.trans {a b c : Dev} (h1 : Stored a b) (h2 : Stored b c) : Stored a c := by
  refine ⟨?_, fun h => h2.wf (h1.wf h)⟩
  rw [h2.dev, h1.dev]

theorem Stored.latent {a b : Dev} (h : Stored a b) (hl : a.latent = []) : b.latent = [] := by rw [h.dev]; exact hl

/-- Chaining two accesses. -/
theorem Stored.andThen {a b c : Dev} (hl : a.latent = []) (h1 : Stored a b) (h2 : b.latent = [] → Stored b c) : Stored a c :=
  h1.trans (h2 (h1.latent hl))

theorem stored_foldl {α : Type} (f : Dev → α → Dev) (h : ∀ d a, d.latent = [] → Stored d (f d a)) (l : List α) (d : Dev)
    (hl : d.latent = []) : Stored d (l.foldl f d) := by
  induction l generalizing d with
  | nil => exact Stored.self d
  | cons a t ih => exact (h d a hl).andThen hl fun hl' => ih _ hl'

/-! ### Parts of the device -/

theorem stored_bump (d : Dev) (w n : Nat) : Stored d (d.bump w n) := ⟨by cases d; rfl, id⟩

theorem stored_setSlice (d : Dev) (n : Nat) (x : Slice) : Stored d (d.setSlice n x) := ⟨by cases d; rfl, id⟩

theorem stored_updSlice (d : Dev) (n : Nat) (f : Slice → Slice) : Stored d (d.updSlice n f) := stored_setSlice d n _

theorem stored_setCore (d : Dev) (c : Nat) (x : Core) : Stored d (d.setCore c x) := ⟨by cases d; rfl, id⟩

theorem stored_updCore (d : Dev) (c : Nat) (f : Core → Core) : Stored d (d.updCore c f) := stored_setCore d c _

theorem stored_send (d : Dev) (p : Packet) : Stored d (d.send p) := ⟨by cases d; rfl, id⟩

theorem stored_sendAll (d : Dev) (ps : List Packet) (hl : d.latent = []) : Stored d (d.sendAll ps) :=
  stored_foldl _ (fun d p _ => stored_send d p) ps d hl

theorem stored_charge (d : Dev) (k : Clock) (n b c : Nat) : Stored d (d.charge k n b c) := by
  unfold Dev.charge
  dsimp only
  split
  · exact Stored.self d
  · exact stored_updSlice ..

theorem stored_untaint (d : Dev) (l : Nat) (s : BitVec 4) : Stored d (d.untaint l s) := ⟨by cases d; rfl, id⟩

theorem wf_foldl (f : List (Nat × BitVec 8) → Nat → List (Nat × BitVec 8)) (h : ∀ m i, Memory.wf m = true → Memory.wf (f m i) = true)
    (l : List Nat) (m : List (Nat × BitVec 8)) (hm : Memory.wf m = true) : Memory.wf (l.foldl f m) = true := by
  induction l generalizing m with
  | nil => exact hm
  | cons a t ih => exact ih _ (h m a hm)

/-- Writing a sector keeps the canonical form of HBM. -/
theorem stored_writeSector (d : Dev) (key sec : Nat) (mask : BitVec 32) (v : Nat) (p : Bool) : Stored d (d.writeSector key sec mask v p) := by
  unfold Dev.writeSector
  split
  · exact Stored.self d
  · refine ⟨by cases d; rfl, fun h => ?_⟩
    refine wf_foldl _ (fun m i hm => ?_) _ _ h
    repeat' split
    all_goals first | exact hm | exact mset_keeps_wf _ _ _ hm

theorem stored_poisonSector (d : Dev) (sec : Nat) : Stored d (d.poisonSector sec) := ⟨by cases d; rfl, id⟩

theorem takeLatent_sound (kind unit place : Nat) (d : Dev) (hl : d.latent = []) : takeLatent kind unit place d = (none, d) := by
  simp [takeLatent, hl]

theorem meetBurst_none (d : Dev) (k : Clock) (src b sec : Nat) (hl : d.latent = []) : d.meetBurst k src b sec = d := by
  unfold Dev.meetBurst
  rw [takeLatent_sound _ _ _ _ hl]
  cases d.locOf (32 * sec) with
  | none => dsimp only
  | some l => dsimp only

theorem sliceMeet_none (d : Dev) (k : Clock) (n line : Nat) (full reads : List Nat) (hl : d.latent = []) :
    d.sliceMeet k n line full reads = d := by
  unfold Dev.sliceMeet
  simp only [takeLatent_sound _ _ _ _ hl]
  repeat' split
  all_goals rfl

theorem wcbMeet_none (d : Dev) (k : Clock) (n : Nat) (e : Wcb) (hl : d.latent = []) : d.wcbMeet k n e = (e, d) := by
  unfold Dev.wcbMeet
  rw [takeLatent_sound _ _ _ _ hl]

/-! ### Slices -/

theorem stored_putSectors (d : Dev) (key line : Nat) (s : BitVec 4) (data : Line) (p : BitVec 16) (hl : d.latent = []) :
    Stored d (d.putSectors key line s data p) :=
  stored_foldl _ (fun d i _ => by
    split
    · exact stored_writeSector ..
    · exact Stored.self d) _ d hl

theorem stored_sliceOwn (d : Dev) (n : Nat) (p : Packet) : Stored d (d.sliceOwn n p).2 := stored_setSlice ..

theorem stored_untaintSectors (d : Dev) (x : SLine) (s : BitVec 4) (hl : d.latent = []) : Stored d (d.untaintSectors x s) :=
  stored_foldl _ (fun d i _ => by
    dsimp only
    split
    · exact stored_untaint ..
    · exact Stored.self d) _ d hl

theorem stored_writeMirror (d : Dev) (x : SLine) (s : BitVec 4) (hl : d.latent = []) : Stored d (d.writeMirror x s) := by
  unfold Dev.writeMirror
  dsimp only
  repeat' split
  · exact Stored.self d
  · exact stored_putSectors _ _ _ _ _ _ hl
  · exact (stored_sliceOwn ..).trans (stored_send ..)

theorem stored_writeBack (d : Dev) (k : Clock) (x : SLine) (s : BitVec 4) (hl : d.latent = []) : Stored d (d.writeBack k x s) :=
  ((stored_putSectors _ _ _ _ _ _ hl).trans (stored_charge ..)).andThen hl fun h =>
    (stored_untaintSectors _ _ _ h).andThen h fun h' => stored_writeMirror _ _ _ h'

theorem stored_farPut (d : Dev) (n line : Nat) (st : LState) (f : SLine) : Stored d (d.farPut n line st f) :=
  (stored_updSlice ..).trans (stored_send ..)

theorem stored_recallEnd (d : Dev) (n : Nat) (r : Recall) : Stored d (d.recallEnd n r) := by
  unfold Dev.recallEnd
  dsimp only
  split
  · exact stored_updSlice ..
  · exact (stored_updSlice ..).trans ((stored_updSlice ..).trans (stored_farPut ..))

theorem stored_startRecall (d : Dev) (n : Nat) (e : DirEntry) (put : Bool) (kept : Option SLine) (hl : d.latent = []) :
    Stored d (d.startRecall n e put kept) := by
  unfold Dev.startRecall
  dsimp only
  split
  · exact (stored_setSlice ..).andThen hl fun h => (stored_sendAll _ _ h).trans (stored_recallEnd ..)
  · exact (stored_setSlice ..).andThen hl fun h => stored_sendAll _ _ h

theorem stored_dropFrame (d : Dev) (k : Clock) (n : Nat) (f : SLine) (hl : d.latent = []) : Stored d (d.dropFrame k n f) := by
  unfold Dev.dropFrame
  dsimp only
  repeat' split
  all_goals first
    | exact Stored.self d
    | exact stored_writeBack _ _ _ _ hl
    | exact (stored_sliceOwn ..).trans (stored_send ..)
    | exact stored_startRecall _ _ _ _ _ hl
    | exact (stored_updSlice ..).trans (stored_farPut ..)

theorem stored_victimPush (d : Dev) (k : Clock) (n : Nat) (f : SLine) (hl : d.latent = []) : Stored d (d.victimPush k n f) := by
  unfold Dev.victimPush
  dsimp only
  split
  · exact stored_setSlice ..
  · split
    · exact stored_setSlice ..
    · split
      · exact stored_dropFrame _ _ _ _ hl
      · exact (stored_setSlice ..).andThen hl fun h => stored_dropFrame _ _ _ _ h

theorem stored_insertFrame (d : Dev) (k : Clock) (n : Nat) (f : SLine) (lru : Bool) (hl : d.latent = []) : Stored d (d.insertFrame k n f lru) := by
  unfold Dev.insertFrame
  dsimp only
  split
  · exact (stored_setSlice ..).andThen hl fun h => stored_victimPush _ _ _ _ h
  · exact stored_setSlice ..

theorem stored_putFrame (d : Dev) (n : Nat) (f : SLine) : Stored d (d.putFrame n f) := by
  unfold Dev.putFrame
  dsimp only
  split <;> exact stored_setSlice ..

theorem stored_sliceFind (d : Dev) (k : Clock) (n line : Nat) (hl : d.latent = []) : Stored d (d.sliceFind k n line).2 := by
  unfold Dev.sliceFind
  dsimp only
  split
  · exact stored_setSlice ..
  · split
    · exact (stored_setSlice ..).andThen hl fun h => stored_insertFrame _ _ _ _ _ h
    · exact Stored.self d

theorem stored_readHbm (d : Dev) (k : Clock) (key berth line : Nat) (w : BitVec 4) (hl : d.latent = []) :
    Stored d (d.readHbm k key berth line w).2.2 := by
  unfold Dev.readHbm
  refine stored_foldl _ (fun d i h => ?_) _ d hl
  split
  · rw [meetBurst_none _ _ _ _ _ h]
    exact stored_bump ..
  · exact Stored.self d

theorem stored_wcbFlush (d : Dev) (k : Clock) (e : Wcb) (hl : d.latent = []) : Stored d (d.wcbFlush k e) := by
  unfold Dev.wcbFlush
  rw [wcbMeet_none _ _ _ _ hl]
  refine stored_foldl _ (fun d i h => ?_) _ d hl
  dsimp only
  split
  · exact Stored.self d
  · refine Stored.andThen h ?_ fun h' => stored_writeBack _ _ _ _ h'
    split
    · exact Stored.self d
    · rw [meetBurst_none _ _ _ _ _ h]
      exact ((stored_bump ..).trans (stored_bump ..)).trans (stored_charge ..)

theorem stored_sliceRead (d : Dev) (k : Clock) (n line berth key mtype mirror : Nat) (want : BitVec 4) (ins : Nat) (hl : d.latent = []) :
    Stored d (d.sliceRead k n line berth key mtype mirror want ins).2 := by
  unfold Dev.sliceRead
  dsimp only
  have h0 := stored_bump d ((if ((d.slice n).unitOf (d.setOfLine line) line).isSome = true then 70 else 71) + 2 * (n / 32)) 1
  generalize d.bump _ 1 = d0 at h0 ⊢
  refine h0.andThen hl fun hl0 => ?_
  rw [sliceMeet_none _ _ _ _ _ _ hl0]
  have h1 := stored_sliceFind d0 k n line hl0
  generalize d0.sliceFind k n line = r at h1 ⊢
  obtain ⟨hit, d1⟩ := r
  have hl1 := h1.latent hl0
  refine h1.trans ?_
  cases hit with
  | some f =>
    dsimp only
    split
    · exact Stored.self _
    · exact (stored_readHbm _ _ (keyId berth key) _ _ _ hl1).trans (stored_putFrame ..)
  | none =>
    have h3 := stored_readHbm d1 k (keyId berth key) berth line want hl1
    generalize d1.readHbm k (keyId berth key) berth line want = r at h3 ⊢
    obtain ⟨data, poison, d3⟩ := r
    dsimp only at h3 ⊢
    have hl3 := h3.latent hl1
    refine h3.trans ?_
    split
    · have h4 : ∀ x e, d3.setSlice n x = e → Stored d3 e := fun x e h => h ▸ stored_setSlice ..
      generalize hd : d3.setSlice n _ = d4
      have h5 := h4 _ _ hd
      rw [wcbMeet_none _ _ _ _ (h5.latent hl3)]
      exact h5.trans (stored_insertFrame _ _ _ _ _ (h5.latent hl3))
    · dsimp only
      split
      · exact Stored.self _
      · exact stored_insertFrame _ _ _ _ _ hl3

/-- A write at a line's slice keeps everything but the caches, HBM, the counters and the mesh. -/
theorem stored_sliceWrite (d : Dev) (k : Clock) (n line berth key mtype mirror : Nat) (mask : BitVec 128) (data : Line) (poison : BitVec 16)
    (hl : d.latent = []) : Stored d (d.sliceWrite k n line berth key mtype mirror mask data poison) := by
  unfold Dev.sliceWrite
  rw [sliceMeet_none _ _ _ _ _ _ hl]
  have h1 := stored_sliceFind d k n line hl
  generalize d.sliceFind k n line = r at h1 ⊢
  obtain ⟨hit, d1⟩ := r
  dsimp only
  refine h1.andThen hl fun h2 => ?_
  cases hit with
  | some f =>
    dsimp only
    split
    · exact stored_putFrame ..
    · refine Stored.trans ?_ (stored_putFrame ..)
      exact (stored_charge ..).andThen h2 fun h3 => stored_sliceRead _ _ _ _ _ _ _ _ _ _ h3
  | none =>
    dsimp only
    split
    · have tail : ∀ r : SLine × Dev, Stored d1 r.2 → Stored d1 (
          let f := { r.1 with data := lineMerge mask data r.1.data, poison := mergePoison mask poison r.1.poison
                              valid := r.1.valid ||| sectorsOf mask, dirty := r.1.dirty ||| sectorsOf mask }
          let sl := r.2.slice n
          match (List.range 16).map (fun w => 16 * r.2.setOfLine line + w) |>.find? fun i => (mget? sl.frames i).any fun g => g.line == line with
          | some i => r.2.setSlice n { sl with frames := mput sl.frames i f }
          | none => r.2.insertFrame k n f false) := by
        intro r h
        dsimp only
        split
        · exact h.trans (stored_setSlice ..)
        · exact h.andThen h2 fun h4 => stored_insertFrame _ _ _ _ _ h4
      refine tail (if sectorsOf mask &&& ~~~wholeSectors mask = 0 then
          ({ SLine.reset with line := line, key := key, berth := berth, mtype := 2 },
            d1.insertFrame k n { SLine.reset with line := line, key := key, berth := berth, mtype := 2 } false)
        else (d1.charge k n berth (sectorCount (sectorsOf mask &&& ~~~wholeSectors mask))).sliceRead k n line berth key mtype mirror
          (sectorsOf mask &&& ~~~wholeSectors mask) 0) ?_
      split
      · exact stored_insertFrame _ _ _ _ _ h2
      · exact (stored_charge ..).andThen h2 fun h3 => stored_sliceRead _ _ _ _ _ _ _ _ _ _ h3
    · repeat' split
      all_goals first
        | exact (stored_setSlice ..).andThen h2 fun h3 => stored_insertFrame _ _ _ _ _ h3
        | exact stored_setSlice ..
        | exact (stored_setSlice ..).andThen h2 fun h3 => stored_wcbFlush _ _ _ h3

/-! ### Lines and the device's own engines -/

theorem stored_frameSectors (d : Dev) (k : Clock) (n line berth key mtype mirror : Nat) (s : BitVec 4) (data : Line) (p : BitVec 16)
    (hl : d.latent = []) : Stored d (d.frameSectors k n line berth key mtype mirror s data p) := by
  unfold Dev.frameSectors
  split
  · exact Stored.self d
  · split
    · exact stored_sliceWrite _ _ _ _ _ _ _ _ _ _ _ hl
    · have h1 := stored_sliceFind d k n line hl
      generalize d.sliceFind k n line = r at h1 ⊢
      obtain ⟨hit, d1⟩ := r
      refine h1.andThen hl fun h2 => ?_
      cases hit with
      | some f => exact stored_putFrame ..
      | none => exact stored_insertFrame _ _ _ _ _ h2

theorem stored_drawLocal (d : Dev) (k : Clock) (n line : Nat) (keep : Bool) (hl : d.latent = []) : Stored d (d.drawLocal k n line keep) := by
  unfold Dev.drawLocal
  refine stored_foldl _ (fun d c h => ?_) _ d hl
  dsimp only
  split
  · exact Stored.self d
  · exact (stored_frameSectors _ _ _ _ _ _ _ _ _ _ _ h).trans (stored_updCore ..)

theorem stored_obtain (d : Dev) (k : Clock) (n line : Nat) (hl : d.latent = []) : Stored d (d.obtain k n line).2 := by
  unfold Dev.obtain
  dsimp only
  split
  · exact Stored.self d
  · split
    · exact Stored.self d
    · split
      · split
        · exact stored_startRecall _ _ _ _ _ hl
        · exact Stored.self d
      · dsimp only
        exact (stored_drawLocal d k n line false hl).trans (stored_updSlice (d.drawLocal k n line false) n _)

/-- A record that the device writes into own HBM changes only the caches, HBM, the counters, the mesh and the taint list. -/
theorem stored_poke (d : Dev) (k : Clock) (berth a : Nat) (bs : List Byte) (hl : d.latent = []) : Stored d (d.poke k berth a bs) := by
  unfold Dev.poke
  refine stored_foldl _ (fun d ln h => ?_) _ d hl
  dsimp only
  exact (stored_obtain _ _ _ _ h).andThen h fun h' => stored_sliceWrite _ _ _ _ _ _ _ _ _ _ _ h'

/-! ### HBM in its canonical form -/

/-- HBM is in its canonical form right after reset. -/
theorem reset_hbm_wf : Memory.wf State.reset.dev.mem.hbm = true := by decide +kernel

/-- HBM written without an error being met keeps its canonical form. -/
theorem poke_keeps_wf (d : Dev) (k : Clock) (berth a : Nat) (bs : List Byte) (hl : d.latent = []) (h : Memory.wf d.mem.hbm = true) :
    Memory.wf (d.poke k berth a bs).mem.hbm = true := (stored_poke d k berth a bs hl).wf h

/-- Writing a sector keeps HBM in its canonical form, whatever the sector and its mask. -/
theorem writeSector_keeps_wf (d : Dev) (key sec : Nat) (mask : BitVec 32) (v : Nat) (p : Bool) (h : Memory.wf d.mem.hbm = true) :
    Memory.wf (d.writeSector key sec mask v p).mem.hbm = true := (stored_writeSector d key sec mask v p).wf h

end Sys2Proof.Machine
end

