-- ==== Sys2Proof/Laws/Vector.lean ====
section
/-! SUPPORT. What a vector instruction does (Vector.lean), said once: its result by lane or by element, its frame, its completion. -/

namespace Sys2Proof.Machine

/-- Writing a list of registers above `d` in one lane: another register or lane is not seen. -/
theorem row_other (d t : Nat) (v : Nat → W32) (hd : d + 32 ≤ 255) (ht : t < 32) (r l : Nat) (hl : l < 32) (js : List Nat)
    (hj : ∀ j ∈ js, j < 32) (h : (∀ j ∈ js, r ≠ d + j) ∨ l ≠ t) (g : Group) :
    (js.foldl (fun h j => h.setReg (d + j) t (v j)) g).reg r l = g.reg r l := by
  induction js generalizing g with
  | nil => rfl
  | cons a u ih =>
    have ha := hj a (List.mem_cons_self ..)
    have hu : isU (d + a) = false := by
      simp only [isU, Bool.and_eq_false_iff, decide_eq_false_iff_not]; omega
    rw [List.foldl_cons, ih (fun j hm => hj j (List.mem_cons_of_mem _ hm))
      (h.imp (fun h j hm => h j (List.mem_cons_of_mem _ hm)) id)]
    apply reg_setReg_other _ _ _ _ _ _ ht hl
    rcases h with h | h
    · exact .inl (h a (List.mem_cons_self ..))
    · exact .inr ⟨hu, h⟩

theorem row_same (d t : Nat) (v : Nat → W32) (hd : d + 32 ≤ 255) (ht : t < 32) (j : Nat) (js : List Nat) (hj : ∀ j ∈ js, j < 32)
    (hm : j ∈ js) (hn : js.Nodup) (g : Group) : (js.foldl (fun h j => h.setReg (d + j) t (v j)) g).reg (d + j) t = v j := by
  induction js generalizing g with
  | nil => cases hm
  | cons a u ih =>
    have hn' := List.nodup_cons.mp hn
    rw [List.foldl_cons]
    rcases List.mem_cons.mp hm with rfl | hm
    · rw [row_other d t v hd ht _ _ ht u (fun x hx => hj x (List.mem_cons_of_mem _ hx))
        (.inl fun x hx e => hn'.1 (by have : x = j := by omega
                                      exact this ▸ hx))]
      apply reg_setReg_same
      left
      have := hj j (List.mem_cons_self ..)
      simp only [isV, decide_eq_true_eq]; omega
    · exact ih (fun x hx => hj x (List.mem_cons_of_mem _ hx)) hm hn'.2 _

/-- What the tile form leaves in the registers (R189). -/
theorem putTile_wrote (g : Group) (f : InsF) (op : Nat → Nat → Nat → Nat) (hd : f.d + 32 ≤ 255) : TileWrote g (putTile g f op) f op := by
  have hr : ∀ j ∈ List.range 32, j < 32 := fun j h => List.mem_range.mp h
  have hl : ∀ a ∈ lanesOf (g.acting f), a < 32 := fun a ha => ((lanesOf_mem _ _).mp ha).1
  unfold putTile
  generalize hv : (fun t j => BitVec.ofNat 32 (op (tileElem g f.a false t j)
      (if f.wide then f.ext.toNat % 2 ^ 32 else tileElem g f.b (f.bits 59 59 == 1) t j)
      (tileElem g f.c (f.bits 60 60 == 1) t j))) = v
  have hrow : ∀ t j, BitVec.ofNat 32 (op (tileElem g f.a false t j)
      (if f.wide then f.ext.toNat % 2 ^ 32 else tileElem g f.b (f.bits 59 59 == 1) t j)
      (tileElem g f.c (f.bits 60 60 == 1) t j)) = v t j := fun t j => by rw [← hv]
  simp only [hrow]
  refine ⟨fun t j ht hj ha => ?_, fun r l h32 hc => ?_⟩
  · rw [hrow]
    obtain ⟨as, bs, he, h1, h2, h3⟩ := foldl_lanes_split
      (fun h t => (List.range 32).foldl (fun h j => h.setReg (f.d + j) t (v t j)) h) (lanesOf (g.acting f))
      (lanesOf_nodup _) t ((lanesOf_mem _ _).mpr ⟨ht, ha⟩) g
    have hb : ∀ a ∈ bs, a < 32 := fun a hx => hl a (he ▸ List.mem_append_right _ (List.mem_cons_of_mem _ hx))
    rw [h3, foldl_lanes_reg _ _ _ (fun h a ha' hne => row_other f.d a (v a) hd ha' _ _ ht _ hr (.inr hne) h) bs hb h2]
    exact row_same f.d t (v t) hd ht j _ hr (List.mem_range.mpr hj) List.nodup_range _
  · by_cases hreg : f.d ≤ r ∧ r < f.d + 32
    · have hna : (g.acting f).getLsbD l = false := by
        rcases hc with hc | hc | hc
        · omega
        · omega
        · exact hc
      exact foldl_lanes_reg _ _ _ (fun h a ha' hne => row_other f.d a (v a) hd ha' _ _ h32 _ hr (.inr hne) h) _ hl
        (fun hm => by simp [((lanesOf_mem _ _).mp hm).2] at hna) g
    · have : ∀ (ls : List Nat) (h : Group), (∀ a ∈ ls, a < 32) →
          (ls.foldl (fun h t => (List.range 32).foldl (fun h j => h.setReg (f.d + j) t (v t j)) h) h).reg r l = h.reg r l := by
        intro ls
        induction ls with
        | nil => intro _ _; rfl
        | cons a u ih =>
          intro h hb
          rw [List.foldl_cons, ih _ fun x hx => hb x (List.mem_cons_of_mem _ hx),
            row_other f.d a (v a) hd (hb a (List.mem_cons_self ..)) r l h32 _ hr (.inl fun j hj e => hreg (by have := hr j hj; omega))]
      exact this _ _ hl

/-- An instruction on its own group whose effect changes registers only. -/
theorem issueGroup_moves {s : State} {c gs : Nat} {f : InsF} {sh : Shape} (h : Presents s c gs f sh) (hg : gs < 64)
    (eff : Group → Group) (hr : RegsOnly (s.dev.group c gs) (eff (s.dev.group c gs))) :
    ∃ t, onMem s (fun d => issueGroup s.clk c gs f sh eff d) = .next t ∧ GroupFrame s c gs t ∧
      Moved (s.dev.group c gs) (t.dev.group c gs) f ∧ t.dev.group c gs = (eff (s.dev.group c gs)).advance f.len := by
  obtain ⟨t, h1, h2, h3⟩ := issueGroup_presents h hg eff
  exact ⟨t, h1, h2, by rw [h3]; exact moved_of_regsOnly f hr, h3⟩

theorem wrote_advance {g g' : Group} {f : InsF} {n : Nat} {val : Nat → Nat} (h : Wrote g g' f n val) (len : Nat) :
    Wrote g (g'.advance len) f n val := ⟨h.uniform, h.perLane, h.predicate, h.others⟩

theorem tileWrote_advance {g g' : Group} {f : InsF} {op : Nat → Nat → Nat → Nat} (h : TileWrote g g' f op) (len : Nat) :
    TileWrote g (g'.advance len) f op := ⟨h.element, h.others⟩

/-- A vector instruction completes whenever its group presents it: its result by lane or by element, and its frame. -/
theorem vecIns_completes (c : Fin 512) (gs : Fin 64) (f : InsF) (s : State) (types : List Nat) (allow uses : Nat)
    (tile wide cPred bOne dOne more : Bool) (op : Nat → Nat → Nat → Nat) (hr : s.dev.rOf c gs ≤ 255)
    (h : Presents s c gs f (vecShape (s.dev.rOf c gs) f types allow uses tile wide cPred bOne dOne more)) :
    ∃ t, vecIns c gs f types allow uses tile wide cPred bOne dOne more op s = .next t ∧ GroupFrame s c gs t ∧
      Moved (s.dev.group c gs) (t.dev.group c gs) f ∧
      (tiled tile f = true → TileWrote (s.dev.group c gs) (t.dev.group c gs) f op) ∧
      (tiled tile f = false → Wrote (s.dev.group c gs) (t.dev.group c gs) f (if dOne || !is64 f.ty then 1 else 2)
        (laneEval (s.dev.group c gs) f (if is64 f.ty then 2 else 1) (if bOne || !is64 f.ty then 1 else 2) op)) := by
  have hregs : RegsOnly (s.dev.group c gs) (vecEffect (s.dev.group c gs) f tile bOne dOne op) := by
    unfold vecEffect
    dsimp only
    split
    · exact putTile_regsOnly ..
    · exact putResult_regsOnly ..
  obtain ⟨t, h1, h2, h3, h4⟩ := issueGroup_moves h gs.isLt (fun g => vecEffect g f tile bOne dOne op) hregs
  have hw := h.word
  simp only [Shape.ok, vecShape, Bool.and_eq_true] at hw
  refine ⟨t, h1, h2, h3, fun ht => ?_, fun ht => ?_⟩
  · rw [h4]
    apply tileWrote_advance
    unfold vecEffect
    dsimp only
    rw [if_pos ht]
    apply putTile_wrote
    simp only [ht, if_true, Bool.and_eq_true, decide_eq_true_eq] at hw
    omega
  · rw [h4]
    apply wrote_advance
    unfold vecEffect
    dsimp only
    simp only [ht, Bool.false_eq_true, if_false]
    have hb : (if bOne = true then 1 else if is64 f.ty = true then 2 else 1) = (if (bOne || !is64 f.ty) = true then 1 else 2) := by
      cases bOne <;> cases is64 f.ty <;> rfl
    have hdn : (if dOne = true then 1 else if is64 f.ty = true then 2 else 1) = (if (dOne || !is64 f.ty) = true then 1 else 2) := by
      cases dOne <;> cases is64 f.ty <;> rfl
    rw [hb, hdn]
    apply putResult_wrote _ _ _ (s.dev.rOf c gs) _ hr
    · cases dOne <;> cases is64 f.ty <;> simp
    · rw [← hdn]
      simp only [ht, Bool.false_eq_true, if_false, Bool.and_eq_true] at hw
      exact hw.1.1.1.2.1.1.1.1.2

end Sys2Proof.Machine
end

