-- ==== Sys2Proof/WellFormed.lean ====
section
/-! DEFINITION. Which commands are well formed: every field of an operand lies within the width that the spec gives it, and a
message row carries a message of its own kind. A command's meaning is total all the same: it does not rest on this check. -/

namespace Sys2Proof

/-- A narrow word has no second word (R82, R83). -/
def InsF.wf (f : InsF) : Bool := f.wide || decide (f.ext = 0)

/-- Bit [18] of a word, which tells BRX.ANY from BRX (R81). -/
def anyBit (f : InsF) : Nat := f.body.toNat / 16 % 2

/-- The fields of a packet lie within the widths of R304 to R306. -/
def Packet.wf (p : Packet) : Bool :=
  decide (p.dst < 4096 ∧ p.src < 4096 ∧ p.agent < 1024 ∧ p.tgt < 1024 ∧ p.entry < 1024 ∧ p.gen < 16 ∧ p.line < 2 ^ 50)
  && decide (p.epoch < 8 ∧ p.berth < 32 ∧ p.key < 32 ∧ p.mtype < 4 ∧ p.mirror < 256 ∧ p.ctx < 4096)
  && decide (1 ≤ p.lines ∧ p.lines ≤ 8 ∧ p.off < 2 ^ 32 ∧ p.cnt ≤ 1024 ∧ p.rtype < 4)
  && decide (p.aop < 8 ∧ p.aty < 8 ∧ p.lanes ≤ 32 ∧ p.grant < 4 ∧ p.acks < 8192 ∧ p.reason < 256)
  && decide (p.reqDev < 4096 ∧ p.ackDev < 4096 ∧ p.ackTag < 2 ^ 24 ∧ p.who < 4096 ∧ p.no < 256 ∧ p.boot < 2 ^ 28)
  && decide (p.data.length ≤ 128) && p.poison.all (fun w => decide (w < 128))

/-- The fields of a flit lie within the widths of R300. -/
def FlitIn.wf (f : FlitIn) : Bool :=
  let credit : Option (Nat × Bool × Nat) → Bool := fun c => c.all fun x => decide (x.1 < 8 ∧ x.2.2 < 256)
  decide (f.seq < 4096 ∧ f.ackSeq < 4096 ∧ f.kind < 4) && credit f.cr0 && credit f.cr1 && f.pkts.all Packet.wf

/-- The fields of an op header lie within the widths of R336. -/
def OpHdr.wf (o : OpHdr) : Bool :=
  decide (o.op < 256 ∧ o.status < 256 ∧ o.berth < 256 ∧ o.device < 65536 ∧ o.obj < 65536 ∧ o.form < 256 ∧ o.addr < 2 ^ 64 ∧ o.bytes < 2 ^ 32 ∧ o.pmap < 2 ^ 32)

/-- The fields of an event entry lie within the widths of R350. -/
def EventEntry.wf (e : EventEntry) : Bool := decide (e.dev < 65536 ∧ e.berth < 256 ∧ e.ring < 256 ∧ e.index < 2 ^ 32)

/-- The fields of an Olvis-E packet lie within the widths of R335, and its data within the 8,192 bytes of R337. -/
def HostPkt.wf (k : HostPkt) : Bool :=
  decide (k.typ < 256 ∧ k.session < 65536 ∧ k.seq < 2 ^ 64 ∧ k.rseq < 2 ^ 32 ∧ k.ack < 2 ^ 32 ∧ k.port < 18 ∧ k.sport < 65536)
  && decide (k.reason < 256 ∧ k.data.length ≤ 8192 ∧ k.limit ≤ 8192) && k.poison.all (fun w => decide (w < 1024))
  && k.op.wf && k.events.all EventEntry.wf && decide (k.events.length ≤ 113)

/-- An Ethernet frame's length is at most 9,216 bytes (R333). -/
def Frame.wf (f : Frame) : Bool :=
  decide (f.len ≤ 9216 ∧ f.udp < 65536) && f.vlan.all (fun v => decide (v < 4096)) && f.pkt.all HostPkt.wf

/-- A reading names a power domain, each once (R455). -/
def GaugeIn.wf (g : GaugeIn) : Bool := g.meas.all (fun m => decide (m.domain < 64)) && decide ((g.meas.map Meas.domain).Nodup)

/-- An outcome names a stack (R225). -/
def StackIn.wf (r : StackIn) : Bool := decide (r.stack < 8) && r.eyes.all fun e => decide (e.1 < 16)

/-- A reading names a rail (R454). -/
def RailIn.wf (r : RailIn) : Bool := decide (r.rail < 11)

/-- Increments are given for the activity words (R488). -/
def SampleIn.wf (x : SampleIn) : Bool :=
  x.words.all (fun w => decide (160 ≤ w.1 ∧ w.1 ≤ 191)) && decide (x.dies.length ≤ 4 ∧ x.stackTemps.length ≤ 8)

/-- What a boot meets names stacks and domains that exist. -/
def BootIn.wf (b : BootIn) : Bool :=
  b.stks.all StackIn.wf && b.gauges.wf && decide ((b.stks.map StackIn.stack).Nodup)

/-- The fields of a manifest lie within the widths that its records give them (R430, R432). -/
def Manifest.wf (m : Manifest) : Bool :=
  decide (m.device < 4096 ∧ m.reach < 256 ∧ m.serial < 2 ^ 64 ∧ m.timeRoot < 4096)
  && m.peers.all (fun p => decide (p.port < 18 ∧ p.dev < 4096 ∧ p.nport < 18))
  && m.nets.all (fun n => decide (n.port < 18 ∧ n.udp < 65536))
  && m.berths.all (fun b => decide (b.berth < 32))

/-- A well-formed command; one whose operands are bounded by their types alone always is. -/
def Instr.wf : Instr → Bool
  | .nop _ _ f | .mov _ _ f | .iadd _ _ f | .isub _ _ f | .imul _ _ f | .imad _ _ f => f.wf
  | .imin _ _ f | .imax _ _ f | .and _ _ f | .or _ _ f | .xor _ _ f | .not _ _ f => f.wf
  | .shl _ _ f | .shr _ _ f | .popc _ _ f | .clz _ _ f | .sel _ _ f | .setp _ _ f => f.wf
  | .plop _ _ f | .shfl _ _ f | .vote _ _ f | .rdsv _ _ f | .fadd _ _ f | .fsub _ _ f => f.wf
  | .fmul _ _ f | .ffma _ _ f | .fmin _ _ f | .fmax _ _ f | .exp2 _ _ f | .log2 _ _ f => f.wf
  | .rsqrt _ _ f | .rcp _ _ f | .cvt _ _ f | .cvtAmax _ _ f | .bra _ _ f | .pushm _ _ f => f.wf
  | .popm _ _ f | .swapm _ _ f | .call _ _ f | .ret _ _ f | .bri _ _ f | .exit _ _ f => f.wf
  | .bar _ _ f | .ld _ _ f | .st _ _ f | .ldl _ _ f | .stl _ _ f | .cflush _ _ f => f.wf
  | .cinv _ _ f | .mfence _ _ f | .acq _ _ f | .rel _ _ f | .atomAdd _ _ f | .atomMin _ _ f => f.wf
  | .atomMax _ _ f | .atomAnd _ _ f | .atomOr _ _ f | .atomXor _ _ f | .atomExch _ _ f | .atomCas _ _ f => f.wf
  | .atomlAdd _ _ f | .atomlMin _ _ f | .atomlMax _ _ f | .atomlAnd _ _ f | .atomlOr _ _ f | .atomlXor _ _ f => f.wf
  | .atomlExch _ _ f | .atomlCas _ _ f | .mxzero _ _ f | .mxstream _ _ f | .mxdiag _ _ f | .mxdrain _ _ f => f.wf
  | .mxwait _ _ f | .bwdot _ _ f => f.wf
  | .brx _ _ f => f.wf && decide (anyBit f = 0)
  | .brxAny _ _ f => f.wf && decide (anyBit f = 1)
  | .getS p => decide (p.op = .getS) && p.wf
  | .getM p => decide (p.op = .getM) && p.wf
  | .putS p => decide (p.op = .putS) && p.wf
  | .putE p => decide (p.op = .putE) && p.wf
  | .putO p => decide (p.op = .putO) && p.wf
  | .putM p => decide (p.op = .putM) && p.wf
  | .atomF p => decide (p.op = .atomF) && p.wf
  | .readU p => decide (p.op = .readU) && p.wf
  | .writeU p => decide (p.op = .writeU) && p.wf
  | .fwdGetS p => decide (p.op = .fwdGetS) && p.wf
  | .fwdGetM p => decide (p.op = .fwdGetM) && p.wf
  | .inv p => decide (p.op = .inv) && p.wf
  | .recall p => decide (p.op = .recall) && p.wf
  | .evictAck p => decide (p.op = .evictAck) && p.wf
  | .data p => decide (p.op = .data) && p.wf
  | .grant p => decide (p.op = .grant) && p.wf
  | .invAck p => decide (p.op = .invAck) && p.wf
  | .recallData p => decide (p.op = .recallData) && p.wf
  | .recallAck p => decide (p.op = .recallAck) && p.wf
  | .atomResp p => decide (p.op = .atomResp) && p.wf
  | .readData p => decide (p.op = .readData) && p.wf
  | .writeAck p => decide (p.op = .writeAck) && p.wf
  | .mirrorRepair _ line => decide (line < 2 ^ 50)
  | .wcbEntryTimeout _ line => decide (line < 2 ^ 50)
  | .walkComplete agent who => decide (agent < 704 ∧ who < 4096)
  | .bulkRead p => decide (p.op = .bulkRead) && p.wf
  | .bulkWrite p => decide (p.op = .bulkWrite) && p.wf
  | .bulkReduce p => decide (p.op = .bulkReduce) && p.wf
  | .routeMark p => decide (p.op = .routeMark) && p.wf
  | .markAck p => decide (p.op = .markAck) && p.wf
  | .errorResp p => decide (p.op = .errorResp) && p.wf
  | .heldRetry p => decide (p.op = .heldRetry) && p.wf
  | .coreHeldRetry _ e => decide (e < 1024)
  | .mgmtRead p => decide (p.op = .mgmtRead) && p.wf
  | .mgmtWrite p => decide (p.op = .mgmtWrite) && p.wf
  | .mgmtResp p => decide (p.op = .mgmtResp) && p.wf
  | .peerDown p => decide (p.op = .peerDown) && p.wf
  | .peerUp p => decide (p.op = .peerUp) && p.wf
  | .timeOffset p => decide (p.op = .timeOffset) && p.wf
  | .ping p => decide (p.op = .ping) && p.wf
  | .packetForward p => p.wf
  | .flitReceive _ f => f.wf
  | .ethernetFrame _ f => f.wf
  | .join k => decide (k.typ = 0x02) && k.wf
  | .joinAccept k => decide (k.typ = 0x03) && k.wf
  | .joinReject k => decide (k.typ = 0x04) && k.wf
  | .joinConfirm k => decide (k.typ = 0x05) && k.wf
  | .regRead k => decide (k.typ = 0x10 ∧ k.op.op = 1) && k.wf
  | .regWrite k => decide (k.typ = 0x10 ∧ k.op.op = 2) && k.wf
  | .memRead k => decide (k.typ = 0x10 ∧ k.op.op = 3) && k.wf
  | .memWrite k => decide (k.typ = 0x10 ∧ k.op.op = 4) && k.wf
  | .doorbell k => decide (k.typ = 0x10 ∧ k.op.op = 5) && k.wf
  | .windowOpen k => decide (k.typ = 0x10 ∧ k.op.op = 8) && k.wf
  | .windowClose k => decide (k.typ = 0x10 ∧ k.op.op = 9) && k.wf
  | .subscribe k => decide (k.typ = 0x10 ∧ k.op.op = 10) && k.wf
  | .unsubscribe k => decide (k.typ = 0x10 ∧ k.op.op = 11) && k.wf
  | .resp k => decide (k.typ = 0x11) && k.wf
  | .ack k => decide (k.typ = 0x13) && k.wf
  | .heartbeat k => decide (k.typ = 0x14) && k.wf
  | .leave k => decide (k.typ = 0x15) && k.wf
  | .coldStart b => b.wf
  | .warmReset b => b.wf
  | .maintenanceExit b => b.wf
  | .marginStacks r => r.all StackIn.wf && decide ((r.map StackIn.stack).Nodup)
  | .manifestUpdate m _ => m.wf
  | .gaugeMeasurement g => g.wf
  | .railTelemetryRead r => r.all RailIn.wf && decide ((r.map RailIn.rail).Nodup)
  | .counterSample x => x.wf
  | _ => true

end Sys2Proof
end

