-- ==== Sys2Proof/Tests/Slice0.lean ====
section
/-! SUPPORT. Tests: ill-formed commands that WellFormed refuses, single steps on small states whose results the spec gives, and for each
statement with hypotheses a state and operands that meet them. -/

open Sys2Proof Sys2Proof.Machine

namespace Sys2Proof.Tests

set_option Elab.async false

/-! ### Small states -/

/-- A word of the Reg, Imm or Matrix class from its D, A, B and C fields and its bits [63:50] (R81). -/
def word (d a b c mods : Nat) : InsF := { InsF.reset with body := BitVec.ofNat 50 (d + 2 ^ 9 * a + 2 ^ 18 * b + 2 ^ 27 * c + 2 ^ 36 * mods) }

/-- A range of type `t` that maps 1 GiB of addresses from 0 to the start of device `dev`'s HBM with every permission (R259). -/
def range (t dev : Nat) : BitVec 256 :=
  BitVec.ofNat 256 (2 ^ 44 * 0xF + 2 ^ 48 * t + 2 ^ 64 * 0x3FFFF + 2 ^ 140 * (2 ^ 33 * dev))

/-- A running group of 32 lanes at address 0x1000. -/
def grp : Group := { Group.reset with st := .running, active := 0xFFFFFFFF#32, live := 0xFFFFFFFF#32, pc := 0x1000#64 }

/-- A started block with `r` registers a thread and 16 units of local memory. -/
def blk (r : Nat) : Block := { Block.reset with started := true, r := r, lmUnits := 16, units := List.range 16 }

/-- A core with one group, whose context's range is in its cache. -/
def oneGroup (g : Group) (r : Nat) (e : BitVec 256) : Core :=
  { Core.reset with
    groups := [(0, g)]
    blocks := [(0, blk r)]
    xlat := [{ ctx := 0, entry := e }]
    icache := [{ line := 2, ctx := 0, poison := 0 }, { line := 32, ctx := 0, poison := 0 }, { line := 2 ^ 38 + 32, ctx := 0, poison := 0 }] }

/-- The device with one core changed. -/
def withCore (k : Core) : State := { State.reset with dev := { State.reset.dev with cores := [(0, k)] } }

/-- A state with one running group that has 64 registers a thread. -/
def one (g : Group) : State := withCore (oneGroup g 64 (range 0 0))

/-- The device after a boot, with one Live berth and context. -/
def booted : Dev :=
  { State.reset.dev with
    lkp := { State.reset.dev.lkp with st := .ready }
    ctl := { State.reset.dev.ctl with
      berths := [(0, { State.reset.dev.berth 0 with st := .live })], ctxs := [(0, { State.reset.dev.ctx 0 with st := .live })] } }

/-- The state with that device changed. -/
def after (f : Dev → Dev) : State := { State.reset with dev := f booted }

/-- A state whose berth 0 has a full fault queue and a parked group of core 1 whose record waits. -/
def crowded (g : Group) : State :=
  { State.reset with dev := { State.reset.dev with
      cores := [(0, oneGroup g 64 (range 0 0)),
                (1, oneGroup { grp with st := .parked, park := some { ParkInfo.reset with pend := true } } 64 (range 0 0))]
      ctl := { State.reset.dev.ctl with berths := [(0, { State.reset.dev.berth 0 with fqSize := 0, fqProd := 1 })] } } }

/-- A group whose register pair v2, v3 of every lane addresses the same word. -/
def sharer (lanes : BitVec 32) : Group := { grp with active := lanes, live := lanes, v := (List.range 32).map fun l => (32 * 2 + l, 0x20008#32) }

/-- The line at 0x20000 as the L1 holds it: M, with word i holding i + 1. -/
def cached : L1Line :=
  { L1Line.reset with line := 1024, st := .m, data := (List.range 32).foldl (fun l i => lineSet l (4 * i) 4 (i + 1)) 0 }

/-- A group reads its instruction when what is checked can be evaluated to true. -/
theorem ready_of {s : State} {c gs : Nat} (e : BitVec 256) (ga : Nat) (l : ICLine)
    (h : (s.dev.notices = [] ∧ s.dev.fatalPend = [] ∧ s.dev.healthDue = []) ∧ s.dev.mayPresent c gs = true ∧ (s.dev.stuckOp c gs).isNone = true ∧
      (s.dev.coreXlate c gs (s.dev.group c gs).pc.toNat 4 = .ok e ga ∧ (takeLatent 5 c (gaLine ga) s.dev).1 = none ∧
        (s.dev.core c).icFind (gaLine ga) ((s.dev.core c).blockOf gs).ctx = some l ∧ l.poison.getLsbD (ga % 128 / 8) = false) ∧
      (takeLatent 4 c gs s.dev).1 = none) : Ready s c gs :=
  { calm := h.1, ready := h.2.1, clean := Option.isNone_iff_eq_none.mp h.2.2.1
    fetched := ⟨e, ga, l, h.2.2.2.1⟩, sound := h.2.2.2.2 }

/-- The instruction line of the small states, free of poison. -/
def codeLine : ICLine := { line := 32, ctx := 0, poison := 0 }

/-- A group that reads its instruction presents a word of one part that passes its checks. -/
theorem presents_of {s : State} {c gs : Nat} {f : InsF} {sh : Shape} (h : Ready s c gs) (k : f.wide = false ∧ sh.ok f = true ∧
    (sh.regs ++ guardRegs f).any (fun x => (s.dev.group c gs).await.contains x) = false) : Presents s c gs f sh :=
  { h with second := fun hw => absurd (k.1.symm.trans hw) (by decide), word := k.2.1, waits := k.2.2 }

/-- The group of `one g` presents any such word, whatever its registers. -/
theorem one_presents (g : Group) (f : InsF) (sh : Shape) (h : Ready (one g) 0 0) (k : f.wide = false ∧ sh.ok f = true ∧
    (sh.regs ++ guardRegs f).any (fun x => ((one g).dev.group 0 0).await.contains x) = false) : Presents (one g) 0 0 f sh :=
  presents_of h k

/-- The plain group is ready. -/
theorem one_ready : Ready (one grp) 0 0 := ready_of (range 0 0) 0x1000 codeLine (by decide +kernel)

/-! ### Vector instructions -/

/-- What VecCompletes assumes, for a word of the plain group. -/
def VecMeets (f : InsF) (types : List Nat) (allow uses : Nat) (tile wide cPred bOne dOne : Bool) (more : InsF → Bool) : Prop :=
  (one grp).dev.rOf 0 0 ≤ 255 ∧
    Presents (one grp) 0 0 f (vecShape ((one grp).dev.rOf 0 0) f types allow uses tile wide cPred bOne dOne (more f))

theorem vec_meets (f : InsF) (types : List Nat) (allow uses : Nat) (tile wide cPred bOne dOne : Bool) (more : InsF → Bool)
    (h : f.wide = false ∧ (vecShape 64 f types allow uses tile wide cPred bOne dOne (more f)).ok f = true) :
    VecMeets f types allow uses tile wide cPred bOne dOne more :=
  ⟨by decide +kernel, one_presents grp f _ one_ready ⟨h.1, h.2, by
    rw [List.any_eq_false]
    intro x _
    exact Bool.false_ne_true⟩⟩

theorem witness_integerResults :
    VecMeets (word 0 2 4 0xFF 0) intTypes 0b000111100 2 true true false false false satOk ∧
    VecMeets (word 0 32 0xFF 0xFF 0x100) intTypes 0b000111100 2 true true false false false satOk ∧
    VecMeets (word 0 2 4 0xFF 2) intTypes 0b000111100 2 true true false false false satOk ∧
    VecMeets (word 0 2 4 0xFF 0) [0, 1] 0b000111100 2 true true false false false (fun _ => true) ∧
    VecMeets (word 0x101 0x102 0x103 0x104 1) [0, 1] 0b000111100 3 true true false false false (fun _ => true) ∧
    VecMeets (word 0 2 4 0xFF 2) intTypes 0b000111000 2 true true false false false (fun _ => true) ∧
    VecMeets (word 0 2 0xFF 0xFF 0) intTypes 0b000001000 1 true false false false false (fun _ => true) ∧
    VecMeets (word 0 2 5 0xFF 2) intTypes 0b000111000 2 true true false true false (fun _ => true) ∧
    VecMeets (word 1 2 0xFF 0xFF 2) [0, 2] 0 1 false false false false true (fun _ => true) ∧
    VecMeets (word 0xFF 0xFF 0xFF 0xFF 0) intTypes 0b000111100 2 true true false false false satOk := by
  refine ⟨?_, ?_, ?_, ?_, ?_, ?_, ?_, ?_, ?_, ?_⟩ <;> exact vec_meets _ _ _ _ _ _ _ _ _ _ (by decide +kernel)

theorem witness_selectsAndPredicates :
    VecMeets (word 0 2 4 0x140 0) [0, 1, 4, 5, 6] 0b000011000 3 true true true false false (fun _ => true) ∧
    VecMeets (word 0x141 2 4 0xFF (4 + 2 ^ 9 * 7)) [0, 1, 2, 3, 4] 0b011110000 2 false true false false true
      (fun f => isP f.d && decide (f.bits 62 59 < (if f.ty = 4 then 8 else 6))) ∧
    VecMeets (word 0x140 0x141 0x142 0x143 (2 ^ 5 * 0x96)) [0] 0b011111111 3 false false false false false (fun f => isP f.d) := by
  refine ⟨?_, ?_, ?_⟩ <;> exact vec_meets _ _ _ _ _ _ _ _ _ _ (by decide +kernel)

theorem witness_movesAndLaneExchange :
    (one grp).dev.rOf 0 0 ≤ 255 ∧ Presents (one grp) 0 0 (word 2 0xFF 0x1FF 0x1FF 2) (movShape ((one grp).dev.rOf 0 0) (word 2 0xFF 0x1FF 0x1FF 2)) ∧
    VecMeets (word 0 2 4 0xFF (2 ^ 9)) [0] 0b000110000 2 false false false false false (fun _ => true) ∧
    Presents (one grp) 0 0 (word 0x101 0x141 0xFF 0xFF (2 ^ 10)) (voteShape (word 0x101 0x141 0xFF 0xFF (2 ^ 10))) ∧
    Presents (one grp) 0 0 (word 0xFF 0xFF 0xFF 0xFF 0) (nopShape (word 0xFF 0xFF 0xFF 0xFF 0)) :=
  ⟨by decide +kernel, one_presents _ _ _ one_ready (by decide +kernel), vec_meets _ _ _ _ _ _ _ _ _ _ (by decide +kernel),
    one_presents _ _ _ one_ready (by decide +kernel), one_presents _ _ _ one_ready (by decide +kernel)⟩

/-- A special index in imm18. -/
def special (d a idx : Nat) : InsF := word d a idx 0 0

theorem witness_specialValues :
    (one grp).dev.rOf 0 0 ≤ 255 ∧
    (∀ idx < 0x0D, Presents (one grp) 0 0 (special 2 0xFF idx) (rdsvShape ((one grp).dev.rOf 0 0) (special 2 0xFF idx)) ∧
      (special 2 0xFF idx).imm18 % 256 = idx) ∧
    Presents (one grp) 0 0 (special 2 4 0x0D) (rdsvShape ((one grp).dev.rOf 0 0) (special 2 4 0x0D)) ∧
    (blk 64).units[(grp.reg 4 0).toNat]? = some 0 ∧
    (blk 64).units[(({ grp with v := [(32 * 4, 16)] } : Group).reg 4 0).toNat]? = none := by
  refine ⟨by decide +kernel, fun idx h => ⟨?_, ?_⟩, ?_, by decide +kernel, by decide +kernel⟩
  · refine one_presents _ _ _ one_ready ?_
    revert idx; decide +kernel
  · revert idx; decide +kernel
  · exact one_presents _ _ _ one_ready (by decide +kernel)

theorem witness_floatResults :
    VecMeets (word 0 2 4 0xFF 4) [4, 5, 6] 0b000111011 2 true true false false false (fun f => decide (f.bits 56 55 ≤ 1)) ∧
    VecMeets (word 0 2 4 0xFF (5 + 2 ^ 5)) [4, 5, 6] 0b000111011 2 true true false false false (fun f => decide (f.bits 56 55 ≤ 1)) ∧
    VecMeets (word 0 2 4 6 6) [4, 5, 6] 0b000111011 3 true true false false false (fun f => decide (f.bits 56 55 ≤ 1)) ∧
    VecMeets (word 0 2 4 0xFF 4) [4, 5, 6] 0b000111000 2 true true false false false (fun _ => true) ∧
    VecMeets (word 0 2 0xFF 0xFF 4) [4, 5] 0b000001000 1 true false false false false (fun _ => true) := by
  refine ⟨?_, ?_, ?_, ?_, ?_⟩ <;> exact vec_meets _ _ _ _ _ _ _ _ _ _ (by decide +kernel)

theorem witness_conversions :
    (one grp).dev.rOf 0 0 ≤ 255 ∧
    Presents (one grp) 0 0 (word 0 2 0 0 (0x16 + 2 ^ 5 * 4)) (cvtShape ((one grp).dev.rOf 0 0) (word 0 2 0 0 (0x16 + 2 ^ 5 * 4))) ∧
    Presents (one grp) 0 0 (word 0 2 4 0x101 (0x10 + 2 ^ 5 * 4)) (cvtAmaxShape ((one grp).dev.rOf 0 0) (word 0 2 4 0x101 (0x10 + 2 ^ 5 * 4))) ∧
    isV (word 0 2 4 0x101 (0x10 + 2 ^ 5 * 4)).d = true :=
  ⟨by decide +kernel, one_presents _ _ _ one_ready (by decide +kernel),
    one_presents _ _ _ one_ready (by decide +kernel), by decide +kernel⟩

/-! ### Control -/

/-- A branch word: bits [18:14] and the offset in instructions. -/
def bra (pred off : Nat) : InsF := { InsF.reset with body := BitVec.ofNat 50 (pred + 2 ^ 6 * off) }

/-- A group of 8 active lanes with a mask stack and the lanes that predicate p1 takes. -/
def branching (act : BitVec 32) (st : List MaskEntry) (p1 : BitVec 32) : Group := { grp with active := act, p := [(1, p1)], stack := st }

/-- The words of the branches and of the mask stack. -/
def plainBra : InsF := bra 0 4
def predBra : InsF := bra 1 4
def bare : InsF := word 0xFF 0xFF 0xFF 0xFF 0
def viaPair : InsF := word 0xFF 0x102 0xFF 0xFF 0

/-- The entries of the tests: deferred lanes of the next instruction, the same with no lane left, a join. -/
def mateEntry : MaskEntry := { kind := .deferred, mask := 0xFF00#32, addr := 0x1008 }
def emptyEntry : MaskEntry := { kind := .deferred, mask := 0#32, addr := 0x1008 }
def joinEntry : MaskEntry := { kind := .reconverge, mask := 0xFFFF#32, addr := 0x2000 }
def full : List MaskEntry := List.replicate 16 joinEntry

/-- Where the record of a parking can be held, or reported. -/
theorem witness_branchesPark :
    (∀ g ∈ [branching 0xFF full 0xF, branching 0xFF [] 0xF],
      (Presents (crowded g) 0 0 plainBra (braShape plainBra false []) ∧
        Presents (crowded g) 0 0 predBra (braShape predBra true [0x140 + predBra.bits 16 14]) ∧
        Presents (crowded g) 0 0 bare (ctlShape bare false)) ∧
      g = (crowded g).dev.group 0 0 ∧ Reports (crowded g) 0 0 ∧ g = (one g).dev.group 0 0 ∧ Reports (one g) 0 0) ∧
    16 ≤ (branching 0xFF full 0xF).stack.length ∧
    (∀ e ∈ (branching 0xFF full 0xF).stack.head?, e.kind = .deferred → e.addr.setWidth 64 ≠ (branching 0xFF full 0xF).nextPc) := by
  have ready : ∀ g ∈ [branching 0xFF full 0xF, branching 0xFF [] 0xF], Ready (crowded g) 0 0 := by
    intro g h
    refine ready_of (range 0 0) 0x1000 codeLine ?_
    revert g; decide +kernel
  refine ⟨fun g h => ⟨⟨presents_of (ready g h) ?_, presents_of (ready g h) ?_, presents_of (ready g h) ?_⟩, ?_, .inl ⟨?_, ?_⟩, ?_,
    .inr ⟨rfl, fun _ => rfl⟩⟩, by decide +kernel, by decide +kernel⟩ <;> revert g <;> decide +kernel

/-- What a branch takes of the active lanes. -/
def takes (g : Group) : BitVec 32 := g.active &&& braPred g predBra

/-- Groups whose next instruction is a branch: all, none or some of the lanes branch, with each kind of entry on top. -/
def branchings : List Group :=
  ([[mateEntry, joinEntry], [joinEntry], [emptyEntry, joinEntry], [emptyEntry], []].flatMap fun st =>
    [0xFF#32, 0#32, 0xF#32].map fun p1 => branching 0xFF st p1) ++ [branching 0 [emptyEntry] 0]

theorem witness_branchesAndMaskStack :
    (∀ g ∈ branchings, g = (one g).dev.group 0 0 ∧ Presents (one g) 0 0 plainBra (braShape plainBra false []) ∧
      Presents (one g) 0 0 predBra (braShape predBra true [0x140 + predBra.bits 16 14]) ∧ Presents (one g) 0 0 bare (ctlShape bare false) ∧
      Presents (one g) 0 0 plainBra (braShape plainBra false [0x13E, 0x13F]) ∧ Presents (one g) 0 0 viaPair (ctlShape viaPair true)) ∧
    takes (branching 0xFF [joinEntry] 0xFF) = 0xFF ∧ takes (branching 0xFF [joinEntry] 0) = 0 ∧ takes (branching 0xFF [joinEntry] 0xF) = 0xF ∧
    mateEntry.kind = .deferred ∧ mateEntry.addr.setWidth 64 = (branching 0xFF [mateEntry, joinEntry] 0xF).nextPc ∧ mateEntry.mask ≠ 0 ∧
    emptyEntry.kind = .deferred ∧ emptyEntry.mask = 0 ∧ joinEntry.kind = .reconverge ∧
    (unwind [joinEntry]).isSome = true ∧ unwind [] = none ∧
    (unwind [{ kind := .deferred, mask := 0xFF#32, addr := (branching 0xFF [emptyEntry, joinEntry] 0xF).nextPc.setWidth 56 }, joinEntry]).isSome =
      true ∧
    unwind [{ kind := .deferred, mask := 0#32, addr := (branching 0 [emptyEntry] 0).nextPc.setWidth 56 }] = none := by
  have ready : ∀ g ∈ branchings, Ready (one g) 0 0 := by
    intro g h
    refine ready_of (range 0 0) 0x1000 codeLine ?_
    revert g; decide +kernel
  refine ⟨fun g h => ⟨?_, presents_of (ready g h) ?_, presents_of (ready g h) ?_, presents_of (ready g h) ?_, presents_of (ready g h) ?_,
    presents_of (ready g h) ?_⟩, ?_⟩
  all_goals try revert g
  all_goals decide +kernel
/-! ### Memory instructions -/

/-- A group whose register pair v2, v3 of lane l addresses the word 4 l of the line at 0x20000. -/
def loader : Group := { grp with v := (List.range 32).map fun l => (32 * 2 + l, BitVec.ofNat 32 (0x20000 + 4 * l)) }

/-- A state whose core 0 has one group and holds that line. -/
def holding (g : Group) : State := withCore { oneGroup g 64 (range 0 0) with l1 := [(8 * l1Set 1024, cached)] }

theorem loader_ready : Ready (holding loader) 0 0 := ready_of (range 0 0) 0x1000 codeLine (by decide +kernel)
theorem sharer_ready : Ready (holding (sharer 0xF)) 0 0 := ready_of (range 0 0) 0x1000 codeLine (by decide +kernel)
theorem locker_ready : Ready (holding (sharer 0x4)) 0 0 := ready_of (range 0 0) 0x1000 codeLine (by decide +kernel)

/-- A line that every lane of a list reaches is in the L1, alone. -/
theorem oneLine_of {s : State} {c gs : Nat} {lanes : List Nat} {va ga : Nat → Nat} {need line i : Nat} {fl : L1Line} (e : BitVec 256)
    (h : (∀ l ∈ lanes, s.dev.coreXlate c gs (va l) need = .ok e (ga l) ∧ isTracked (reType e) = true ∧ gaLine (ga l) = line) ∧
      (s.dev.core c).l1Find line = some i ∧ mget? (s.dev.core c).l1 i = some fl ∧ (s.dev.core c).ops = [] ∧
      (∀ m ∈ (s.dev.core c).mshrs, m.2.line ≠ line) ∧ (∀ b ∈ (s.dev.core c).evict, b.line ≠ line) ∧
      (takeLatent 2 c line s.dev).1 = none ∧ fl.poison = 0 ∧ (s.dev.core c).used + 1 ≤ 192) : OneLine s c gs lanes va need ga line fl :=
  ⟨fun l hl => ⟨e, h.1 l hl⟩, ⟨i, h.2.1, h.2.2.1⟩, h.2.2.2.1, h.2.2.2.2.1, h.2.2.2.2.2.1, h.2.2.2.2.2.2.1, h.2.2.2.2.2.2.2.1, h.2.2.2.2.2.2.2.2⟩

theorem witness_loadAndStoreHit :
    loader = (holding loader).dev.group 0 0 ∧ (holding loader).dev.rOf 0 0 ≤ 255 ∧
    Presents (holding loader) 0 0 (word 6 2 0 0 0) (ldShape ((holding loader).dev.rOf 0 0) (word 6 2 0 0 0)) ∧
    OneLine (holding loader) 0 0 (memLanes loader (word 6 2 0 0 0) (isU (word 6 2 0 0 0).d)) (laneVa loader 2 (memImm (word 6 2 0 0 0)) 4) 1
      (laneVa loader 2 0 4) 1024 cached ∧
    Presents (holding loader) 0 0 (word 6 2 0 0 0) (stShape ((holding loader).dev.rOf 0 0) (word 6 2 0 0 0)) ∧
    memLanes loader (word 6 2 0 0 0) false ≠ [] ∧ (cached.st = .m ∨ cached.st = .e) ∧
    OneLine (holding loader) 0 0 (memLanes loader (word 6 2 0 0 0) false) (laneVa loader 2 (memImm (word 6 2 0 0 0)) 4) 2
      (laneVa loader 2 0 4) 1024 cached :=
  ⟨by decide +kernel, by decide +kernel, presents_of loader_ready (by decide +kernel),
    oneLine_of (range 0 0) (i := 8 * l1Set 1024) (by decide +kernel), presents_of loader_ready (by decide +kernel),
    by decide +kernel, by decide +kernel, oneLine_of (range 0 0) (i := 8 * l1Set 1024) (by decide +kernel)⟩

theorem witness_atomicsNear :
    sharer 0xF = (holding (sharer 0xF)).dev.group 0 0 ∧ (holding (sharer 0xF)).dev.rOf 0 0 ≤ 255 ∧
    (∀ op < 7, Presents (holding (sharer 0xF)) 0 0 (word 6 2 4 0xFF 0) (atomShape op ((holding (sharer 0xF)).dev.rOf 0 0) false (word 6 2 4 0xFF 0))) ∧
    Presents (holding (sharer 0xF)) 0 0 (word 6 2 4 5 0) (atomShape 7 ((holding (sharer 0xF)).dev.rOf 0 0) false (word 6 2 4 5 0)) ∧
    memLanes (sharer 0xF) (word 6 2 4 5 0) false ≠ [] ∧
    OneLine (holding (sharer 0xF)) 0 0 (memLanes (sharer 0xF) (word 6 2 4 5 0) (isU (word 6 2 4 5 0).d)) (laneVa (sharer 0xF) 2 0 4) 8
      (fun _ => 0x20008) (gaLine 0x20008) cached ∧
    NearLine (holding (sharer 0xF)) 0 ((word 6 2 4 5 0).bits 61 60) (gaLine 0x20008) cached :=
  ⟨by decide +kernel, by decide +kernel, fun op h => presents_of sharer_ready (by revert op; decide +kernel),
    presents_of sharer_ready (by decide +kernel), by decide +kernel,
    oneLine_of (range 0 0) (i := 8 * l1Set 1024) (by decide +kernel), by decide +kernel, by decide +kernel⟩

theorem witness_atomicsLocal :
    grp = (one grp).dev.group 0 0 ∧ (one grp).dev.rOf 0 0 ≤ 255 ∧
    (∀ op < 7, Presents (one grp) 0 0 (word 6 2 4 0xFF 0) (atomShape op ((one grp).dev.rOf 0 0) true (word 6 2 4 0xFF 0))) ∧
    Presents (one grp) 0 0 (word 6 2 4 5 0) (atomShape 7 ((one grp).dev.rOf 0 0) true (word 6 2 4 5 0)) ∧
    memLanes grp (word 6 2 4 5 0) false ≠ [] ∧ (∀ l ∈ memLanes grp (word 6 2 4 5 0) false, lmOff grp 2 0 4 l = 0) ∧
    (2 ≤ (word 6 2 4 5 0).bits 59 58 → (one grp).dev.hasOps 0 0 = false) ∧ LmOpen (one grp) 0 grp 0 4 true :=
  ⟨by decide +kernel, by decide +kernel, fun op h => presents_of one_ready (by revert op; decide +kernel),
    presents_of one_ready (by decide +kernel), by decide +kernel, by decide +kernel, by decide +kernel,
    by decide +kernel, by decide +kernel, by decide +kernel, by decide +kernel⟩

theorem witness_localMemoryAccess :
    Presents (one grp) 0 0 (word 6 2 0 0 0) (lmShape ((one grp).dev.rOf 0 0) (word 6 2 0 0 0) true) ∧
    (∀ l ∈ memLanes grp (word 6 2 0 0 0) (isU (word 6 2 0 0 0).d), LmOpen (one grp) 0 grp (lmOff grp 2 (memImm (word 6 2 0 0 0)) 4 l) 4 false) ∧
    Presents (one grp) 0 0 (word 6 2 0 0 (2 ^ 9)) (lmShape ((one grp).dev.rOf 0 0) (word 6 2 0 0 (2 ^ 9)) false) ∧
    ((word 6 2 0 0 (2 ^ 9)).bits 59 58 = 2 ∧ (one grp).dev.hasOps 0 0 = false) ∧
    (∀ l ∈ memLanes grp (word 6 2 0 0 (2 ^ 9)) false, LmOpen (one grp) 0 grp (lmOff grp 2 (memImm (word 6 2 0 0 (2 ^ 9))) 4 l) 4 true) := by
  have open_at : ∀ store, LmOpen (one grp) 0 grp 0 4 store := fun store =>
    ⟨by decide +kernel, fun _ => by decide +kernel, by decide +kernel, by decide +kernel⟩
  refine ⟨presents_of one_ready (by decide +kernel), fun l hl => ?_,
    presents_of one_ready (by decide +kernel), by decide +kernel, fun l hl => ?_⟩
  · have : ∀ l ∈ memLanes grp (word 6 2 0 0 0) (isU (word 6 2 0 0 0).d), lmOff grp 2 (memImm (word 6 2 0 0 0)) 4 l = 0 := by decide +kernel
    rw [this l hl]; exact open_at _
  · have : ∀ l ∈ memLanes grp (word 6 2 0 0 (2 ^ 9)) false, lmOff grp 2 (memImm (word 6 2 0 0 (2 ^ 9))) 4 l = 0 := by decide +kernel
    rw [this l hl]; exact open_at _

theorem witness_lockWords :
    sharer 4 = (holding (sharer 4)).dev.group 0 0 ∧
    Presents (holding (sharer 4)) 0 0 (word 6 2 0xFF 0xFF 0) (lockShape ((holding (sharer 4)).dev.rOf 0 0) (word 6 2 0xFF 0xFF 0)) ∧
    memLanes (sharer 4) (word 6 2 0xFF 0xFF 0) (isU (word 6 2 0xFF 0xFF 0).d) = [2] ∧
    OneLine (holding (sharer 4)) 0 0 [2] (laneVa (sharer 4) 2 0 8) 8 (fun _ => 0x20008) (gaLine 0x20008) cached ∧
    NearLine (holding (sharer 4)) 0 ((word 6 2 0xFF 0xFF 0).bits 61 60) (gaLine 0x20008) cached ∧ mget 0 (sharer 4).spins 2 / 32 < 64 :=
  ⟨by decide +kernel, presents_of locker_ready (by decide +kernel), by decide +kernel,
    oneLine_of (range 0 0) (i := 8 * l1Set 1024) (by decide +kernel), ⟨by decide +kernel, by decide +kernel⟩, by decide +kernel⟩

/-! ### EXIT, BAR, illegal words, fences, cache operations -/

/-- Two groups of one block, the second at the barrier or not. -/
def pair (st : GState) : State := withCore
  { oneGroup grp 64 (range 0 0) with groups := [(0, grp), (1, { grp with st := st })], blocks := [(0, { blk 64 with groups := 2, threads := 64 })] }

theorem witness_exitAndBarrier :
    (∀ g ∈ [branching 0xFF [mateEntry, joinEntry] 0xF, branching 0xFF [emptyEntry] 0xF],
      Presents (one g) 0 0 bare (ctlShape bare false) ∧ g = (one g).dev.group 0 0) ∧
    (unwind ([mateEntry, joinEntry].map fun e => { e with mask := e.mask &&& ~~~0xFF#32 })).isSome = true ∧
    unwind ([emptyEntry].map fun e => { e with mask := e.mask &&& ~~~0xFF#32 }) = none ∧
    Presents (pair .running) 0 0 (word 0xFF 0xFF 0xFF 0xFF 0) (ctlShape (word 0xFF 0xFF 0xFF 0xFF 0) false) ∧
    (grp = (pair .running).dev.group 0 0 ∧ grp.active = grp.live ∧
      ∃ i ∈ ((pair .running).dev.core 0).slotsOf grp.block, i ≠ 0 ∧ ((pair .running).dev.group 0 i).arrived = false) ∧
    Presents (pair .barrier) 0 0 (word 0xFF 0xFF 0xFF 0xFF 0) (ctlShape (word 0xFF 0xFF 0xFF 0xFF 0) false) ∧
    (∀ i ∈ ((pair .barrier).dev.core 0).slotsOf grp.block, i ≠ 0 → ((pair .barrier).dev.group 0 i).arrived = true) :=
  ⟨fun g h => ⟨(witness_branchesAndMaskStack.1 g (by revert g; decide +kernel)).2.2.2.1, by revert g; decide +kernel⟩,
    by decide +kernel, by decide +kernel,
    presents_of (ready_of (range 0 0) 0x1000 codeLine (s := pair .running) (by decide +kernel)) (by decide +kernel),
    by decide +kernel,
    presents_of (ready_of (range 0 0) 0x1000 codeLine (s := pair .barrier) (by decide +kernel)) (by decide +kernel),
    by decide +kernel⟩

theorem witness_illegalWordParks :
    Ready (crowded grp) 0 0 ∧ HoldsPending (crowded grp).dev (((crowded grp).dev.core 0).blockOf 0).berth ∧
    (nopShape (word 0 0xFF 0xFF 0xFF 0)).ok (word 0 0xFF 0xFF 0xFF 0) = false :=
  ⟨ready_of (range 0 0) 0x1000 codeLine (by decide +kernel), ⟨by decide +kernel, by decide +kernel⟩, by decide +kernel⟩

/-- One lane addresses the line at 0x20000 of device 1, streaming, whose copy the device's slice holds with dirty bytes. -/
def streamed : State :=
  let line := 2 ^ 38 + 1024
  let d := State.reset.dev
  { State.reset with dev := { d with
      cores := [(0, oneGroup (sharer 1) 64 (range 1 1))]
      slices := [(d.lineSlice line, { Slice.reset with
        frames := [(16 * d.setOfLine line, { SLine.reset with line := line, valid := 0xF, bytes := 0xFF, mtype := 1, data := 7 })] })] } }

/-- The copy that the slice holds. -/
def dirtyCopy : SLine := { SLine.reset with line := 2 ^ 38 + 1024, valid := 0xF, bytes := 0xFF, mtype := 1, data := 7 }

theorem witness_fencesAndCacheOperations :
    let f := word 0xFF 2 0 0 0
    let line := 2 ^ 38 + 1024
    let sl := streamed.dev.slice (streamed.dev.lineSlice line)
    let n := streamed.dev.setOfLine line
    (Presents (one grp) 0 0 bare (mfenceShape bare) ∧ (one grp).dev.hasOps 0 0 = false) ∧
    (sharer 1 = streamed.dev.group 0 0 ∧ Presents streamed 0 0 f (cacheShape (streamed.dev.rOf 0 0) f)) ∧
    (memLanes (sharer 1) f false = [0] ∧
      streamed.dev.coreXlate 0 0 (laneVa (sharer 1) 2 (memImm f) 1 0) 0 = .ok (range 1 1) (2 ^ 45 + 0x20008) ∧
      reType (range 1 1) = 1 ∧ gaLine (2 ^ 45 + 0x20008) = line ∧ streamed.dev.isHome line = false) ∧
    ((streamed.dev.core 0).ops = [] ∧ (streamed.dev.core 0).used + 1 ≤ 192 ∧ (streamed.dev.core 0).mshrs = [] ∧
      (streamed.dev.core 0).evict = []) ∧
    sl.frameOf n line = some (16 * n) ∧ mget? sl.frames (16 * n) = some dirtyCopy ∧ dirtyCopy.bytes ≠ 0 := by
  refine ⟨⟨one_presents _ _ _ one_ready ?_, ?_⟩, ⟨?_, presents_of (ready_of (range 1 1) (2 ^ 45 + 0x1000) { codeLine with line := 2 ^ 38 + 32 } ?_) ?_⟩,
    ?_, ?_, ?_⟩ <;> decide +kernel
/-! ### The matrix queue and the bywash -/

/-- Bytes of 64-bit words from an offset of local memory. -/
def lmWords (off : Nat) (ws : List Nat) : List (Nat × BitVec 8) :=
  (ws.flatMap (bytesOf 8)).zipIdx.map fun x => (off + x.2, x.1)

/-- Descriptors in local memory (R125, R128): two INT8 panels of 4 rows at 64 and 96, an FP32 output of 4 rows and 4 columns at 128; and
the panels' first elements, 127 and 127. -/
def panels : List (Nat × BitVec 8) :=
  lmWords 64 [16 * 2 + 2 ^ 16 * 512, 32 + 2 ^ 42 * 4, 0, 0] ++ lmWords 96 [16 * 2 + 2 ^ 16 * 1024, 32 + 2 ^ 42 * 4, 0, 0] ++
  lmWords 128 [16 * 5 + 2 ^ 16 * 2048, 32 + 2 ^ 42 * 4, 4, 0] ++ [(512, 127), (1024, 127)]

/-- A group with the descriptors' offsets in u2, u3 and u5, and one step in u4. -/
def streamer : Group := { grp with u := [(2, 64), (3, 96), (4, 1), (5, 128), (6, 8 * 7 + 3)] }

/-- A matrix instruction on the descriptors, queued, passing or done. -/
def entry (op : MxOp) (ph : MxPhase) : MxEntry :=
  { MxEntry.reset with op := op, serial := 7, phase := ph, k := 1, da := mxDesc [16 * 2 + 2 ^ 16 * 512, 32 + 2 ^ 42 * 4, 0, 0]
                       db := mxDesc [16 * 2 + 2 ^ 16 * 1024, 32 + 2 ^ 42 * 4, 0, 0] }

/-- The core's tile 0 belongs to the block and holds INT32 accumulators, the first one at a value. -/
def tiled0 (v : Nat) (q : List (Nat × MxEntry)) : State := withCore
  { oneGroup streamer 64 (range 0 0) with
    lm := panels, mxq := q, mulq := (q.filter fun e => e.2.phase == .pass).map Prod.fst, t0 := { Tile.reset with claim := some 0, kind := .int32, issueKind := .int32, acc := [(0, BitVec.ofNat 32 v)] } }

theorem tiled0_ready : Ready (tiled0 1 [(3, { entry .stream .done with done := true })]) 0 0 :=
  ready_of (range 0 0) 0x1000 codeLine (by decide +kernel)

theorem witness_matrixInstructionsAccepted :
    let s := tiled0 1 [(3, { entry .stream .done with done := true })]
    streamer = s.dev.group 0 0 ∧ (s.dev.core 0).mxAccepts 0 0 = true ∧
    Presents s 0 0 (word 0x107 0xFF 0xFF 0xFF 2) (mxShape (word 0x107 0xFF 0xFF 0xFF 2) 0b111 false false false) ∧
    Presents s 0 0 (word 0x107 0x102 0x103 0x104 0) (mxShape (word 0x107 0x102 0x103 0x104 0) 0b1 true true true) ∧
    checkOperands false (issueKindOf (s.dev.core 0) 0 0) 64 96 1 (s.dev.core 0) ((s.dev.core 0).block 0) = none ∧
    checkOperands true (issueKindOf (s.dev.core 0) 0 0) 64 96 1 (s.dev.core 0) ((s.dev.core 0).block 0) = none ∧
    Presents s 0 0 (word 0x107 0x105 0xFF 0xFF 0) (mxShape (word 0x107 0x105 0xFF 0xFF 0) 0b111 true ((word 0x107 0x105 0xFF 0xFF 0).b != 0xFF) false) ∧
    checkDrain 128 none (s.dev.core 0) ((s.dev.core 0).block 0) = none ∧
    Presents s 0 0 (word 0x107 0x106 0xFF 0xFF 0) (mxwaitShape (word 0x107 0x106 0xFF 0xFF 0)) ∧
    (mxStatus (s.dev.core 0) 0 (streamer.reg 0x106 0).toNat).isSome = true :=
  ⟨by decide +kernel, by decide +kernel, presents_of tiled0_ready (by decide +kernel),
    presents_of tiled0_ready (by decide +kernel), by decide +kernel, by decide +kernel,
    presents_of tiled0_ready (by decide +kernel), by decide +kernel,
    presents_of tiled0_ready (by decide +kernel), by decide +kernel⟩

/-- A pass of tile 1 whose update keeps the multipliers for many cycles. -/
def rival : MxEntry := { entry .stream .pass with tile := 1, k := 1000, block := 1, serial := 6 }

theorem witness_matrixPhases :
    (∀ op ∈ [MxOp.zero, .stream, .diag, .drain],
      let s := tiled0 1 [(3, entry op .queued)]
      mget? (s.dev.core 0).mxq 3 = some (entry op .queued) ∧ (entry op .queued).done = false ∧ s.dev.stopped = false ∧
      (∀ l ∈ s.dev.latent, l.kind ≠ 3) ∧ (s.dev.core 0).mxReady (entry op .queued) = true ∧ (s.dev.core 0).drainFree = true ∧
      (s.dev.core 0).mulEnd ≤ s.clk.acyc + (entry op .queued).lead ∧ (s.dev.notices = [] ∧ s.dev.fatalPend = [] ∧ s.dev.healthDue = [])) ∧
    (∀ claims,
      let x := { entry .stream .queued with claims := claims }
      let s := tiled0 1 [(2, rival), (3, x)]
      mget? (s.dev.core 0).mxq 3 = some x ∧ (s.dev.core 0).mxReady x = true ∧ s.clk.acyc + 2 + x.lead < (s.dev.core 0).mulEnd) ∧
    (let s := tiled0 1 [(3, entry .stream .zero)]
      let k := s.dev.core 0
      k.mulEnd ≤ max s.clk.acyc (entry .stream .zero).ownAt + (entry .stream .zero).lead) ∧
    (let s := tiled0 1 [(3, entry .stream .pass)]
      let pass := runPass (s.dev.core 0) ((s.dev.core 0).block 0) (entry .stream .pass) ((s.dev.core 0).tile 0)
      (s.dev.core 0).mulq.head? = some 3 ∧ pass.bad = false ∧ pass.flag = false) ∧
    (let s := tiled0 0x7FFFFFFF [(3, entry .stream .pass)]
      let pass := runPass (s.dev.core 0) ((s.dev.core 0).block 0) (entry .stream .pass) ((s.dev.core 0).tile 0)
      (s.dev.core 0).mulq.head? = some 3 ∧ pass.bad = false ∧ pass.flag = true ∧ ((s.dev.core 0).block 0).scalePinned = false ∧
        ((s.dev.core 0).tile 0).level < 3) ∧
    (∀ x ∈ [entry .zero .zero, entry .drain .drain, entry .stream .done],
      let s := tiled0 1 [(3, x)]
      mget? (s.dev.core 0).mxq 3 = some x ∧ (s.dev.notices = [] ∧ s.dev.fatalPend = [] ∧ s.dev.healthDue = [])) := by
  refine ⟨?_, ?_, ?_, ?_, ?_, ?_⟩ <;> decide +kernel

/-- A bywash descriptor at 64 of a BF16 weight matrix of 4 columns at 0x20000, one chunk; u2 its offset, u3 one accumulator row. -/
def washer : Group := { grp with u := [(2, 64), (3, 1)] }

def washing (bw : List (Nat × BwSlot)) (g : Group) : State := withCore
  { oneGroup g 64 (range 0 0) with lm := lmWords 64 [0x20000, 0, 4 + 2 ^ 10 * 4, 0], bw := bw }

/-- A slot whose rows are all computed. -/
def slot0 : BwSlot := { BwSlot.reset with active := 0xFFFFFFFF#32, d := 8, cols := 4, fmt := 4, wva := 0x20000, rowsIn := 64 }

theorem witness_bywashInstruction :
    let s := washing [] washer
    let f := word 8 0x102 16 0x103 0
    let x := s.dev.bwSlot 0 0 f
    washer = s.dev.group 0 0 ∧ Presents s 0 0 f (bwShape f x.vcount x.chunks) ∧ lowestFree 4 ((s.dev.core 0).bw.map Prod.fst) = some 0 ∧
      mxOff washer f f.a 0 + 32 ≤ ((s.dev.core 0).block 0).lmSize ∧ bwRegsBad ((s.dev.core 0).block 0).r f.d f.b x.vcount x.chunks = false ∧
      bwCheck washer f ((s.dev.core 0).block 0).lmSize ((s.dev.core 0).block 0).lmUnits (mxOff washer f f.a 0)
        (descWords (s.dev.core 0) ((s.dev.core 0).block 0) (mxOff washer f f.a 0)) x = none ∧
      (∀ va ∈ spanLines x.wSpan ++ spanLines x.sSpan, s.dev.coreXlate 0 0 va 1 = .ok (range 0 0) va) ∧ BwQuiet (s.dev.core 0) :=
  ⟨by decide +kernel, presents_of (ready_of (range 0 0) 0x1000 codeLine (s := washing [] washer) (by decide +kernel)) (by decide +kernel),
    by decide +kernel, by decide +kernel, by decide +kernel, by decide +kernel, by decide +kernel, fun _ h => nomatch h⟩

theorem witness_bywashCompletes :
    let s := { washing [(0, slot0)] { washer with bwHold := some 0 } with clk := { State.reset.clk with ccyc := 100 } }
    (s.dev.notices = [] ∧ s.dev.fatalPend = [] ∧ s.dev.healthDue = []) ∧
    (∀ e ∈ (s.dev.core 0).bw, (∀ a ∈ e.2.wLines, a.stale = false) ∧ (e.2.wLines = [] → e.2.cancelled = true ∨ e.2.bad = [])) ∧
    mget? (s.dev.core 0).bw 0 = some slot0 ∧ (s.dev.core 0).ops = [] ∧ slot0.slot = 0 ∧ slot0.written s.clk.ccyc = true ∧ slot0.cancelled = false ∧
    (∀ e ∈ (s.dev.core 0).bw, e.2.cancelled = true ∨ slot0.order ≤ e.2.order) ∧ s.dev.stopped = false ∧ slot0.d + slot0.vcount ≤ 255 ∧
    slot0.cols ≤ 32 := by
  decide +kernel
/-! ### Core events and the dispatcher -/

/-- One group on core 0 of that device. -/
def resident (g : Group) (b : Block) : State := after fun d => { d with cores := [(0, { Core.reset with groups := [(0, g)], blocks := [(0, b)] })] }

/-- A group that has waited to store into the panel of a pass. -/
def crowdedHeld : State :=
  let s := crowded { grp with heldSince := some 0, heldAccs := [512], heldWidth := 4 }
  { s with dev := s.dev.updCore 0 fun k => { k with mxq := [(3, entry .stream .pass)] } }

theorem witness_coreEvents :
    (let s := { crowdedHeld with clk := { State.reset.clk with ccyc := 2 ^ 20 } }
     ((s.dev.core 0).heldHit (s.dev.group 0 0).block (s.dev.group 0 0).heldWidth (s.dev.group 0 0).heldAccs).isSome = true ∧ (s.dev.group 0 0).heldSince = some 0 ∧ (s.dev.group 0 0).st = .running ∧ s.dev.stopped = false ∧ 2 ^ 20 ≤ s.clk.ccyc ∧
      (s.dev.notices = [] ∧ s.dev.fatalPend = [] ∧ s.dev.healthDue = []) ∧
      (s.dev.berth ((s.dev.core 0).block 0).berth).fqFull = true ∧ s.dev.hasPending ((s.dev.core 0).block 0).berth = true) ∧
    (let s := { resident { grp with st := .parked, park := some ParkInfo.reset } (blk 64) with clk := { State.reset.clk with tsc := 2 ^ 40 } }
     (s.dev.group 0 0).park = some ParkInfo.reset ∧ (s.dev.group 0 0).st = .parked ∧ (s.dev.ctx 0).st = .live ∧
      ParkInfo.reset.time + msec s.dev.lkp.parkLimit < gtime s.clk s.dev) ∧
    (let s := resident { grp with st := .exited } (blk 64)
     (s.dev.group 0 0).st = .exited ∧ (s.dev.core 0).awaits 0 = false) ∧
    (let s := resident grp { blk 64 with started := false, zeroing := [3] }
     mget? (s.dev.core 0).blocks 0 = some { blk 64 with started := false, zeroing := [3] }) := by
  decide +kernel

/-- A LAUNCH of four blocks of 64 threads, 16 registers and one unit (R369). -/
def launchCmd : Cmd := { Cmd.reset with q := [1, 0, 0, 0x1000, 0, BitVec.ofNat 64 (4 + 2 ^ 32 + 2 ^ 48), BitVec.ofNat 64 (64 + 2 ^ 11 * 16 + 2 ^ 19)] }

/-- A device whose queue 0 runs it. -/
def launching : State := after fun d => { d with ctl := { d.ctl with queues := [(0, { Queue.reset with cmds := [launchCmd] })] } }

theorem witness_dispatchPlacesBlock :
    (launching.dev.notices = [] ∧ launching.dev.fatalPend = [] ∧ launching.dev.healthDue = []) ∧ launching.dev.admits = true ∧
    (launching.dev.cores.filter fun e => !e.2.blocks.isEmpty).length < min 512 launching.dev.pwr.coreLimit ∧
    launching.dev.offered ((List.range 32).filter fun b => (launching.dev.readyLaunch b).isSome) = some 0 ∧
    launching.dev.readyLaunch 0 = some (0, launchCmd) ∧
    launching.dev.chooseCore ((launching.dev.berth 0).spread || !launching.dev.pwr.packing) ((List.range 512).filter fun c => match launching.dev.holder c with
      | none => (launching.dev.core c).fits launchCmd
      | some h => h == 0 && (launching.dev.core c).fits launchCmd) = some 0 ∧
    launching.dev.pwr.gated.getLsbD (coreDomain 0) = false ∧ (takeLatent 8 0 0 launching.dev).1 = none := by
  decide +kernel

/-! ### Coherence -/

/-- A packet arrives when what is checked can be evaluated to true. -/
theorem arrives_of {s : State} {p : Packet} {op : PktOp}
    (h : (s.dev.notices = [] ∧ s.dev.fatalPend = [] ∧ s.dev.healthDue = []) ∧ p.op = op ∧ p.dst = s.dev.id ∧ p ∈ s.dev.fab.net ∧ s.dev.stopped = false ∧
      ∀ q ∈ s.dev.fab.net.takeWhile (fun q => q != p), isVc2 q.op = true → q.line = p.line → q.src = p.src → q.dst = p.dst → q.tgt ≠ p.tgt) :
    Arrives s p op := ⟨h.1, h.2.1, h.2.2.1, h.2.2.2.1, h.2.2.2.2.1, h.2.2.2.2.2⟩

/-- Slice of line 1024, to which the pages of this device's first grant page spread it. -/
def sl : Nat := booted.lineSlice 1024

/-- A request of core 3 about line 1024 to its home slice. -/
def ask (op : PktOp) : Packet := { Packet.reset with op := op, tgt := 512 + sl, agent := 3, entry := 5, gen := 2, line := 1024 }

/-- The home's frame of the line, whole. -/
def frame0 : SLine := { SLine.reset with line := 1024, valid := 0xF, data := 0x123456789 }

/-- The device with that frame, packets in the mesh, and directory entries. -/
def homing (ps : List Packet) (dir : List (Nat × DirEntry)) (f : Slice → Slice) : State := after fun d =>
  { d with fab := { d.fab with net := ps }
           slices := [(sl, f { Slice.reset with frames := [(16 * d.setOfLine 1024, frame0)], dir := dir })] }

/-- Key of the first way of the line's directory set. -/
def way0 : Nat := 16 * (booted.setOfLine 1024 % 512)

theorem atHome_of {s : State} {p : Packet}
    (h : s.dev.isHome p.line = true ∧ s.dev.homeError p = none ∧ (∀ r ∈ (s.dev.slice (s.dev.lineSlice p.line)).recalls, r.ent.line ≠ p.line) ∧
      s.dev.latent = []) : AtHome s p :=
  ⟨h.1, h.2.1, h.2.2.1, fun k _ => by simp [takeLatent, h.2.2.2]⟩

theorem homeHolds_of {s : State} {p : Packet} {fr : SLine}
    (h : ((s.dev.slice (s.dev.lineSlice p.line)).frameOf (s.dev.setOfLine p.line) p.line).bind (mget? (s.dev.slice (s.dev.lineSlice p.line)).frames) = some fr ∧
      fr.valid = 0xF#4 ∧ fr.poison = 0 ∧ (takeLatent 1 (s.dev.lineSlice p.line) p.line s.dev).1 = none ∧
      (∀ r ∈ (s.dev.slice (s.dev.lineSlice p.line)).repairs, r.line ≠ p.line) ∧ p.mtype ≠ 2) : HomeHolds s p fr := by
  obtain ⟨i, hi, hf⟩ := Option.bind_eq_some_iff.mp h.1
  exact ⟨⟨i, hi, hf⟩, h.2.1, h.2.2.1, h.2.2.2.1, h.2.2.2.2.1, h.2.2.2.2.2⟩

/-- Line 1024 is core 4's, Exclusive. -/
def owned4 : DirEntry := { DirEntry.reset with line := 1024, st := .exclusive, owner := ownCore 4 }

theorem witness_directoryGets :
    (∀ op ∈ [PktOp.getS, .getM], let s := homing [ask op] [] id
      AtHome s (ask op) ∧ entryAt s 1024 = none ∧ DirRoom s 1024 ∧ HomeHolds s (ask op) frame0 ∧ Arrives s (ask op) op) ∧
    (∀ op ∈ [PktOp.getS, .getM], let s := homing [ask op] [(way0, owned4)] id
      AtHome s (ask op) ∧ entryAt s 1024 = some owned4 ∧ owned4.sharers = [] ∧ owned4.coarse = false ∧ owned4.far = false ∧
      owned4.owner ≠ ownerPtr s.dev (ask op) ∧ ownerAsPtr owned4.owner = some 4 ∧ Arrives s (ask op) op) := by
  refine ⟨fun op h => ?_, fun op h => ?_⟩ <;> simp only [List.mem_cons, List.not_mem_nil, or_false] at h <;> rcases h with rfl | rfl
  · exact ⟨atHome_of (by decide +kernel), by decide +kernel, by unfold DirRoom; decide +kernel, homeHolds_of (by decide +kernel), arrives_of (by decide +kernel)⟩
  · exact ⟨atHome_of (by decide +kernel), by decide +kernel, by unfold DirRoom; decide +kernel, homeHolds_of (by decide +kernel), arrives_of (by decide +kernel)⟩
  · exact ⟨atHome_of (by decide +kernel), by decide +kernel, rfl, rfl, rfl, by decide +kernel, by decide +kernel, arrives_of (by decide +kernel)⟩
  · exact ⟨atHome_of (by decide +kernel), by decide +kernel, rfl, rfl, rfl, by decide +kernel, by decide +kernel, arrives_of (by decide +kernel)⟩

/-- Line 1024 is core 3's, Exclusive; core 3 and core 4 share it. -/
def owned3 : DirEntry := { owned4 with owner := ownCore 3 }
def shared34 : DirEntry := { owned4 with st := .shared, owner := 0, sharers := [3, 4] }

theorem witness_directoryPuts :
    (let s := homing [ask .putS] [(way0, shared34)] id
     Arrives s (ask .putS) .putS ∧ s.dev.isHome 1024 = true ∧ s.dev.latent = [] ∧ entryAt s 1024 = some shared34 ∧
      shared34.far = false ∧ shared34.coarse = false ∧ shared34.st ≠ .uncached ∧ shared34.sharers.contains (sharerPtr s.dev (ask .putS)) = true) ∧
    (∀ op ∈ [PktOp.putE, .putO, .putM], let s := homing [ask op] [(way0, owned3)] id
      Arrives s (ask op) op ∧ entryAt s 1024 = some owned3 ∧ owned3.owner = ownerPtr s.dev (ask op) ∧ HomeHolds s (ask op) frame0) := by
  refine ⟨⟨arrives_of (by decide +kernel), by decide +kernel⟩, fun op h => ?_⟩
  simp only [List.mem_cons, List.not_mem_nil, or_false] at h
  rcases h with rfl | rfl | rfl <;>
    exact ⟨arrives_of (by decide +kernel), by decide +kernel, by decide +kernel, homeHolds_of (by decide +kernel)⟩

theorem witness_homeReadsWritesAndAtomics :
    ∀ op ∈ [PktOp.readU, .writeU, .atomF], let s := homing [ask op] [] id
      AtHome s (ask op) ∧ HomeHolds s (ask op) frame0 ∧ entryAt s 1024 = none ∧ Arrives s (ask op) op ∧
      (s.dev.slice (s.dev.lineSlice 1024)).atomSlots < 64 ∧ ∀ x ∈ (s.dev.slice (s.dev.lineSlice 1024)).atoms, x.line ≠ 1024 := by
  intro op h
  simp only [List.mem_cons, List.not_mem_nil, or_false] at h
  rcases h with rfl | rfl | rfl <;>
    exact ⟨atHome_of (by decide +kernel), homeHolds_of (by decide +kernel), by decide +kernel, arrives_of (by decide +kernel), by decide +kernel,
      by decide +kernel⟩

/-- Core 0 holds the line in some state, and a packet about it arrives. -/
def holder0 (op : PktOp) (st : LState) : State := after fun d =>
  { d with cores := [(0, { Core.reset with l1 := [(8 * l1Set 1024, { cached with st := st, dirty := 3 })] })]
           fab := { d.fab with net := [{ ask op with tgt := 0 }] } }

theorem holdsLine_of {s : State} {p : Packet} {i : Nat} {f : L1Line}
    (h : p.tgt < 512 ∧ (s.dev.core p.tgt).l1Find p.line = some i ∧ mget? (s.dev.core p.tgt).l1 i = some f ∧
      (s.dev.core p.tgt).asking p.line = false ∧ (s.dev.core p.tgt).fwdq = [] ∧ s.dev.latent = []) : HoldsLine s p i f :=
  { core := h.1, found := h.2.1, line := h.2.2.1, quiet := h.2.2.2.1, first := by simp [h.2.2.2.2.1], room := by simp [h.2.2.2.2.1]
    sound := by simp [takeLatent, h.2.2.2.2.2] }

theorem witness_holdersAnswer :
    ∀ op ∈ [PktOp.fwdGetS, .fwdGetM, .recall, .inv], ∀ st ∈ [LState.m, .o, .e, .s],
      HoldsLine (holder0 op st) { ask op with tgt := 0 } (8 * l1Set 1024) { cached with st := st, dirty := 3 } ∧
      Arrives (holder0 op st) { ask op with tgt := 0 } op := by
  intro op h st h'
  simp only [List.mem_cons, List.not_mem_nil, or_false] at h h'
  rcases h with rfl | rfl | rfl | rfl <;> rcases h' with rfl | rfl | rfl | rfl <;>
    exact ⟨holdsLine_of (by decide +kernel), arrives_of (by decide +kernel)⟩

/-- Lane 0 of an instruction in flight that waits for line 1024. -/
def awaiting (k : MemKind) : MemOp :=
  { MemOp.reset with kind := k, pc := 0x1000, active := 1, adv := true, ty := 0, dst := 6
                     lanes := [{ LaneAcc.reset with va := 0x20008, ga := 0x20008, data := 77 }] }

/-- The landing buffer for which it waits. -/
def buffer (k : ReqKind) (f : Mshr → Mshr) : Mshr :=
  f { Mshr.reset with line := 1024, kind := k, gen := 2, ops := [9], req := { ask .getS with tgt := 512 + sl } }

/-- Core 0 with one instruction in flight, a landing buffer, its L1, and a packet for it. -/
def waiting0 (k : MemKind) (m : Mshr) (l1 : List (Nat × L1Line)) (p : Packet) (tsc : Nat) : State :=
  { after fun d => { d with
      cores := [(0, { oneGroup grp 64 (range 0 0) with ops := [(9, awaiting k)], nextOp := 10, mshrs := [(5, m)], gens := [(5, 2)], l1 := l1 }),
                (1, oneGroup { grp with st := .parked, park := some { ParkInfo.reset with pend := true } } 64 (range 0 0))]
      ctl := { d.ctl with berths := [(0, { State.reset.dev.berth 0 with st := .live, fqSize := 0, fqProd := 1 })] }
      fab := { d.fab with net := [p] } } with clk := { State.reset.clk with tsc := tsc } }

/-- A packet for core 0. -/
def toCore (op : PktOp) : Packet := { ask op with tgt := 0, agent := 0 }

theorem oneAwaits_of {s : State} {p : Packet} {m : Mshr} {n : Nat} {o : MemOp}
    (h : p.tgt < 512 ∧ (s.dev.core p.tgt).landing p = some m ∧ m.bw = none ∧ m.ops = [n] ∧ (s.dev.core p.tgt).ops = [(n, o)] ∧ o.lanes ≠ [] ∧
      (∀ a ∈ o.lanes, a.line = p.line ∧ a.lane < 32) ∧ (o.lanes.map LaneAcc.lane).Nodup ∧ o.adv = true ∧ o.flt = [] ∧ o.slot < 64 ∧
      (isV o.dst = true → o.dst + dstCount o.ty ≤ 255)) (hb : (s.dev.core p.tgt).bw = []) : OneAwaits s p m n o :=
  ⟨h.1, h.2.1, h.2.2.1, h.2.2.2.1, h.2.2.2.2.1, hb, h.2.2.2.2.2.1, h.2.2.2.2.2.2.1, h.2.2.2.2.2.2.2.1, h.2.2.2.2.2.2.2.2.1, h.2.2.2.2.2.2.2.2.2.1,
    h.2.2.2.2.2.2.2.2.2.2.1, h.2.2.2.2.2.2.2.2.2.2.2⟩

theorem lineRests_of {s : State} {p : Packet} {o : MemOp}
    (h : ((∀ a ∈ o.lanes, isTracked a.mtype = true) ∧ ∀ a ∈ o.lanes, a.stale = false) ∧
      (∀ e ∈ (s.dev.core p.tgt).mshrs, e.2.line = p.line → e.1 = p.entry) ∧
      ((s.dev.core p.tgt).evict = [] ∧ (s.dev.core p.tgt).fwdq = [] ∧ (s.dev.slice (s.dev.lineSlice p.line)).fwdq = [] ∧ s.dev.latent = []) ∧
      ∀ e ∈ (s.dev.core p.tgt).l1, (s.dev.core p.tgt).l1Off.contains (8 * (e.1 / 8 / 16) + e.1 % 8) = false) : LineRests s p o :=
  { tracked := h.1.1, alone := h.2.1, noEvict := by simp [h.2.2.1.1], sound := by simp [takeLatent, h.2.2.1.2.2.2]
    noFwd := by simp [h.2.2.1.2.1], noFar := by simp [h.2.2.1.2.2.1], fresh := h.1.2, units := h.2.2.2 }

/-- Core 0 holds line 1024 in S. -/
def l1s (st : LState) : List (Nat × L1Line) := [(8 * l1Set 1024, { cached with st := st })]

theorem witness_responsesComplete :
    (let p := { toCore .data with grant := 2, data := lineWords 5 }
     let s := waiting0 .load (buffer .getS id) [] p 0
     OneAwaits s p (buffer .getS id) 9 (awaiting .load) ∧ Arrives s p .data ∧ LineRests s p (awaiting .load) ∧
      (s.dev.core 0).l1Find 1024 = none ∧
      ∃ w < 8, (s.dev.core 0).l1Off.contains (8 * (l1Set 1024 / 16) + w) = false ∧ mhas (s.dev.core 0).l1 (8 * l1Set 1024 + w) = false) ∧
    (let p := { toCore .grant with grant := 3 }
     let s := waiting0 .store (buffer .getM id) (l1s .s) p 0
     OneAwaits s p (buffer .getM id) 9 (awaiting .store) ∧ Arrives s p .grant ∧ LineRests s p (awaiting .store) ∧
      (s.dev.core 0).l1Find 1024 = some (8 * l1Set 1024) ∧ p.acks = (buffer .getM id).got) ∧
    (let m := buffer .getM fun m => { m with granted := true, need := some 2, got := 1 }
     let p := toCore .invAck
     let s := waiting0 .store m (l1s .m) p 0
     OneAwaits s p m 9 (awaiting .store) ∧ Arrives s p .invAck ∧ LineRests s p (awaiting .store) ∧
      (s.dev.core 0).l1Find 1024 = some (8 * l1Set 1024) ∧ m.need = some (m.got + 1)) ∧
    (let p := { toCore .readData with data := lineWords 5 }
     let s := waiting0 .load (buffer .readU id) [] p 0
     OneAwaits s p (buffer .readU id) 9 (awaiting .load) ∧ (buffer .readU id).kind ≠ .fetch ∧ Arrives s p .readData) ∧
    (let p := { toCore .atomResp with data := [5], off := 8, lanes := 1 }
     let s := waiting0 .atomic (buffer .atomF id) [] p 0
     OneAwaits s p (buffer .atomF id) 9 (awaiting .atomic) ∧ Arrives s p .atomResp ∧ ∀ a ∈ (awaiting .atomic).lanes, a.off = p.off) ∧
    (let p := toCore .writeAck
     let s := waiting0 .store (buffer .writeU id) [] p 0
     OneAwaits s p (buffer .writeU id) 9 (awaiting .store) ∧ Arrives s p .writeAck) :=
  ⟨⟨oneAwaits_of (by decide +kernel) rfl, arrives_of (by decide +kernel), lineRests_of (by decide +kernel), by decide +kernel, by decide +kernel⟩,
    ⟨oneAwaits_of (by decide +kernel) rfl, arrives_of (by decide +kernel), lineRests_of (by decide +kernel), by decide +kernel, by decide +kernel⟩,
    ⟨oneAwaits_of (by decide +kernel) rfl, arrives_of (by decide +kernel), lineRests_of (by decide +kernel), by decide +kernel, by decide +kernel⟩,
    ⟨oneAwaits_of (by decide +kernel) rfl, by decide +kernel, arrives_of (by decide +kernel)⟩,
    ⟨oneAwaits_of (by decide +kernel) rfl, arrives_of (by decide +kernel), by decide +kernel⟩,
    ⟨oneAwaits_of (by decide +kernel) rfl, arrives_of (by decide +kernel)⟩⟩

/-- A recall that awaits the owner of line 1024. -/
def recall0 : Recall := { Recall.reset with ent := owned4, owner := true, entry := 5, gen := 2 }

theorem witness_refusalsRetriesAndRecalls :
    (let p := { toCore .errorResp with reason := 3 }
     let s := waiting0 .load (buffer .getS id) [] p 0
     OneAwaits s p (buffer .getS id) 9 (awaiting .load) ∧ (s.dev.group 0 0).st = .running ∧ (s.dev.group 0 0).bwHold = none ∧ (s.dev.group 0 0).replay = none ∧ (buffer .getS id).kind ≠ .fetch ∧
      HoldsPending s.dev ((s.dev.core 0).blockOf 0).berth ∧ Arrives s p .errorResp) ∧
    (let s := waiting0 .load (buffer .getS id) [] (toCore .heldRetry) 0
     (s.dev.core 0).landing (toCore .heldRetry) = some (buffer .getS id) ∧ Arrives s (toCore .heldRetry) .heldRetry) ∧
    (let m := buffer .getS fun m => { m with retryAt := some 0 }
     let s := waiting0 .load m [] (toCore .data) 683
     mget? (s.dev.core 0).mshrs 5 = some m ∧ m.retryAt = some 0 ∧ s.dev.stopped = false ∧ 256 * 8 ≤ 3 * (s.clk.tsc - 0)) ∧
    (let p := { toCore .evictAck with tgt := 512 }
     let s := waiting0 .load (buffer .getS id) [] p 0
     Arrives s p .evictAck ∧ 512 ≤ p.tgt ∧ SliceQuiet (s.dev.slice (p.tgt - 512))) ∧
    (let s := holder0 .evictAck .m
     Arrives s { ask .evictAck with tgt := 0 } .evictAck ∧ (s.dev.core 0).ops = [] ∧ (s.dev.core 0).bw = [] ∧ UnitsClear (s.dev.core 0)) ∧
    (∀ op ∈ [PktOp.recallAck, .recallData],
      let s := homing [ask op] [] fun x => { x with recalls := [recall0] }
      Arrives s (ask op) op ∧ HomeHolds s (ask op) frame0 ∧ s.dev.isHome 1024 = true ∧
      (s.dev.slice (s.dev.lineSlice 1024)).recalls.find? (fun x => x.ent.line == 1024) = some recall0 ∧ recall0.owner = true ∧
      recall0.acks = 0 ∧ recall0.waiting = [] ∧ recall0.putBack = false ∧ recall0.entry = (ask op).entry ∧ recall0.gen = (ask op).gen ∧
      (∀ y ∈ (s.dev.slice (s.dev.lineSlice 1024)).far, y.granted = false)) := by
  refine ⟨⟨oneAwaits_of (by decide +kernel) rfl, by decide +kernel, by decide +kernel, by decide +kernel, by decide +kernel, ⟨by decide +kernel, by decide +kernel⟩, arrives_of (by decide +kernel)⟩,
    ⟨by decide +kernel, arrives_of (by decide +kernel)⟩, by decide +kernel, ⟨arrives_of (by decide +kernel), by decide +kernel, ⟨rfl, fun _ h => (nomatch h), rfl, rfl⟩⟩,
    ⟨arrives_of (by decide +kernel), by decide +kernel, by decide +kernel, by unfold UnitsClear; decide +kernel⟩, fun op h => ?_⟩
  simp only [List.mem_cons, List.not_mem_nil, or_false] at h
  rcases h with rfl | rfl <;>
    exact ⟨arrives_of (by decide +kernel), homeHolds_of (by decide +kernel), by decide +kernel⟩

/-- A write-combining entry of line 1024 with its first sector whole. -/
def wcb0 : Wcb := { Wcb.reset with line := 1024, mask := 0xFFFFFFFF, data := 9 }

/-- A repair whose mirror is on device 1, or elsewhere in this device's memory, with the request to answer. -/
def repair0 (mline : Nat) : Repair := { Repair.reset with line := 1024, sectors := 1, mline := mline, req := ask .readU }

/-- The slice's read of the mirror, and the peer's answer. -/
def mirrorRead : Packet := { Packet.reset with op := .readU, dst := 1, agent := 512 + sl, line := 2 ^ 38 + 5, entry := 9, gen := 2 }
def mirrored : Packet :=
  { Packet.reset with op := .readData, src := 1, tgt := 512 + sl, entry := 9, gen := 2, line := 2 ^ 38 + 5, data := lineWords 6 }

/-- A line of this device in another slice or set, whole. -/
def mirrorHere : Nat := 2048
def slM : Nat := booted.lineSlice mirrorHere

/-- The device with the repair, the poisoned frame and the mirror's. -/
def repairing (mline : Nat) (ps : List Packet) : State := after fun d =>
  let frames := [(16 * booted.setOfLine 1024, { frame0 with poison := 1 })]
  let mframe := (16 * booted.setOfLine mirrorHere + 1, { frame0 with line := mirrorHere, data := 6 })
  let x := { Slice.reset with repairs := [repair0 mline], outs := [mirrorRead], frames := if slM = sl then mframe :: frames else frames }
  { d with fab := { d.fab with net := ps }
           slices := if slM = sl then [(sl, x)] else [(sl, x), (slM, { Slice.reset with frames := [mframe] })] }

/-- A device whose memory holds bytes at an address, written by the device itself. -/
def poked (a : Nat) (bs : List Byte) (f : Dev → Dev) : State := after fun d => f (d.poke State.reset.clk 0 a bs)

/-- Context 0 has a table of one entry at 0x10000. -/
def tableAt (d : Dev) : Dev := { d with ctl := { d.ctl with ctxs := [(0, { d.ctx 0 with area := 0x10000, cap := 1, count := 1 })] } }

/-- A walk of context 0 for group slot or stream 0. -/
def walk0 (va : Nat) : Walk := { Walk.reset with va := va }

/-- A group that waits for a walk. -/
def walking (va : Nat) : State := poked 0x10000 (bytesOf 32 (range 0 0).toNat) fun d =>
  { tableAt d with cores := [(0, { Core.reset with groups := [(0, { grp with walkVa := some va })], blocks := [(0, blk 64)], walks := [walk0 va] })] }

/-- A stream that waits for one. -/
def walkingStream : State := poked 0x10000 (bytesOf 32 (range 0 0).toNat) fun d =>
  let d := tableAt d
  { d with ctl := { d.ctl with streams := [(0, { Stream.reset with st := .translating, walkVa := some 0x2000 })], bwalks := [walk0 0x2000] } }

/-- No berth of the small devices has a ring. -/
theorem ringsOff_of {s : State} {x : Berth} (h : s.dev.ctl.berths = [(0, x)] ∧ (mget Ring.reset x.rings 0).enable = false) : RingsOff s.dev := by
  intro b
  unfold Dev.ring Dev.berth
  rw [h.1]
  by_cases hb : b = 0
  · subst hb; exact h.2
  · have : mget Berth.reset [(0, x)] b = Berth.reset := by simp [mget, Ne.symm hb]
    rw [this]; rfl

theorem witness_memoryServices :
    (let s := { homing [] [] (fun x => { x with wcb := [wcb0] }) with clk := { State.reset.clk with tsc := 4096 } }
     s.dev.stopped = false ∧ (s.dev.notices = [] ∧ s.dev.fatalPend = [] ∧ s.dev.healthDue = []) ∧
      (s.dev.slice sl).wcb.find? (fun x => x.line == 1024) = some wcb0 ∧ fcyclesPassed s.clk wcb0.last 1024 = true ∧ s.dev.latent = [] ∧
      wcb0.mirror = 0 ∧ isNarrowKey 1024 = false ∧ (∀ i < 4, s.dev.stackLost (s.dev.stackOf (32 * (1024 % 2 ^ 38 * 4 + i))) = false)) ∧
    (let s := after fun d => { d with mem := { d.mem with stks := [(1, { Stack.reset with st := 2 })] } }
     ((s.dev.stack 1).st = 2 ∧ (s.dev.stack 1).selfRefresh = false ∧ (s.dev.stack 1).retraining.getLsbD 3 = false ∧
      (takeLatent 0 0 (s.dev.addrOf 1 3 0 (32 * (s.dev.stack 1).scrubAt 3 0) / 32) s.dev).1 = none ∧
      (mget SectorTag.reset s.dev.mem.tags (s.dev.addrOf 1 3 0 (32 * (s.dev.stack 1).scrubAt 3 0) / 32)).poison = false ∧
      (s.dev.stack 1).unc = [] ∧ ∀ e ∈ (s.dev.stack 1).retrains, e.1 ≠ 3) ∧ RingsOff s.dev) ∧
    (let s := after fun d => { d with mem := { d.mem with stks := [(1, { Stack.reset with st := 2, retraining := 8 })] } }
     (s.dev.stack 1).st = 2 ∧ (s.dev.stack 1).retraining.getLsbD 3 = true ∧ (s.dev.slice (16 * 1 + 3)).stalled = [] ∧ s.dev.lkp.st ≠ .retired) ∧
    (let s := homing [] [] fun x => { x with held := [(0, [ask .readU])] }
     mget [] (s.dev.slice sl).held 0 = [ask .readU] ∧ AtHome s (ask .readU) ∧ HomeHolds s (ask .readU) frame0 ∧ entryAt s 1024 = none) ∧
    ((∀ va ∈ [0x2000, 2 ^ 40], ((walking va).dev.core 0).inWalk.find? (fun w => w.who == 0) = some (walk0 va)) ∧
      (walking 0x2000).dev.walked (walk0 0x2000) = .hit (range 0 0) ∧ (walking (2 ^ 40)).dev.walked (walk0 (2 ^ 40)) = .miss ∧
      (walkingStream.dev.ctl.inWalk (streamQuarter 0)).find? (fun w => w.who == 0) = some (walk0 0x2000) ∧
      (walkingStream.dev.stream 0).st = .translating ∧ walkingStream.dev.walked (walk0 0x2000) = .hit (range 0 0)) ∧
    ∀ x ∈ [(2 ^ 38 + 5, [mirrored]), (mirrorHere, [])],
      let s := repairing x.1 x.2
      let r := repair0 x.1
      (MirrorComes s sl r 6 [] ∧ AtHome s r.req ∧ RingsOff s.dev) ∧ (s.dev.slice sl).repairs.find? (fun r => r.line == 1024) = some r ∧
      (r.sectors ≠ 0 ∧ r.cancel = 0 ∧ r.waiting = [] ∧ r.req.op = .readU ∧ r.req.line = 1024 ∧ s.dev.lineSlice 1024 = sl ∧ r.req.mtype ≠ 2) ∧
      (entryAt s 1024 = none ∧ (∀ y ∈ (s.dev.slice sl).repairs.erase r, y.line ≠ 1024) ∧ (takeLatent 1 sl 1024 s.dev).1 = none) ∧
      ((s.dev.slice sl).frameOf (s.dev.setOfLine 1024) 1024).bind (mget? (s.dev.slice sl).frames) = some { frame0 with poison := 1 } ∧
      poisonSectors ({ frame0 with poison := 1 } : SLine).poison &&& ~~~r.sectors = 0 := by
  refine ⟨by decide +kernel, ⟨by decide +kernel, ringsOff_of ⟨rfl, rfl⟩⟩, by decide +kernel,
    ⟨by decide +kernel, atHome_of (by decide +kernel), homeHolds_of (by decide +kernel), by decide +kernel⟩, by decide +kernel, fun x h => ?_⟩
  simp only [List.mem_cons, List.not_mem_nil, or_false] at h
  rcases h with rfl | rfl
  · exact ⟨⟨.inl ⟨by decide +kernel, mirrorRead, mirrored, by decide +kernel⟩, atHome_of (by decide +kernel), ringsOff_of ⟨rfl, rfl⟩⟩, by decide +kernel⟩
  · exact ⟨⟨.inr ⟨by decide +kernel, { frame0 with line := mirrorHere, data := 6 }, by decide +kernel, homeHolds_of (by decide +kernel), by decide +kernel⟩,
      atHome_of (by decide +kernel), ringsOff_of ⟨rfl, rfl⟩⟩, by decide +kernel⟩

/-! ### Barge engines -/

/-- A LINEAR descriptor of 64 bytes from 0x20000 to 0x30000. -/
def linear : List (BitVec 64) := [0, 0x20000, 0x30000, 64, 0, 0, 0, 0]

/-- A stream of queue 2 that runs, with the range of own memory in its cache. -/
def stream0 (f : Stream → Stream) : State :=
  poked 0x40000 (linear.flatMap fun w => bytesOf 8 w.toNat) fun d => { d with
    ctl := { d.ctl with
      streams := [(65, f { Stream.reset with st := .running, count := 1, list := 0x40000, queue := 2, xlat := [{ ctx := 0, entry := range 0 0 }] })] } }

theorem witness_streamsRun :
    (let s := stream0 id
     s.dev.stopped = false ∧ (s.dev.stream 65).st = .running ∧ (s.dev.stream 65).failed = none ∧ (s.dev.stream 65).desc = none ∧
      (s.dev.stream 65).di < (s.dev.stream 65).count ∧ (s.dev.stream 65).txns = [] ∧ s.dev.streamXlate 65 0x40000 1 = .ok (range 0 0) ∧
      reMap (range 0 0) 0x40000 = 0x40000 ∧ reKind (range 0 0) = 0 ∧ gaDev 0x40000 = s.dev.id ∧ isLmWindow 0x40000 = false ∧
      (s.dev.locOf 0x40000).isSome = true ∧ s.dev.mayAccess 0 (reKey (range 0 0)) 0x40000 true = true ∧
      (∀ i < 8, s.dev.peekPoison (0x40000 + 8 * i) = false) ∧
      descInvalid ((List.range 8).map fun i => BitVec.ofNat 64 (s.dev.peek (keyId 0 0) (0x40000 + 8 * i) 8)) = false ∧
      s.dev.windowSide 0 (qw linear 1) = false ∧ s.dev.windowSide 0 (qw linear 2) = false) ∧
    Unheld (stream0 id).dev (gaLine 0x40000) ∧
    (let s := stream0 fun x => { x with desc := some linear }
     dKind linear = 0 ∧ dFence linear = false ∧ (s.dev.stream 65).owes = false ∧ (s.dev.stream 65).cur < dTotal linear ∧ (s.dev.engineUsed 1).length < 512 ∧
      s.dev.streamXlate 65 0x20000 1 = .ok (range 0 0) ∧ s.dev.streamXlate 65 0x30000 2 = .ok (range 0 0) ∧ (dPlace linear 0 0).1 = 0x20000) ∧
    (let s := stream0 fun x => { x with desc := some linear, cur := 64 }
     (s.dev.stream 65).txns = [] ∧ (s.dev.stream 65).di + 1 = (s.dev.stream 65).count ∧ dTotal linear ≤ (s.dev.stream 65).cur) ∧
    (let s := { stream0 fun x => { x with st := .faulted, fault := some SFault.reset } with clk := { State.reset.clk with tsc := 2 ^ 40 } }
     (s.dev.stream 65).fault = some SFault.reset ∧ SFault.reset.time + msec s.dev.lkp.parkLimit < gtime s.clk s.dev ∧ (s.dev.ctx 0).st = .live) :=
  ⟨by decide +kernel, ⟨by decide +kernel, by decide +kernel, by decide +kernel⟩, by decide +kernel, by decide +kernel, by decide +kernel⟩

theorem witness_bulkAccesses :
    ∀ op ∈ [PktOp.bulkRead, .bulkWrite, .bulkReduce],
      let p := { ask op with agent := 640, off := 4, cnt := 8 }
      let s := homing [p] [] id
      AtHome s p ∧ HomeHolds s p frame0 ∧ Unheld s.dev 1024 ∧ p.lines = 1 ∧ p.tgt ≠ 705 ∧ isLmWindow (1024 % 2 ^ 38 * 128) = false ∧
      (s.dev.slice (s.dev.lineSlice 1024)).outs = [] ∧ (p.agent = 705 → p.aty ≠ 2) ∧ Arrives s p op ∧ 0 < p.cnt ∧ p.off + p.cnt ≤ 128 := by
  intro op h
  simp only [List.mem_cons, List.not_mem_nil, or_false] at h
  rcases h with rfl | rfl | rfl <;>
    exact ⟨atHome_of (by decide +kernel), homeHolds_of (by decide +kernel), ⟨by decide +kernel, by decide +kernel, by decide +kernel⟩,
      by decide +kernel, by decide +kernel, by decide +kernel, by decide +kernel, by decide +kernel, arrives_of (by decide +kernel), by decide +kernel⟩

/-! ### The fabric -/

/-- Port 2 is a peer port to device 1. -/
def peer0 : Port := { Port.reset with role := .peer, nbrDev := 1, nbrPort := 4, st := .up, width := 4, lanes := 0xFF, hello := some (1, 4, 7) }

/-- The device with that port changed, routes to device 1 through it, and packets in the mesh. -/
def linked (f : Port → Port) (ps : List Packet) (g : Dev → Dev) : State :=
  { after fun d => g { d with
      fab := { d.fab with ports := [(2, f peer0)], net := ps, routes := [(1, BitVec.ofNat 64 (2 ^ 2 + 2 ^ 36 * 2 + 2 ^ 41 * 2))] }
      tim := { d.tim with root := 1 } } with clk := { State.reset.clk with tsc := 2 ^ 40 } }

/-- A packet of device 1 for this device's management. -/
def fromPeer (op : PktOp) : Packet := { Packet.reset with op := op, src := 1, tgt := 708, agent := 704 }

/-- A packet of core 3 for device 1. -/
def outgoing : Packet := { ask .readU with dst := 1, line := 2 ^ 38, tgt := 512 }

theorem witness_fabricMessages :
    (∀ to' ∈ [0, 1], let p := { fromPeer .routeMark with reqDev := to', who := 1, no := 3 }
      Arrives (linked id [p] id) p .routeMark) ∧
    (∀ ask ∈ [none, some 5],
     let p := { fromPeer .markAck with no := 3 }
     let s := linked (fun x => { x with seqAsk := ask }) [p] fun d => { d with fab := { d.fab with marks := [{ Mark.reset with dst := 1, no := 3, port := 2, held := [outgoing] }] } }
     Arrives s p .markAck ∧ (s.dev.fab.marks.find? fun m => m.no == p.no && m.dst == p.src).isSome = true ∧
      (s.dev.port 2).seqAsk = ask) ∧
    Arrives (linked id [fromPeer .ping] id) (fromPeer .ping) .ping ∧
    (∀ op ∈ [PktOp.peerDown, .peerUp],
      let p := { fromPeer op with who := 5, boot := 9 }
      let s := linked id [p] id
      Arrives s p op ∧ p.who ≠ s.dev.id ∧ s.dev.fab.flooded.contains (p.who, p.boot) = false ∧
        s.dev.fab.flooded.contains (p.who, 2 ^ 28 + p.boot) = false) ∧
    (∀ v ∈ [false, true],
     let p := { fromPeer .timeOffset with toff := 100, tlink := 30, no := 2 }
     let s := { linked id [p] id with dev := { (linked id [p] id).dev with tim := { (linked id [p] id).dev.tim with valid := v, due := v } } }
     Arrives s p .timeOffset ∧ s.dev.tim.valid = v ∧ s.dev.tim.due = v ∧ s.dev.timeParent = some 2 ∧ (s.dev.port 2).nbrDev = p.src) ∧
    (let s := linked id [outgoing] id
     outgoing.dst ≠ s.dev.id ∧ outgoing ∈ s.dev.fab.net ∧ s.dev.stopped = false ∧ vcOf outgoing.op ≠ 2 ∧ s.dev.reachable outgoing.dst = true ∧
      s.dev.choosePort outgoing = some (2, false)) ∧
    (let s := linked (fun x => { x with st := .down }) [outgoing] id
     s.dev.reachable outgoing.dst = false ∧ (s.dev.behalf outgoing).isSome = true) := by
  refine ⟨fun t h => ?_, fun a h => ?_, arrives_of (by decide +kernel), fun op h => ?_, fun v h => ?_, by decide +kernel, by decide +kernel⟩ <;>
    simp only [List.mem_cons, List.not_mem_nil, or_false] at h <;> rcases h with rfl | rfl <;>
    first | exact arrives_of (by decide +kernel) | exact ⟨arrives_of (by decide +kernel), by decide +kernel⟩

/-- Sixteen flits that wait for their GMAC. -/
def sixteen : List Flit := List.replicate 16 Flit.reset

theorem witness_peerPorts :
    (∀ enc ∈ [false, true], let x := (linked (fun x => { x with encrypt := enc, rxSeq := 8 }) [] id).dev.port 2
      x.role = .peer ∧ x.st = .up ∧ x.lpi = false ∧ x.encrypt = enc ∧ (8 : Nat) = x.rxSeq ∧ x.ctlq = []) ∧
    (let x := (linked (fun x => { x with encrypt := true, gmacRun := sixteen }) [] id).dev.port 2
     x.st = .up ∧ x.encrypt = true ∧ x.gmacRun.length = 16) ∧
    (let s := linked id [] id
     (s.dev.port 2).lastFlit + usec 10 ≤ s.clk.tsc ∧ s.dev.busyPorts.contains 2 = false ∧ (s.dev.port 2).idleSince + usec 2 ≤ s.clk.tsc ∧
      s.dev.stopped = false ∧ s.dev.whf.sessions = [] ∧ (1 : BitVec 12).toNat = (s.dev.port 2).nbrDev ∧ (4 : BitVec 5).toNat = (s.dev.port 2).nbrPort ∧
      mhas s.dev.fab.down 1 = false ∧ (s.dev.port 2).hello.isSome = true ∧ (s.dev.port 2).proved = false) ∧
    (let x := (linked (fun x => { x with st := .retraining }) [] id).dev.port 2
     x.st = .retraining ∧ min x.width (laneWidth (x.lanes &&& 0x0F)) ≠ 0) ∧
    (let x := (linked (fun x => { x with st := .training }) [] id).dev.port 2
     x.st = .training ∧ x.width ≠ 0 ∧ x.linkOff = none ∧ x.hello.isSome = true) := by
  decide +kernel

theorem witness_linkTime :
    (let s := linked (fun x => { x with probeT1 := some 5, pingAt := some 0, seqAsk := some 0 }) [] id
     (s.dev.port 2).role = .peer ∧ (s.dev.port 2).st = .up ∧ (s.dev.port 2).probeT1 = some 5 ∧ (s.dev.port 2).exch.length + 1 < 16 ∧
      (s.dev.port 2).pingAt = some 0 ∧ (s.dev.port 2).seqAsk = some 0 ∧ 0 + msec 50 ≤ s.clk.tsc ∧ (s.dev.port 2).nbrDev ≠ s.dev.id ∧
      s.dev.fab.flooded.contains ((s.dev.port 2).nbrDev, 7) = false ∧ s.dev.stopped = false) ∧
    (let s := linked (fun x => { x with probeT1 := some 5, exch := List.replicate 15 Exch.reset }) [] id
     16 ≤ (s.dev.port 2).exch.length + 1) := by
  decide +kernel

/-- A management access of device 1's Lockkeeper to a register: TIM_LOCAL_LO, or the doorbell of queue 0. -/
def mgmt (op : PktOp) (off : Nat) : Packet := { fromPeer op with off := off, cnt := 4, data := [3] }

theorem witness_managementAccess :
    (let p := mgmt .mgmtRead 0x4000
     let s := linked id [p] id
     let r := (s.dev.take p).regRead s.perm s.clk (mgmtWho p) p.off
     Arrives s p .mgmtRead ∧ p.aop ≠ 5 ∧ p.cnt ≤ 4 ∧ regPopulated p.off = true ∧ hostWindow p = true ∧ r.1.isSome = true ∧
      r.2.notices = [] ∧ r.2.fatalPend = [] ∧ r.2.healthDue = []) ∧
    (let p := mgmt .mgmtWrite 0xE0014
     let s := linked id [p] id
     let r := (s.dev.take p).regWrite s.clk (mgmtWho p) p.off ((p.data.headD 0).setWidth 32)
     Arrives s p .mgmtWrite ∧ p.aop = 0 ∧ p.cnt ≤ 4 ∧ regPopulated p.off = true ∧ hostWindow p = true ∧ r.1 = true ∧
      r.2.notices = [] ∧ r.2.fatalPend = [] ∧ r.2.healthDue = []) ∧
    (let p := { Packet.reset with op := .mgmtResp, src := 1, tgt := 704, entry := 6, gen := 1 }
     let s := linked id [p] fun d => { d with fab := { d.fab with mgmtOut := [(6, { Packet.reset with op := .ping, dst := 1, agent := 704, gen := 1 })] } }
     Arrives s p .mgmtResp ∧ p.tgt ≠ 705 ∧ (mget? s.dev.fab.mgmtOut p.entry).isSome = true ∧ p.err = false) :=
  ⟨⟨arrives_of (by decide +kernel), by decide +kernel⟩, ⟨arrives_of (by decide +kernel), by decide +kernel⟩,
    ⟨arrives_of (by decide +kernel), by decide +kernel⟩⟩

/-! ### Hosts -/

/-- Host session 3 on port 14, Active, bound to berth 0. -/
def session3 : Session := { Session.reset with st := .active, port := 14, berths := 1 }

/-- The wharf with that session changed, two microseconds' worth of ticks after its ports came up, and a storage session on port 15. -/
def wharf (f : Session → Session) (g : Dev → Dev) : State :=
  { after fun d => g { d with
      fab := { d.fab with reach := [(0, 0)], ports := [(14, { Port.reset with role := .host }), (15, { Port.reset with role := .storage })] }
      whf := { d.whf with
        isWharf := true, opened := true, limit := 16, netPorts := [(14, { NetPort.reset with up := true }), (15, { NetPort.reset with up := true })]
        sessions := [(3, f session3)] } } with clk := { State.reset.clk with tsc := 2 ^ 40 } }

/-- A packet of session 3. -/
def fromHost3 (typ : Nat) (f : HostPkt → HostPkt) : HostPkt := f { HostPkt.reset with typ := typ, session := 3, seq := 1, reliable := true }

/-- An operation of session 3. -/
def opOf3 (o : Nat) (f : OpHdr → OpHdr) (data : List Byte) : HostPkt :=
  fromHost3 0x10 fun p => { p with op := f { OpHdr.reset with op := o, bytes := 4, tag := 77 }, data := data }

theorem fromHost_of {s : State} {n : Nat} {st : SessSt} {p : HostPkt}
    (h : (s.dev.notices = [] ∧ s.dev.fatalPend = [] ∧ s.dev.healthDue = []) ∧ s.dev.netOpen p.port = true ∧ (s.dev.port p.port).role = .host ∧
      (p.session = n ∧ n < 256) ∧ ((s.dev.session n).st = st ∧ st ≠ .free ∧ st ≠ .moored) ∧
      ((s.dev.session n).port = p.port ∧ (s.dev.session n).addr = p.addr ∧ (s.dev.session n).sport = p.sport) ∧ p.tagOk = true ∧
      ((s.dev.session n).rxSeen.contains p.seq = false ∧ (s.dev.session n).rxHigh < p.seq + 8192) ∧
      ((∀ e ∈ s.dev.whf.sessions, e.2.spent = false) ∧ (s.dev.session n).spent = false ∧ (s.dev.session n).txSeq + 8 < 2 ^ 63) ∧
      ((s.dev.session n).waitq = [] ∧ (s.dev.session n).gapFrom = [])) : FromHost s n st p :=
  ⟨h.1, h.2.1, h.2.2.1, h.2.2.2.1, h.2.2.2.2.1, h.2.2.2.2.2.1, h.2.2.2.2.2.2.1, h.2.2.2.2.2.2.2.1, h.2.2.2.2.2.2.2.2.1, h.2.2.2.2.2.2.2.2.2⟩

theorem nextFromHost_of {s : State} {n : Nat} {st : SessSt} {p : HostPkt} (f : FromHost s n st p)
    (h : p.reliable = true ∧ (p.rseq = (s.dev.session n).rxRseq ∧ p.rseq < 2 ^ 32) ∧ (s.dev.session n).staged = [] ∧ (s.dev.session n).unacked = []) :
    NextFromHost s n st p := { f with reliable := h.1, turn := h.2.1, staged := h.2.2.1, acked := h.2.2.2 }

theorem opFromHost_of {s : State} {n o : Nat} {p : HostPkt} (f : NextFromHost s n .active p)
    (h : p.typ = 0x10 ∧ p.op.op = o ∧ (s.dev.session n).ops = [] ∧ s.dev.hostCheck n p = none) : OpFromHost s n o p :=
  { f with typ := h.1, code := h.2.1, alone := h.2.2.1, checked := h.2.2.2 }

/-- Register operations at a queue's doorbell, memory operations across two lines, and those of windows and subscriptions. -/
def hostOps : List (Nat × HostPkt × (Session → Session)) :=
  [(1, opOf3 1 (fun o => { o with addr := 0xE0010 }) [], id), (2, opOf3 2 (fun o => { o with addr := 0xE0010 }) [1, 2, 3, 4], id),
   (5, opOf3 5 (fun o => { o with addr := 0xE0014 }) [1, 0, 0, 0], id),
   (3, opOf3 3 (fun o => { o with form := 2, addr := 0x2007C, bytes := 8 }) [], id),
   (4, opOf3 4 (fun o => { o with form := 2, addr := 0x2007C, bytes := 8 }) [1, 2, 3, 4, 5, 6, 7, 8], id),
   (8, opOf3 8 (fun o => { o with obj := 5, bytes := 4096 }) [], id), (9, opOf3 9 (fun o => { o with obj := 6 }) [], fun x => { x with windows := [(6, 64)] }),
   (0xA, opOf3 0xA (fun o => { o with obj := 2 }) [], id), (0xB, opOf3 0xB (fun o => { o with obj := 2 }) [], fun x => { x with subs := [(0, 0, 2), (0, 0, 3)] })]

theorem witness_hostOperations :
    ∀ x ∈ hostOps, OpFromHost (wharf x.2.2 id) 3 x.1 x.2.1 ∧
      ((wharf x.2.2 id).dev.bridgeFree (wharf x.2.2 id).clk (hostParts x.2.1.op)).isSome = true ∧
      ∀ a ∈ ((wharf x.2.2 id).dev.session 3).winOut, a.req.no ≠ x.2.1.op.obj := by
  intro x h
  simp only [hostOps, List.mem_cons, List.not_mem_nil, or_false] at h
  rcases h with rfl | rfl | rfl | rfl | rfl | rfl | rfl | rfl | rfl <;>
    exact ⟨opFromHost_of (nextFromHost_of (fromHost_of (by decide +kernel)) (by decide +kernel)) (by decide +kernel), by decide +kernel, by decide +kernel⟩

/-- The wharf with device 1 in reach behind port 2. -/
def wharfLinked (f : Session → Session) : State := wharf f fun d => { d with fab := { d.fab with
  reach := [(0, 0), (1, 0)], ports := (2, peer0) :: d.fab.ports, routes := [(1, BitVec.ofNat 64 (2 ^ 2 + 2 ^ 36 * 2 + 2 ^ 41 * 2))] } }

/-- The operations that go to device 1. -/
def farOps : List (Nat × HostPkt × (Session → Session)) :=
  [(1, opOf3 1 (fun o => { o with device := 1, addr := 0xE0010 }) [], id), (4, opOf3 4 (fun o => { o with device := 1, form := 2, addr := 0x2007C, bytes := 8 }) [1, 2, 3, 4, 5, 6, 7, 8], id),
   (0xA, opOf3 0xA (fun o => { o with device := 1, obj := 2 }) [], id),
   (0xB, opOf3 0xB (fun o => { o with device := 1, obj := 2 }) [], fun x => { x with subs := [(1, 0, 2)] })]

theorem witness_hostOperationsFar :
    ∀ x ∈ farOps, OpFromHost (wharfLinked x.2.2) 3 x.1 x.2.1 ∧ x.2.1.op.device ≠ (wharfLinked x.2.2).dev.id ∧
      (((wharfLinked x.2.2).dev.bridgeFree (wharfLinked x.2.2).clk (hostParts x.2.1.op)).any fun es =>
        ((wharfLinked x.2.2).dev.admitAll (((wharfLinked x.2.2).dev.hostRequests 3 x.2.1 es).map HPart.req)).isSome) = true := by
  intro x h
  simp only [farOps, List.mem_cons, List.not_mem_nil, or_false] at h
  rcases h with rfl | rfl | rfl | rfl <;>
    exact ⟨opFromHost_of (nextFromHost_of (fromHost_of (by decide +kernel)) (by decide +kernel)) (by decide +kernel), by decide +kernel, by decide +kernel⟩

/-- A window access of stream 65 that waits for one answer. -/
def winWrite : WinAcc := { WinAcc.reset with req := { ask .bulkWrite with agent := 642, no := 5 }, parts := [(77, 0, 64)] }

/-- A sent packet that waits to be acknowledged. -/
def unacked7 : Unacked := { Unacked.reset with rseq := 7, pkt := { HostPkt.reset with typ := 0x12, rseq := 7 } }

/-- A request to join berths 0 and 1 under an identity that is granted berth 0, and the wharf that knows the identity. -/
def join1 : HostPkt := { HostPkt.reset with typ := 0x02, key := 99, mask := 3 }
def granting : State := wharf id fun d => { d with whf := { d.whf with grants := [(99, 1)] } }

/-- The appliance of port 15 is being joined. -/
def appliance : State := wharf id fun d => { d with whf := { d.whf with sessions := [(271, { Session.reset with st := .joining, port := 15 })] } }

theorem witness_hostSessions :
    (Calm granting.dev ∧ granting.dev.netOpen join1.port = true ∧ (granting.dev.port join1.port).role = .host ∧
      (∀ e ∈ granting.dev.whf.sessions, e.2.spent = false) ∧ join1.formOk = true ∧
      granting.dev.whf.grants.find? (fun x => x.1 == join1.key) = some (join1.key, 1) ∧ join1.mask &&& 1 ≠ 0 ∧ granting.dev.lkp.st = .ready ∧
      granting.dev.sessionsUsed < min 256 granting.dev.whf.limit ∧
      (List.range 256).find? (fun i => (granting.dev.session i).st == .free &&
        ((granting.dev.session i).endAt.elim true fun t => passed granting.clk t (msec 10000))) = some 0) ∧
    NextFromHost (wharf (fun x => { x with st := .joining }) id) 3 .joining (fromHost3 0x05 id) ∧
    ((∀ e ∈ appliance.dev.whf.sessions, e.2.spent = false) ∧ appliance.dev.netOpen 15 = true ∧ (appliance.dev.port 15).role = .storage ∧
      (appliance.dev.session 271).st = .joining ∧ (appliance.dev.session 271).unacked = [] ∧ (appliance.dev.session 271).waitq = [] ∧ (appliance.dev.session 271).txSeq + 8 < 2 ^ 63 ∧
      (mget NetPort.reset appliance.dev.whf.netPorts 15).appl = 0) ∧
    (NextFromHost (wharf (fun x => { x with winOut := [winWrite] }) id) 3 .active (fromHost3 0x11 fun p => { p with op := { OpHdr.reset with tag := 77 } }) ∧
      winWrite.parts = [((77 : BitVec 32), 0, 64)] ∧ winWrite.bad = false) ∧
    (∀ m ∈ [0, 9], ((wharf (fun x => { x with beatAt := 2 ^ 40 - msec 100, missed := m }) id).dev.session 3).missedBy { State.reset.clk with tsc := 2 ^ 40 } =
      (m + 1, 2 ^ 40)) ∧
    (∀ m ∈ [0, 9], FromHost (wharf (fun x => { x with beatAt := 2 ^ 40 - msec 100, missed := m }) id) 3 .active
      (fromHost3 0x14 fun p => { p with reliable := false })) ∧
    (∀ typ ∈ [0x13, 0x14], FromHost (wharf (fun x => { x with unacked := [unacked7] }) id) 3 .active (fromHost3 typ fun p => { p with reliable := false })) ∧
    NextFromHost (wharf id id) 3 .active (fromHost3 0x15 id) := by
  refine ⟨⟨by unfold Calm; decide +kernel, by decide +kernel⟩, nextFromHost_of (fromHost_of (by decide +kernel)) (by decide +kernel), by decide +kernel,
    ⟨nextFromHost_of (fromHost_of (by decide +kernel)) (by decide +kernel), by decide +kernel⟩, by decide +kernel, fun m h => ?_, fun typ h => ?_,
    nextFromHost_of (fromHost_of (by decide +kernel)) (by decide +kernel)⟩
  all_goals
    simp only [List.mem_cons, List.not_mem_nil, or_false] at h
    rcases h with rfl | rfl <;> exact fromHost_of (by decide +kernel)

/-- A held record of berth 0. -/
def held0 : HeldRec := { HeldRec.reset with ring := 2, index := 9, bytes := 5 }

/-- Berth 0 has lost its last session. -/
def orphaned (policy : Bool) : State := { after fun d => { d with ctl := { d.ctl with
    berths := [(0, { d.berth 0 with graceSince := some 0, headlessPol := policy })] } } with clk := { State.reset.clk with tsc := 2 ^ 40 } }

theorem witness_hostTimers :
    (let s := wharf (fun x => { x with unacked := [unacked7], held := [held0] }) id
     Calm s.dev ∧ s.dev.stopped = false ∧ (∀ e ∈ s.dev.whf.sessions, e.2.spent = false) ∧ (s.dev.port 14).role = .host ∧
      (mget NetPort.reset s.dev.whf.netPorts 14).up = true ∧ s.dev.pwr.st ≠ .moored ∧ s.dev.netOpen 14 = true ∧
      (∀ f ∈ [{ Frame.reset with kind := .arp }, { Frame.reset with kind := .arp, len := 1519 }], f.kind ≠ .pause ∧ f.vlan = none ∧ f.mine = true ∧
        f.fragment = false ∧ f.cksumOk = true) ∧ (mget NetPort.reset s.dev.whf.netPorts 14).vlan = none ∧
      (64 : Nat) ≤ (mget NetPort.reset s.dev.whf.netPorts 14).frame ∧ (mget NetPort.reset s.dev.whf.netPorts 14).frame < 1519 ∧
      (mget NetPort.reset s.dev.whf.netPorts 14).annAt + msec 1000 ≤ s.clk.tsc ∧
      (s.dev.session 3).unacked.find? (fun u => u.rseq == (7#32).toNat) = some unacked7 ∧ (s.dev.session 3).st = .active ∧
      unacked7.sentAt + max (usec 50) (min (msec 20) (4 * (s.dev.session 3).srtt)) ≤ s.clk.tsc ∧ (s.dev.session 3).txSeq < 2 ^ 63 ∧
      (s.dev.session 3).spent = false ∧ (s.dev.session 3).hbAt + msec 100 ≤ s.clk.tsc) ∧
    (let s := wharf (fun x => { x with st := .joining }) id
     (s.dev.session 3).st = .joining ∧ (s.dev.session 3).joinAt + msec 1000 ≤ s.clk.tsc) ∧
    (∀ m ∈ [0, 9], let s := wharf (fun x => { x with beatAt := 2 ^ 40 - msec 100, missed := m }) id
      (s.clk.tsc - (s.dev.session 3).beatAt) / msec 100 = 1 ∧ (s.dev.session 3).beat = false ∧ (s.dev.session 3).missed = m) ∧
    (let s := wharf (fun x => { x with winOut := [winWrite] }) id
     (s.dev.session 3).winOut = [winWrite] ∧ winWrite.parts = [((77 : BitVec 32), 0, 64)] ∧ winWrite.since + msec 1000 ≤ s.clk.tsc) ∧
    (let s := wharf (fun x => { x with held := [held0] }) id
     (s.dev.session 3).held = [held0] ∧ held0.berth = 0 ∧ held0.heldAt + usec (s.dev.berth 0).coalesce ≤ s.clk.tsc ∧ 1 ≤ s.dev.eventMax 3 ∧
      (s.dev.session 3).unacked = [] ∧ (s.dev.session 3).waitq = [] ∧ (s.dev.session 3).gapFrom = []) ∧
    (∀ p ∈ [true, false], let s := orphaned p
      (s.dev.berth 0).graceSince = some 0 ∧ 0 + msec (10 * (s.dev.berth 0).grace) ≤ s.clk.tsc ∧ s.dev.boundSessions 0 = 0 ∧
      (s.dev.berth 0).st = .live ∧ (s.dev.berth 0).headlessPol = p ∧ Calm s.dev) := by
  refine ⟨by unfold Calm; decide +kernel, by decide +kernel, by decide +kernel, by decide +kernel, by decide +kernel, by unfold Calm; decide +kernel⟩

/-! ### Commands and contexts -/

/-- A device with the words of a record in the ring of queue 2, and context 0's table of one range from 0. -/
def queued (ws : List Nat) (x : Queue → Queue) (f : Dev → Dev) : State :=
  { after fun d =>
      let d := (d.poke State.reset.clk 0 0x10000 (bytesOf 32 (range 0 0).toNat)).poke State.reset.clk 0 0x50000 (ws.flatMap fun w => bytesOf 8 w)
      f { d with ctl := { d.ctl with
        queues := [(2, x { Queue.reset with base := 0x50000, enable := true, granted := true, tail := 1 })]
        berths := [(0, { d.berth 0 with streamLimit := 4, ctxLimit := 8 })]
        ctxs := [(0, { d.ctx 0 with area := 0x10000, cap := 4, count := 1, ledger := true })] } } with
    clk := { State.reset.clk with tsc := 2 ^ 40 } }

/-- The command that the record becomes. -/
def cmdOf (ws : List Nat) : Cmd := { Cmd.reset with begin := gtime { State.reset.clk with tsc := 2 ^ 40 } booted, q := ws.map fun w => BitVec.ofNat 64 w }

/-- Line of the record at the head. -/
def headLine (s : State) (q : Nat) : Nat := 2 ^ 38 * s.dev.id +
  ((s.dev.queue q).base + 64 * ((s.dev.queue q).head.toNat % 2 ^ (s.dev.queue q).sizeLog2)) / 128

/-- A record at the head may begin when what is checked can be evaluated to true. -/
theorem atHead_of {s : State} {q op : Nat} {m : Cmd}
    (h : (s.dev.notices = [] ∧ s.dev.fatalPend = [] ∧ s.dev.healthDue = []) ∧ s.dev.latent = [] ∧ s.dev.admits = true ∧
      ((s.dev.queue q).enable = true ∧ (s.dev.queue q).halted = false ∧ (s.dev.queue q).head ≠ (s.dev.queue q).tail) ∧
      (s.dev.berth (s.dev.queue q).berth).st = .live ∧
      ((s.dev.slice (s.dev.lineSlice (headLine s q))).dirOf (headLine s q) = none ∧
        (∀ r ∈ (s.dev.slice (s.dev.lineSlice (headLine s q))).recalls, r.ent.line ≠ headLine s q) ∧
        ∀ a ∈ (s.dev.slice (s.dev.lineSlice (headLine s q))).atoms, a.line ≠ headLine s q) ∧
      (m = { Cmd.reset with
        order := (s.dev.queue q).nextOrder, begin := gtime s.clk s.dev, poisoned := m.poisoned
        q := (List.range 8).map fun i => BitVec.ofNat 64 (s.dev.peek (keyId (s.dev.queue q).berth 0)
          ((s.dev.queue q).base + 64 * ((s.dev.queue q).head.toNat % 2 ^ (s.dev.queue q).sizeLog2) + 8 * i) 8) }) ∧
      (m.poisoned = (List.range 8).any fun i => s.dev.peekPoison
        ((s.dev.queue q).base + 64 * ((s.dev.queue q).head.toNat % 2 ^ (s.dev.queue q).sizeLog2) + 8 * i)) ∧
      m.opcode = op ∧ s.dev.mayBegin q m = true) : AtHead s q op m :=
  ⟨h.1, h.2.1, h.2.2.1, h.2.2.2.1, h.2.2.2.2.1, ⟨h.2.2.2.2.2.1.1, h.2.2.2.2.2.1.2.1, h.2.2.2.2.2.1.2.2⟩, h.2.2.2.2.2.2.1, h.2.2.2.2.2.2.2.1,
    h.2.2.2.2.2.2.2.2.1, h.2.2.2.2.2.2.2.2.2⟩

/-- A LAUNCH of one block of 32 threads with 8 registers, a COPY of one descriptor, a signal and a wait of fence 7 here and on device 1, a
mark, a figure, a time and a mark of the ledger. -/
def launchWords : List Nat := [1, 0, 0, 0x1000, 0, 1 + 2 ^ 32 + 2 ^ 48, 32 + 2 ^ 11 * 8, 0]
def copyWords : List Nat := [2, 0, 0, 0x40000, 1, 0, 0, 0]
def signalWords (dev : Nat) : List Nat := [3, 0, 0, 7 + 2 ^ 16 * dev, 5, 0, 0, 0]
def waitWords (target : Nat) : List Nat := [4, 0, 0, 7, target, 3, 0, 0]
def markWords : List Nat := [5, 0, 0, 99, 0, 0, 0, 0]
def usageWords : List Nat := [6, 0, 0, 0x60000, 0, 0, 0, 0]
def timeWords : List Nat := [7, 0, 0, 0x60000, 0, 0, 0, 0]
def ledgerWords : List Nat := [8, 0, 0, 5, 0, 0, 0, 0]

/-- Fence 7 is the context's, at value 3, with a waiter of queue 3 for 4; the context may signal fence 7 of device 1, to which a port leads;
the ledger is on or off. -/
def fenced (ldg : Bool) (d : Dev) : Dev := { d with
  ctl := { d.ctl with
    fences := [(7, { Fence.reset with value := 3, valid := true, waiters := [{ Waiter.reset with queue := 3, target := 4 }] })]
    queues := d.ctl.queues ++ [(3, { Queue.reset with cmds := [{ cmdOf (waitWords 4) with waiting := true }] })]
    imports := [{ Import.reset with fence := 7, dev := 1, signal := true }] }
  fab := { d.fab with ports := [(2, peer0)], routes := [(1, BitVec.ofNat 64 (2 ^ 2 + 2 ^ 36 * 2 + 2 ^ 41 * 2))] }
  ldg := { d.ldg with enable := ldg } }

/-- What a command of queue 2 needs to begin, without what is the same for each. -/
def mayRun (s : State) (op : Nat) (ws : List Nat) : Bool :=
  decide ((s.dev.notices = [] ∧ s.dev.fatalPend = [] ∧ s.dev.healthDue = []) ∧ s.dev.latent = [] ∧ s.dev.admits = true ∧
      ((s.dev.queue 2).enable = true ∧ (s.dev.queue 2).halted = false ∧ (s.dev.queue 2).head ≠ (s.dev.queue 2).tail) ∧
      (s.dev.berth (s.dev.queue 2).berth).st = .live ∧
      ((s.dev.slice (s.dev.lineSlice (headLine s 2))).dirOf (headLine s 2) = none ∧
        (∀ r ∈ (s.dev.slice (s.dev.lineSlice (headLine s 2))).recalls, r.ent.line ≠ headLine s 2) ∧
        ∀ a ∈ (s.dev.slice (s.dev.lineSlice (headLine s 2))).atoms, a.line ≠ headLine s 2) ∧
      (cmdOf ws = { Cmd.reset with
        order := (s.dev.queue 2).nextOrder, begin := gtime s.clk s.dev, poisoned := (cmdOf ws).poisoned
        q := (List.range 8).map fun i => BitVec.ofNat 64 (s.dev.peek (keyId (s.dev.queue 2).berth 0)
          ((s.dev.queue 2).base + 64 * ((s.dev.queue 2).head.toNat % 2 ^ (s.dev.queue 2).sizeLog2) + 8 * i) 8) }) ∧
      ((cmdOf ws).poisoned = (List.range 8).any fun i => s.dev.peekPoison
        ((s.dev.queue 2).base + 64 * ((s.dev.queue 2).head.toNat % 2 ^ (s.dev.queue 2).sizeLog2) + 8 * i)) ∧
      (cmdOf ws).opcode = op ∧ s.dev.mayBegin 2 (cmdOf ws) = true)

theorem begins_of {s : State} {op : Nat} {ws : List Nat} (h : mayRun s op ws = true) (hc : s.dev.cmdCheck 2 (cmdOf ws) = none) :
    Begins s 2 op (cmdOf ws) := { atHead_of (of_decide_eq_true h) with checked := hc }

theorem resultOpen_of {s : State} {m : Cmd} {e : BitVec 256} {va len : Nat}
    (h : s.dev.walk m.ctx va = .hit e ∧ (reCovers e va = true ∧ reCovers e (va + len - 1) = true) ∧
      (reWithdrawing e = false ∧ reRes e = 0 ∧ rePerm e / 2 % 2 = 1) ∧
      s.dev.reachable (if reKind e = 0 then gaDev (reMap e va) else rePort e) = true) : ResultOpen s m e va len :=
  ⟨h.1, h.2.1, h.2.2.1, h.2.2.2⟩

theorem witness_workCommands :
    (Begins (queued launchWords id id) 2 1 (cmdOf launchWords) ∧ bitAt ((cmdOf launchWords).word 0) 8 = false ∧
      groupRegs (cmdOf launchWords).regs * (cmdOf launchWords).groups ≤ 131072) ∧
    (let s := queued copyWords id id
     Begins s 2 2 (cmdOf copyWords) ∧ s.dev.streamsOf 0 < (s.dev.berth 0).streamLimit ∧ s.dev.freeStream 2 = some 0) ∧
    (let s := queued (signalWords 0) id (fenced false)
     Begins s 2 3 (cmdOf (signalWords 0)) ∧ s.dev.mayFence 7 0 0 true = true ∧ (s.dev.fence 7).value ≠ aborted ∧ (s.dev.fence 7).value.toNat < 5) ∧
    (let s := queued (signalWords 1) id (fenced false)
     Begins s 2 3 (cmdOf (signalWords 1)) ∧ (cmdOf (signalWords 1)).fenceDev ≠ s.dev.id ∧ s.dev.imported 0 7 1 = true ∧ s.dev.reachable 1 = true) ∧
    (∀ v ∈ [3, 4], let s := queued (waitWords v) id (fenced false)
     Begins s 2 4 (cmdOf (waitWords v)) ∧ s.dev.mayFence 7 0 0 false = true ∧ (s.dev.fence 7).value = 3) ∧
    Begins (queued markWords id id) 2 5 (cmdOf markWords) ∧
    (Begins (queued usageWords id id) 2 6 (cmdOf usageWords) ∧ ResultOpen (queued usageWords id id) (cmdOf usageWords) (range 0 0) 0x60000 64 ∧
      ((queued usageWords id id).dev.ctx 0).st = .live ∧ ((queued usageWords id id).dev.ctx 0).berth = 0) ∧
    (Begins (queued timeWords id id) 2 7 (cmdOf timeWords) ∧ ResultOpen (queued timeWords id id) (cmdOf timeWords) (range 0 0) 0x60000 8) ∧
    (∀ on ∈ [true, false], let s := queued ledgerWords id (fenced on)
     Begins s 2 8 (cmdOf ledgerWords) ∧ s.dev.ldg.enable = on ∧ (s.dev.ctx 0).ledger = true ∧ (mget LdgBuf.reset s.dev.ldg.bufs (cpSource 2)).recs = []) := by
  refine ⟨⟨begins_of (by decide +kernel) (by decide +kernel), by decide +kernel⟩, ⟨begins_of (by decide +kernel) (by decide +kernel), by decide +kernel⟩,
    ⟨begins_of (by decide +kernel) (by decide +kernel), by decide +kernel⟩, ⟨begins_of (by decide +kernel) (by decide +kernel), by decide +kernel⟩,
    fun v h => ?_, begins_of (by decide +kernel) (by decide +kernel),
    ⟨begins_of (by decide +kernel) (by decide +kernel), resultOpen_of (by decide +kernel), by decide +kernel⟩,
    ⟨begins_of (by decide +kernel) (by decide +kernel), resultOpen_of (by decide +kernel)⟩, fun on h => ?_⟩ <;>
  simp only [List.mem_cons, List.not_mem_nil, or_false] at h <;> rcases h with rfl | rfl <;>
  exact ⟨begins_of (by decide +kernel) (by decide +kernel), by decide +kernel⟩

/-! ### Admin commands -/

/-- Queue 2 as an admin queue with one record, and the device changed. -/
def adminQ (ws : List Nat) (f : Dev → Dev) : State := queued ws (fun x => { x with admin := true }) f

/-- A range of 16 pages at 2^30, another in its place with fewer permissions, and one over the range from 0. -/
def rangeAt (pages perm target : Nat) (start : Nat) : Nat := start + 2 ^ 44 * perm + 2 ^ 64 * (pages - 1) + 2 ^ 140 * target
def mapWords (e : Nat) : List Nat := [0x42, 0, 0, e % 2 ^ 64, e / 2 ^ 64 % 2 ^ 64, e / 2 ^ 128 % 2 ^ 64, e / 2 ^ 192, 0]
/-- The same, its words read as one number. -/
def entryOfWords (m : Cmd) : BitVec 256 := BitVec.ofNat 256 (m.word 3 + 2 ^ 64 * m.word 4 + 2 ^ 128 * m.word 5 + 2 ^ 192 * m.word 6)
def createWords : List Nat := [0x40, 0, 0, 0x80000, 4 + 2 ^ 6, 0, 0, 0]
def destroyWords : List Nat := [0x41, 0, 0, 0, 0, 0, 0, 0]
def unmapWords (start : Nat) : List Nat := [0x43, 0, 0, start, 0x2000, 0, 0, 0]
def resumeWords (tag : Nat) : List Nat := [0x44, 0, 0, 65 + 2 ^ 16 * tag, 0, 0, 0, 0]
def replayWords (tag : Nat) : List Nat := [0x45, 0, 0, 3 + 2 ^ 16 * tag, 0, 0, 0, 0]
def killWords : List Nat := [0x46, 0, 0, 3 + 2 ^ 16 * 9, 0, 0, 0, 0]
def exportWords : List Nat := [0x47, 0, 0, 7, 5 + 2 ^ 28, 0, 0, 0]
def resetWords : List Nat := [0x48, 0, 0, 6, 0, 0, 0, 0]

/-- Context 0 is Aborted. -/
def dead (d : Dev) : Dev := { d with ctl := { d.ctl with ctxs := [(0, { d.ctx 0 with st := .aborted })] } }
/-- Context 0 has room for `n` entries, as a power of two. -/
def roomFor (n : Nat) (d : Dev) : Dev := { d with ctl := { d.ctl with ctxs := [(0, { d.ctx 0 with cap := n })] } }
/-- Stream 65 is Faulted with tag 9. -/
def faulted65 (d : Dev) : Dev := { d with ctl := { d.ctl with streams := [(65, { Stream.reset with
  st := .faulted, fault := some { SFault.reset with tag := 9, time := 2 ^ 40 } })] } }
/-- Group 0 of core 3 is parked with tag 9. -/
def parked3 (d : Dev) : Dev := { d with cores := [(3, oneGroup { grp with
  st := .parked, park := some { ParkInfo.reset with tag := 9, time := 2 ^ 40, pc := 0x1000#64, active := 0xFF, completed := 0xF } } 64 (range 0 0))] }
/-- Fence 7 is context 0's, exported to `n` others. -/
def shared7 (n : Nat) (d : Dev) : Dev := { d with ctl := { d.ctl with
  fences := [(7, { Fence.reset with valid := true, exports := (List.range n).map fun i => { Export.reset with ctx := 10 + i } })] } }
/-- Berth 6 is Live, or Resetting. -/
def berth6 (st : BerthSt) (r : Option ResetRec) (d : Dev) : Dev :=
  { d with ctl := { d.ctl with berths := d.ctl.berths ++ [(6, { Berth.reset with st := st, rst := r })] } }

/-- The two entries of the table that a MAP of pages 2^18 to 2^18 + 15 leaves do not fit in one. -/
def mapNew : Nat := rangeAt 16 0xF 0x100 (2 ^ 18)

theorem witness_adminCommands :
    (let s := adminQ createWords id
     Begins s 2 0x40 (cmdOf createWords) ∧ lowestFree 4096 (s.dev.ctl.ctxs.filterMap fun e => if e.2.st = .free then none else some e.1) = some 1 ∧
      (s.dev.ctl.ctxs.filter fun e => e.2.st != .free && e.2.berth == 0).length < (s.dev.berth 0).ctxLimit) ∧
    (let s := adminQ destroyWords dead
     Begins s 2 0x41 (cmdOf destroyWords) ∧ (s.dev.ctx 0).st = .aborted ∧ (s.dev.ctx 0).abort = none ∧ (s.dev.ctx 0).orphans = 0) ∧
    (∀ cap ∈ [4, 0], let s := adminQ (mapWords mapNew) (roomFor cap)
      Begins s 2 0x42 (cmdOf (mapWords mapNew)) ∧ s.dev.mapInvalid 0 (entryOfWords (cmdOf (mapWords mapNew))) = false ∧ s.dev.table 0 = [range 0 0] ∧ s.dev.oldWalks 0 = false ∧
        reOverlaps (range 0 0) (2 ^ 18) (2 ^ 18 + 16) = false) ∧
    (∀ r ∈ [0, 1], let e := mapNew + 2 ^ 50 * r
      let s := adminQ (mapWords e) fun d => d.poke State.reset.clk 0 0x10000 (bytesOf 32 mapNew)
      Begins s 2 0x42 (cmdOf (mapWords e)) ∧ s.dev.mapInvalid 0 (entryOfWords (cmdOf (mapWords e))) = false ∧ s.dev.table 0 = [BitVec.ofNat 256 mapNew] ∧
        reWidens (BitVec.ofNat 256 mapNew) (entryOfWords (cmdOf (mapWords e))) = true) ∧
    (let s := adminQ (mapWords (rangeAt 16 0xF 0x100 0)) id
     Begins s 2 0x42 (cmdOf (mapWords (rangeAt 16 0xF 0x100 0))) ∧ s.dev.mapInvalid 0 (entryOfWords (cmdOf (mapWords (rangeAt 16 0xF 0x100 0)))) = false ∧
      reOverlaps (range 0 0) 0 16 = true ∧ reRes (range 0 0) < 2 ∧ reWidens (range 0 0) (entryOfWords (cmdOf (mapWords (rangeAt 16 0xF 0x100 0)))) = false) ∧
    (let s := adminQ (mapWords (rangeAt 16 0xF 0x100 (2 ^ 44 - 1))) id
     Begins s 2 0x42 (cmdOf (mapWords (rangeAt 16 0xF 0x100 (2 ^ 44 - 1)))) ∧
      s.dev.mapInvalid 0 (entryOfWords (cmdOf (mapWords (rangeAt 16 0xF 0x100 (2 ^ 44 - 1))))) = true) ∧
    (∀ a ∈ [0x5000, 2 ^ 40], let s := adminQ (unmapWords a) id
      Begins s 2 0x43 (cmdOf (unmapWords a)) ∧ s.dev.oldWalks 0 = false ∧ (s.dev.ctx 0).unmaps = [] ∧ (s.dev.ctx 0).cap = 4) ∧
    (∀ tag ∈ [9, 8], let s := adminQ (resumeWords tag) faulted65
      Begins s 2 0x44 (cmdOf (resumeWords tag)) ∧ (s.dev.stream 65).st = .faulted ∧ (s.dev.stream 65).ctx = 0 ∧
        (s.dev.stream 65).fault = some { SFault.reset with tag := 9, time := 2 ^ 40 } ∧ gtime s.clk s.dev ≤ 2 ^ 40 + msec s.dev.lkp.parkLimit) ∧
    (∀ tag ∈ [9, 8], let s := adminQ (replayWords tag) parked3
      Begins s 2 0x45 (cmdOf (replayWords tag)) ∧ (s.dev.parkedOf s.clk (cmdOf (replayWords tag))).isSome = decide (tag = 9)) ∧
    (let s := adminQ killWords parked3
     Begins s 2 0x46 (cmdOf killWords) ∧ (s.dev.parkedOf s.clk (cmdOf killWords)).isSome = true ∧ ((s.dev.core 3).blockOf 0).queue ≠ 2) ∧
    (∀ n ∈ [0, 8], let s := adminQ exportWords (shared7 n)
      Begins s 2 0x47 (cmdOf exportWords) ∧ (s.dev.fence 7).valid = true ∧ (s.dev.fence 7).owner = 0 ∧ (s.dev.fence 7).exports.length = n ∧
        (∀ e ∈ (s.dev.fence 7).exports, ¬ (e.ctx = 5 ∧ e.dev = s.dev.id)) ∧ s.dev.exporting 7 = 0 ∧ s.dev.ctl.imports = [] ∧
        bitsAt ((cmdOf exportWords).word 4) 0 16 = 5) ∧
    (let s := adminQ resetWords (berth6 .live none)
     Begins s 2 0x48 (cmdOf resetWords) ∧ (s.dev.berth 6).st = .live ∧ (∀ e ∈ s.dev.ctl.ctxs, e.2.berth ≠ 6)) ∧
    (let s := adminQ resetWords (berth6 .resetting (some ResetRec.reset))
     Begins s 2 0x48 (cmdOf resetWords) ∧ (s.dev.berth 6).st = .resetting ∧ (s.dev.berth 6).rst = some ResetRec.reset) := by
  refine ⟨⟨begins_of (by decide +kernel) (by decide +kernel), by decide +kernel⟩, ⟨begins_of (by decide +kernel) (by decide +kernel), by decide +kernel⟩,
    fun v h => ?_, fun v h => ?_, ⟨begins_of (by decide +kernel) (by decide +kernel), by decide +kernel⟩,
    ⟨begins_of (by decide +kernel) (by decide +kernel), by decide +kernel⟩, fun v h => ?_, fun v h => ?_, fun v h => ?_,
    ⟨begins_of (by decide +kernel) (by decide +kernel), by decide +kernel⟩, fun v h => ?_,
    ⟨begins_of (by decide +kernel) (by decide +kernel), by decide +kernel⟩, ⟨begins_of (by decide +kernel) (by decide +kernel), by decide +kernel⟩⟩ <;>
  simp only [List.mem_cons, List.not_mem_nil, or_false] at h <;> rcases h with rfl | rfl <;>
  exact ⟨begins_of (by decide +kernel) (by decide +kernel), by decide +kernel⟩

/-! ### The end of commands and contexts -/

/-- A finished command of queue 2, with word 1 and a status. -/
def done2 (w0 w1 w2 st : Nat) : Cmd := { cmdOf [w0, w1, w2, 0, 0, 0, 0, 0] with status := some st }

/-- Queue 2 holds a command; ring 1 of berth 0 is enabled, with `n` records in it; fence 7 is the context's. -/
def posting (m : Cmd) (n : Nat) : State := { after fun d => { d with ctl := { d.ctl with
    queues := [(2, { Queue.reset with enable := true, granted := true, cmds := [m], nextOrder := 1 })]
    berths := [(0, { d.berth 0 with rings := [(1, { Ring.reset with base := 0x70000, enable := true, prod := BitVec.ofNat 32 n })] })]
    fences := [(7, { Fence.reset with valid := true })] } } with clk := { State.reset.clk with tsc := 2 ^ 40 } }

theorem atRest_of {d : Dev} {line : Nat}
    (h : ((d.slice (d.lineSlice line)).dirOf line = none ∧ (∀ r ∈ (d.slice (d.lineSlice line)).recalls, r.ent.line ≠ line) ∧
        ∀ a ∈ (d.slice (d.lineSlice line)).atoms, a.line ≠ line) ∧
      (∀ e ∈ d.cores, e.2.copyOf line = none) ∧ (d.slice (d.lineSlice line)).frameOf (d.setOfLine line) line = none ∧
      (∀ f ∈ (d.slice (d.lineSlice line)).victim, f.line ≠ line) ∧ (∀ e ∈ (d.slice (d.lineSlice line)).wcb, e.line ≠ line) ∧
      (d.slice (d.lineSlice line)).wcb.length < 64) : AtRest d line :=
  ⟨⟨h.1.1, h.1.2.1, h.1.2.2⟩, h.2.1, h.2.2.1, h.2.2.2.1, h.2.2.2.2.1, h.2.2.2.2.2⟩

/-- A command of queue 2 that has begun and waits. -/
def waiting2 (dev : Nat) : Cmd := { cmdOf [4, 0, 0, 7 + 2 ^ 16 * dev, 9, 3, 0, 0] with waiting := true, deadline := some 500 }

/-- A NOP, and a record of an unknown opcode. -/
def nopWords : List Nat := [0, 0, 0, 0, 0, 0, 0, 0]
def oddWords : List Nat := [0x3F, 0, 0, 0, 0, 0, 0, 0]

theorem witness_commandsPost :
    (∀ m ∈ [done2 1 0x10 0 0, done2 1 (0x110 + 2 ^ 16 * 7) 5 0, done2 0x201 0x10 0 0, done2 1 0x10 0 2], ∀ n ∈ [0, 16],
      let s := posting m n
      Calm s.dev ∧ s.dev.latent = [] ∧ s.dev.stopped = false ∧ (s.dev.berth 0).st ≠ .resetting ∧ s.dev.nextPost 2 = some m ∧
      s.dev.cmd 2 m.order = some m ∧ m.status.isSome = true ∧ m.signalled = false ∧ bitsAt (m.word 1) 4 4 = 1 ∧ (s.dev.ring 0 1).enable = true ∧
      (s.dev.ring 0 1).full = decide (n = 16) ∧ (s.dev.ring 0 1).base % 64 = 0 ∧ s.dev.mayFence 7 m.ctx s.dev.id true = true ∧
      (s.dev.fence 7).value.toNat < 5) ∧
    AtRest (posting (done2 1 0x10 0 2) 0).dev (2 ^ 38 * (posting (done2 1 0x10 0 2) 0).dev.id + 0x70000 / 128) ∧
    (Begins (queued nopWords id id) 2 0 (cmdOf nopWords) ∧ (queued nopWords id id).dev.nextPost 2 = none) ∧
    (AtHead (queued oddWords id id) 2 0x3F (cmdOf oddWords) ∧ (queued oddWords id id).dev.cmdCheck 2 (cmdOf oddWords) = some 0x0E) ∧
    (let s := posting (waiting2 0) 0
     s.dev.cmd 2 0 = some (waiting2 0) ∧ (waiting2 0).opcode = 4 ∧ (waiting2 0).status = none ∧ (waiting2 0).fenceDev = s.dev.id ∧
      (waiting2 0).deadline = some 500 ∧ 500 ≤ s.clk.tsc) ∧
    (let s := linked id [] fun d => { d with ctl := (posting (waiting2 1) 0).dev.ctl }
     s.dev.cmd 2 0 = some (waiting2 1) ∧ (waiting2 1).fenceDev ≠ s.dev.id ∧ (waiting2 1).reqs = [] ∧ (waiting2 1).pollAt + usec 1 ≤ s.clk.tsc ∧
      s.dev.reachable (waiting2 1).fenceDev = true ∧ s.dev.stopped = false ∧ (s.dev.berth 0).st ≠ .resetting) := by
  refine ⟨fun m h n h' => ?_, atRest_of (by decide +kernel), ⟨begins_of (by decide +kernel) (by decide +kernel), by decide +kernel⟩,
    ⟨atHead_of (by decide +kernel), by decide +kernel⟩, by decide +kernel, by decide +kernel⟩
  simp only [List.mem_cons, List.not_mem_nil, or_false] at h h'
  unfold Calm
  rcases h with rfl | rfl | rfl | rfl <;> rcases h' with rfl | rfl <;> decide +kernel

/-- Context 0 has an UNMAP that drains, of the pages 5 and 6, and a table in which they are withdrawing; `ops` says whether a stream still has a
read of it out. -/
def unmapping (ops : Bool) : State := { after fun d =>
    let e := (reSet (BitVec.ofNat 256 (rangeAt 2 0xF 0 5)) 52 1 1).toNat
    let d := d.poke State.reset.clk 0 0x10000 (bytesOf 32 (rangeAt 5 0xF 0 0) ++ bytesOf 32 e)
    { d with ctl := { d.ctl with
      queues := [(3, { Queue.reset with cmds := [cmdOf (unmapWords 0x5000)] })]
      streams := if ops then [(65, { Stream.reset with st := .running, txns := [BTxn.reset] })] else []
      ctxs := [(0, { d.ctx 0 with area := 0x10000, cap := 4, count := 2, epoch := 1
                                  unmaps := [{ UnmapRec.reset with queue := 3, start := 0x5000, len := 0x2000, epoch := 1 }] })] } } with
  clk := { State.reset.clk with tsc := 2 ^ 40 } }

/-- Context 0 is being aborted for a DESTROY_CONTEXT of queue 3, and owns fence 7 or none; `ops` as above. -/
def aborting (ops own : Bool) : State := { after fun d => { d with ctl := { d.ctl with
    queues := [(3, { Queue.reset with cmds := [cmdOf destroyWords] })]
    streams := if ops then [(65, { Stream.reset with st := .running, txns := [BTxn.reset] })] else []
    fences := if own then [(7, { Fence.reset with valid := true })] else []
    imports := [{ Import.reset with fence := 7 }]
    ctxs := [(0, { d.ctx 0 with st := .aborted, abort := some { AbortRec.reset with reason := 1, waits := [(3, 0)] } })] } } with
  clk := { State.reset.clk with tsc := 2 ^ 40 } }

/-- Berth 6 is Resetting for a BERTH_RESET of queue 3, with one context and a queue and a fence of its own. -/
def resetting6 : State := after fun d => { d with ctl := { d.ctl with
    queues := [(3, { Queue.reset with cmds := [cmdOf resetWords] }), (4, { Queue.reset with berth := 6, enable := true, cmds := [cmdOf markWords] })]
    fences := [(8, { Fence.reset with berth := 6, valid := true })]
    berths := [(6, { Berth.reset with st := .resetting, rst := some { ResetRec.reset with waits := [(3, 0)] } })]
    ctxs := [(1, { Ctx.reset with st := .aborted, berth := 6 })] } }

theorem witness_contextsEnd :
    (∀ ops ∈ [true, false], let s := unmapping ops
      Calm s.dev ∧ s.dev.latent = [] ∧ s.dev.stopped = false ∧ (s.dev.ctx 0).unmaps =
        [{ UnmapRec.reset with queue := 3, start := 0x5000, len := 0x2000, epoch := 1 }] ∧ (s.dev.ctx 0).st = .live ∧ s.dev.oldWalks 0 = false ∧
      s.dev.outstanding 0 (olderTag (s.dev.ctx 0).epoch 1) = (if ops then 1 else 0) ∧ 0 + msec 50 ≤ s.clk.tsc ∧
      ((s.dev.table 0).filter reWithdrawing).length = 1) ∧
    (∀ ops ∈ [true, false], let s := aborting ops (!ops)
      Calm s.dev ∧ s.dev.latent = [] ∧ s.dev.stopped = false ∧ (s.dev.ctx 0).abort = some { AbortRec.reset with reason := 1, waits := [(3, 0)] } ∧
      s.dev.outstanding 0 (fun _ => true) = (if ops then 1 else 0) ∧ s.dev.cancelling 0 = [] ∧ 0 + msec 12 ≤ s.clk.tsc ∧
      (s.dev.orphan 0 (fun _ => true) true).1 = (if ops then 1 else 0) ∧ (ops = true → s.dev.ctl.fences = []) ∧
      (∀ m ∈ (s.dev.queue 3).cmds, m.order = 0 → m.opcode = 0x41) ∧ (∀ e ∈ s.dev.ctl.streams, (e.2.queue, e.2.order) ≠ (3, 0))) ∧
    (let s := resetting6
     Calm s.dev ∧ s.dev.latent = [] ∧ s.dev.stopped = false ∧ (s.dev.berth 6).rst = some { ResetRec.reset with waits := [(3, 0)] } ∧
      s.dev.dirLines 6 = [] ∧ s.dev.farLines 6 = [] ∧
      ∀ e ∈ s.dev.ctl.ctxs, e.2.berth = 6 → s.dev.ctx e.1 = e.2 ∧ e.2.st = .aborted ∧ e.2.abort = none ∧ e.2.orphans = 0) := by
  refine ⟨fun m h => ?_, fun m h => ?_, by unfold Calm; decide +kernel⟩ <;>
  simp only [List.mem_cons, List.not_mem_nil, or_false] at h <;> unfold Calm <;> rcases h with rfl | rfl <;> decide +kernel

/-! ### Registers -/

/-- Queue 2 in some state, which window 0 reaches and window 5 does not. -/
def queue2 (x : Queue → Queue) : State := queued markWords x id

/-- The states of the queue that each clause of its registers speaks of. -/
theorem witness_queueRegisters :
    (∀ x ∈ [(id : Queue → Queue), fun x => { x with enable := false, base := 0x50000 }, fun x => { x with enable := false, base := 0x50040 },
        fun x => { x with head := 1 }, fun x => { x with halted := true }],
      Calm (queue2 x).dev ∧ (queue2 x).dev.queWindow 0 2 = true ∧ (queue2 x).dev.queWindow 5 2 = false) ∧
    (let x := (queue2 id).dev.queue 2
     x.enable = true ∧ (x.tail - x.head).toNat ≤ ((16 : BitVec 32) - x.head).toNat ∧ ((16 : BitVec 32) - x.head).toNat ≤ 2 ^ x.sizeLog2 ∧
      2 ^ x.sizeLog2 < ((17 : BitVec 32) - x.head).toNat ∧ x.state = 2 ∧ x.halted = false) ∧
    (∀ a ∈ [0x50000, 0x50040], let x := (queue2 fun x => { x with enable := false, base := a }).dev.queue 2
      x.enable = false ∧ x.granted = true ∧ 4 ≤ x.sizeLog2 ∧ x.sizeLog2 ≤ 16 ∧ (x.base % (64 * 2 ^ x.sizeLog2) = 0 ↔ a = 0x50000) ∧
        (queue2 fun x => { x with enable := false, base := a }).dev.ownsSpan 0 a (64 * 2 ^ x.sizeLog2) = true) ∧
    ((queue2 fun x => { x with head := 1 }).dev.queue 2).state = 1 ∧ ((queue2 fun x => { x with halted := true }).dev.queue 2).state = 4 := by
  refine ⟨fun x h => ?_, by decide +kernel, by decide +kernel, by decide +kernel, by decide +kernel⟩
  simp only [List.mem_cons, List.not_mem_nil, or_false] at h
  unfold Calm
  rcases h with rfl | rfl | rfl | rfl | rfl <;> decide +kernel

/-- Fence 7 in some state, with queue 3's wait for it. -/
def fence7 (f : Fence → Fence) : State := { after fun d => { d with ctl := { d.ctl with
    berths := [(0, { d.berth 0 with rings := [(0, { Ring.reset with base := 0x70000, enable := true })] })]
    fences := [(7, f { Fence.reset with value := 3, valid := true, granted := true })]
    queues := [(3, { Queue.reset with cmds := [{ cmdOf (waitWords 4) with waiting := true }] })] } } with
  clk := { State.reset.clk with tsc := 2 ^ 40 } }

/-- Queue 3 waits for value 4. -/
def waits4 : Waiter := { Waiter.reset with queue := 3, target := 4 }

theorem witness_fenceRegisters :
    (∀ f ∈ [(id : Fence → Fence), fun x => { x with waiters := [waits4] }, fun x => { x with strict := true }, fun x => { x with value := aborted },
        fun x => { x with valid := false }],
      let s := fence7 f
      Calm s.dev ∧ s.dev.latent = [] ∧ s.dev.fenWindow 0 7 = true ∧ s.dev.fenWindow 5 7 = false ∧ (s.dev.ring 0 0).enable = true ∧
        (s.dev.ring 0 0).full = false) ∧
    (let x := (fence7 fun x => { x with waiters := [waits4] }).dev.fence 7
     x.valid = true ∧ x.value ≠ aborted ∧ x.value.toNat < (4 : BitVec 64).toNat ∧ (4 : BitVec 64) ≠ aborted ∧ (2 : BitVec 64).toNat < x.value.toNat ∧
      x.waiters = [waits4] ∧ bitsAt (5 + 2 ^ 16) 0 16 ≠ x.owner) ∧
    ((fence7 fun x => { x with value := aborted }).dev.fence 7).value = aborted ∧ ((fence7 fun x => { x with strict := true }).dev.fence 7).strict = true ∧
    ((fence7 id).dev.fence 7).waiters = [] ∧
    (let s := fence7 fun x => { x with valid := false }
     (s.dev.fence 7).valid = false ∧ bitAt (2 ^ 16) 16 = true ∧ (s.dev.fence 7).granted = true ∧ (s.dev.ctx 0).st = .live ∧
      (s.dev.ctx 0).berth = (s.dev.fence 7).berth) := by
  refine ⟨fun x h => ?_, by decide +kernel, by decide +kernel, by decide +kernel, by decide +kernel, by decide +kernel⟩
  simp only [List.mem_cons, List.not_mem_nil, or_false] at h
  unfold Calm
  rcases h with rfl | rfl | rfl | rfl | rfl <;> decide +kernel

/-- Berth 0 in some state, beside a second berth that may be given pages. -/
def berth0 (f : Berth → Berth) (g : Dev → Dev) : State := after fun d => g { d with ctl := { d.ctl with
  berths := [(0, f { d.berth 0 with fqSize := 4, fqProd := 3, rings := [(0, { Ring.reset with base := 0x70000, enable := true }),
    (1, { Ring.reset with base := 0x80000, prod := 5 }), (2, { Ring.reset with base := 0x90000, enable := true })] }),
    (6, { Berth.reset with st := .live })] } }

/-- Stream 65 faulted while berth 0's fault queue had one slot, which was taken. -/
def pending65 : State := berth0 (fun x => { x with fqSize := 0, fqProd := 1, fqBase := 0xA0000 }) fun d => { d with ctl := { d.ctl with
  streams := [(65, { Stream.reset with st := .faulted, fault := some { SFault.reset with pend := true } })] } }

theorem witness_berthRegisters :
    (let s := berth0 id id
     Calm s.dev ∧ s.dev.latent = [] ∧ s.dev.bthWindow 0 0 = true ∧ s.dev.stopped = false ∧ s.dev.hasPending 0 = false ∧
      ((2 : BitVec 32) - (s.dev.berth 0).fqCons).toNat ≤ ((s.dev.berth 0).fqProd - (s.dev.berth 0).fqCons).toNat ∧
      ((5 : BitVec 32) - (s.dev.ring 0 1).cons).toNat ≤ ((s.dev.ring 0 1).prod - (s.dev.ring 0 1).cons).toNat ∧
      ((s.dev.ring 0 1).prod - (s.dev.ring 0 1).cons).toNat < ((6 : BitVec 32) - (s.dev.ring 0 1).cons).toNat ∧
      (s.dev.ring 0 1).enable = false ∧ bitAt (1 + 2 * 4) 0 = true ∧ bitsAt (1 + 2 * 4) 1 5 = 4 ∧ (s.dev.ring 0 1).base % (64 * 2 ^ 4) = 0 ∧
      s.dev.ownsSpan 0 (s.dev.ring 0 1).base (64 * 2 ^ 4) = true ∧ (s.dev.ring 0 2).enable = true ∧ s.dev.mem.grant = none ∧
      (9 + 2 ^ 25 * 6) % 2 ^ 25 < hbmSize / 65536 ∧ bitAt (mget 0 s.dev.mem.owner 9) 5 = false ∧ mget 0 s.dev.mem.owner 9 % 32 = 0 ∧
      (s.dev.berth 6).st ≠ .absent ∧ (s.dev.berth 0).attest = none) ∧
    (let s := pending65
     Calm s.dev ∧ s.dev.latent = [] ∧ s.dev.bthWindow 0 0 = true ∧ s.dev.pendings 0 = [65] ∧ (s.dev.stream 65).berth = 0 ∧
      (s.dev.stream 65).fault = some { SFault.reset with pend := true } ∧ 0 < ((1 : BitVec 32) - (s.dev.berth 0).fqCons).toNat ∧
      ((s.dev.berth 0).fqProd - 1).toNat < 2 ^ (s.dev.berth 0).fqSize) ∧
    (let s := berth0 id fun d => { d with mem := { d.mem with grant := some { page := 9, berth := 6 } } }
     s.dev.stopped = false ∧ s.dev.mem.grant = some { page := 9, berth := 6 }) ∧
    (let s := berth0 (fun x => { x with attest := some 0xB0000 }) id
     (s.dev.berth 0).attest = some 0xB0000 ∧ s.dev.lkp.identityOff = false ∧ (s.dev.ring 0 0).enable = true ∧ (s.dev.ring 0 0).full = false) := by
  unfold Calm
  decide +kernel

/-- Ready, with the low half of LKP_ARG written by the Lockkeeper's own access; requester 3 has no rights. -/
def regs (f : Dev → Dev) : State := { after fun d => f { d with
    lkp := { d.lkp with applied := true }, shadows := [{ Shadow.reset with off := 0xC, isRead := false, val := [7] }]
    fab := { d.fab with ports := [(2, { peer0 with st := .down })] } } with clk := { State.reset.clk with tsc := 2 ^ 40 } }

theorem witness_registerAccesses :
    let s := regs id
    Calm s.dev ∧ s.dev.stopped = false ∧ (∀ off ∈ [0x200000, 0x100008, 0xE0040, 0x90000], isPair off = true ∧ off < regWindow ∧
      regAligned off = true ∧ s.dev.mayReach 0 off false = true ∧ s.dev.mayReach 0 off true = true ∧ s.dev.mayReach 3 off true = false) ∧
    s.dev.mayReach 0 0x14 true = true ∧ s.dev.mayReach 0 0x10 true = true ∧ s.dev.mayReach 0 0x5028 true = true ∧ s.dev.lkp.applied = true ∧
    (s.dev.shadowOf 0 0xC false).map Shadow.val = some [(7 : BitVec 32)] ∧
    s.dev.mayReach 0 (0x110000 + 0x80 * 2 + 0x40) false = true ∧ (s.dev.port 2).role ≠ .unused ∧ s.dev.pwr.st = .underway ∧
    s.dev.lkp.st = .ready ∧ bitAt 3 0 = true ∧ bitAt 2 0 = false := by
  unfold Calm
  decide +kernel

/-- A mark of queue 2 that waits for the ledger. -/
def ledgerRec (kind : Nat) : LdgRec := { LdgRec.reset with time := 9, kind := kind, obj := 5, queue := some (2, 0) }

/-- The ledger records into a ring of one unit, with one record in the buffer of the source of queue 2. -/
def ledgering (f : Ledger → Ledger) : State := after fun d => { d with
  ctl := { d.ctl with queues := [(2, { Queue.reset with cmds := [cmdOf ledgerWords] })] }
  ldg := f { d.ldg with enable := true, st := .recording, mode := 2, size := 1, base := 0x100000, pre := 8
                        bufs := [(cpSource 2, { LdgBuf.reset with recs := [ledgerRec 0x0A, ledgerRec 0x04] })] } }

theorem witness_ledgerRows :
    (∀ f ∈ [(id : Ledger → Ledger), fun x => { x with size := 0 }, fun x => { x with mode := 0 }, fun x => { x with enable := false, st := .off, bufs := [] }],
      Calm (ledgering f).dev ∧ (ledgering f).dev.latent = [] ∧ (ledgering f).dev.stopped = false) ∧
    (let l := (ledgering id).dev.ldg
     l.st = .recording ∧ l.mode = 2 ∧ l.slots ≠ 0 ∧ l.enable = true ∧ l.causes (ledgerRec 0x0A) = 0 ∧ l.base % 32 = 0 ∧
      (mget LdgBuf.reset l.bufs (cpSource 2)).recs = [ledgerRec 0x0A, ledgerRec 0x04] ∧ (ledgering id).dev.cmd 2 0 = some (cmdOf ledgerWords) ∧
      (cmdOf ledgerWords).status = none) ∧
    AtRest (ledgering id).dev (2 ^ 38 * (ledgering id).dev.id + 0x100000 / 128) ∧
    (ledgering fun x => { x with size := 0 }).dev.ldg.slots = 0 ∧ (ledgering fun x => { x with mode := 0 }).dev.ldg.mode ≠ 2 ∧
    (ledgering fun x => { x with enable := false, st := .off, bufs := [] }).dev.ldg.enable = false := by
  refine ⟨fun x h => ?_, by decide +kernel, atRest_of (by decide +kernel), by decide +kernel, by decide +kernel, by decide +kernel⟩
  simp only [List.mem_cons, List.not_mem_nil, or_false] at h
  unfold Calm
  rcases h with rfl | rfl | rfl | rfl <;> decide +kernel

/-! ### Power -/

/-- Ready, with the power state and the clocks changed. -/
def powered (f : Power → Power) (k : Clock → Clock) : State :=
  { after fun d => { d with pwr := f d.pwr } with clk := k { State.reset.clk with tsc := 2 ^ 40 } }

/-- The rises that a loop may make: long below its limit, with a level to give back. -/
def recovering (w : Power) : Power :=
  { w with thermal := 14, current := 14, timing := 14, capLvl := 14, capStack := [false], coolSince := some 0, avgLow := some 0, slackOk := some 0
           capLow := some 0 }

theorem witness_loopsHoldThePoint :
    (∀ p ∈ [((id : Power → Power), (id : Clock → Clock)), (fun w => { w with thermal := 13 }, id), (id, fun k => { k with setting := 14 }),
        (id, fun k => { k with setting := 14, upAt := 2 ^ 40 })],
      let s := powered p.1 p.2
      Calm s.dev ∧ s.dev.latent = [] ∧ s.dev.stopped = false ∧ s.clk.inReset = false ∧ s.clk.slot = 0 ∧ s.clk.changedAt + usec 1 ≤ s.clk.tsc ∧
        s.dev.looping = true) ∧
    (let s := powered (fun w => { w with thermal := 13 }) id
     s.dev.level < s.clk.setting ∧ s.dev.pwr.thermAt + usec 100 ≤ s.clk.tsc ∧ 12 < s.dev.pwr.thermal ∧ s.dev.pwr.currAt + usec 1 ≤ s.clk.tsc ∧
      12 < s.dev.pwr.current ∧ s.dev.pwr.currAt + msec 1 ≤ s.clk.tsc ∧ 12 < s.dev.pwr.timing ∧ s.dev.pwr.capAt + msec 1 ≤ s.clk.tsc ∧
      12 < s.dev.pwr.capLvl) ∧
    (let s := powered id fun k => { k with setting := 14 }
     s.clk.setting < s.dev.level ∧ s.clk.upAt + msec 1 ≤ s.clk.tsc) ∧
    (let s := powered id fun k => { k with setting := 14, upAt := 2 ^ 40 }
     s.clk.setting < s.dev.level ∧ s.clk.tsc < s.clk.upAt + msec 1) ∧ (powered id id).clk.setting = (powered id id).dev.level ∧
    (let w := (powered recovering id).dev.pwr
     w.coolSince = some 0 ∧ 0 + msec 1 ≤ (powered recovering id).clk.tsc ∧ w.thermal < 16 ∧ w.avgLow = some 0 ∧ 0 + msec 10 ≤ (powered recovering id).clk.tsc ∧
      w.current < 16 ∧ w.slackOk = some 0 ∧ w.timing < 16 ∧ w.capLow = some 0 ∧ w.capStack = [false] ∧ 100 * 1000 < 95 * w.cap) ∧
    (let s := powered (fun w => { w with timing := 12, capLvl := 12, cap := 500 }) id
     s.dev.pwr.timing ≤ 12 ∧ s.dev.pwr.capLvl ≤ 12 ∧ 0 < s.dev.pwr.coreLimit ∧ s.dev.pwr.cap < 600 ∧ s.dev.looping = true) ∧
    ((powered id id).dev.thermtrip = false ∧ (powered id id).clk.vaon = true) ∧
    (∀ on ∈ [true, false], let s := powered (fun w => { w with unmet := [(0, { Unmet.reset with since := some 0, held := some 0, on := on })] }) id
      (mget Unmet.reset s.dev.pwr.unmet (policyKey 0 0)) = { Unmet.reset with since := some 0, held := some 0, on := on } ∧ 0 + msec 10 ≤ s.clk.tsc ∧
        0 + msec 1000 ≤ s.clk.tsc ∧ s.dev.stopped = false) := by
  refine ⟨fun p h => ?_, by decide +kernel⟩
  simp only [List.mem_cons, List.not_mem_nil, or_false] at h
  unfold Calm
  rcases h with rfl | rfl | rfl | rfl <;> decide +kernel

/-- The device is Mooring, or Moored with its clocks stopped. -/
def moor (st : PwrSt) (wake : Bool) : State := { wharf id fun d => { d with
  pwr := { d.pwr with st := st, wakeEn := wake }, stopped := st == .moored } with clk := { State.reset.clk with tsc := 2 ^ 40 } }

theorem witness_powerStates :
    (let s := powered id id
     Calm s.dev ∧ s.dev.latent = [] ∧ s.dev.admits = true ∧ s.dev.pwr.idleUs ≠ 0 ∧ s.dev.pwr.gated.getLsbD 3 = false ∧ 3 ∉ s.dev.busyDomains ∧
      (∀ c, (s.dev.core c).mshrs = [] ∧ (s.dev.core c).ops = [] ∧ (s.dev.core c).l1 = [] ∧ (s.dev.core c).drained = true) ∧
      mget 0 s.dev.pwr.idleSince 3 + usec s.dev.pwr.idleUs ≤ s.clk.tsc) ∧
    (let s := powered (fun w => { w with gated := 8, waking := [(3, 0)] }) id
     s.dev.stopped = false ∧ mhas s.dev.pwr.waking 3 = true) ∧
    (let s := moor .mooring true
     Calm s.dev ∧ s.dev.latent = [] ∧ s.dev.stopped = false ∧ s.dev.pwr.st = .mooring ∧ s.dev.moorQuiet = true ∧ (s.dev.giveUp s.clk).1 = true ∧
      s.dev.pwr.wakePend = false ∧ (∀ e ∈ s.dev.whf.sessions, (∀ o ∈ e.2.ops, o.parts = []) ∧ (e.2.st = .active → e.2.windowFull = false ∧ e.2.waitq = [])) ∧ s.dev.pwr.wakeEn = true ∧
      s.dev.pwr.wake.toNat ≤ gtime s.clk s.dev) ∧
    (let s := { moor .mooring true with dev := { (moor .mooring true).dev with cores := [(0, oneGroup grp 64 (range 0 0))] } }
     Calm s.dev ∧ s.dev.latent = [] ∧ s.dev.stopped = false ∧ s.dev.pwr.st = .mooring ∧ s.dev.moorQuiet = false ∧
      s.dev.pwr.moorSince + msec 1000 ≤ s.clk.tsc) ∧
    (let s := moor .moored true
     Calm s.dev ∧ s.dev.latent = [] ∧ s.dev.canWake s.clk = true ∧ s.dev.pwr.wakeEn = true ∧ s.dev.pwr.wake.toNat ≤ gtime s.clk s.dev) ∧
    (moor .moored false).dev.pwr.wakeEn = false := by
  unfold Calm
  refine ⟨⟨by decide +kernel, by decide +kernel, by decide +kernel, by decide +kernel, by decide +kernel, by decide +kernel, fun c => ?_, by decide +kernel⟩, by decide +kernel⟩
  exact ⟨rfl, rfl, rfl, rfl⟩

/-- The operating point is due to be measured, a counter ring is open, and an entry is due for the journal. -/
def measuring : State := { after fun d => { d with
    gau := { d.gau with dueEntries := [{ JEntry.reset with kind := 1 }] }
    cnt := { d.cnt with enable := true, size := 1 } } with clk := { State.reset.clk with tsc := 2 ^ 44 } }

theorem witness_measurementsRecorded :
    let s := measuring
    Calm s.dev ∧ s.dev.latent = [] ∧ s.dev.stopped = false ∧ s.dev.lkp.st = .ready ∧ s.dev.pwr.st = .underway ∧
      s.dev.gau.measAt + msec 600000 ≤ s.clk.tsc ∧ s.dev.pwr.gated.getLsbD 5 = false ∧ s.dev.gau.eyes = [] ∧
      (∀ r < 10, (railDomains r).contains 5 = true → (s.dev.rail r).off < railCap r) ∧ s.dev.gau.dueEntries = [{ JEntry.reset with kind := 1 }] ∧
      s.dev.nvmUpdates = false ∧ s.clk.inReset = false ∧ s.clk.vaon = true ∧ s.dev.lkp.st ≠ .retired ∧ s.dev.cnt.enable = true ∧ s.dev.cnt.size ≠ 0 ∧
      (s.clk.tsc - s.dev.cnt.lastAt) / usec s.dev.cnt.inForce ≠ 0 := by
  unfold Calm
  decide +kernel

/-! ### Lockkeeper, boot and board -/

/-- Fuses whose key hashes are those of key 0. -/
def fused : Fuses := { Fuses.reset with fwKey := Config.sha512 0, opKey := Config.sha512 0 }

/-- An image and a manifest that pass: device 0 with berth 0 alone, 256 MiB of its own, eight queues and eight fences. -/
def image1 : Image := {}
def berthRec0 : MBerth := { MBerth.reset with carve := [(0, 4096)], queues := [(0, 8)], fences := [(0, 8)] }
def manifest1 : Manifest := { serial := 3, reaches := [(0, 0)], berths := [berthRec0] }

/-- The non-volatile memory that holds them; the operator's key is fused at the first boot. -/
def stored1 : Perm := { Perm.reset with fuses := { fused with opKey := 0 }, imgState := 1, manState := 1, image := some image1, man := some manifest1 }

/-- The Lockkeeper in some state, with 160 bytes of berth 0's memory as its argument. -/
def lkp (st : LkpSt) (f : Lkp → Lkp) : State :=
  { after fun d => { d with
      lkp := f { d.lkp with st := st, len := 160, arg := 0x10000, manifest := some manifest1 }
      fab := { d.fab with ports := [(2, peer0)], routes := [(1, BitVec.ofNat 64 (2 ^ 2 + 2 ^ 36 * 2 + 2 ^ 41 * 2))] } } with
    perm := { stored1 with fuses := fused } }

theorem imageStatus_image1 (p : Perm) (h : p.fuses = fused) : p.imageStatus image1 = 0 := by
  simp [Perm.imageStatus, image1, Fuses.rollCount, h, fused, Fuses.reset]

theorem imageReason_stored1 (b : BootIn) (p : Perm) (hb : b.nvmOk = true ∧ b.imgRead = true)
    (h : p.headerOk = true ∧ p.imgState = 1 ∧ p.image = some image1 ∧ p.fuses.fwKey = Config.sha512 0 ∧ p.fuses.rollback = 0) :
    imageReason b p = none := by
  simp [imageReason, image1, Fuses.rollCount, h, hb]

theorem manifestReason_manifest1 (p : Perm) (h : p.fuses.opKey = Config.sha512 0 ∧ p.fuses.serial = 0 ∧ p.manSerial ≤ 3) :
    p.manifestReason manifest1 = none := by
  have hc : manifest1.consistent = true := by decide +kernel
  have h3 : ¬ manifest1.serial < p.manSerial := Nat.not_lt.mpr h.2.2
  unfold Perm.manifestReason
  rw [hc, h.1, h.2.1]
  simp [h3]
  simp [manifest1]

theorem loadManifest_any (r : Bool) : loadManifest {} ({ stored1 with retire := r }.fuseOperator {}) = .inr manifest1 := by
  have h : { stored1 with retire := r }.fuseOperator {} = { stored1 with retire := r, fuses := fused } := by
    simp [Perm.fuseOperator, stored1, fused, manifest1]
  rw [h]
  have := manifestReason_manifest1 { stored1 with retire := r, fuses := fused } ⟨rfl, rfl, by show 0 ≤ 3; decide⟩
  simp only [loadManifest, stored1] at this ⊢
  simp [this]

theorem loadManifest_stored1 : loadManifest {} (stored1.fuseOperator {}) = .inr manifest1 := loadManifest_any false

theorem witness_lockkeeperCommands :
    (∀ c ∈ [2, 4, 5, 8], let s := lkp .debug id
      Calm s.dev ∧ s.dev.latent = [] ∧ s.dev.lkpServes = true ∧ s.dev.lkpFree c = true ∧ s.dev.lkp.st = .debug) ∧
    (let s := lkp .ready fun x => { x with busy := true, cmd := 1 }
     Calm s.dev ∧ s.dev.latent = [] ∧ s.dev.lkpServes = true ∧ s.dev.lkp.busy = true ∧ (∀ c ∈ [2, 4, 5, 8], s.dev.lkp.cmd ≠ c) ∧ s.dev.stopped = false) ∧
    (let s := lkp .ready id
     Calm s.dev ∧ s.dev.latent = [] ∧ s.dev.lkpServes = true ∧ (∀ c ∈ [2, 6, 7, 8, 9], s.dev.lkpFree c = true) ∧ s.dev.lkp.st = .ready ∧
      (∀ e ∈ s.dev.ctl.ctxs, e.2.berth ≠ 0 → e.2.st ≠ .live ∧ e.2.abort = none) ∧ s.dev.serving = true ∧ s.dev.argOk = true ∧
      s.dev.lkp.len = 160 ∧ s.perm.fuses.serial = 0 ∧ s.dev.tim.root = s.dev.id ∧ s.dev.stopped = false) ∧
    (lkp .ready id).perm.imageStatus image1 = 0 ∧ (lkp .ready id).perm.imageStatus { image1 with sigOk := false } ≠ 0 ∧
    (lkp .ready id).perm.manifestStatus manifest1 = 0 ∧ (lkp .ready id).perm.manifestStatus { manifest1 with serial := 0 } ≠ 0 ∧
    (lkp .ready fun x => { x with len := 0 }).dev.argOk = false ∧
    (∀ root ∈ [1, 2], let s := { lkp .ready id with dev := { (lkp .ready id).dev with tim := { (lkp .ready id).dev.tim with root := root } } }
      s.dev.tim.root ≠ s.dev.id ∧ s.dev.reachable s.dev.tim.root = decide (root = 1)) ∧
    (let s := lkp .maintenance id
     Calm s.dev ∧ s.dev.latent = [] ∧ s.dev.lkpServes = true ∧ s.dev.lkpFree 4 = true ∧ s.dev.lkpFree 5 = true ∧ s.dev.lkp.st = .maintenance) ∧
    (lkp .ready fun x => { x with consent := some 5 }).dev.lkp.consent = some 5 := by
  unfold Calm
  refine ⟨by decide +kernel, by decide +kernel, by decide +kernel, imageStatus_image1 _ rfl, by simp [Perm.imageStatus], ?_, ?_, by decide +kernel,
    by decide +kernel, by decide +kernel, by decide +kernel⟩
  · simp only [Perm.manifestStatus, manifestReason_manifest1 (lkp .ready id).perm ⟨rfl, rfl, by decide⟩]; decide
  · unfold Perm.manifestStatus; decide

theorem witness_bootsEnd :
    (imageReason {} stored1 = none ∧ loadManifest {} (stored1.fuseOperator {}) = .inr manifest1 ∧ stored1.retire = false ∧
      (∀ n < 8, stackTrains (bootStack {} n) false = true) ∧ { State.reset with perm := stored1 }.dev.lkp.st = .booting ∧
      { State.reset with perm := stored1 }.dev.stopped = false) ∧
    imageReason {} Perm.reset = some 2 ∧
    (imageReason {} { stored1 with man := none } = none ∧ loadManifest {} ({ stored1 with man := none }.fuseOperator {}) = .inl 5) ∧
    (∀ st ∈ [LkpSt.ready, .maintenance], let s := lkp st id
      s.dev.lkpFree 1 = true ∧ s.dev.lkpFree 3 = true ∧ s.dev.serving = true ∧ s.dev.lkp.warmDue = false ∧ bitAt s.dev.lkp.arg.toNat 0 = false ∧
        (((s.dev.lkpBegin 1).haltWork s.clk).giveUp s.clk).1 = true ∧ (((s.dev.lkpBegin 3).haltWork s.clk).giveUp s.clk).1 = true ∧
        s.dev.lkp.manifest = some manifest1 ∧ s.perm.retire = false ∧ s.dev.latent = []) ∧
    imageReason {} (lkp .ready id).perm = none := by
  refine ⟨⟨imageReason_stored1 _ _ (by decide) ⟨rfl, rfl, rfl, rfl, rfl⟩, loadManifest_stored1, rfl, by decide +kernel, rfl, rfl⟩, by decide +kernel,
    ⟨imageReason_stored1 _ _ (by decide) ⟨rfl, rfl, rfl, rfl, rfl⟩, rfl⟩, by decide +kernel,
    imageReason_stored1 _ _ (by decide) ⟨rfl, rfl, rfl, rfl, rfl⟩⟩

theorem witness_boardRows :
    (let s := lkp .ready id
     Calm s.dev ∧ s.clk.sideband = true ∧ (∀ off ∈ [0, 0x1000], (s.dev.regRead s.perm s.clk 1 off).1.isSome = true) ∧
      s.dev.mayReach 1 0xE0000 false = false ∧ s.dev.pwr.st = .underway ∧ s.dev.lkp.st ≠ .retired ∧ s.clk.vaon = true) ∧
    (let s := { moor .moored true with perm := stored1 }
     Calm s.dev ∧ s.clk.sideband = true ∧ s.dev.canWake s.clk = true) ∧
    (let s := lkp .retired id
     Calm s.dev ∧ s.clk.sideband = true ∧ s.dev.lkp.st = .retired) ∧
    (let s := lkp .ready id
     Calm s.dev ∧ s.dev.stopped = false ∧ s.clk.inReset = false ∧ s.clk.vaon = true ∧ s.dev.pwr.st ≠ .moored ∧ s.dev.lkp.st ≠ .retired) ∧
    ({ State.reset.clk with refOk := false } : Clock).sideband = false := by
  unfold Calm
  decide +kernel

theorem witness_emptyQueueTicks :
    State.reset.pending = [] ∧ State.reset.clk.inReset = false ∧ State.reset.clk.refOk = true ∧ State.reset.clk.vaon = true ∧
      State.reset.dev.stopped = false ∧ State.reset.clk.slot < 32 ∧ { State.reset.clk with inReset := true }.inReset = true := by decide

theorem witness_onlyClockRowsTouchClocks : touchesClock (.sidebandPing true) = false ∧ ∃ t, exec (.sidebandPing true) State.reset = .next t :=
  ⟨rfl, _, rfl⟩

theorem witness_fusesOnlyBurn :
    (∃ t, step { State.reset with pending := [.clearRetirement true true], perm := stored1 } = .next t) ∧ fused.opKey = Config.sha512 0 ∧
      ({ Fuses.reset with rollback := 1 } : Fuses).rollback.getLsbD 0 = true := ⟨⟨_, rfl⟩, rfl, by decide⟩

theorem witness_retirementLasts :
    (∃ t, step { State.reset with perm := { stored1 with retire := true } } = .next t) ∧
    (let s := lkp .retired id
     Calm s.dev ∧ s.clk.sideband = true ∧ s.dev.lkp.st = .retired) ∧
    (let s := lkp .ready id
     Calm s.dev ∧ s.dev.stopped = false ∧ s.clk.inReset = false ∧ s.clk.vaon = true ∧ s.dev.pwr.st ≠ .moored ∧ s.dev.lkp.st ≠ .retired) ∧
    (∀ r ∈ [true, false], let s := { State.reset with perm := { stored1 with retire := r }, clk := { State.reset.clk with inReset := true } }
      s.clk.inReset = true ∧ imageReason {} s.perm = none ∧ loadManifest {} (s.perm.fuseOperator {}) = .inr manifest1 ∧ s.perm.retire = r) ∧
    (∀ n < 8, stackTrains (bootStack {} n) false = true) ∧
    stackTrains (bootStack { stks := [{ StackIn.reset with stack := 3, fails := 1 }] } 3) false = false := by
  refine ⟨⟨_, rfl⟩, by unfold Calm; decide +kernel, by unfold Calm; decide +kernel, fun r h => ?_, by decide +kernel, by decide +kernel⟩
  simp only [List.mem_cons, List.not_mem_nil, or_false] at h
  rcases h with rfl | rfl <;> exact ⟨rfl, imageReason_stored1 _ _ (by decide) ⟨rfl, rfl, rfl, rfl, rfl⟩, loadManifest_any _, rfl⟩

theorem witness_limitsAreKept : WithinLimits State.reset ∧ ∃ t, step State.reset = .next t :=
  ⟨⟨by decide, by decide, by decide, by decide, by decide⟩, _, rfl⟩

/-! ### Ill-formed commands -/

theorem test_wf_accepts :
    (∀ i ∈ [Instr.nop 0 0 InsF.reset, .brx 0 0 InsF.reset, .getS (ask .getS), .regRead (opOf3 1 id []), .coldStart {}, .manifestUpdate manifest1 true,
      .counterSample { SampleIn.reset with words := [(160, 5)] }, .flitReceive 2 FlitIn.reset, .ethernetFrame 14 Frame.reset], i.wf = true) := by
  decide +kernel

theorem test_wf_refuses_second_word_of_narrow : (Instr.iadd 0 0 { InsF.reset with ext := 1 }).wf = false := by decide +kernel
theorem test_wf_refuses_brx_with_any_bit : (Instr.brx 0 0 { InsF.reset with body := 16 }).wf = false := by decide +kernel
theorem test_wf_refuses_brxAny_without_it : (Instr.brxAny 0 0 InsF.reset).wf = false := by decide +kernel
theorem test_wf_refuses_packet_of_other_kind : (Instr.getS (ask .getM)).wf = false := by decide +kernel
theorem test_wf_refuses_packet_fields :
    ∀ p ∈ [{ ask .getS with dst := 4096 }, { ask .getS with gen := 16 }, { ask .getS with line := 2 ^ 50 }, { ask .getS with epoch := 8 },
      { ask .getS with berth := 32 }, { ask .getS with lines := 0 }, { ask .getS with acks := 8192 }, { ask .getS with boot := 2 ^ 28 },
      { ask .getS with poison := [128] }], (Instr.getS p).wf = false := by decide +kernel
theorem test_wf_refuses_line_beyond_the_space :
    (Instr.mirrorRepair 0 (2 ^ 50)).wf = false ∧ (Instr.wcbEntryTimeout 0 (2 ^ 50)).wf = false := by decide +kernel
theorem test_wf_refuses_walk_of_no_agent : (Instr.walkComplete 704 0).wf = false ∧ (Instr.coreHeldRetry 0 1024).wf = false := by decide +kernel
theorem test_wf_refuses_flit_fields :
    (Instr.flitReceive 2 { FlitIn.reset with seq := 4096 }).wf = false ∧ (Instr.flitReceive 2 { FlitIn.reset with cr0 := some (8, false, 1) }).wf = false := by
  decide +kernel
theorem test_wf_refuses_host_packets :
    (Instr.join { HostPkt.reset with typ := 3 }).wf = false ∧ (Instr.regRead (opOf3 2 id [])).wf = false ∧
      (Instr.regRead (opOf3 1 (fun o => { o with device := 65536 }) [])).wf = false ∧ (Instr.join { HostPkt.reset with typ := 2, port := 18 }).wf = false ∧
      (Instr.ack { HostPkt.reset with typ := 0x13, events := [{ EventEntry.reset with berth := 256 }] }).wf = false := by decide +kernel
theorem test_wf_refuses_long_frame :
    (Instr.ethernetFrame 14 { Frame.reset with len := 9217 }).wf = false ∧ (Instr.ethernetFrame 14 { Frame.reset with vlan := some 4096 }).wf = false := by
  decide +kernel
theorem test_wf_refuses_readings :
    (Instr.gaugeMeasurement { GaugeIn.reset with meas := [{ Meas.reset with domain := 64 }] }).wf = false ∧
      (Instr.gaugeMeasurement { GaugeIn.reset with meas := [Meas.reset, Meas.reset] }).wf = false ∧
      (Instr.railTelemetryRead [{ RailIn.reset with rail := 11 }]).wf = false ∧ (Instr.marginStacks [{ StackIn.reset with stack := 8 }]).wf = false ∧
      (Instr.marginStacks [StackIn.reset, StackIn.reset]).wf = false ∧ (Instr.counterSample { SampleIn.reset with words := [(159, 1)] }).wf = false := by
  decide +kernel
theorem test_wf_refuses_boots :
    (Instr.coldStart { stks := [StackIn.reset, StackIn.reset] }).wf = false ∧ (Instr.manifestUpdate { manifest1 with device := 4096 } true).wf = false ∧
      (Instr.manifestUpdate { manifest1 with berths := [{ berthRec0 with berth := 32 }] } true).wf = false := by decide +kernel

/-! ### The spec's worked examples -/

/-- The next state, or the state itself. -/
def nextOf (o : Out) (s : State) : State := match o with | .next t => t | _ => s

/-- Spec 03: FFMA.F32 v12, v4, u7, v12 guarded by not p1 is 0x0010_1907_0203_2623; these are its bits [63:14], read as the fields that the
text lists, and written down from them. -/
theorem test_encoding_ffma :
    let f : InsF := { InsF.reset with g := true, gp := 1, gneg := true, body := BitVec.ofNat 50 (0x0010190702032623 / 2 ^ 14) }
    f.d = 12 ∧ f.a = 4 ∧ f.b = 0x107 ∧ f.c = 12 ∧ f.ty = 4 ∧ f.body = (word 12 4 0x107 12 4).body ∧
      0x0010190702032623 % 2 ^ 14 = 0x23 + 2 ^ 9 + 2 ^ 10 * 1 + 2 ^ 13 := by decide +kernel

/-- Spec 01: 0x5_4000_0000 on device 37 is global address 0x4_A005_4000_0000. -/
theorem test_global_address : gaDev 0x4A00540000000 = 37 ∧ gaLocal 0x4A00540000000 = 0x540000000 := by decide +kernel

/-- Spec 07: local address 0x5_4000_0000 lies in stack 2, channel 4, b = 1, slice 36, set 0x2E0; the next granule in stack 3. -/
theorem test_location :
    booted.locOf 0x540000000 = some { stack := 2, ch := 4, b := 1, p := 0x5400000 } ∧ booted.lineSlice (0x540000000 / 128) = 36 ∧
      booted.setOfLine (0x540000000 / 128) = 0x2E0 ∧ (booted.locOf 0x540000200).map Loc.stack = some 3 := by decide +kernel

/-- Spec 03: ATOM.ADD by lanes 0, 3, 4 and 7 on a counter of 100. -/
theorem test_atom_add : atomEval 0 0 100 [5, 2, 7, 1] = (115, [100, 105, 107, 114]) := by decide +kernel
/-- Spec 03: ATOM.CAS by lanes 1, 2 and 5 on a word of 10. -/
theorem test_atom_cas : atomEval 7 0 10 [10, 20, 10, 30, 20, 40] = (40, [10, 20, 20]) := by decide +kernel
/-- Spec 03: ATOM.ADD.F32 of 1.0 twice on 2^24 gives 2^24 + 2. -/
theorem test_atom_add_f32 : atomEval 0 4 0x4B800000 [0x3F800000, 0x3F800000] = (0x4B800001, [0x4B800000, 0x4B800000]) := by decide +kernel

/-- Spec 05: the product of 0x3F81 and itself is 0x3F82_0200 in an FP32 tile, and 0x3F82 in a BF16 tile. -/
theorem test_bf16_product :
    cellStep .fp32 0 4 0 ⟨0x3F81, 127, false⟩ ⟨0x3F81, 127, false⟩ = (0x3F820200, false) ∧
      cellStep .bf16 0 4 0 ⟨0x3F81, 127, false⟩ ⟨0x3F81, 127, false⟩ = (0x3F82, false) := by decide +kernel
/-- Spec 05: 1.875 × 0.5 is absorbed by 256.0 in a BF16 tile and added in an FP32 tile. -/
theorem test_bf16_absorbs :
    cellStep .bf16 0 4 0x4380 ⟨0x3FF0, 127, false⟩ ⟨0x3F00, 127, false⟩ = (0x4380, false) ∧
      cellStep .fp32 0 4 0x43800000 ⟨0x3FF0, 127, false⟩ ⟨0x3F00, 127, false⟩ = (0x43807800, false) := by decide +kernel

/-- The group of spec 02's if-else at an address, with p1 set for lanes 0 to 9 and a stack. -/
def ifElse (pc : BitVec 64) (a : BitVec 32) (stack : List MaskEntry) : Group :=
  { grp with pc := pc, active := a, p := [(1, 0x3FF#32)], stack := stack }
/-- Its entry at 0x140, and the lanes that BRX defers. -/
def atJoin : MaskEntry := { kind := .reconverge, mask := 0xFFFFFFFF#32, addr := 0x140 }
def elseLanes : MaskEntry := { kind := .deferred, mask := 0xFFFFFC00#32, addr := 0x110 }

/-- Steps 1 to 5 of spec 02's mask-stack trace. -/
theorem test_trace_pushm : (nextOf (exec (.pushm 0 0 (bra 0 8)) (one (ifElse 0x100 0xFFFFFFFF#32 []))) (one grp)).dev.group 0 0 =
    ifElse 0x108 0xFFFFFFFF#32 [atJoin] := by decide +kernel
theorem test_trace_brx : (nextOf (exec (.brx 0 0 (bra 1 4)) (one (ifElse 0x108 0xFFFFFFFF#32 [atJoin]))) (one grp)).dev.group 0 0 =
    ifElse 0x128 0x3FF#32 [elseLanes, atJoin] := by decide +kernel
theorem test_trace_popm : (nextOf (exec (.popm 0 0 (word 0xFF 0xFF 0xFF 0xFF 0)) (one (ifElse 0x140 0x3FF#32 [elseLanes, atJoin]))) (one grp)).dev.group 0 0 =
    ifElse 0x110 0xFFFFFC00#32 [atJoin] := by decide +kernel
theorem test_trace_bra : (nextOf (exec (.bra 0 0 (bra 0 4)) (one (ifElse 0x120 0xFFFFFC00#32 [atJoin]))) (one grp)).dev.group 0 0 =
    ifElse 0x140 0xFFFFFC00#32 [atJoin] := by decide +kernel
theorem test_trace_popm_last : (nextOf (exec (.popm 0 0 (word 0xFF 0xFF 0xFF 0xFF 0)) (one (ifElse 0x140 0xFFFFFC00#32 [atJoin]))) (one grp)).dev.group 0 0 =
    ifElse 0x148 0xFFFFFFFF#32 [] := by decide +kernel

/-- Spec 02: what a block of each kernel of the occupancy table takes; the last one finds no core. -/
theorem test_occupancy : groupRegs 96 * 8 = 24576 ∧ groupRegs 168 * 4 = 21504 ∧ groupRegs 40 * 2 = 2560 ∧ groupRegs 70 * 32 = 73728 ∧
    groupRegs 255 * 32 = 262144 ∧ 131072 < groupRegs 255 * 32 := by decide +kernel

/-- Spec 10: an exchange with t1 = 1,000,000.0, t2 = 1,012,405.25, t3 = 1,012,425.25 and t4 = 1,000,140.0 , sixteen times, gives 12,345.25 ticks. -/
theorem test_link_offset : linkOffset (List.replicate 16 { off2 := (16198484 - 16000000) + (16198804 - 16002240), delay2 := 16 * (140 - 20) }) = 197524 := by decide +kernel
/-- Spec 10: with the parent's offset of -3,210.5, TIM_OFFSET holds 0xFFFF_FFFF_FFFC_33C4. -/
theorem test_time_offset :
    let p := { fromPeer .timeOffset with toff := -51368, tlink := 197524, no := 2 }
    let t := nextOf (exec (.timeOffset p) (linked id [p] id)) State.reset
    t.dev.tim.off = -248892 ∧ t.dev.timReg t.clk 0 = 0xFFFC33C4 ∧ t.dev.timReg t.clk 4 = 0xFFFFFFFF := by decide +kernel

/-- Spec 14: ring 0 and the fault queue of berth 1 with one carve-out from 64 GiB. -/
theorem test_ring_placement :
    let b : MBerth := { MBerth.reset with berth := 1, carve := [(0x100000, 0x100000)], ring0Log2 := 12, fqLog2 := 10 }
    b.ring0 = (0x1000000000, 256 * 1024) ∧ b.faultQ = (0x1000040000, 64 * 1024) := by decide +kernel

/-- Spec 18: the doorbell of queue 37 through window 2 lies at 0x100E_04B4. -/
theorem test_doorbell_offset : isDoorbell 0x100E04B4 = true ∧ 0x100E04B4 / regWindow = 2 ∧ (0x100E04B4 % regWindow - 0xE0000) / 0x20 = 37 ∧
    isDoorbell 0x100E04B0 = false := by decide +kernel

end Sys2Proof.Tests
end

/-! ## Scope: ticks, reset state, register accesses -/

namespace Sys2Proof.Machine

/-! ### The state after a cold reset -/

/-- Settles O54: the reset values, and for each numbered unit that its map is empty, so that every number reads as the unit's own reset
value. -/
theorem resetState : Obligations.ResetState := by
  refine ⟨rfl, rfl, rfl, rfl, rfl, rfl, rfl, rfl, ?queues, ?contexts, ?fences, ?berths, ?ports, ?sessions, ?groups⟩
  case queues => exact fun _ => ⟨rfl, rfl⟩
  case contexts => exact fun _ => rfl
  case fences => exact fun _ => rfl
  case berths => exact fun _ => ⟨rfl, rfl⟩
  case ports => exact fun _ => rfl
  case sessions => exact fun _ => rfl
  case groups => exact fun _ _ => rfl

/-! ### Ticks of the clocks (R26, R504) -/

@[simp] theorem cSlot_tsc (k : Clock) : (cSlot k).tsc = k.tsc := rfl
@[simp] theorem cSlot_setting (k : Clock) : (cSlot k).setting = k.setting := rfl
@[simp] theorem cSlot_slot (k : Clock) : (cSlot k).slot = (k.slot + 1) % 32 := rfl
@[simp] theorem cSlot_ccyc (k : Clock) : (cSlot k).ccyc = k.ccyc + b2n (!(swallowed k.setting).contains k.slot) := rfl

/-- Filtering a list counts 1 for each element that stays. -/
theorem length_filter_cons_b2n {α : Type} (p : α → Bool) (a : α) (l : List α) :
    ((a :: l).filter p).length = b2n (p a) + (l.filter p).length := by
  cases h : p a <;> simp [h, b2n, Nat.add_comm]

/-- Three C slots pass, counted from a slot of the frame: a C-cycle for each that the setting does not swallow (R26). -/
theorem cSlot_thrice (k : Clock) (h : k.slot < 32) :
    (cSlot (cSlot (cSlot k))).slot = (k.slot + 3) % 32 ∧
    (cSlot (cSlot (cSlot k))).ccyc =
      k.ccyc + ([0, 1, 2].filter fun i => !(swallowed k.setting).contains ((k.slot + i) % 32)).length := by
  have first : (k.slot + 0) % 32 = k.slot := Nat.mod_eq_of_lt h
  have third : ((k.slot + 1) % 32 + 1) % 32 = (k.slot + 2) % 32 := by omega
  constructor
  · simp only [cSlot_slot]
    omega
  · simp only [cSlot_ccyc, cSlot_slot, cSlot_setting, length_filter_cons_b2n, List.filter_nil, List.length_nil, first, third]
    omega

/-- The clocks stand still in reset, without the reference or without VAON (R504). -/
theorem tick_still (d : Dev) {k : Clock} (h : k.inReset = true ∨ k.refOk = false ∨ k.vaon = false) : tick d k = k := by
  rcases h with h | h | h <;> simp [tick, h]

/-- With reset released, the reference running and VAON present, the local count rises by one tick, and the three C slots pass
unless the clocks outside the always-on domain are stopped (R462). -/
theorem tick_running (d : Dev) {k : Clock} (h1 : k.inReset = false) (h2 : k.refOk = true) (h3 : k.vaon = true) :
    tick d k = if d.stopped then { k with tsc := k.tsc + 16 } else cSlot (cSlot (cSlot { k with tsc := k.tsc + 16 })) := by
  simp [tick, h1, h2, h3]

/-- An empty queue makes the step a tick (assumption 3). -/
theorem step_of_empty {s : State} (h : s.pending = []) : step s = .next { s with clk := tick s.dev s.clk } := by
  unfold step
  rw [h]

/-- Settles O53: the step is one tick, which either stands still or runs, with the C slots or without them. -/
theorem emptyQueueTicks : Obligations.EmptyQueueTicks := by
  intro s hq
  refine ⟨_, step_of_empty hq, rfl, rfl, hq, tick_still s.dev, fun h1 h2 h3 => ?_⟩
  simp only [tick_running s.dev h1 h2 h3]
  cases hs : s.dev.stopped with
  | true => exact ⟨rfl, rfl, fun _ => ⟨rfl, rfl, rfl⟩, fun hf => Bool.noConfusion hf⟩
  | false => exact ⟨rfl, rfl, fun ht => Bool.noConfusion ht, fun _ hslot => cSlot_thrice { s.clk with tsc := s.clk.tsc + 16 } hslot⟩

/-! ### A command that leaves a Device-fatal record retires the device (R473, R483) -/

/-- What a key reads after a function of every value: the default, or the function at some entry. -/
theorem mget_mmap_cases {α : Type} (dflt : α) (m : List (Nat × α)) (f : Nat → α → α) (k : Nat) :
    mget dflt (mmap m f) k = dflt ∨ ∃ v, mget dflt (mmap m f) k = f k v := by
  induction m with
  | nil => exact .inl rfl
  | cons e t ih =>
    obtain ⟨j, v⟩ := e
    by_cases h : j = k
    · subst h
      exact .inr ⟨v, if_pos rfl⟩
    · have past : mget dflt (mmap ((j, v) :: t) f) k = mget dflt (mmap t f) k := if_neg h
      rw [past]
      exact ih

/-- No port of a retired device is training: a peer port is Down, every other one off (R483). -/
theorem retire_port_not_training (d : Dev) (q : Nat) : (d.retire.port q).st ≠ .training := by
  unfold Dev.port Dev.retire
  dsimp only
  rcases mget_mmap_cases Port.reset d.fab.ports _ q with h | ⟨v, h⟩
  · rw [h]
    decide
  · rw [h]
    split <;> exact PortSt.noConfusion

/-- Settling a Device-fatal record, other than a thermal trip's, retires a device that is not retired yet (R483). -/
theorem settle_fatal (d : Dev) (p : Perm) (hf : d.fatalPend.any (fun r => r.code != 0x0F) = true) (hr : d.lkp.st ≠ .retired) :
    ∃ d' : Dev, (settle d p).1 = d'.retire := by
  unfold settle
  dsimp only
  rw [if_pos]
  · exact ⟨_, rfl⟩
  · split <;> exact Bool.and_eq_true_iff.mpr ⟨hf, bne_iff_ne.mpr hr⟩

/-- What is noted after a command does not keep such a record from retiring the device. -/
theorem settle_noted_fatal {d e : Dev} (h : Noted d e) (p : Perm) (hf : d.fatalPend.any (fun r => r.code != 0x0F) = true)
    (hr : d.lkp.st ≠ .retired) : ∃ d' : Dev, (settle e p).1 = d'.retire :=
  settle_fatal e p (by rw [h.dev]; exact hf) (by rw [h.dev]; exact hr)

/-- A command whose notices leave such a record ends with the device retired: no port of it is training. -/
theorem onMem_fatal (s : State) (f : Dev → Dev)
    (hf : ((f s.dev).flushNotices s.clk).fatalPend.any (fun r => r.code != 0x0F) = true)
    (hr : ((f s.dev).flushNotices s.clk).lkp.st ≠ .retired) :
    ∃ t, onMem s f = .next t ∧ ∀ q, (t.dev.port q).st ≠ .training := by
  have noted := (noteIdle_noted s.dev ((f s.dev).flushNotices s.clk) s.clk).trans (trackPolicies_noted _ s.clk)
  obtain ⟨d', hd'⟩ := settle_noted_fatal noted s.perm hf hr
  refine ⟨_, rfl, fun q => ?_⟩
  dsimp only
  rw [hd']
  exact retire_port_not_training d' q

/-! ### Retraining a port on a worn device -/

/-- Through the operator's window a running device obeys FAB_PORT_CMD.retrain (R332). -/
theorem execFabPortRetrain_operator (s : State) (port : Fin 18) (h : s.dev.stopped = false) :
    execFabPortRetrain port 0 s = onMem s fun _ => s.dev.retrainCmd s.clk port := by
  simp [execFabPortRetrain, onMem, h, Dev.fabCmd, bitAt]

/-- An entry of the write-combining buffer of slice 0: the first byte of a line that lies in stack 0, channel 0 (R203, R205, R212). -/
def firstByteWritten (i : Nat) : Wcb := { Wcb.reset with line := 1028 * (i + 1), mask := 1 }

/-- Channel 0 of stack 0 has logged 256 uncorrectable bursts, the most that R228 allows. -/
def wornStack : Stack := { Stack.reset with st := 2, unc := (List.range 256).map fun i => (256 + i, 0) }

/-- A Ready device on the verge of losing a stack: the write-combining buffer of slice 0 is full, an uncorrectable fault waits in the
sector that its oldest entry covers in part, and ring 0 of berth 0, in the same slice, is enabled. Port 2 is a peer port that is
Down and awaits its neighbour's last sequence number (R320). Nothing waits to be settled. -/
def wornState : State :=
  { State.reset with dev := { Dev.reset with
      lkp := { Dev.reset.lkp with st := .ready, applied := true }
      ctl := { Ctl.reset with berths := [(0, { Berth.reset with st := .live, rings := [(0, { Ring.reset with enable := true })] })] }
      slices := [(0, { Slice.reset with wcb := (List.range 64).map firstByteWritten })]
      mem := { Dev.reset.mem with stks := [(0, wornStack)] }
      fab := { Fabric.reset with ports := [(2, { Port.reset with role := .peer, nbrDev := 1, st := .down, seqAsk := some 0 })] }
      latent := [{ Latent.reset with kind := 0, place := 4 * (firstByteWritten 0).line, unc := true }] } }

/-- Retraining port 2 there logs that the port went Down. The notice of that record (R474) takes a place in the full write-combining
buffer, whose oldest entry is merged with HBM (R213): the read meets the fault, which is the channel's 257th, and the stack is lost
with a Device-fatal record (R228). -/
theorem wornState_retrain_fatal :
    ((wornState.dev.retrainCmd wornState.clk 2).flushNotices wornState.clk).fatalPend.any (fun r => r.code != 0x0F) = true ∧
    ((wornState.dev.retrainCmd wornState.clk 2).flushNotices wornState.clk).lkp.st ≠ .retired := by
  decide +kernel

/-- Refutes O44: its clause on retraining asks for no `latent = []`, so the command may itself meet the storage error that retires the
device. In `wornState` it does, and port 2 ends Down, not in training. -/
theorem not_registerAccesses : ¬ Obligations.RegisterAccesses := by
  intro h
  obtain ⟨-, -, -, -, -, -, retrain, -⟩ := h wornState 0 0 0 ⟨rfl, rfl, rfl⟩ rfl
  obtain ⟨t, ht, training, -⟩ := retrain 2 PortRole.noConfusion
  obtain ⟨hf, hr⟩ := wornState_retrain_fatal
  obtain ⟨t', ht', never⟩ := onMem_fatal wornState (fun _ => wornState.dev.retrainCmd wornState.clk 2) hf hr
  have same : exec (.fabPortRetrain 2 0) wornState = .next t' := (execFabPortRetrain_operator wornState 2 rfl).trans ht'
  obtain rfl : t' = t := Host.Outcome.next.inj (same.symm.trans ht)
  exact never 2 training

end Sys2Proof.Machine

/-! ## Organisation: what follows a command, the limits of what lasts, and the loops of the operating point -/

namespace Sys2Proof.Machine

/-! ### Settling -/

/-- The non-volatile memory once the disables and the Device-fatal records that wait on a device are written to it (R219, R434, R473). -/
def settledNvm (d : Dev) (p : Perm) : Perm :=
  d.fatalPend.foldl Perm.addFatal
    (if d.fatalPend.isEmpty then d.healthDue.foldl Perm.addWay p else (d.healthDue.foldl Perm.addWay p).cutUpdate d)

/-- What settling can do: a Device-fatal record other than a thermal trip's retires a device that is not retired yet; else only the event
log, the Lockkeeper's command and what waited are changed. -/
theorem settle_cases (d : Dev) (p : Perm) :
    ((d.fatalPend.any fun r => r.code != 0x0F) = true ∧ d.lkp.st ≠ .retired ∧
      ∃ d' : Dev, settle d p = (d'.retire, { settledNvm d p with retire := true })) ∨
    (¬ ((d.fatalPend.any fun r => r.code != 0x0F) = true ∧ d.lkp.st ≠ .retired) ∧
      ∃ e l, settle d p = ({ d with erl := e, lkp := l, healthDue := [], fatalPend := [] }, settledNvm d p)) := by
  obtain ⟨l, cut, same⟩ : ∃ l : Lkp, (if d.fatalPend.isEmpty ∨ d.nvmUpdates = false then d
      else { d with lkp := { d.lkp with busy := false, status := 5 } }) = { d with lkp := l } ∧ l.st = d.lkp.st := by
    split
    · exact ⟨d.lkp, rfl, rfl⟩
    · exact ⟨_, rfl, rfl⟩
  unfold settle
  dsimp only
  rw [cut]
  dsimp only
  rw [same]
  split
  · next h =>
    obtain ⟨fatal, serving⟩ := Bool.and_eq_true_iff.mp h
    exact .inl ⟨fatal, bne_iff_ne.mp serving, _, rfl⟩
  · next h => exact .inr ⟨fun ⟨fatal, serving⟩ => h (Bool.and_eq_true_iff.mpr ⟨fatal, bne_iff_ne.mpr serving⟩), _, _, rfl⟩

/-- With no notice due, a command's effect is followed by what is noted and by settling. -/
theorem onMem_quiet (s : State) (f : Dev → Dev) (h : (f s.dev).notices = []) :
    ∃ e, Noted (f s.dev) e ∧ onMem s f = .next { s with dev := (settle e s.perm).1, perm := (settle e s.perm).2 } := by
  refine ⟨_, (noteIdle_noted s.dev (f s.dev) s.clk).trans (trackPolicies_noted _ s.clk), ?_⟩
  unfold onMem
  dsimp only
  rw [flushNotices_calm _ _ h]

/-! ### The limits of the non-volatile memory (R219, R421, R460, R473) -/

/-- What the non-volatile memory holds is within its limits (R219, R421, R460, R473). -/
structure NvmWithin (p : Perm) : Prop where
  boots : p.boots < 2 ^ 28
  journal : p.journal.length ≤ journalHalf
  fatal : p.fatal.length ≤ 2 * fatalHalf
  ways : p.wayOff.Nodup

theorem withinLimits_iff (s : State) : WithinLimits s ↔ NvmWithin s.perm ∧ s.clk.slot < 32 := by
  constructor
  · rintro ⟨boots, journal, fatal, ways, slot⟩
    exact ⟨⟨boots, journal, fatal, ways⟩, slot⟩
  · rintro ⟨⟨boots, journal, fatal, ways⟩, slot⟩
    exact ⟨boots, journal, fatal, ways, slot⟩

theorem NvmWithin.addWay {p : Perm} (h : NvmWithin p) (e : Nat × Nat) : NvmWithin (p.addWay e) := by
  unfold Perm.addWay
  split
  · exact h
  · next new =>
    have absent : e ∉ p.wayOff := by simpa using new
    exact ⟨h.boots, h.journal, h.fatal, List.concat_eq_append ▸ h.ways.concat absent⟩

theorem NvmWithin.addFatal {p : Perm} (h : NvmWithin p) (r : ErlRec) : NvmWithin (p.addFatal r) := by
  have held := h.fatal
  unfold Perm.addFatal
  dsimp only
  split
  · refine ⟨h.boots, h.journal, ?_, h.ways⟩
    simp only [List.length_append, List.length_drop, List.length_singleton, fatalHalf] at held ⊢
    omega
  · refine ⟨h.boots, h.journal, ?_, h.ways⟩
    simp only [List.length_append, List.length_singleton]
    omega

theorem NvmWithin.journalAdd {p : Perm} (h : NvmWithin p) (t : Nat) (e : JEntry) : NvmWithin (p.journalAdd t e) := by
  refine ⟨h.boots, ?_, h.fatal, h.ways⟩
  unfold Perm.journalAdd
  dsimp only
  split
  · simp only [List.length_append, List.length_singleton]
    omega
  · simp [snapshots, journalHalf]

theorem NvmWithin.foldl {α : Type} {f : Perm → α → Perm} (step : ∀ p a, NvmWithin p → NvmWithin (f p a)) (l : List α) {p : Perm}
    (h : NvmWithin p) : NvmWithin (l.foldl f p) := by
  induction l generalizing p with
  | nil => exact h
  | cons a t ih => exact ih (step p a h)

theorem NvmWithin.cutUpdate {p : Perm} (h : NvmWithin p) (d : Dev) : NvmWithin (p.cutUpdate d) := by
  unfold Perm.cutUpdate
  split
  · exact h
  · split <;> exact ⟨h.boots, h.journal, h.fatal, h.ways⟩

theorem NvmWithin.settledNvm {p : Perm} (h : NvmWithin p) (d : Dev) : NvmWithin (settledNvm d p) := by
  have ways := NvmWithin.foldl (fun _ e hp => hp.addWay e) d.healthDue h
  refine NvmWithin.foldl (fun _ r hp => hp.addFatal r) d.fatalPend ?_
  split
  · exact ways
  · exact ways.cutUpdate d

theorem NvmWithin.settle {p : Perm} (h : NvmWithin p) (d : Dev) : NvmWithin (settle d p).2 := by
  obtain ⟨boots, journal, fatal, ways⟩ := h.settledNvm d
  rcases settle_cases d p with ⟨-, -, d', e⟩ | ⟨-, l, c, e⟩ <;> rw [e] <;> exact ⟨boots, journal, fatal, ways⟩

/-! ### Commands that leave the clocks alone -/

/-- An outcome that goes on with the queue and the clocks as they were, and with the non-volatile memory within its limits if it was so. -/
def LeavesClock (s : State) (o : Out) : Prop :=
  ∃ d p, o = .next { s with dev := d, perm := p } ∧ (NvmWithin s.perm → NvmWithin p)

theorem onDev_leavesClock (s : State) (f : Dev → Dev) : LeavesClock s (onDev s f) := ⟨_, _, rfl, id⟩

/-- The same of a command that has first left `p` in the non-volatile memory. -/
theorem onMem_leavesClock_of (s : State) {p : Perm} (f : Dev → Dev) (h : NvmWithin s.perm → NvmWithin p) :
    LeavesClock s (onMem { s with perm := p } f) := ⟨_, _, rfl, fun hs => (h hs).settle _⟩

theorem onMem_leavesClock (s : State) (f : Dev → Dev) : LeavesClock s (onMem s f) := onMem_leavesClock_of s f id

theorem sbIns_leavesClock_of (ok : Bool) (s : State) {p : Perm} (f : Dev → Dev) (h : NvmWithin s.perm → NvmWithin p) :
    LeavesClock s (sbIns ok { s with perm := p } f) := onMem_leavesClock_of s _ h

theorem lkpNvm_leavesClock {s : State} {c : Nat} {ok : Bool} {f : Dev → Perm → Nat × Dev × Perm}
    (h : ∀ d p, NvmWithin p → NvmWithin (f d p).2.2) : LeavesClock s (lkpNvm s c ok f) := by
  unfold lkpNvm
  split
  · exact onMem_leavesClock_of s _ (h _ _)
  · exact onMem_leavesClock s _

theorem execJournalAppend_leavesClock (s : State) : LeavesClock s (execJournalAppend s) := by
  unfold execJournalAppend
  dsimp only
  split
  · exact ⟨_, _, rfl, id⟩
  · split
    · exact ⟨_, _, rfl, id⟩
    · exact ⟨_, _, rfl, fun h => h.journalAdd _ _⟩

theorem execMarginStacks_leavesClock (r : List StackIn) (s : State) : LeavesClock s (execMarginStacks r s) :=
  lkpNvm_leavesClock fun _ _ h => NvmWithin.foldl (fun _ e hp => hp.journalAdd _ e) _ h

theorem execClearHealth_leavesClock (s : State) : LeavesClock s (execClearHealth s) :=
  lkpNvm_leavesClock fun _ _ h => ⟨h.boots, h.journal, h.fatal, by
    dsimp only
    split
    · exact List.nodup_nil
    · exact h.ways⟩

theorem execFwUpdate_leavesClock (img : Image) (ok : Bool) (s : State) : LeavesClock s (execFwUpdate img ok s) :=
  lkpNvm_leavesClock fun _ _ h => by
    repeat' split
    all_goals exact ⟨h.boots, h.journal, h.fatal, h.ways⟩

theorem execManifestUpdate_leavesClock (m : Manifest) (ok : Bool) (s : State) : LeavesClock s (execManifestUpdate m ok s) :=
  lkpNvm_leavesClock fun _ _ h => by
    repeat' split
    all_goals exact ⟨h.boots, h.journal, h.fatal, h.ways⟩

theorem execDebugConsent_leavesClock (sig : Bool) (serial : BitVec 128) (hash : BitVec 512) (s : State) :
    LeavesClock s (execDebugConsent sig serial hash s) :=
  lkpNvm_leavesClock fun _ _ h => by
    repeat' split
    all_goals exact h

theorem execClearRetirement_leavesClock (pec nvm : Bool) (s : State) : LeavesClock s (execClearRetirement pec nvm s) :=
  sbIns_leavesClock_of pec s _ fun h => ⟨h.boots, h.journal, h.fatal, h.ways⟩

/-- Every command but the clocks' own acts on the device, and what it leaves in the non-volatile memory is within its limits. -/
theorem exec_leavesClock {i : Instr} (s : State) (hi : touchesClock i = false) : LeavesClock s (exec i s) := by
  unfold exec
  cases i with
  | derateStep | coldStart | warmReset | maintenanceExit | resetNAssert | vaonLoss | refclkLoss => exact Bool.noConfusion hi
  | coreHeldRetry | announce | joinConfirmTimeout => exact onDev_leavesClock s _
  | readReg | readFatal | wake | sidebandPing => exact sbIns_leavesClock_of _ s _ id
  | clearRetirement => exact execClearRetirement_leavesClock ..
  | journalAppend => exact execJournalAppend_leavesClock s
  | marginStacks => exact execMarginStacks_leavesClock ..
  | clearHealth => exact execClearHealth_leavesClock s
  | fwUpdate => exact execFwUpdate_leavesClock ..
  | manifestUpdate => exact execManifestUpdate_leavesClock ..
  | debugConsent => exact execDebugConsent_leavesClock ..
  | _ => exact onMem_leavesClock s _

/-- Settles O56: a command that is not the clocks' own goes on with the clocks as they were. -/
theorem onlyClockRowsTouchClocks : Obligations.OnlyClockRowsTouchClocks := by
  intro i s t hi ht
  obtain ⟨d, p, hd, -⟩ := exec_leavesClock s hi
  obtain rfl : _ = t := Host.Outcome.next.inj (hd.symm.trans ht)
  rfl

/-! ### Commands of the clocks -/

/-- Where an outcome goes on, it is within the limits. -/
def GoesWithin (o : Out) : Prop := ∀ t, o = .next t → WithinLimits t

theorem goesWithin_next {t : State} (hp : NvmWithin t.perm) (hk : t.clk.slot < 32) : GoesWithin (.next t) := by
  intro u hu
  obtain rfl : t = u := Host.Outcome.next.inj hu
  exact (withinLimits_iff t).2 ⟨hp, hk⟩

theorem withinLimits_of_dev {s : State} (h : WithinLimits s) (q : List Instr) (d : Dev) : WithinLimits { s with pending := q, dev := d } :=
  ⟨h.boots, h.journal, h.fatal, h.ways, h.slot⟩

theorem LeavesClock.goesWithin {s : State} {o : Out} (h : LeavesClock s o) (hs : WithinLimits s) : GoesWithin o := by
  obtain ⟨d, p, rfl, hp⟩ := h
  obtain ⟨nvm, slot⟩ := (withinLimits_iff s).1 hs
  exact goesWithin_next (hp nvm) slot

theorem NvmWithin.fuseOperator {p : Perm} (h : NvmWithin p) (b : BootIn) : NvmWithin (p.fuseOperator b) := by
  unfold Perm.fuseOperator
  repeat' split
  all_goals exact ⟨h.boots, h.journal, h.fatal, h.ways⟩

theorem NvmWithin.commit {p : Perm} (h : NvmWithin p) : NvmWithin p.commit := by
  unfold Perm.commit
  repeat' split
  all_goals exact ⟨h.boots, h.journal, h.fatal, h.ways⟩

theorem NvmWithin.characterise {p : Perm} (h : NvmWithin p) (k : Clock) (b : BootIn) (d : Dev) : NvmWithin (characterise k b d p).2 := by
  unfold Machine.characterise
  dsimp only
  split
  · exact h
  · have adopted := NvmWithin.foldl (fun _ e hp => hp.journalAdd (gtime k d) e) (p.baseline b (gtime k d)) h
    generalize (p.baseline b (gtime k d)).foldl (Perm.journalAdd (gtime k d)) p = q at adopted ⊢
    exact ⟨adopted.boots, adopted.journal, adopted.fatal, adopted.ways⟩

/-- Step 6 of a boot journals the margins of the stacks, unless it preserves HBM (R225, R427). -/
theorem NvmWithin.journalMargins {p : Perm} (h : NvmWithin p) (preserve : Bool) (v t : Nat) (xs : List StackIn) :
    NvmWithin (if preserve then p else (xs.map (marginEntry v t)).foldl (Perm.journalAdd t) p) := by
  split
  · exact h
  · exact NvmWithin.foldl (fun _ e hq => hq.journalAdd t e) _ h

/-- Steps 4 to 10 of a boot keep the limits: the count of boots wraps at 28 bits (R443), and a boot that ends Ready starts a frame of C slots. -/
theorem bootOn_goesWithin (warm preserve : Bool) (b : BootIn) (m : Manifest) (s : State) (d old : Dev) {p : Perm} {k : Clock}
    (hp : NvmWithin p) (hk : k.slot < 32) : GoesWithin (bootOn warm preserve b m s d old p k) := by
  have counted : NvmWithin { p with boots := (p.boots + 1) % 2 ^ 28 } :=
    ⟨Nat.mod_lt _ (by decide), hp.journal, hp.fatal, hp.ways⟩
  unfold bootOn
  dsimp only
  split
  · exact goesWithin_next counted hk
  · split
    · exact goesWithin_next ((counted.journalMargins preserve ..).settle _) hk
    · obtain ⟨boots, journal, fatal, ways⟩ := ((counted.journalMargins preserve ..).characterise k b _).commit
      exact goesWithin_next ⟨boots, journal, fatal, ways⟩ (Nat.succ_pos 31)

theorem execColdStart_goesWithin {s : State} (hs : WithinLimits s) (b : BootIn) : GoesWithin (execColdStart b s) := by
  obtain ⟨nvm, slot⟩ := (withinLimits_iff s).1 hs
  unfold execColdStart
  dsimp only
  split
  · exact goesWithin_next nvm slot
  · split
    · exact goesWithin_next nvm (Nat.succ_pos 31)
    · split
      · exact goesWithin_next nvm (Nat.succ_pos 31)
      · split
        · exact goesWithin_next (nvm.fuseOperator b) (Nat.succ_pos 31)
        · exact bootOn_goesWithin _ _ _ _ _ _ _ (nvm.fuseOperator b) (Nat.succ_pos 31)

theorem warmBoot_goesWithin {s : State} (hs : WithinLimits s) (preserve : Bool) (b : BootIn) : GoesWithin (warmBoot preserve b s) := by
  obtain ⟨nvm, slot⟩ := (withinLimits_iff s).1 hs
  have journalled := NvmWithin.foldl (fun _ e hp => hp.journalAdd (gtime s.clk s.dev) e) s.dev.gau.dueEntries nvm
  unfold warmBoot
  dsimp only
  split
  · exact goesWithin_next journalled slot
  · exact bootOn_goesWithin _ _ _ _ _ _ _ journalled slot
  · exact goesWithin_next journalled slot

theorem warmGo_goesWithin {s : State} (hs : WithinLimits s) (c : Nat) (preserve : Bool) (b : BootIn) : GoesWithin (warmGo c preserve b s) := by
  unfold warmGo
  dsimp only
  split
  · exact warmBoot_goesWithin (withinLimits_of_dev hs s.pending _) preserve b
  · exact (onMem_leavesClock s _).goesWithin hs

theorem execWarmReset_goesWithin {s : State} (hs : WithinLimits s) (b : BootIn) : GoesWithin (execWarmReset b s) := by
  unfold execWarmReset
  dsimp only
  split
  · exact warmGo_goesWithin hs _ _ b
  · split
    · exact warmGo_goesWithin hs _ _ b
    · exact (onMem_leavesClock s _).goesWithin hs

theorem execMaintenanceExit_goesWithin {s : State} (hs : WithinLimits s) (b : BootIn) : GoesWithin (execMaintenanceExit b s) := by
  unfold execMaintenanceExit
  dsimp only
  split
  · exact warmGo_goesWithin hs _ _ b
  · exact (onMem_leavesClock s _).goesWithin hs

theorem execDerateStep_goesWithin {s : State} (hs : WithinLimits s) : GoesWithin (execDerateStep s) := by
  obtain ⟨nvm, slot⟩ := (withinLimits_iff s).1 hs
  unfold execDerateStep
  dsimp only
  repeat' split
  all_goals exact goesWithin_next nvm slot

theorem execResetNAssert_goesWithin {s : State} (hs : WithinLimits s) (ns : Nat) : GoesWithin (execResetNAssert ns s) := by
  obtain ⟨nvm, slot⟩ := (withinLimits_iff s).1 hs
  unfold execResetNAssert
  split
  · exact goesWithin_next nvm slot
  · exact goesWithin_next (nvm.cutUpdate s.dev) slot

theorem execVaonLoss_goesWithin {s : State} (hs : WithinLimits s) (ns : Nat) : GoesWithin (execVaonLoss ns s) := by
  obtain ⟨nvm, slot⟩ := (withinLimits_iff s).1 hs
  unfold execVaonLoss
  split
  · exact goesWithin_next nvm slot
  · exact goesWithin_next (nvm.cutUpdate s.dev) slot

theorem execRefclkLoss_goesWithin {s : State} (hs : WithinLimits s) (ns : Nat) : GoesWithin (execRefclkLoss ns s) := by
  obtain ⟨nvm, slot⟩ := (withinLimits_iff s).1 hs
  unfold execRefclkLoss
  split <;> exact goesWithin_next nvm slot

theorem exec_goesWithin {s : State} (hs : WithinLimits s) (i : Instr) : GoesWithin (exec i s) := by
  cases hi : touchesClock i with
  | false => exact (exec_leavesClock s hi).goesWithin hs
  | true =>
    cases i with
    | derateStep => exact execDerateStep_goesWithin hs
    | coldStart b => exact execColdStart_goesWithin hs b
    | warmReset b => exact execWarmReset_goesWithin hs b
    | maintenanceExit b => exact execMaintenanceExit_goesWithin hs b
    | resetNAssert ns => exact execResetNAssert_goesWithin hs ns
    | vaonLoss ns => exact execVaonLoss_goesWithin hs ns
    | refclkLoss ns => exact execRefclkLoss_goesWithin hs ns
    | _ => exact Bool.noConfusion hi

/-! ### The limits -/

/-- A tick leaves the count of C slots within its frame (R26). -/
theorem tick_slot_lt (d : Dev) {k : Clock} (h : k.slot < 32) : (tick d k).slot < 32 := by
  unfold tick
  dsimp only
  repeat' split
  · exact h
  · exact h
  · exact Nat.mod_lt _ (Nat.succ_pos 31)

/-- Settles O59: an empty queue leaves a tick, which keeps the slot within its frame; any command keeps every limit. -/
theorem limitsAreKept : Obligations.LimitsAreKept := by
  intro s t hs
  cases hq : s.pending with
  | nil =>
    obtain ⟨nvm, slot⟩ := (withinLimits_iff s).1 hs
    rw [step_of_empty hq]
    exact goesWithin_next (t := { s with clk := tick s.dev s.clk }) nvm (tick_slot_lt s.dev slot) t
  | cons i rest =>
    have front : step s = exec i { s with pending := rest } := by
      unfold step
      rw [hq]
    rw [front]
    exact exec_goesWithin (withinLimits_of_dev hs rest s.dev) i t

/-- Settles O60: the non-volatile memory of the reset state is empty, and its frame begins. -/
theorem resetIsWithinLimits : Obligations.ResetIsWithinLimits :=
  ⟨by decide, Nat.zero_le _, Nat.zero_le _, List.nodup_nil, Nat.succ_pos 31⟩

/-! ### Reports -/

/-- What reports leave unchanged (R349 to R352, R410, R411): besides what accesses to memory may change (Stores), a report changes the mesh
and the management agents' buffers, the rings' indices and the sessions. -/
def Reported (d e : Dev) : Prop :=
  e = { d with
    cores := e.cores, slices := e.slices, cnt := e.cnt, mem := e.mem, fab := e.fab, erl := e.erl, ctl := e.ctl, whf := e.whf }

theorem Reported.self (d : Dev) : Reported d d := rfl

theorem Reported.trans {a b c : Dev} (h1 : Reported a b) (h2 : Reported b c) : Reported a c := by
  unfold Reported at *
  rw [h2, h1]

theorem Reported.pwr {d e : Dev} (h : Reported d e) : e.pwr = d.pwr := by rw [h]

theorem Reported.calm {d e : Dev} (h : Reported d e) (hd : Calm d) : Calm e := by rw [h]; exact hd

theorem Stored.reported {d e : Dev} (h : Stored d e) : Reported d e := by
  unfold Reported
  rw [h.dev]

theorem reported_foldl {α : Type} (f : Dev → α → Dev) (h : ∀ d a, Reported d (f d a)) (l : List α) (d : Dev) : Reported d (l.foldl f d) := by
  induction l generalizing d with
  | nil => exact Reported.self d
  | cons a t ih => exact (h d a).trans (ih _)

theorem reported_updSession (d : Dev) (n : Nat) (f : Session → Session) : Reported d (d.updSession n f) := rfl

theorem reported_updBerth (d : Dev) (b : Nat) (f : Berth → Berth) : Reported d (d.updBerth b f) := rfl

theorem reported_updRing (d : Dev) (b r : Nat) (f : Ring → Ring) : Reported d (d.updRing b r f) := reported_updBerth d b _

theorem reported_mgmtSend (d : Dev) (p : Packet) : Reported d (d.mgmtSend p) := rfl

theorem reported_hostOut (d : Dev) (n : Nat) (p : HostPkt) : Reported d (d.hostOut n p) := by
  unfold Dev.hostOut
  dsimp only
  split <;> rfl

theorem reported_hostSend (d : Dev) (k : Clock) (n : Nat) (reliable : Bool) (p : HostPkt) : Reported d (d.hostSend k n reliable p) := by
  unfold Dev.hostSend
  dsimp only
  split
  · exact reported_hostOut d n _
  · split
    · exact reported_updSession d n _
    · exact (reported_updSession d n _).trans (reported_hostOut _ n _)

theorem reported_sendEvent (d : Dev) (k : Clock) (n b : Nat) : Reported d (d.sendEvent k n b) := by
  unfold Dev.sendEvent
  dsimp only
  split
  · exact Reported.self d
  · exact (reported_hostSend d k n true _).trans (reported_updSession _ n _)

theorem reported_fillGaps (d : Dev) (k : Clock) (n : Nat) : Reported d (d.fillGaps k n) := by
  unfold Dev.fillGaps
  dsimp only
  split
  · exact Reported.self d
  · exact reported_updSession d n _

theorem reported_holdFor (d : Dev) (k : Clock) (v n b ring index : Nat) (bytes : BitVec 512) (urgent : Bool) :
    Reported d (d.holdFor k v n b ring index bytes urgent) := by
  unfold Dev.holdFor
  dsimp only
  split
  · exact reported_hostSend d k n true _
  · split
    · exact reported_updSession d n _
    · split
      · exact reported_updSession d n _
      · have held := reported_updSession d n fun s => { s with held := s.held ++ [{ HeldRec.reset with
          dev := v, berth := b, ring := ring, index := index, bytes := bytes, heldAt := k.tsc }] }
        split
        · exact held.trans ((reported_sendEvent _ k n b).trans (reported_fillGaps _ k n))
        · exact held

theorem reported_deliverRecord (d : Dev) (k : Clock) (v b r i : Nat) (bytes : BitVec 512) (urgent : Bool) :
    Reported d (d.deliverRecord k v b r i bytes urgent) :=
  reported_foldl _ (fun d n => reported_holdFor d k v n b r i bytes urgent) _ d

theorem reported_placeRecord (d : Dev) (k : Clock) (b r : Nat) (bytes : BitVec 512) (urgent : Bool) (hl : d.latent = []) :
    Reported d (d.placeRecord k b r bytes urgent) := by
  unfold Dev.placeRecord
  dsimp only
  refine Reported.trans ?_ (reported_foldl _ (fun d x => reported_mgmtSend d _) _ _)
  refine Reported.trans ?_ (reported_deliverRecord _ k _ b r _ bytes urgent)
  exact (stored_poke d k b _ _ hl).reported.trans (reported_updRing _ b r _)

/-- A record that no command asked for, written while no storage error waits, is a report. -/
theorem reported_writeRing (d : Dev) (k : Clock) (b r : Nat) (bytes : BitVec 512) (urgent : Bool) (hl : d.latent = []) :
    Reported d (d.writeRing k b r bytes urgent) := by
  unfold Dev.writeRing
  dsimp only
  repeat' split
  · exact Reported.self d
  · exact reported_updRing d b 0 _
  · exact reported_updRing d b r _
  · exact reported_placeRecord d k b r bytes urgent hl

/-! ### Policies (R467) -/

theorem foldl_keeps {α β : Type} (g : Dev → β) (f : Dev → α → Dev) (h : ∀ d a, g (f d a) = g d) (l : List α) (d : Dev) :
    g (l.foldl f d) = g d := by
  induction l generalizing d with
  | nil => rfl
  | cons a t ih => exact (ih _).trans (h d a)

/-- Whether a policy's record POLICY_UNMET stands without its POLICY_MET (R467). -/
def policyOn (d : Dev) (key : Nat) : Bool := (mget Unmet.reset d.pwr.unmet key).on

theorem policyOn_of_pwr {d e : Dev} (h : e.pwr.unmet = d.pwr.unmet) (key : Nat) : policyOn e key = policyOn d key := by
  unfold policyOn
  rw [h]

theorem noteIdle_policyOn (d0 d : Dev) (k : Clock) (key : Nat) : policyOn (Dev.noteIdle d0 d k) key = policyOn d key :=
  foldl_keeps (policyOn · key) _ (fun d q => policyOn_of_pwr (e := d.updPort q _) rfl key) _ _

theorem policyOn_putUnmet (d : Dev) (p key : Nat) (u : Unmet) :
    policyOn { d with pwr := { d.pwr with unmet := mput d.pwr.unmet p u } } key = if key = p then u.on else policyOn d key := by
  unfold policyOn
  dsimp only
  rw [mget_mput]
  split <;> rfl

theorem trackPolicy_policyOn (k : Clock) (d : Dev) (p key : Nat) : policyOn (Dev.trackPolicy k d p) key = policyOn d key := by
  unfold Dev.trackPolicy
  dsimp only
  generalize hu : (if d.policyBroken p = true then _ else _ : Unmet) = u
  have same : u.on = policyOn d p := by
    rw [← hu]
    repeat' split
    all_goals rfl
  split
  · rfl
  · rw [policyOn_putUnmet]
    split
    · next at_p => rw [at_p, same]
    · rfl

/-- Noting since when policies are broken or hold writes no record. -/
theorem trackPolicies_policyOn (d : Dev) (k : Clock) (key : Nat) : policyOn (d.trackPolicies k) key = policyOn d key :=
  foldl_keeps (policyOn · key) _ (fun d p => trackPolicy_policyOn k d p key) _ _

/-- A command that notes a policy and writes its record ends with that note, if no storage error waits. -/
theorem onMem_notes_policy {s : State} {f : Dev → Dev} {key : Nat} {u : Unmet} {bytes : BitVec 512} (hc : Calm s.dev) (hl : s.dev.latent = [])
    (hf : f s.dev = ({ s.dev with pwr := { s.dev.pwr with unmet := mput s.dev.pwr.unmet key u } }).writeRing s.clk 0 0 bytes false) :
    ∃ t, onMem s f = .next t ∧ policyOn t.dev key = u.on := by
  have report := reported_writeRing { s.dev with pwr := { s.dev.pwr with unmet := mput s.dev.pwr.unmet key u } } s.clk 0 0 bytes false hl
  rw [← hf] at report
  obtain ⟨h1, h2, h3⟩ := report.calm hc
  have noted := (noteIdle_noted s.dev (f s.dev) s.clk).trans (trackPolicies_noted _ s.clk)
  refine ⟨_, rfl, ?_⟩
  dsimp only
  rw [flushNotices_calm _ _ h1, settle_noted noted _ h2 h3, trackPolicies_policyOn, noteIdle_policyOn,
    policyOn_of_pwr (congrArg Power.unmet report.pwr), policyOn_putUnmet, if_pos rfl]

theorem heldFor_some {k : Clock} {since len : Nat} (h : since + len ≤ k.tsc) : heldFor k (some since) len = true := decide_eq_true h

section
variable {s : State} {reason : Fin 7} {port : Fin 18}

theorem policyUnmet_on {since : Nat} (hc : Calm s.dev) (hl : s.dev.latent = []) (hs : s.dev.stopped = false)
    (off : (mget Unmet.reset s.dev.pwr.unmet (policyKey reason port)).on = false)
    (broken : (mget Unmet.reset s.dev.pwr.unmet (policyKey reason port)).since = some since) (long : since + msec 10 ≤ s.clk.tsc) :
    ∃ t, exec (.policyUnmet reason port) s = .next t ∧ policyOn t.dev (policyKey reason port) = true := by
  show ∃ t, execPolicyUnmet reason port s = .next t ∧ _
  unfold execPolicyUnmet
  refine onMem_notes_policy (u := { mget Unmet.reset s.dev.pwr.unmet (policyKey reason port) with on := true }) hc hl (if_neg ?_)
  simp [hs, off, broken, heldFor_some long]

theorem policyMet_off {since : Nat} (hc : Calm s.dev) (hl : s.dev.latent = []) (hs : s.dev.stopped = false)
    (on : (mget Unmet.reset s.dev.pwr.unmet (policyKey reason port)).on = true)
    (holds : (mget Unmet.reset s.dev.pwr.unmet (policyKey reason port)).held = some since) (long : since + msec 1000 ≤ s.clk.tsc) :
    ∃ t, exec (.policyMet reason port) s = .next t ∧ policyOn t.dev (policyKey reason port) = false := by
  show ∃ t, execPolicyMet reason port s = .next t ∧ _
  unfold execPolicyMet
  refine onMem_notes_policy (u := { mget Unmet.reset s.dev.pwr.unmet (policyKey reason port) with on := false, held := none }) hc hl (if_neg ?_)
  simp [hs, on, holds, heldFor_some long]
end

/-! ### The loops (R461 to R464) -/

/-- A command that changes the power state alone: what is left of the device is as it was, and the power state satisfies `P`. -/
def Powered (s : State) (o : Out) (P : Power → Prop) : Prop :=
  ∃ t, o = .next t ∧ Settled s { s.dev with pwr := t.dev.pwr } t ∧ P t.dev.pwr

/-- A loop's step comes to a power state `w`, whose idle times and policies are then noted. -/
theorem powered_of {s : State} {o : Out} {f : Dev → Dev} {P : Power → Prop} (hc : Calm s.dev) (ho : o = onMem s f)
    (h : ∃ w, f s.dev = { s.dev with pwr := w } ∧ ∀ i u, P { w with idleSince := i, unmet := u }) : Powered s o P := by
  subst ho
  obtain ⟨w, hw, hP⟩ := h
  have calm : Calm (f s.dev) := by rw [hw]; exact hc
  obtain ⟨t, ht, pending, perm, clk, dev, ports⟩ := onMem_calm s f calm
  have pwr : t.dev.pwr = { w with idleSince := t.dev.pwr.idleSince, unmet := t.dev.pwr.unmet } := by rw [dev, hw]
  refine ⟨t, ht, ⟨pending, perm, clk, ?_, ?_⟩, ?_⟩
  · rw [dev, hw]
  · rw [hw] at ports
    exact ports
  · rw [pwr]
    exact hP _ _

section
variable {s : State} (hc : Calm s.dev) (hl : s.dev.looping = true)
include hc hl

theorem thermalLoop_hot {temp : Nat} (hot : 100 ≤ temp) (due : s.dev.pwr.thermAt + usec 100 ≤ s.clk.tsc) (room : 12 < s.dev.pwr.thermal) :
    Powered s (exec (.thermalLoopStep temp) s) fun w => w.thermal = s.dev.pwr.thermal - 1 ∧ w.hottest = temp := by
  refine powered_of hc (rfl : execThermalLoopStep temp s = onMem s _) ?_
  simp [hl, hot, passed, due, room]

theorem thermalLoop_cool {temp since : Nat} (cool : temp < 97) (held : s.dev.pwr.coolSince = some since) (long : since + msec 1 ≤ s.clk.tsc)
    (room : s.dev.pwr.thermal < 16) :
    Powered s (exec (.thermalLoopStep temp) s) fun w => w.thermal = s.dev.pwr.thermal + 1 ∧ w.hottest = temp := by
  have notHot : ¬ 100 ≤ temp := by omega
  refine powered_of hc (rfl : execThermalLoopStep temp s = onMem s _) ?_
  simp [hl, notHot, cool, held, heldFor_some long, room, sinceWhen]

theorem thermalLoop_between {temp : Nat} (warm : 97 ≤ temp) (below : temp < 100) :
    Powered s (exec (.thermalLoopStep temp) s) fun w => w.thermal = s.dev.pwr.thermal ∧ w.hottest = temp := by
  have notHot : ¬ 100 ≤ temp := by omega
  have notCool : ¬ temp < 97 := by omega
  refine powered_of hc (rfl : execThermalLoopStep temp s = onMem s _) ?_
  simp [hl, notHot, notCool, sinceWhen, heldFor]

theorem currentLoop_high {p avg : Nat} {alert : Bool} (high : 2400 < p ∨ alert = true) (due : s.dev.pwr.currAt + usec 1 ≤ s.clk.tsc)
    (room : 12 < s.dev.pwr.current) :
    Powered s (exec (.currentLoopStep p avg alert) s) fun w => w.current = s.dev.pwr.current - 1 := by
  refine powered_of hc (rfl : execCurrentLoopStep p avg alert s = onMem s _) ?_
  simp [hl, high, passed, due, room]

theorem currentLoop_average {p avg : Nat} {alert : Bool} (low : p ≤ 2400) (quiet : alert = false) (high : 2000 < avg)
    (due : s.dev.pwr.currAt + msec 1 ≤ s.clk.tsc) (room : 12 < s.dev.pwr.current) :
    Powered s (exec (.currentLoopStep p avg alert) s) fun w => w.current = s.dev.pwr.current - 1 := by
  have notOver : ¬ 2400 < p := by omega
  subst quiet
  refine powered_of hc (rfl : execCurrentLoopStep p avg false s = onMem s _) ?_
  simp [hl, notOver, high, passed, due, room]

theorem currentLoop_low {p avg since : Nat} {alert : Bool} (low : p ≤ 2400) (quiet : alert = false) (under : avg < 1900)
    (held : s.dev.pwr.avgLow = some since) (long : since + msec 10 ≤ s.clk.tsc) (room : s.dev.pwr.current < 16) :
    Powered s (exec (.currentLoopStep p avg alert) s) fun w => w.current = s.dev.pwr.current + 1 := by
  have notOver : ¬ 2400 < p := by omega
  have notAverage : ¬ 2000 < avg := by omega
  subst quiet
  refine powered_of hc (rfl : execCurrentLoopStep p avg false s = onMem s _) ?_
  simp [hl, notOver, notAverage, under, held, heldFor_some long, room, sinceWhen]

theorem timingSafety_short {slack : Int} (short : slack < 10) (room : 12 < s.dev.pwr.timing) :
    Powered s (exec (.timingSafetyStep slack) s) fun w => w.timing = s.dev.pwr.timing - 1 := by
  have notLast : ¬ s.dev.pwr.timing ≤ 12 := by omega
  refine powered_of hc (rfl : execTimingSafetyStep slack s = onMem s _) ?_
  simp [hl, short, notLast]

theorem timingSafety_ample {slack : Int} {since : Nat} (ample : 20 < slack) (held : s.dev.pwr.slackOk = some since)
    (long : since + msec 1 ≤ s.clk.tsc) (room : s.dev.pwr.timing < 16) :
    Powered s (exec (.timingSafetyStep slack) s) fun w => w.timing = s.dev.pwr.timing + 1 := by
  have notShort : ¬ slack < 10 := by omega
  refine powered_of hc (rfl : execTimingSafetyStep slack s = onMem s _) ?_
  simp [hl, notShort, ample, held, heldFor_some long, room, sinceWhen]

theorem capLoop_high {avg : Nat} (high : s.dev.pwr.cap < avg) (due : s.dev.pwr.capAt + msec 1 ≤ s.clk.tsc) (room : 12 < s.dev.pwr.capLvl) :
    Powered s (exec (.capLoopStep avg) s) fun w => w.capLvl = s.dev.pwr.capLvl - 1 ∧ w.coreLimit = s.dev.pwr.coreLimit := by
  refine powered_of hc (rfl : execCapLoopStep avg s = onMem s _) ?_
  simp [hl, high, passed, due, room]

theorem capLoop_high_cores {avg : Nat} (high : s.dev.pwr.cap < avg) (due : s.dev.pwr.capAt + msec 1 ≤ s.clk.tsc)
    (last : s.dev.pwr.capLvl ≤ 12) (room : 0 < s.dev.pwr.coreLimit) :
    Powered s (exec (.capLoopStep avg) s) fun w => w.capLvl = s.dev.pwr.capLvl ∧ w.coreLimit = s.dev.pwr.coreLimit - 16 := by
  have notLevel : ¬ 12 < s.dev.pwr.capLvl := by omega
  refine powered_of hc (rfl : execCapLoopStep avg s = onMem s _) ?_
  simp [hl, high, passed, due, notLevel, room]

theorem capLoop_under {avg since : Nat} {top : Bool} {rest : List Bool} (under : 100 * avg < 95 * s.dev.pwr.cap)
    (held : s.dev.pwr.capLow = some since) (long : since + msec 10 ≤ s.clk.tsc) (undo : s.dev.pwr.capStack = top :: rest) :
    Powered s (exec (.capLoopStep avg) s) fun w => w.capStack = rest ∧
      w.coreLimit = (if top then s.dev.pwr.coreLimit + 16 else s.dev.pwr.coreLimit) ∧
      w.capLvl = if top then s.dev.pwr.capLvl else s.dev.pwr.capLvl + 1 := by
  have notOver : ¬ s.dev.pwr.cap < avg := by omega
  refine powered_of hc (rfl : execCapLoopStep avg s = onMem s _) ?_
  cases top <;> simp [hl, notOver, under, held, heldFor_some long, undo, sinceWhen]

end

/-! ### The step of the setting (R27, R461) -/

theorem derateStep_waits {s : State} (h : s.clk.slot ≠ 0 ∨ s.clk.tsc < s.clk.changedAt + usec 1) : exec .derateStep s = .next s := by
  show execDerateStep s = _
  unfold execDerateStep
  refine if_pos ?_
  rcases h with h | h
  · simp [h]
  · simp [passed, h]

/-- A step of the setting that nothing holds up. -/
theorem derateStep_due {s : State} (hs : s.dev.stopped = false) (hr : s.clk.inReset = false) (h0 : s.clk.slot = 0)
    (due : s.clk.changedAt + usec 1 ≤ s.clk.tsc) :
    exec .derateStep s =
      if s.dev.level < s.clk.setting then .next { s with clk := { s.clk with setting := s.clk.setting - 1, changedAt := s.clk.tsc } }
      else if s.clk.setting < s.dev.level ∧ passed s.clk s.clk.upAt (msec 1) = true then
        .next { s with clk := { s.clk with setting := s.clk.setting + 1, changedAt := s.clk.tsc, upAt := s.clk.tsc } }
      else .next s := by
  show execDerateStep s = _
  unfold execDerateStep
  refine if_neg ?_
  simp [hs, hr, h0, passed, due]

/-! ### Device-fatal records (R459, R462, R473, R483) -/

/-- A Device-fatal record whose code draws no notice waits to be settled; besides it only the event log changes. -/
theorem logErr_fatal (k : Clock) {r : ErlRec} (d : Dev) (fatal : r.cls = 4) (quiet : noticeCode r.code = false) :
    ∃ e, logErr k r d = { d with erl := e, fatalPend := d.fatalPend ++ [{ r with time := gtime k d, nvm := true }] } := by
  unfold logErr
  simp only [fatal, quiet]
  split
  · next repeated _ =>
    exfalso
    revert repeated
    split <;> simp
  · exact ⟨_, rfl⟩

theorem addFatal_getLast (p : Perm) (r : ErlRec) : (p.addFatal r).fatal.getLast? = some { r with nvm := true } :=
  List.getLast?_concat

theorem addFatal_retire (p : Perm) (r : ErlRec) : (p.addFatal r).retire = p.retire := by
  unfold Perm.addFatal
  dsimp only
  split <;> rfl

theorem cutUpdate_retire (p : Perm) (d : Dev) : (p.cutUpdate d).retire = p.retire := by
  unfold Perm.cutUpdate
  repeat' split
  all_goals rfl

theorem settledNvm_one {d : Dev} {r : ErlRec} (p : Perm) (h1 : d.fatalPend = [r]) (h2 : d.healthDue = []) :
    settledNvm d p = (p.cutUpdate d).addFatal r := by
  unfold settledNvm
  rw [h1, h2]
  rfl

/-- A command that logs a Device-fatal record, other than a thermal trip's, retires a device that is not retired yet. -/
theorem onMem_logErr_retires {s : State} {f : Dev → Dev} {r : ErlRec} (hc : Calm s.dev) (hf : f s.dev = logErr s.clk r s.dev)
    (fatal : r.cls = 4) (quiet : noticeCode r.code = false) (noTrip : r.code ≠ 0x0F) (serving : s.dev.lkp.st ≠ .retired) :
    ∃ t, onMem s f = .next t ∧ t.dev.lkp.st = .retired ∧ t.perm.retire = true := by
  obtain ⟨notices, pend, -⟩ := hc
  obtain ⟨l, logged⟩ := logErr_fatal s.clk s.dev fatal quiet
  rw [logged, pend] at hf
  obtain ⟨e, noted, goes⟩ := onMem_quiet s f (by rw [hf]; exact notices)
  have pending : e.fatalPend = [{ r with time := gtime s.clk s.dev, nvm := true }] := by rw [noted.dev, hf]; rfl
  have state : e.lkp.st = s.dev.lkp.st := by rw [noted.dev, hf]
  rcases settle_cases e s.perm with ⟨-, -, d, retired⟩ | ⟨stays, -⟩
  · rw [retired] at goes
    exact ⟨_, goes, rfl, rfl⟩
  · refine absurd ⟨?_, by rw [state]; exact serving⟩ stays
    rw [pending]
    simpa using noTrip

theorem timingSafety_retires {s : State} {slack : Int} (hc : Calm s.dev) (hl : s.dev.looping = true) (short : slack < 10)
    (last : s.dev.pwr.timing ≤ 12) :
    ∃ t, exec (.timingSafetyStep slack) s = .next t ∧ t.dev.lkp.st = .retired ∧ t.perm.retire = true := by
  have serving : s.dev.lkp.st ≠ .retired := by
    intro retired
    simp [Dev.looping, retired] at hl
  show ∃ t, execTimingSafetyStep slack s = .next t ∧ _
  unfold execTimingSafetyStep
  refine onMem_logErr_retires (r := { ErlRec.reset with cls := 4, src := 0x10, code := 0x10, detail := 11 }) hc ?_ rfl (by decide)
    (by decide) serving
  simp only [hl, short, last, Bool.not_true, Bool.false_eq_true, if_false, if_true]

/-- A command that logs a thermal trip's record: it is the last of the fatal log, and no retirement follows. -/
theorem onMem_logErr_trip {s : State} {f : Dev → Dev} {d : Dev} {r : ErlRec} (hc : Calm d) (hf : f s.dev = logErr s.clk r d)
    (fatal : r.cls = 4) (trip : r.code = 0x0F) :
    ∃ t q, onMem s f = .next t ∧ t.dev.stopped = d.stopped ∧ t.dev.thermtrip = d.thermtrip ∧ t.perm.retire = s.perm.retire ∧
      t.perm.fatal.getLast? = some q ∧ q.cls = 4 ∧ q.code = 0x0F := by
  obtain ⟨notices, pend, health⟩ := hc
  obtain ⟨l, logged⟩ := logErr_fatal s.clk d fatal (by rw [trip]; rfl)
  rw [logged, pend] at hf
  obtain ⟨e, noted, goes⟩ := onMem_quiet s f (by rw [hf]; exact notices)
  have pending : e.fatalPend = [{ r with time := gtime s.clk d, nvm := true }] := by rw [noted.dev, hf]; rfl
  have due : e.healthDue = [] := by rw [noted.dev, hf]; exact health
  rcases settle_cases e s.perm with ⟨retires, -⟩ | ⟨-, l', c, settled⟩
  · rw [pending] at retires
    simp [trip] at retires
  · rw [settled, settledNvm_one s.perm pending due] at goes
    refine ⟨_, _, goes, ?_, ?_, (addFatal_retire ..).trans (cutUpdate_retire ..), addFatal_getLast .., fatal, trip⟩
    · dsimp only
      rw [noted.dev, hf]
    · dsimp only
      rw [noted.dev, hf]

/-- A thermal trip stops the clocks and asserts THERMTRIP_N (R462). -/
theorem thermalTrip_stops {s : State} (hc : Calm s.dev) (first : s.dev.thermtrip = false) (hr : s.clk.inReset = false)
    (hv : s.clk.vaon = true) :
    ∃ t r, exec .thermalTrip s = .next t ∧ t.dev.stopped = true ∧ t.dev.thermtrip = true ∧ t.perm.retire = s.perm.retire ∧
      t.perm.fatal.getLast? = some r ∧ r.cls = 4 ∧ r.code = 0x0F := by
  show ∃ t r, execThermalTrip s = .next t ∧ _
  unfold execThermalTrip
  refine onMem_logErr_trip (d := { s.dev with stopped := true, thermtrip := true }) hc (if_neg ?_) rfl rfl
  simp [first, hr, hv]

/-! ### The operating point -/

/-- Settles O46: the setting, each loop, the trip and the policies by their own lemmas. -/
theorem loopsHoldThePoint : Obligations.LoopsHoldThePoint := by
  intro s hc hlat
  refine ⟨fun hs hr h0 due => ?setting, derateStep_waits, rfl, fun hl => ⟨fun temp => ?thermal, fun p avg alert => ?current,
    fun slack => ?timing, fun avg => ?cap⟩, thermalTrip_stops hc, fun reason port hs => ?policies⟩
  case setting =>
    rw [derateStep_due hs hr h0 due]
    refine ⟨fun lower => if_pos lower, fun higher long => ?_, fun higher soon => ?_, fun equal => ?_⟩
    · rw [if_neg (by omega), if_pos ⟨higher, decide_eq_true long⟩]
    · rw [if_neg (by omega), if_neg (fun h => absurd (of_decide_eq_true h.2) (by omega))]
    · rw [if_neg (by omega), if_neg (fun h => absurd h.1 (by omega))]
  case thermal =>
    exact ⟨thermalLoop_hot hc hl, fun _ => thermalLoop_cool hc hl, thermalLoop_between hc hl⟩
  case current =>
    exact ⟨currentLoop_high hc hl, currentLoop_average hc hl, fun _ => currentLoop_low hc hl⟩
  case timing =>
    exact ⟨timingSafety_short hc hl, timingSafety_retires hc hl, fun _ => timingSafety_ample hc hl⟩
  case cap =>
    exact ⟨fun high due => ⟨capLoop_high hc hl high due, capLoop_high_cores hc hl high due⟩, fun _ _ _ => capLoop_under hc hl⟩
  case policies =>
    exact ⟨fun _ => policyUnmet_on hc hlat hs, fun _ => policyMet_off hc hlat hs⟩

end Sys2Proof.Machine

/-! ## Core execution: branches, barriers, parking, local memory, dispatch, and the answers that reach a core -/

namespace Sys2Proof.Machine

/-! ### Maps, lists and folds -/

theorem mput_mput {α : Type} (m : List (Nat × α)) (k : Nat) (v w : α) : mput (mput m k v) k w = mput m k w := by
  induction m with
  | nil => simp [mput]
  | cons e t ih =>
    obtain ⟨j, x⟩ := e
    rcases Nat.lt_trichotomy k j with before | rfl | after
    · simp [mput, before]
    · simp [mput]
    · have apart : ¬ k < j ∧ ¬ j = k ∧ ¬ k = j := ⟨by omega, by omega, by omega⟩
      simp [mput, apart, ih]

theorem mget?_mput {α : Type} (m : List (Nat × α)) (k j : Nat) (v : α) : mget? (mput m k v) j = if j = k then some v else mget? m j := by
  induction m with
  | nil => simp [mput, mget?, eq_comm]
  | cons e t ih =>
    obtain ⟨i, w⟩ := e
    rcases Nat.lt_trichotomy k i with before | rfl | after
    · simp [mput, before, mget?, eq_comm]
    · by_cases same : j = k <;> simp [mput, mget?, same, Ne.symm]
    · have apart : ¬ k < i ∧ ¬ i = k := ⟨by omega, by omega⟩
      by_cases here : i = j
      · subst here
        simp [mput, apart, mget?]
      · simp [mput, apart, mget?, here, ih]

theorem mget?_map_same {α : Type} {m : List (Nat × α)} {k : Nat} {v : α} (h : mget? m k = some v) (f : α → α) :
    mget? (m.map fun x => if x.1 = k then (k, f x.2) else x) k = some (f v) := by
  induction m with
  | nil => cases h
  | cons e t ih =>
    obtain ⟨j, w⟩ := e
    by_cases same : j = k
    · simp only [mget?, same, if_true, Option.some.injEq] at h
      simp [mget?, same, h]
    · simp only [mget?, same, if_false] at h
      simp [mget?, same, ih h]

/-- What a map lists at a key after the entries whose key a predicate refuses are dropped. -/
theorem mget_filter_key {α : Type} (dflt : α) (m : List (Nat × α)) (keep : Nat → Bool) (k : Nat) :
    mget dflt (m.filter fun e => keep e.1) k = if keep k then mget dflt m k else dflt := by
  induction m with
  | nil => simp [mget]
  | cons e t ih =>
    obtain ⟨j, v⟩ := e
    by_cases same : j = k
    · subst same
      cases kept : keep j <;> simp [kept, mget, ih]
    · cases kept : keep j <;> simp [kept, mget, ih, same]

theorem mem_mput_same {α : Type} (m : List (Nat × α)) (k : Nat) (v : α) : (k, v) ∈ mput m k v := by
  induction m with
  | nil => simp [mput]
  | cons e t ih =>
    obtain ⟨j, w⟩ := e
    simp only [mput]
    repeat' split
    · simp
    · simp
    · exact List.mem_cons_of_mem _ ih

theorem mem_mput_other {α : Type} {m : List (Nat × α)} {k : Nat} {e : Nat × α} (h : e ∈ m) (hk : e.1 ≠ k) (v : α) : e ∈ mput m k v := by
  induction m with
  | nil => cases h
  | cons x t ih =>
    obtain ⟨j, w⟩ := x
    simp only [mput]
    repeat' split
    · exact List.mem_cons_of_mem _ h
    · next _ same =>
      rcases List.mem_cons.mp h with rfl | h
      · exact absurd same hk
      · exact List.mem_cons_of_mem _ h
    · rcases List.mem_cons.mp h with rfl | h
      · exact List.mem_cons_self ..
      · exact List.mem_cons_of_mem _ (ih h)

/-- A predicate that some entry of a map meets is met after a write at a key, if the value written meets it where the old one did. -/
theorem any_mput {α : Type} {m : List (Nat × α)} {q : Nat × α → Bool} (dflt : α) {k : Nat} {v : α} (h : m.any q = true)
    (keep : q (k, mget dflt m k) = true → q (k, v) = true) : (mput m k v).any q = true := by
  induction m with
  | nil => cases h
  | cons e t ih =>
    obtain ⟨j, w⟩ := e
    rcases Nat.lt_trichotomy k j with before | rfl | after
    · simp only [mput, before, if_true, List.any_cons] at h ⊢
      simp [h]
    · simp only [mget, if_true] at keep
      simp only [mput, Nat.lt_irrefl, if_false, if_true, List.any_cons, Bool.or_eq_true] at h ⊢
      exact h.imp_left keep
    · have apart : ¬ k < j ∧ ¬ j = k := ⟨by omega, by omega⟩
      simp only [mget, apart, if_false] at keep
      simp only [mput, apart, if_false, List.any_cons, Bool.or_eq_true] at h ⊢
      exact h.imp_right fun h => ih h keep

theorem mhas_mdel {α : Type} (m : List (Nat × α)) (k : Nat) : mhas (mdel m k) k = false := by simp [mhas, mdel]

theorem foldl_stays {α β : Type} {f : β → α → β} {d : β} {l : List α} (h : ∀ a ∈ l, f d a = d) : l.foldl f d = d := by
  induction l with
  | nil => rfl
  | cons a t ih => rw [List.foldl_cons, h a (List.mem_cons_self ..), ih fun x hx => h x (List.mem_cons_of_mem _ hx)]

/-- The first entry that a predicate finds is the first of every narrower one that it meets. -/
theorem find?_narrower {α : Type} {l : List α} {p q : α → Bool} {r : α} (h : l.find? p = some r) (hr : q r = true)
    (narrow : ∀ x, q x = true → p x = true) : l.find? q = some r := by
  obtain ⟨-, as, bs, eq, before⟩ := List.find?_eq_some_iff_append.mp h
  refine List.find?_eq_some_iff_append.mpr ⟨hr, as, bs, eq, fun a ha => ?_⟩
  have not := before a ha
  simp only [Bool.not_eq_true', Bool.eq_false_iff] at not ⊢
  exact mt (narrow a) not

theorem coreFoldl_keeps {α β : Type} (g : Core → β) (f : Core → α → Core) (h : ∀ k a, g (f k a) = g k) (l : List α) (k : Core) :
    g (l.foldl f k) = g k := by
  induction l generalizing k with
  | nil => rfl
  | cons a t ih => exact (ih _).trans (h k a)

/-! ### Reading the device after a change -/

theorem updCore_self (d : Dev) (c : Nat) (f : Core → Core) : (d.updCore c f).core c = f (d.core c) := (core_updCore ..).trans (if_pos rfl)

/-- Changing one core leaves the others. -/
theorem updCore_others (d : Dev) {c x : Nat} (hx : x ≠ c) (f : Core → Core) : (d.updCore c f).core x = d.core x :=
  (core_updCore ..).trans (if_neg hx)

theorem updCore_updCore (d : Dev) (c : Nat) (f g : Core → Core) : (d.updCore c f).updCore c g = d.updCore c (g ∘ f) := by
  simp [Dev.updCore, Dev.setCore, Dev.core, mput_mput]

theorem setGroup_setGroup (d : Dev) (c : Nat) {s : Nat} (hs : s < 64) (g h : Group) : (d.setGroup c s g).setGroup c s h = d.setGroup c s h := by
  unfold Dev.setGroup
  rw [updCore_updCore]
  congr 1
  funext k
  simp [Core.setGroup, hs, mput_mput]

/-- A change of a core and then of one of its groups is one change of the core. -/
theorem updCore_updGroup (d : Dev) (c s : Nat) (f : Core → Core) (g : Group → Group) :
    (d.updCore c f).updGroup c s g = d.updCore c fun k => (f k).setGroup s (g ((f k).group s)) := by
  unfold Dev.updGroup Dev.setGroup
  rw [updCore_updCore]
  unfold Dev.group
  rw [updCore_self]
  rfl

theorem setGroup_core (d : Dev) (c s : Nat) (g : Group) : (d.setGroup c s g).core c = (d.core c).setGroup s g :=
  (core_updCore ..).trans (if_pos rfl)

theorem setGroup_group (d : Dev) {s : Nat} (c : Nat) (g : Group) (hs : s < 64) (j : Nat) :
    (d.setGroup c s g).group c j = if j = s then g else d.group c j := by
  unfold Dev.group
  rw [setGroup_core, group_setGroup _ _ _ _ hs]

@[simp] theorem setGroup_blocks (k : Core) (s : Nat) (g : Group) : (k.setGroup s g).blocks = k.blocks := by
  unfold Core.setGroup
  split <;> rfl

theorem setGroup_lm (k : Core) (s : Nat) (g : Group) : (k.setGroup s g).lm = k.lm := by
  unfold Core.setGroup
  split <;> rfl

theorem updSlice_self (d : Dev) (n : Nat) (f : Slice → Slice) : (d.updSlice n f).slice n = f (d.slice n) := mget_mput_same ..

theorem setSlice_setSlice (d : Dev) (n : Nat) (x y : Slice) : (d.setSlice n x).setSlice n y = d.setSlice n y := by
  simp [Dev.setSlice, mput_mput]

theorem takeLatent_congr {d e : Dev} (h : e.latent = d.latent) (kind unit place : Nat) :
    (takeLatent kind unit place e).1 = (takeLatent kind unit place d).1 := by
  unfold takeLatent
  rw [h]
  split <;> rfl

/-! ### What slices do leaves the cores alone -/

section
variable (d : Dev) (k : Clock)

@[simp] theorem send_cores (p : Packet) : (d.send p).cores = d.cores := rfl

@[simp] theorem sendAll_cores (ps : List Packet) : (d.sendAll ps).cores = d.cores := foldl_keeps Dev.cores _ send_cores ps d

@[simp] theorem bump_cores (w n : Nat) : (d.bump w n).cores = d.cores := rfl

@[simp] theorem logErr_cores (r : ErlRec) : (logErr k r d).cores = d.cores := by
  unfold logErr
  dsimp only
  repeat' split
  all_goals rfl

@[simp] theorem loseStack_cores (n ch cause : Nat) : (d.loseStack k n ch cause).cores = d.cores := by
  unfold Dev.loseStack
  split
  · rfl
  · exact logErr_cores ..

@[simp] theorem takeLatent_cores (kind unit place : Nat) : (takeLatent kind unit place d).2.cores = d.cores := by
  unfold takeLatent
  split <;> rfl

@[simp] theorem meetBurst_cores (src berth sec : Nat) : (d.meetBurst k src berth sec).cores = d.cores := by
  unfold Dev.meetBurst
  split
  · rfl
  · have taken := takeLatent_cores d 0 0 sec
    generalize takeLatent 0 0 sec d = x at taken ⊢
    obtain ⟨_ | unc, e⟩ := x
    · exact taken
    · cases unc with
      | false => exact (logErr_cores ..).trans taken
      | true =>
        dsimp only
        split
        · exact (loseStack_cores ..).trans ((logErr_cores ..).trans taken)
        · exact (logErr_cores ..).trans taken

@[simp] theorem readHbm_cores (key berth line : Nat) (want : BitVec 4) : (d.readHbm k key berth line want).2.2.cores = d.cores :=
  foldl_keeps Dev.cores _ (fun d i => by split <;> simp) _ d

@[simp] theorem charge_cores (n b c : Nat) : (d.charge k n b c).cores = d.cores := by
  unfold Dev.charge
  dsimp only
  split <;> rfl

@[simp] theorem writeSector_cores (key sec : Nat) (mask : BitVec 32) (v : Nat) (p : Bool) :
    (d.writeSector key sec mask v p).cores = d.cores := by
  unfold Dev.writeSector
  split <;> rfl

@[simp] theorem putSectors_cores (key line : Nat) (s : BitVec 4) (data : Line) (p : BitVec 16) :
    (d.putSectors key line s data p).cores = d.cores :=
  foldl_keeps Dev.cores _ (fun d i => by split <;> simp) _ d

@[simp] theorem untaintSectors_cores (x : SLine) (s : BitVec 4) : (d.untaintSectors x s).cores = d.cores :=
  foldl_keeps Dev.cores _ (fun d i => by dsimp only; split <;> rfl) _ d

@[simp] theorem writeMirror_cores (x : SLine) (s : BitVec 4) : (d.writeMirror x s).cores = d.cores := by
  unfold Dev.writeMirror
  dsimp only
  repeat' split
  · rfl
  · exact putSectors_cores ..
  · rfl

@[simp] theorem writeBack_cores (x : SLine) (s : BitVec 4) : (d.writeBack k x s).cores = d.cores := by simp [Dev.writeBack]

@[simp] theorem farPut_cores (n line : Nat) (st : LState) (f : SLine) : (d.farPut n line st f).cores = d.cores := rfl

@[simp] theorem recallEnd_cores (n : Nat) (r : Recall) : (d.recallEnd n r).cores = d.cores := by
  unfold Dev.recallEnd
  dsimp only
  split <;> rfl

@[simp] theorem startRecall_cores (n : Nat) (e : DirEntry) (put : Bool) (kept : Option SLine) :
    (d.startRecall n e put kept).cores = d.cores := by
  unfold Dev.startRecall
  dsimp only
  split <;> simp

@[simp] theorem dropFrame_cores (n : Nat) (f : SLine) : (d.dropFrame k n f).cores = d.cores := by
  unfold Dev.dropFrame
  dsimp only
  repeat' split
  all_goals simp [Dev.sliceOwn]

@[simp] theorem victimPush_cores (n : Nat) (f : SLine) : (d.victimPush k n f).cores = d.cores := by
  unfold Dev.victimPush
  dsimp only
  repeat' split
  all_goals simp

@[simp] theorem insertFrame_cores (n : Nat) (f : SLine) (lru : Bool) : (d.insertFrame k n f lru).cores = d.cores := by
  unfold Dev.insertFrame
  dsimp only
  split <;> simp

@[simp] theorem putFrame_cores (n : Nat) (f : SLine) : (d.putFrame n f).cores = d.cores := by
  unfold Dev.putFrame
  dsimp only
  split <;> rfl

@[simp] theorem clearUnits_cores (n : Nat) : (d.clearUnits k n).cores = d.cores :=
  foldl_keeps Dev.cores _ (fun d f => by dsimp only; split <;> simp) _ d

@[simp] theorem disableSliceUnit_cores (n unit : Nat) : (d.disableSliceUnit k n unit).cores = d.cores := by
  unfold Dev.disableSliceUnit
  dsimp only
  repeat' split
  all_goals simp

@[simp] theorem sliceUnitErr_cores (n unit addr : Nat) (unc : Bool) : (d.sliceUnitErr k n unit addr unc).cores = d.cores := by
  unfold Dev.sliceUnitErr
  dsimp only
  repeat' split
  all_goals simp

@[simp] theorem sliceMeet_cores (n line : Nat) (full reads : List Nat) : (d.sliceMeet k n line full reads).cores = d.cores := by
  unfold Dev.sliceMeet
  dsimp only
  have taken := takeLatent_cores d 1 n line
  split
  · rfl
  · split
    · exact taken
    · split
      · rfl
      · generalize takeLatent 1 n line d = x at taken ⊢
        obtain ⟨_ | unc, e⟩ := x
        · exact taken
        · cases unc <;> exact (sliceUnitErr_cores ..).trans taken

@[simp] theorem sliceFind_cores (n line : Nat) : (d.sliceFind k n line).2.cores = d.cores := by
  unfold Dev.sliceFind
  dsimp only
  repeat' split
  all_goals simp

@[simp] theorem wcbMeet_cores (n : Nat) (e : Wcb) : (d.wcbMeet k n e).2.cores = d.cores := by
  unfold Dev.wcbMeet
  have taken := takeLatent_cores d 9 n e.line
  generalize takeLatent 9 n e.line d = x at taken ⊢
  obtain ⟨_ | unc, e⟩ := x
  · exact taken
  · exact (logErr_cores ..).trans taken

@[simp] theorem wcbFlush_cores (e : Wcb) : (d.wcbFlush k e).cores = d.cores := by
  unfold Dev.wcbFlush
  refine (foldl_keeps Dev.cores _ (fun d i => ?_) _ _).trans (wcbMeet_cores ..)
  dsimp only
  repeat' split
  all_goals simp

@[simp] theorem sliceRead_cores (n line berth key mtype mirror : Nat) (want : BitVec 4) (ins : Nat) :
    (d.sliceRead k n line berth key mtype mirror want ins).2.cores = d.cores := by
  unfold Dev.sliceRead
  dsimp only
  repeat' split
  all_goals simp

@[simp] theorem sliceWrite_cores (n line berth key mtype mirror : Nat) (mask : BitVec 128) (data : Line) (poison : BitVec 16) :
    (d.sliceWrite k n line berth key mtype mirror mask data poison).cores = d.cores := by
  unfold Dev.sliceWrite
  dsimp only
  repeat' split
  all_goals simp

@[simp] theorem frameSectors_cores (n line berth key mtype mirror : Nat) (s : BitVec 4) (data : Line) (p : BitVec 16) :
    (d.frameSectors k n line berth key mtype mirror s data p).cores = d.cores := by
  unfold Dev.frameSectors
  dsimp only
  repeat' split
  all_goals simp

end

/-! ### Reports leave the groups alone -/

@[simp] theorem setCopy_groups (k : Core) (line : Nat) (st : LState) (clean : Bool) : (k.setCopy line st clean).groups = k.groups := by
  unfold Core.setCopy
  repeat' split
  all_goals rfl

/-- A change of one core that keeps its groups keeps every group. -/
theorem updCore_group (d : Dev) (c : Nat) (f : Core → Core) (h : (f (d.core c)).groups = (d.core c).groups) (x j : Nat) :
    (d.updCore c f).group x j = d.group x j := by
  unfold Dev.group Core.group
  rw [core_updCore]
  split
  · next same => rw [h, same]
  · rfl

theorem group_of_cores {d e : Dev} (h : e.cores = d.cores) (x j : Nat) : e.group x j = d.group x j := by
  unfold Dev.group Dev.core
  rw [h]

theorem drawLocal_group (d : Dev) (k : Clock) (n line : Nat) (keep : Bool) (x j : Nat) :
    (d.drawLocal k n line keep).group x j = d.group x j := by
  refine foldl_keeps (Dev.group · x j) _ (fun d c => ?_) _ d
  dsimp only
  split
  · rfl
  · exact (updCore_group _ c _ (setCopy_groups ..) x j).trans (group_of_cores (frameSectors_cores ..) x j)

theorem obtain_group (d : Dev) (k : Clock) (n line : Nat) (x j : Nat) : (d.obtain k n line).2.group x j = d.group x j := by
  unfold Dev.obtain
  dsimp only
  repeat' split
  · rfl
  · rfl
  · exact group_of_cores (startRecall_cores ..) x j
  · rfl
  · exact (group_of_cores (Dev.updSlice_cores ..) x j).trans (drawLocal_group d k n line false x j)

theorem poke_group (d : Dev) (k : Clock) (berth a : Nat) (bs : List Byte) (x j : Nat) : (d.poke k berth a bs).group x j = d.group x j := by
  refine foldl_keeps (Dev.group · x j) _ (fun d ln => ?_) _ d
  exact (group_of_cores (sliceWrite_cores ..) x j).trans (obtain_group ..)

/-- What a report of the device comes to where it meets no error: nothing more is left to settle, and every group is as it was. -/
structure Posted (d e : Dev) : Prop where
  calm : Calm d → Calm e
  group : ∀ c j, e.group c j = d.group c j

theorem Posted.self (d : Dev) : Posted d d := ⟨id, fun _ _ => rfl⟩

theorem Posted.trans {a b c : Dev} (h1 : Posted a b) (h2 : Posted b c) : Posted a c :=
  ⟨h2.calm ∘ h1.calm, fun x j => (h2.group x j).trans (h1.group x j)⟩

theorem posted_updBerth (d : Dev) (b : Nat) (f : Berth → Berth) : Posted d (d.updBerth b f) := ⟨id, fun _ _ => rfl⟩

theorem posted_poke (d : Dev) (k : Clock) (berth a : Nat) (bs : List Byte) (hl : d.latent = []) : Posted d (d.poke k berth a bs) :=
  ⟨(stored_poke d k berth a bs hl).reported.calm, poke_group d k berth a bs⟩

/-- A ring that is not enabled takes no record: at most the loss is counted (R411). -/
theorem posted_writeRing_off (d : Dev) (k : Clock) (b : Nat) (bytes : BitVec 512) (urgent : Bool) (off : (d.ring b 0).enable = false) :
    Posted d (d.writeRing k b 0 bytes urgent) := by
  unfold Dev.writeRing
  simp only [off, Bool.not_false, if_true]
  split
  · exact Posted.self d
  · exact posted_updBerth d b _

theorem posted_raiseOverflow (d : Dev) (k : Clock) (b x : Nat) (off : RingsOff d) : Posted d (d.raiseOverflow k b x) := by
  refine (posted_updBerth d b _).trans (posted_writeRing_off _ k b _ _ ?_)
  have := off b
  simpa [Dev.ring] using this

theorem posted_placeFault (d : Dev) (k : Clock) (b : Nat) (bytes : BitVec 512) (hl : d.latent = []) (off : RingsOff d) :
    Posted d (d.placeFault k b bytes) := by
  unfold Dev.placeFault
  dsimp only
  refine (posted_poke d k b _ _ hl).trans ((posted_updBerth _ b _).trans (posted_writeRing_off _ k b _ _ ?_))
  have same : ∀ a bs, (d.poke k b a bs).ctl = d.ctl := fun a bs => by rw [(stored_poke d k b a bs hl).dev]
  have := off b
  simpa [Dev.ring, Dev.berth, Dev.updBerth, same] using this

/-! ### Parking (R68 to R70, R73) -/

/-- What a parked group keeps of its fault (R70). -/
def Dev.parkInfo (d : Dev) (k : Clock) (c s code : Nat) (pc : BitVec 64) (addr detail : Nat) (completed active : BitVec 32) : ParkInfo :=
  { ParkInfo.reset with
    code := code, tag := (d.group c s).parks % 65536, pc := pc, completed := completed, active := active
    addr := BitVec.ofNat 64 addr, detail := detail, time := gtime k d
    pend := (d.berth ((d.core c).block (d.group c s).block).berth).fqFull, resume := (d.group c s).resume }

/-- A group as it is Parked. -/
def Group.parkedWith (g : Group) (p : ParkInfo) : Group :=
  { g with
    st := .parked, park := some p, parks := g.parks + 1, pc := p.pc, active := p.active
    heldSince := none, bwHold := none, walkVa := none, fetching := none, replay := none }

/-- The device with a group Parked, before its record is reported. -/
def Dev.park (d : Dev) (c s : Nat) (p : ParkInfo) : Dev :=
  (d.updBank ((d.core c).block (d.group c s).block).queue fun v => { v with faults := v.faults + 1 }).updCore c fun co =>
    { co.setGroup s ((d.group c s).parkedWith p) with walks := co.walks.filter fun w => w.who != s }

/-- Parking is the change of the group and then the report of its record. -/
theorem parkGroup_eq (d : Dev) (k : Clock) (c s code : Nat) (pc : BitVec 64) (addr detail : Nat) (completed active : BitVec 32) :
    d.parkGroup k c s code pc addr detail completed active =
      let b := ((d.core c).block (d.group c s).block).berth
      let e := d.park c s (d.parkInfo k c s code pc addr detail completed active)
      if (d.berth b).fqFull then
        (if !d.hasPending b then e.raiseOverflow k b ((d.core c).block (d.group c s).block).ctx else e)
      else e.placeFault k b (groupFault e c s) := rfl

theorem park_group (d : Dev) {c s : Nat} (p : ParkInfo) (hs : s < 64) (x j : Nat) :
    (d.park c s p).group x j = if x = c ∧ j = s then (d.group c s).parkedWith p else d.group x j := by
  unfold Dev.park
  by_cases hx : x = c
  · subst hx
    simp [Dev.group, Core.group, Core.setGroup, hs]
  · simp [Dev.group, hx]

theorem park_others (d : Dev) {c x : Nat} (s : Nat) (p : ParkInfo) (hx : x ≠ c) : (d.park c s p).core x = d.core x := by
  simp [Dev.park, hx]

@[simp] theorem park_mem (d : Dev) (c s : Nat) (p : ParkInfo) : (d.park c s p).mem = d.mem := rfl
@[simp] theorem park_slices (d : Dev) (c s : Nat) (p : ParkInfo) : (d.park c s p).slices = d.slices := rfl
@[simp] theorem park_fab (d : Dev) (c s : Nat) (p : ParkInfo) : (d.park c s p).fab = d.fab := rfl
@[simp] theorem park_latent (d : Dev) (c s : Nat) (p : ParkInfo) : (d.park c s p).latent = d.latent := rfl

/-- With the fault queue full and a record of the berth Pending already, parking only changes the group (R73). -/
theorem parkGroup_pending {d : Dev} {c s : Nat} (h : HoldsPending d ((d.core c).block (d.group c s).block).berth) (k : Clock) (code : Nat)
    (pc : BitVec 64) (addr detail : Nat) (completed active : BitVec 32) :
    d.parkGroup k c s code pc addr detail completed active = d.park c s (d.parkInfo k c s code pc addr detail completed active) := by
  obtain ⟨full, pending⟩ := h
  simp [parkGroup_eq, full, pending]

/-- Where its record can be reported, a parking comes to the change of the group, whatever the record is. -/
theorem parkGroup_posted {s : State} {c gs : Nat} (h : Reports s c gs) (code : Nat) (pc : BitVec 64) (addr detail : Nat)
    (completed active : BitVec 32) :
    Posted (s.dev.park c gs (s.dev.parkInfo s.clk c gs code pc addr detail completed active))
      (s.dev.parkGroup s.clk c gs code pc addr detail completed active) := by
  rcases h with pending | ⟨sound, off⟩
  · rw [parkGroup_pending pending]
    exact Posted.self _
  · rw [parkGroup_eq]
    have off' : RingsOff (s.dev.park c gs (s.dev.parkInfo s.clk c gs code pc addr detail completed active)) := off
    dsimp only
    repeat' split
    · exact posted_raiseOverflow _ _ _ _ off'
    · exact Posted.self _
    · exact posted_placeFault _ _ _ _ sound off'

end Sys2Proof.Machine

namespace Sys2Proof

open Sys2Proof.Machine

/-! ### The state after a command -/

theorem Settled.cores {s t : State} {d : Dev} (h : Settled s d t) : t.dev.cores = d.cores := by rw [h.dev]
theorem Settled.core {s t : State} {d : Dev} (h : Settled s d t) (c : Nat) : t.dev.core c = d.core c := by rw [h.dev]; rfl
theorem Settled.group {s t : State} {d : Dev} (h : Settled s d t) (c j : Nat) : t.dev.group c j = d.group c j := by rw [h.dev]; rfl
theorem Settled.mem {s t : State} {d : Dev} (h : Settled s d t) : t.dev.mem = d.mem := by rw [h.dev]
theorem Settled.slices {s t : State} {d : Dev} (h : Settled s d t) : t.dev.slices = d.slices := by rw [h.dev]
theorem Settled.slice {s t : State} {d : Dev} (h : Settled s d t) (n : Nat) : t.dev.slice n = d.slice n := by rw [h.dev]; rfl
theorem Settled.ctl {s t : State} {d : Dev} (h : Settled s d t) : t.dev.ctl = d.ctl := by rw [h.dev]
theorem Settled.ctx {s t : State} {d : Dev} (h : Settled s d t) (x : Nat) : t.dev.ctx x = d.ctx x := by rw [h.dev]; rfl
theorem Settled.queue {s t : State} {d : Dev} (h : Settled s d t) (q : Nat) : t.dev.queue q = d.queue q := by rw [h.dev]; rfl
theorem Settled.whf {s t : State} {d : Dev} (h : Settled s d t) : t.dev.whf = d.whf := by rw [h.dev]
theorem Settled.net {s t : State} {d : Dev} (h : Settled s d t) : t.dev.fab.net = d.fab.net := by rw [h.dev]

end Sys2Proof

namespace Sys2Proof.Machine

/-- A command whose effect comes to a device that leaves nothing to settle ends with that device. -/
theorem onMem_settles {s : State} {f : Dev → Dev} {d : Dev} (hf : f s.dev = d) (hc : Calm d) :
    ∃ t, onMem s f = .next t ∧ Settled s d t := by
  subst hf
  exact onMem_calm s f hc

/-- A change of one core has the frame of a core. -/
theorem coreFrame_setCore {s t : State} {c : Nat} {k : Core} (h : Settled s (s.dev.setCore c k) t) : CoreFrame s c t := by
  refine ⟨h.pending, h.perm, h.clk, ?_, h.ports, fun c' hc => ?_⟩
  · rw [h.dev]
    rfl
  · rw [h.core, core_setCore, if_neg hc]

/-- An instruction that presents has its effect, and then nothing else happens if that leaves nothing to settle. -/
theorem issue_settles {s : State} {c gs : Nat} {f : InsF} {sh : Dev → Shape} {eff : Dev → Dev} {d : Dev}
    (h : Presents s c gs f (sh s.dev)) (he : eff s.dev = d) (hc : Calm d) :
    ∃ t, onMem s (fun d => issue s.clk c gs f (sh d) eff d) = .next t ∧ Settled s d t :=
  onMem_settles ((issue_presents h eff).trans he) hc

/-- An instruction gives its group this state, and changes nothing else. -/
def Gives (s : State) (c gs : Nat) (o : Out) (g : Group) : Prop := ∃ t, o = .next t ∧ GroupFrame s c gs t ∧ t.dev.group c gs = g

theorem issue_gives {s : State} {c gs : Nat} {f : InsF} {sh : Shape} {eff : Dev → Dev} {g : Group} (h : Presents s c gs f sh)
    (hs : gs < 64) (he : eff s.dev = s.dev.setGroup c gs g) : Gives s c gs (onMem s (fun d => issue s.clk c gs f sh eff d)) g := by
  obtain ⟨t, ht, settled⟩ := issue_settles (sh := fun _ => sh) h he h.calm
  exact ⟨t, ht, groupFrame_of (f := fun _ => g) hs settled⟩

/-! ### Instructions that park their group -/

/-- An instruction whose effect is to park its group before any change parks it as the rules say. -/
theorem parksAs_of {i : Instr} {s : State} {c gs code addr detail : Nat} {want : Option Nat} {f : Dev → Dev} {active : BitVec 32}
    (hi : exec i s = onMem s f) (hf : f s.dev = s.dev.parkGroup s.clk c gs code (s.dev.group c gs).pc addr detail 0 active)
    (hc : Calm s.dev) (hs : gs < 64) (hr : Reports s c gs) (hd : ∀ x, want = some x → detail = x)
    (ha : (s.dev.group c gs).replay = none → active = (s.dev.group c gs).active) : ParksAs i s c gs code want := by
  have posted := parkGroup_posted hr code (s.dev.group c gs).pc addr detail 0 active
  rw [← hf] at posted
  obtain ⟨t, ht, settled⟩ := onMem_calm s f (posted.calm hc)
  have groups : ∀ j, t.dev.group c j = if j = gs then (s.dev.group c gs).parkedWith (s.dev.parkInfo s.clk c gs code
      (s.dev.group c gs).pc addr detail 0 active) else s.dev.group c j := fun j => by
    rw [settled.group, posted.group, park_group _ _ hs]
    simp
  have own := groups gs
  rw [if_pos rfl] at own
  refine ⟨t, _, hi.trans ht, by rw [own]; rfl, by rw [own]; rfl, rfl, hd, rfl, rfl, rfl, by rw [own]; rfl, fun h => ?_, fun h => ?_,
    fun j hj => by rw [groups, if_neg hj]⟩
  · rw [own]
    exact ha h
  · rw [settled.mem, hf, parkGroup_pending h]
    rfl

/-- An instruction whose word breaks a check of R87 parks its group (R69). -/
theorem issue_illegal {s : State} {c gs : Nat} {f : InsF} {sh : Shape} (h : Ready s c gs) (narrow : sh.wideOk = false)
    (hw : sh.ok f = false) (eff : Dev → Dev) : issue s.clk c gs f sh eff s.dev = s.dev.illegal s.clk c gs 0 := by
  have fetched : s.dev.fetch s.clk c gs (f.wide && sh.wideOk) = (true, s.dev) := by
    simp [Dev.fetch, narrow, fetchWord_fetched h.fetched]
  have regs : s.dev.meetRegs s.clk c gs = (true, s.dev) := by simp only [Dev.meetRegs, takeLatent_none h.sound]
  simp only [issue, h.ready, h.clean, fetched, regs, hw, Bool.not_true, Bool.not_false, Bool.false_eq_true, if_false, if_true]

/-- A parking whose record is held Pending without further effect (R73) is all that a command does. -/
theorem onMem_parks {s : State} {f : Dev → Dev} {c gs code addr detail : Nat} {pc : BitVec 64} {completed active : BitVec 32}
    (hf : f s.dev = s.dev.parkGroup s.clk c gs code pc addr detail completed active) (hc : Calm s.dev)
    (hp : HoldsPending s.dev ((s.dev.core c).block (s.dev.group c gs).block).berth) :
    ∃ t, onMem s f = .next t ∧ Settled s (s.dev.park c gs (s.dev.parkInfo s.clk c gs code pc addr detail completed active)) t :=
  onMem_settles (hf.trans (parkGroup_pending hp ..)) hc

/-- Settles O9: the checks of R87 come before the effect, and the parking of the group is all that happens. -/
theorem illegalWordParks : Obligations.IllegalWordParks := by
  intro c gs f s ready b pending bad
  obtain ⟨t, ht, settled⟩ := onMem_parks (issue_illegal ready rfl bad _) ready.calm pending
  have own := settled.group c gs
  rw [park_group _ _ gs.isLt, if_pos ⟨rfl, rfl⟩] at own
  refine ⟨t, _, ht, by rw [own]; rfl, by rw [own]; rfl, rfl, rfl, rfl, rfl, pending.1, rfl, settled.mem, fun i hi => ?_⟩
  rw [settled.group, park_group _ _ gs.isLt, if_neg fun same => hi same.2]

/-! ### Branches (R54, R82, R89) and calls (R88) -/

section
variable {s : State} {c : Fin 512} {gs : Fin 64} {f : InsF} {g : Group} (hg : s.dev.group c gs = g)
include hg

/-- A push at depth 16 parks the group before any change (R55). -/
theorem parksAs_overflow {i : Instr} {sh : Shape} {eff : Dev → Dev} (h : Presents s c gs f sh)
    (hi : exec i s = onMem s fun d => issue s.clk c gs f sh eff d)
    (he : eff s.dev = s.dev.parkGroup s.clk c gs 4 g.pc 0 16 0 g.active) (hr : Reports s c gs) : ParksAs i s c gs 4 none := by
  subst hg
  exact parksAs_of hi ((issue_presents h eff).trans he) h.calm gs.isLt hr (fun _ h => nomatch h) fun _ => rfl

section
variable (h : Presents s c gs f (braShape f false []))
include h

theorem bra_gives : Gives s c gs (exec (.bra c gs f) s) (g.goTo (braTarget g.pc f) g.active) := by
  subst hg
  exact issue_gives h gs.isLt rfl

theorem pushm_gives (room : g.stack.length < 16) :
    Gives s c gs (exec (.pushm c gs f) s)
      { g.goTo g.nextPc g.active with
        stack := { kind := .reconverge, mask := g.active, addr := (braTarget g.pc f).setWidth 56 } :: g.stack } := by
  subst hg
  exact issue_gives h gs.isLt (if_neg (Nat.not_le.mpr room))

theorem pushm_parks (full : 16 ≤ g.stack.length) (hr : Reports s c gs) : ParksAs (.pushm c gs f) s c gs 4 none := by
  subst hg
  exact parksAs_overflow rfl h rfl (if_pos full) hr

end

section
variable {taken : BitVec 32} (ht : g.active &&& braPred g f = taken) (h : Presents s c gs f (braShape f true [0x140 + f.bits 16 14]))
include ht h

theorem brx_all (all : taken = g.active) : Gives s c gs (exec (.brx c gs f) s) (g.goTo (braTarget g.pc f) g.active) := by
  subst ht hg
  exact issue_gives h gs.isLt (if_pos all)

theorem brx_none (some' : taken ≠ g.active) (none' : taken = 0) :
    Gives s c gs (exec (.brx c gs f) s) (g.goTo g.nextPc g.active) := by
  subst ht hg
  exact issue_gives h gs.isLt ((if_neg some').trans (if_pos none'))

theorem brx_splits (some' : taken ≠ g.active) (any : taken ≠ 0) (room : g.stack.length < 16) :
    Gives s c gs (exec (.brx c gs f) s)
      { g.goTo (braTarget g.pc f) taken with
        stack := { kind := .deferred, mask := g.active &&& ~~~taken, addr := g.nextPc.setWidth 56 } :: g.stack } := by
  subst ht hg
  exact issue_gives h gs.isLt ((if_neg some').trans ((if_neg any).trans (if_neg (Nat.not_le.mpr room))))

theorem brx_parks (some' : taken ≠ g.active) (any : taken ≠ 0) (full : 16 ≤ g.stack.length) (hr : Reports s c gs) :
    ParksAs (.brx c gs f) s c gs 4 none := by
  subst ht hg
  exact parksAs_overflow rfl h rfl ((if_neg some').trans ((if_neg any).trans (if_pos full))) hr

theorem brxAny_all (any : taken ≠ 0) (all : taken = g.active) :
    Gives s c gs (exec (.brxAny c gs f) s) (g.goTo (braTarget g.pc f) g.active) := by
  subst ht hg
  refine issue_gives h gs.isLt ?_
  dsimp only
  rw [if_neg any, if_pos all]

end

/-! BRX.ANY comes back to the entry on top of the stack, if that is one that it pushed itself (R89). -/

omit hg in
theorem top_some {e : MaskEntry} {st : List MaskEntry} (hs : g.stack = e :: st) (deferred : e.kind = .deferred)
    (here : e.addr.setWidth 64 = g.nextPc) :
    (g.stack.head?.filter fun e => e.kind == .deferred && e.addr.setWidth 64 == g.nextPc) = some e := by
  rw [hs]
  exact Option.filter_eq_some_iff.mpr ⟨rfl, by simp [deferred, here]⟩

omit hg in
theorem top_none (away : ∀ e ∈ g.stack.head?, e.kind = .deferred → e.addr.setWidth 64 ≠ g.nextPc) :
    (g.stack.head?.filter fun e => e.kind == .deferred && e.addr.setWidth 64 == g.nextPc) = none := by
  rw [Option.filter_eq_none_iff]
  intro e he
  simpa using away e he

section
variable {taken : BitVec 32} (ht : g.active &&& braPred g f = taken) (h : Presents s c gs f (braShape f true [0x140 + f.bits 16 14]))
include ht h

section
variable {e : MaskEntry} {st : List MaskEntry} (hs : g.stack = e :: st) (deferred : e.kind = .deferred)
  (here : e.addr.setWidth 64 = g.nextPc)
include hs deferred here

theorem brxAny_joins (none' : taken = 0) :
    Gives s c gs (exec (.brxAny c gs f) s) { g.goTo g.nextPc (g.active ||| e.mask) with stack := st } := by
  subst ht hg
  refine issue_gives h gs.isLt ?_
  dsimp only
  rw [if_pos none', top_some hs deferred here, hs]
  rfl

theorem brxAny_adds (any : taken ≠ 0) (some' : taken ≠ g.active) :
    Gives s c gs (exec (.brxAny c gs f) s)
      { g.goTo (braTarget g.pc f) taken with stack := { e with mask := e.mask ||| (g.active &&& ~~~taken) } :: st } := by
  subst ht hg
  refine issue_gives h gs.isLt ?_
  dsimp only
  rw [if_neg any, if_neg some', top_some hs deferred here, hs]
  rfl

end

section
variable (away : ∀ e ∈ g.stack.head?, e.kind = .deferred → e.addr.setWidth 64 ≠ g.nextPc)
include away

theorem brxAny_none (none' : taken = 0) : Gives s c gs (exec (.brxAny c gs f) s) (g.goTo g.nextPc g.active) := by
  subst ht hg
  refine issue_gives h gs.isLt ?_
  dsimp only
  rw [if_pos none', top_none away]

theorem brxAny_splits (any : taken ≠ 0) (some' : taken ≠ g.active) (room : g.stack.length < 16) :
    Gives s c gs (exec (.brxAny c gs f) s)
      { g.goTo (braTarget g.pc f) taken with
        stack := { kind := .deferred, mask := g.active &&& ~~~taken, addr := g.nextPc.setWidth 56 } :: g.stack } := by
  subst ht hg
  refine issue_gives h gs.isLt ?_
  dsimp only
  rw [if_neg any, if_neg some', top_none away]
  exact if_neg (Nat.not_le.mpr room)

theorem brxAny_parks (any : taken ≠ 0) (some' : taken ≠ g.active) (full : 16 ≤ g.stack.length) (hr : Reports s c gs) :
    ParksAs (.brxAny c gs f) s c gs 4 none := by
  subst ht hg
  refine parksAs_overflow rfl h rfl ?_ hr
  dsimp only
  rw [if_neg any, if_neg some', top_none away]
  exact if_pos full

end
end

theorem call_gives (h : Presents s c gs f (braShape f false [0x13E, 0x13F])) :
    Gives s c gs (exec (.call c gs f) s) ((g.setOpnd 0x13E 2 0 g.nextPc.toNat).goTo (braTarget g.pc f) g.active) := by
  subst hg
  exact issue_gives h gs.isLt rfl

/-- CALL: the pair of u registers reads the next address, every other register is as it was (R88). -/
theorem call_completes (h : Presents s c gs f (braShape f false [0x13E, 0x13F])) :
    ∃ t, exec (.call c gs f) s = .next t ∧ GroupFrame s c gs t ∧ (t.dev.group c gs).opnd 0x13E 2 0 = g.nextPc.toNat ∧
      (∀ r l, l < 32 → r ≠ 0x13E → r ≠ 0x13F → (t.dev.group c gs).reg r l = g.reg r l) ∧
      t.dev.group c gs = { g.goTo (braTarget g.pc f) g.active with u := (t.dev.group c gs).u } := by
  obtain ⟨t, ht, frame, own⟩ := call_gives hg h
  refine ⟨t, ht, frame, ?_, fun r l hl h1 h2 => ?_, ?_⟩
  · rw [own]
    have pair : (g.setOpnd 0x13E 2 0 g.nextPc.toNat).opnd 0x13E 2 0 = g.nextPc.toNat % 2 ^ (32 * 2) :=
      opnd_setOpnd_same g _ _ _ _ (by omega) (.inr rfl) fun i hi => .inr (by interval_cases i <;> rfl)
    exact pair.trans (Nat.mod_eq_of_lt g.nextPc.isLt)
  · rw [own]
    exact setOpnd_reg_other g 0x13E 2 0 _ r l (by omega) hl (.inl (by simp [regList, isZero, List.range_succ, h1, h2])) (.inr rfl)
  · rw [own]
    rfl

/-- RET and BRI go to the place that their pair of u registers names (R88). -/
theorem ret_gives (h : Presents s c gs f (ctlShape f true)) :
    Gives s c gs (exec (.ret c gs f) s) (g.goTo (BitVec.ofNat 64 (g.opnd f.a 2 0)) g.active) := by
  subst hg
  exact issue_gives h gs.isLt rfl

theorem bri_gives (h : Presents s c gs f (ctlShape f true)) :
    Gives s c gs (exec (.bri c gs f) s) (g.goTo (BitVec.ofNat 64 (g.opnd f.a 2 0)) g.active) := by
  subst hg
  exact issue_gives h gs.isLt rfl

end

/-! ### What the end of groups, blocks and streams leaves alone (R40, R41, R59, R75) -/

/-- Besides cores, control and the ledger nothing changes, and every context keeps its state. -/
structure Ended (d e : Dev) : Prop where
  dev : e = { d with cores := e.cores, ctl := e.ctl, ldg := e.ldg }
  ctx : ∀ x, (e.ctx x).st = (d.ctx x).st

theorem Ended.self (d : Dev) : Ended d d := ⟨rfl, fun _ => rfl⟩

theorem Ended.trans {a b c : Dev} (h1 : Ended a b) (h2 : Ended b c) : Ended a c := by
  refine ⟨?_, fun x => (h2.ctx x).trans (h1.ctx x)⟩
  rw [h2.dev, h1.dev]

theorem Ended.calm {d e : Dev} (h : Ended d e) (hc : Calm d) : Calm e := by
  rw [h.dev]
  exact hc

theorem Ended.mem {d e : Dev} (h : Ended d e) : e.mem = d.mem := by rw [h.dev]

theorem ended_foldl {α : Type} (f : Dev → α → Dev) (h : ∀ d a, Ended d (f d a)) (l : List α) (d : Dev) : Ended d (l.foldl f d) := by
  induction l generalizing d with
  | nil => exact Ended.self d
  | cons a t ih => exact (h d a).trans (ih _)

section
variable (d : Dev)

theorem ended_setCore (c : Nat) (k : Core) : Ended d (d.setCore c k) := ⟨rfl, fun _ => rfl⟩
theorem ended_updCore (c : Nat) (f : Core → Core) : Ended d (d.updCore c f) := ⟨rfl, fun _ => rfl⟩
theorem ended_updBank (q : Nat) (f : Bank → Bank) : Ended d (d.updBank q f) := ⟨rfl, fun _ => rfl⟩
theorem ended_updCmd (q n : Nat) (f : Cmd → Cmd) : Ended d (d.updCmd q n f) := ⟨rfl, fun _ => rfl⟩
theorem ended_finishCmd (q n status result : Nat) : Ended d (d.finishCmd q n status result) := ⟨rfl, fun _ => rfl⟩
theorem ended_updBerth (b : Nat) (f : Berth → Berth) : Ended d (d.updBerth b f) := ⟨rfl, fun _ => rfl⟩
theorem ended_updFence (n : Nat) (f : Fence → Fence) : Ended d (d.updFence n f) := ⟨rfl, fun _ => rfl⟩
theorem ended_updStream (n : Nat) (f : Stream → Stream) : Ended d (d.updStream n f) := ⟨rfl, fun _ => rfl⟩

theorem ended_updCtx (x : Nat) (f : Ctx → Ctx) (h : (f (d.ctx x)).st = (d.ctx x).st) : Ended d (d.updCtx x f) := by
  refine ⟨rfl, fun y => ?_⟩
  rw [Dev.updCtx_ctx]
  split
  · next same => rw [h, same]
  · rfl

/-- A ledger record changes the ledger only. -/
theorem ledger_eq (k : Clock) (src x kind : Nat) (waiter : BitVec 32) (obj : BitVec 64) (rel : BitVec 32) (relDev detail : Nat)
    (cross : Bool) (mark : Option (Nat × Nat)) : ∃ l, d.ledger k src x kind waiter obj rel relDev detail cross mark = { d with ldg := l } := by
  unfold Dev.ledger
  dsimp only
  split
  · exact ⟨d.ldg, rfl⟩
  · exact ⟨_, rfl⟩

theorem ended_ledger (k : Clock) (src x kind : Nat) (waiter : BitVec 32) (obj : BitVec 64) (rel : BitVec 32) (relDev detail : Nat)
    (cross : Bool) (mark : Option (Nat × Nat)) : Ended d (d.ledger k src x kind waiter obj rel relDev detail cross mark) := by
  obtain ⟨l, h⟩ := ledger_eq d k src x kind waiter obj rel relDev detail cross mark
  rw [h]
  exact ⟨rfl, fun _ => rfl⟩

theorem ended_settleOverflow (b : Nat) : Ended d (d.settleOverflow b) := by
  unfold Dev.settleOverflow
  split
  · exact ended_updBerth d b _
  · exact Ended.self d

theorem ended_launchDone (q n : Nat) : Ended d (d.launchDone q n) := by
  unfold Dev.launchDone
  split
  · exact Ended.self d
  · repeat' split
    · exact Ended.self d
    · exact ended_finishCmd ..
    · exact Ended.self d
    · exact ended_finishCmd ..
    · exact ended_finishCmd ..
    · exact Ended.self d

theorem ended_endResidence (k : Clock) (c x : Nat) : Ended d (d.endResidence k c x) := by
  have context : ∀ o : Option (Nat × Nat), ∀ h : Bool, Ended d (match h, o with
      | false, some e => (d.updCtx x fun v => { v with coreTime := v.coreTime + (k.tsc - e.2) }).updCore c fun v =>
          { v with ctxSince := v.ctxSince.filter fun y => y.1 != x }
      | _, _ => d) := by
    intro o h
    split
    · exact (ended_updCtx d x _ rfl).trans (ended_updCore _ c _)
    · exact Ended.self d
  unfold Dev.endResidence
  dsimp only
  split
  · exact (context _ _).trans (ended_updCore _ c _)
  · exact context _ _

theorem ended_retireBlock (c b : Nat) : Ended d (d.retireBlock c b) := by
  unfold Dev.retireBlock
  dsimp only
  repeat' split
  · exact Ended.self d
  · exact Ended.self d
  · exact (ended_setCore d c _).trans ((ended_updBank _ _ _).trans ((ended_updCmd _ _ _ _).trans (ended_launchDone _ _ _)))

theorem ended_freeGroup (k : Clock) (c s : Nat) : Ended d (d.freeGroup k c s) := by
  unfold Dev.freeGroup
  dsimp only
  split
  · exact Ended.self d
  · exact (ended_setCore d c _).trans ((ended_updBank _ _ _).trans ((ended_endResidence _ k c _).trans (ended_retireBlock _ c _)))

end

/-! ### Barriers (R58, R59) -/

/-- A group that waits at its block's barrier runs again. -/
def Core.wake (k : Core) (i : Nat) : Core :=
  if (k.group i).st = .barrier then k.setGroup i { k.group i with st := .running } else k

/-- A block's barrier is released: its groups that wait run, and its generation rises (R59). -/
def Core.releaseBarrier (k : Core) (b : Nat) : Core :=
  ((k.slotsOf b).foldl Core.wake k).setBlock b { k.block b with barGen := ((k.block b).barGen + 1) % 65536 }

theorem wake_group (k : Core) (i j : Nat) :
    (k.wake i).group j = if j = i ∧ j < 64 ∧ (k.group j).st = .barrier then { k.group j with st := .running } else k.group j := by
  unfold Core.wake
  split
  · next waits =>
    by_cases hi : i < 64
    · rw [group_setGroup _ _ _ _ hi]
      by_cases hj : j = i
      · subst hj
        rw [if_pos rfl, if_pos ⟨rfl, hi, waits⟩]
      · rw [if_neg hj, if_neg fun h => hj h.1]
    · have outside : ¬ (j = i ∧ j < 64 ∧ (k.group j).st = .barrier) := fun h => hi (h.1 ▸ h.2.1)
      rw [if_neg outside]
      simp [Core.setGroup, hi]
  · next stays =>
    have other : ¬ (j = i ∧ j < 64 ∧ (k.group j).st = .barrier) := fun h => stays (h.1 ▸ h.2.2)
    rw [if_neg other]

theorem foldl_wake_group (is : List Nat) (k : Core) (j : Nat) :
    (is.foldl Core.wake k).group j =
      if j ∈ is ∧ j < 64 ∧ (k.group j).st = .barrier then { k.group j with st := .running } else k.group j := by
  induction is generalizing k with
  | nil => simp
  | cons i t ih =>
    rw [List.foldl_cons, ih, wake_group]
    by_cases woken : j = i ∧ j < 64 ∧ (k.group j).st = .barrier
    · obtain ⟨rfl, hj, waits⟩ := woken
      simp [hj, waits]
    · rw [if_neg woken]
      congr 1
      simp only [List.mem_cons, eq_iff_iff]
      constructor
      · exact fun h => ⟨.inr h.1, h.2⟩
      · rintro ⟨rfl | ht, h⟩
        · exact absurd ⟨rfl, h⟩ woken
        · exact ⟨ht, h⟩

theorem releaseBarrier_group (k : Core) (b j : Nat) :
    (k.releaseBarrier b).group j =
      if j ∈ k.slotsOf b ∧ j < 64 ∧ (k.group j).st = .barrier then { k.group j with st := .running } else k.group j :=
  foldl_wake_group (k.slotsOf b) k j

theorem releaseBarrier_block (k : Core) (b : Nat) : ((k.releaseBarrier b).block b).barGen = ((k.block b).barGen + 1) % 65536 := by
  simp [Core.releaseBarrier, Core.setBlock, Core.block]

/-- A barrier for which some group of the block is yet to arrive stays as it is. -/
theorem barCheck_waits {d : Dev} {c b i : Nat} (hi : i ∈ (d.core c).slotsOf b) (late : (d.group c i).arrived = false) (k : Clock) (s : Nat) :
    d.barCheck k c b s = d := by
  unfold Dev.barCheck
  refine if_neg fun h => ?_
  have all := List.all_eq_true.mp (Bool.and_eq_true_iff.mp h).1 i hi
  exact absurd (all.symm.trans late) Bool.noConfusion

/-- A barrier at which one group waits and all of the block have arrived is released. -/
theorem barCheck_releases {d : Dev} {c b i : Nat} (here : ∀ j ∈ (d.core c).slotsOf b, (d.group c j).arrived = true)
    (hi : i ∈ (d.core c).slotsOf b) (waits : (d.group c i).st = .barrier) (k : Clock) (s : Nat) :
    ∃ l, d.barCheck k c b s = ({ d with ldg := l }).setCore c ((d.core c).releaseBarrier b) := by
  unfold Dev.barCheck
  dsimp only
  rw [if_pos]
  · obtain ⟨l, hl⟩ := ledger_eq d k c ((d.core c).block b).ctx 0x02 0 (barObj b ((d.core c).block b).barGen) (awGroup c s b 0) d.id 0 false none
    rw [hl]
    exact ⟨l, rfl⟩
  · exact Bool.and_eq_true_iff.mpr ⟨List.all_eq_true.mpr here, List.any_eq_true.mpr ⟨i, hi, beq_iff_eq.mpr waits⟩⟩

/-- What a check of a barrier can do: nothing, or release it. -/
theorem barCheck_cases (d : Dev) (k : Clock) (c b s : Nat) :
    d.barCheck k c b s = d ∨ ∃ l, d.barCheck k c b s = ({ d with ldg := l }).setCore c ((d.core c).releaseBarrier b) := by
  by_cases waits : ∃ i ∈ (d.core c).slotsOf b, (d.group c i).st = .barrier
  · obtain ⟨i, hi, waits⟩ := waits
    by_cases late : ∃ j ∈ (d.core c).slotsOf b, (d.group c j).arrived = false
    · obtain ⟨j, hj, late⟩ := late
      exact .inl (barCheck_waits hj late k s)
    · exact .inr (barCheck_releases (fun j hj => by simpa using fun h => late ⟨j, hj, h⟩) hi waits k s)
  · left
    unfold Dev.barCheck
    refine if_neg fun h => ?_
    obtain ⟨i, hi, at'⟩ := List.any_eq_true.mp (Bool.and_eq_true_iff.mp h).2
    exact waits ⟨i, hi, beq_iff_eq.mp at'⟩

theorem ended_barCheck (d : Dev) (k : Clock) (c b s : Nat) : Ended d (d.barCheck k c b s) := by
  rcases barCheck_cases d k c b s with h | ⟨l, h⟩
  · rw [h]
    exact Ended.self d
  · rw [h]
    exact ⟨rfl, fun _ => rfl⟩

/-- A group that waits at no barrier is not changed by one. -/
theorem barCheck_group {d : Dev} {c j : Nat} (free : (d.group c j).st ≠ .barrier) (k : Clock) (b s : Nat) :
    (d.barCheck k c b s).group c j = d.group c j := by
  rcases barCheck_cases d k c b s with h | ⟨l, h⟩
  · rw [h]
  · have own : (d.barCheck k c b s).group c j = ((d.core c).releaseBarrier b).group j := by
      rw [h]
      simp [Dev.group]
    rw [own, releaseBarrier_group]
    exact if_neg fun h => free h.2.2

/-! ### The end of a group (R40, R41, R56, R139) -/

@[simp] theorem setTile_groups (k : Core) (t : Nat) (x : Tile) : (k.setTile t x).groups = k.groups := by
  unfold Core.setTile
  split <;> rfl

@[simp] theorem setTile_freeRegs (k : Core) (t : Nat) (x : Tile) : (k.setTile t x).freeRegs = k.freeRegs := by
  unfold Core.setTile
  split <;> rfl

@[simp] theorem endClaim_groups (k : Core) (t b : Nat) : (k.endClaim t b).groups = k.groups := by
  unfold Core.endClaim
  dsimp only
  split <;> simp

@[simp] theorem endClaim_freeRegs (k : Core) (t b : Nat) : (k.endClaim t b).freeRegs = k.freeRegs := by
  unfold Core.endClaim
  dsimp only
  split <;> simp

@[simp] theorem leaveTile_groups (k : Core) (s : Nat) : (k.leaveTile s).groups = k.groups :=
  coreFoldl_keeps Core.groups _ (fun k t => by
    split
    · exact setTile_groups ..
    · rfl) _ _

@[simp] theorem drainPut_groups (k : Core) (b : Block) (c draws : Nat) (t : Tile) (e : MxEntry) (i : Nat) :
    (drainPut k b c draws t e i).groups = k.groups := by
  unfold drainPut
  dsimp only
  repeat' split
  all_goals rfl

@[simp] theorem drainRows_groups (k : Core) (c : Nat) (e : MxEntry) (rows : Nat) : (drainRows k c e rows).groups = k.groups := by
  have rowsDone := coreFoldl_keeps Core.groups (fun k' i => drainPut k' (k.block e.block) c k.draws (k.tile e.tile) e i)
    (fun k' i => drainPut_groups k' ..) (List.range rows) k
  unfold drainRows
  dsimp only
  split <;> exact rowsDone

@[simp] theorem cancelMatrix_groups (k : Core) (c acyc b : Nat) : (k.cancelMatrix c acyc b).groups = k.groups := by
  unfold Core.cancelMatrix
  dsimp only
  rw [endClaim_groups, endClaim_groups]
  refine coreFoldl_keeps Core.groups _ (fun k e => ?_) _ k
  split
  · exact drainRows_groups ..
  · rfl

/-- A group that has left for good: Exited, or its slot Free again. -/
def Gone (g : Group) : Prop := g.st = .exited ∨ g.st = .free

/-- A core on which only times of residence differ. -/
def Timed (k k' : Core) : Prop := ∃ a b n, k' = { k with ctxSince := a, resSince := b, resident := n }

theorem Timed.self (k : Core) : Timed k k := ⟨_, _, _, rfl⟩

theorem Timed.trans {a b c : Core} (h1 : Timed a b) (h2 : Timed b c) : Timed a c := by
  obtain ⟨_, _, _, rfl⟩ := h1
  obtain ⟨_, _, _, rfl⟩ := h2
  exact ⟨_, _, _, rfl⟩

theorem timed_updCore (d : Dev) (c j : Nat) {f : Core → Core} (h : ∀ k, Timed k (f k)) : Timed (d.core j) ((d.updCore c f).core j) := by
  rw [core_updCore]
  split
  · next same => exact same ▸ h _
  · exact Timed.self _

/-- The end of a residence notes times, and changes nothing else of any core. -/
theorem endResidence_timed (d : Dev) (k : Clock) (c x j : Nat) : Timed (d.core j) ((d.endResidence k c x).core j) := by
  unfold Dev.endResidence
  dsimp only
  repeat' split
  · exact (timed_updCore (d.updCtx x _) c j fun _ => ⟨_, _, _, rfl⟩).trans (timed_updCore _ c j fun _ => ⟨_, _, _, rfl⟩)
  · exact timed_updCore d c j fun _ => ⟨_, _, _, rfl⟩
  · exact timed_updCore (d.updCtx x _) c j fun _ => ⟨_, _, _, rfl⟩
  · exact Timed.self _

theorem launchDone_cores (d : Dev) (q n : Nat) : (d.launchDone q n).cores = d.cores := by
  unfold Dev.launchDone
  split
  · rfl
  · repeat' split
    all_goals rfl

/-- A block that is retired takes no group and no register of its core with it. -/
theorem retireBlock_core (d : Dev) (c b : Nat) :
    ((d.retireBlock c b).core c).groups = (d.core c).groups ∧ ((d.retireBlock c b).core c).freeRegs = (d.core c).freeRegs := by
  unfold Dev.retireBlock
  dsimp only
  split
  · exact ⟨rfl, rfl⟩
  · split
    · exact ⟨rfl, rfl⟩
    · unfold Dev.core
      rw [launchDone_cores]
      simp [Dev.setCore]

/-- A group's slot is Free and its registers are returned (R41). -/
def Dev.leaveSlot (d : Dev) (k : Clock) (c s : Nat) : Dev :=
  let co := d.core c
  let g := co.group s
  (d.setCore c { co with
    groups := mdel co.groups s, freeRegs := co.freeRegs + groupRegs (co.block g.block).r
    ops := co.ops.map fun e => if e.2.slot = s then (e.1, { e.2 with slot := noSlot, flt := [], acq := false }) else e }).updBank
      (co.block g.block).queue fun v => { v with groupCycles := v.groupCycles + (k.ccyc - g.since) }

theorem freeGroup_waits {d : Dev} {c s : Nat} (h : (d.group c s).st ≠ .exited ∨ (d.core c).awaits s = true) (k : Clock) :
    d.freeGroup k c s = d := if_pos h

theorem freeGroup_leaves {d : Dev} {c s : Nat} (h : ¬ ((d.group c s).st ≠ .exited ∨ (d.core c).awaits s = true)) (k : Clock) :
    d.freeGroup k c s = ((d.leaveSlot k c s).endResidence k c ((d.core c).block (d.group c s).block).ctx).retireBlock c (d.group c s).block :=
  if_neg h

/-- An Exited group with nothing outstanding leaves its slot and its registers (R41). -/
theorem freeGroup_core {d : Dev} {c s : Nat} (h : ¬ ((d.group c s).st ≠ .exited ∨ (d.core c).awaits s = true)) (k : Clock) :
    ((d.freeGroup k c s).core c).groups = mdel (d.core c).groups s ∧
    ((d.freeGroup k c s).core c).freeRegs = (d.core c).freeRegs + groupRegs ((d.core c).block (d.group c s).block).r := by
  rw [freeGroup_leaves h]
  obtain ⟨groups, regs⟩ := retireBlock_core
    ((d.leaveSlot k c s).endResidence k c ((d.core c).block (d.group c s).block).ctx) c (d.group c s).block
  obtain ⟨_, _, _, timed⟩ := endResidence_timed (d.leaveSlot k c s) k c ((d.core c).block (d.group c s).block).ctx c
  rw [groups, regs, timed]
  simp [Dev.leaveSlot, Dev.group]

theorem freeGroup_gone {d : Dev} {c s : Nat} (gone : Gone (d.group c s)) (k : Clock) : Gone ((d.freeGroup k c s).group c s) := by
  by_cases h : (d.group c s).st ≠ .exited ∨ (d.core c).awaits s = true
  · rw [freeGroup_waits h]
    exact gone
  · obtain ⟨groups, -⟩ := freeGroup_core h k
    have reset : (d.freeGroup k c s).group c s = Group.reset := by
      unfold Dev.group Core.group
      rw [groups]
      exact mget_mdel_same ..
    rw [reset]
    exact .inr rfl

theorem ended_exitGroup (d : Dev) (k : Clock) (c s : Nat) : Ended d (d.exitGroup k c s) := by
  unfold Dev.exitGroup
  dsimp only
  generalize he : d.updCore c _ = e
  have left : Ended d e := he ▸ ended_updCore d c _
  have checked := fun b x => left.trans ((ended_settleOverflow e b).trans (ended_barCheck (e.settleOverflow b) k c x s))
  refine Ended.trans ?_ (ended_freeGroup _ k c s)
  split
  · exact (checked _ _).trans (ended_updCore ..)
  · exact checked _ _

/-- A group that exits is gone. -/
theorem exitGroup_gone (d : Dev) (k : Clock) {c s : Nat} (hs : s < 64) : Gone ((d.exitGroup k c s).group c s) := by
  unfold Dev.exitGroup
  dsimp only
  generalize he : d.updCore c _ = e
  have exited : (e.group c s).st = .exited := by
    rw [← he]
    simp [Dev.group, Core.group, Core.setGroup, hs]
  have settled : ∀ b, ((e.settleOverflow b).group c s).st = .exited := fun b => by
    unfold Dev.settleOverflow
    split <;> exact exited
  have checked : ∀ b x, (((e.settleOverflow b).barCheck k c x s).group c s).st = .exited := fun b x => by
    rw [barCheck_group (by rw [settled]; decide)]
    exact settled b
  refine freeGroup_gone (.inl ?_) k
  split
  · rw [updCore_group _ c _ (cancelMatrix_groups ..)]
    exact checked _ _
  · exact checked _ _

/-! ### Unwinding (R56) -/

section
variable {d : Dev} {g : Group} (k : Clock) (c s : Nat)

theorem resumeOrUnwind_goes (h : g.active ≠ 0) : d.resumeOrUnwind k c s g = d.setGroup c s g := if_pos h

theorem resumeOrUnwind_unwinds {a : BitVec 32} {pc : BitVec 64} {st : List MaskEntry} (h : g.active = 0)
    (hu : unwind g.stack = some (a, pc, st)) :
    d.resumeOrUnwind k c s g = d.setGroup c s { g with active := a, pc := pc, stack := st } := by
  unfold Dev.resumeOrUnwind
  rw [if_neg (not_not_intro h), hu]

theorem resumeOrUnwind_exits (h : g.active = 0) (hu : unwind g.stack = none) :
    d.resumeOrUnwind k c s g = (d.setGroup c s g).exitGroup k c s := by
  unfold Dev.resumeOrUnwind
  rw [if_neg (not_not_intro h), hu]

end

/-- An instruction whose effect is the end of its group ends it. -/
theorem issue_ends {s : State} {c : Nat} {gs : Fin 64} {f : InsF} {sh : Shape} {eff : Dev → Dev} {g : Group} (h : Presents s c gs f sh)
    (he : eff s.dev = (s.dev.setGroup c gs g).exitGroup s.clk c gs) :
    ∃ t, onMem s (fun d => issue s.clk c gs f sh eff d) = .next t ∧ Gone (t.dev.group c gs) := by
  obtain ⟨t, ht, settled⟩ := issue_settles (sh := fun _ => sh) h he ((ended_exitGroup _ s.clk c gs).calm h.calm)
  refine ⟨t, ht, ?_⟩
  rw [settled.group]
  exact exitGroup_gone _ s.clk gs.isLt

/-! ### The mask stack (R54, R56) -/

/-- An instruction leaves its group in a state whose mask may be zero: then its stack unwinds, and the group is gone when that runs out
(R56). -/
structure Unwinds (s : State) (c gs : Nat) (o : Out) (g : Group) : Prop where
  goes : g.active ≠ 0 → Gives s c gs o g
  unwinds : ∀ a pc st, g.active = 0 → unwind g.stack = some (a, pc, st) → Gives s c gs o { g with active := a, pc := pc, stack := st }
  ends : g.active = 0 → unwind g.stack = none → ∃ t, o = .next t ∧ Gone (t.dev.group c gs)

theorem issue_unwinds {s : State} {c : Nat} {gs : Fin 64} {f : InsF} {sh : Shape} {eff : Dev → Dev} {g : Group}
    (h : Presents s c gs f sh) (he : eff s.dev = s.dev.resumeOrUnwind s.clk c gs g) :
    Unwinds s c gs (onMem s fun d => issue s.clk c gs f sh eff d) g where
  goes go := issue_gives h gs.isLt (he.trans (resumeOrUnwind_goes _ _ _ go))
  unwinds _ _ _ zero some' := issue_gives h gs.isLt (he.trans (resumeOrUnwind_unwinds _ _ _ zero some'))
  ends zero none' := issue_ends h (he.trans (resumeOrUnwind_exits _ _ _ zero none'))

section
variable {s : State} {c : Fin 512} {gs : Fin 64} {f : InsF} {g : Group} (hg : s.dev.group c gs = g) (h : Presents s c gs f (ctlShape f false))
include hg h

theorem popm_parks (empty : g.stack = []) (hr : Reports s c gs) : ParksAs (.popm c gs f) s c gs 7 (some 1) := by
  subst hg
  refine parksAs_of (rfl : exec (.popm c gs f) s = onMem s _) ((issue_presents h _).trans ?_) h.calm gs.isLt hr (addr := 0) (detail := 1)
    (active := (s.dev.group c gs).whole) (fun _ one => Option.some.inj one) (fun unreplayed => by simp [Group.whole, unreplayed])
  dsimp only
  rw [empty]
  rfl

theorem popm_unwinds {e : MaskEntry} {st : List MaskEntry} (hs : g.stack = e :: st) :
    Unwinds s c gs (exec (.popm c gs f) s)
      { g.goTo (if e.kind = .deferred then e.addr.setWidth 64 else g.nextPc) e.mask with stack := st } := by
  subst hg
  refine issue_unwinds h ?_
  dsimp only
  rw [hs]

theorem swapm_stays (top : ∀ e ∈ g.stack.head?, e.kind = .reconverge) :
    Gives s c gs (exec (.swapm c gs f) s) (g.goTo g.nextPc g.active) := by
  subst hg
  refine issue_gives h gs.isLt ?_
  dsimp only
  cases hs : (s.dev.group c gs).stack with
  | nil => rfl
  | cons e st =>
    have kind := top e (by rw [hs]; rfl)
    simp [kind]

theorem swapm_unwinds {e : MaskEntry} {st : List MaskEntry} (hs : g.stack = e :: st) (deferred : e.kind = .deferred) :
    Unwinds s c gs (exec (.swapm c gs f) s)
      { g.goTo (e.addr.setWidth 64) e.mask with
        stack := { kind := .deferred, mask := g.active, addr := g.nextPc.setWidth 56 } :: st, spins := [] } := by
  subst hg
  refine issue_unwinds h ?_
  dsimp only
  rw [hs]
  exact if_pos deferred

theorem exit_unwinds :
    Unwinds s c gs (exec (.exit c gs f) s)
      { g.goTo g.nextPc 0 with
        live := g.live &&& ~~~g.active, stack := g.stack.map fun e => { e with mask := e.mask &&& ~~~g.active } } := by
  subst hg
  exact issue_unwinds h rfl

end

/-- Settles O7: each instruction by its own lemma; POPM and SWAPM through what an unwinding can come to. -/
theorem branchesAndMaskStack : Obligations.BranchesAndMaskStack := by
  intro c gs f s g hg pred taken jump next rest self gives ends
  have hg := hg.symm
  refine ⟨fun h => ⟨bra_gives hg h, pushm_gives hg h, pushm_parks hg h⟩,
    fun h => ⟨brx_all hg rfl h, brx_none hg rfl h, brx_splits hg rfl h, brx_parks hg rfl h⟩,
    fun h => ⟨brxAny_all hg rfl h, fun e st hs deferred here => ⟨brxAny_joins hg rfl h hs deferred here, brxAny_adds hg rfl h hs deferred here⟩,
      fun away => ⟨brxAny_none hg rfl h away, brxAny_splits hg rfl h away, brxAny_parks hg rfl h away⟩⟩,
    fun h => ⟨fun empty => ⟨swapm_stays hg h (by simp [empty]), popm_parks hg h empty⟩, fun e st hs => ?top⟩,
    call_completes hg, fun h => ⟨ret_gives hg h, bri_gives hg h⟩⟩
  case top =>
    have pop := popm_unwinds hg h hs
    refine ⟨pop.goes, pop.unwinds, pop.ends, fun kind => swapm_stays hg h (by simp [hs, kind]), fun deferred => ?_, fun a pc st' deferred => ?_,
      fun deferred => ?_⟩
    · exact (swapm_unwinds hg h hs deferred).goes
    · exact (swapm_unwinds hg h hs deferred).unwinds a pc st'
    · exact (swapm_unwinds hg h hs deferred).ends

/-! ### BAR (R58, R59) -/

/-- Every group of a block lies in a slot that the block occupies, whatever else a core lists. -/
theorem mem_slotsOf {k : Core} {b i : Nat} : i ∈ k.slotsOf b ↔ ∃ g, (i, g) ∈ k.groups ∧ g.st ≠ .free ∧ g.block = b := by
  unfold Core.slotsOf
  simp

section
variable {k : Core} {s b i : Nat} {g : Group} (hs : s < 64)
include hs

theorem slotsOf_setGroup_same (busy : g.st ≠ .free) (own : g.block = b) : s ∈ (k.setGroup s g).slotsOf b := by
  refine mem_slotsOf.mpr ⟨g, ?_, busy, own⟩
  simp only [Core.setGroup, if_pos hs]
  exact mem_mput_same ..

theorem slotsOf_setGroup_other (h : i ∈ k.slotsOf b) (hi : i ≠ s) : i ∈ (k.setGroup s g).slotsOf b := by
  obtain ⟨x, hx, busy, own⟩ := mem_slotsOf.mp h
  refine mem_slotsOf.mpr ⟨x, ?_, busy, own⟩
  simp only [Core.setGroup, if_pos hs]
  exact mem_mput_other hx hi g

theorem slotsOf_of_setGroup (h : i ∈ (k.setGroup s g).slotsOf b) : i = s ∨ i ∈ k.slotsOf b := by
  obtain ⟨x, hx, busy, own⟩ := mem_slotsOf.mp h
  simp only [Core.setGroup, if_pos hs] at hx
  rcases mem_mput hx with e | hx
  · exact .inl (congrArg Prod.fst e)
  · exact .inr (mem_slotsOf.mpr ⟨x, hx, busy, own⟩)

end

/-- A group that has arrived at its block's barrier (R58). -/
def Group.arrive (g : Group) : Group := { g.goTo g.nextPc g.active with st := .barrier }

/-- What BAR does: its group arrives and the barrier is checked, or the group parks. -/
def Dev.bar (d : Dev) (k : Clock) (c gs : Nat) : Dev :=
  let g := d.group c gs
  let b := (d.core c).block g.block
  if g.active ≠ g.live then d.parkGroup k c gs 5 g.pc 0 b.barGen 0 g.active
  else
    let d := d.setGroup c gs g.arrive
    let e := d.barCheck k c g.block gs
    if (e.group c gs).st = .barrier then
      d.ledger k c b.ctx 0x01 (awGroup c gs g.block 0) (barObj g.block b.barGen) 0 0 0 false none
    else e

section
variable {d : Dev} {c gs : Nat} {g : Group} (hs : gs < 64) (hg : d.group c gs = g) (all : g.active = g.live)
include hs hg all

/-- A group that arrives before another of its block waits, and a ledger record may say so (R58). -/
theorem bar_waits {i : Nat} (hi : i ∈ (d.core c).slotsOf g.block) (other : i ≠ gs) (late : (d.group c i).arrived = false) (k : Clock) :
    ∃ l, d.bar k c gs = { d.setGroup c gs g.arrive with ldg := l } := by
  have still : (d.setGroup c gs g.arrive).barCheck k c g.block gs = d.setGroup c gs g.arrive := by
    refine barCheck_waits (i := i) ?_ ?_ k gs
    · rw [setGroup_core]
      exact slotsOf_setGroup_other hs hi other
    · rw [setGroup_group _ _ _ hs, if_neg other]
      exact late
  have waits : ((d.setGroup c gs g.arrive).group c gs).st = .barrier := by
    rw [setGroup_group _ _ _ hs, if_pos rfl]
    rfl
  unfold Dev.bar
  dsimp only
  rw [hg, if_neg (not_not_intro all), still, if_pos waits]
  exact ledger_eq ..

/-- The last group of its block to arrive releases the barrier, and runs on (R59). -/
theorem bar_releases (here : ∀ i ∈ (d.core c).slotsOf g.block, i ≠ gs → (d.group c i).arrived = true) (k : Clock) :
    ∃ l, d.bar k c gs = ({ d.setGroup c gs g.arrive with ldg := l }).setCore c (((d.core c).setGroup gs g.arrive).releaseBarrier g.block) ∧
      (((d.core c).setGroup gs g.arrive).releaseBarrier g.block).group gs = { g.arrive with st := .running } := by
  have own : ((d.core c).setGroup gs g.arrive).group gs = g.arrive := by rw [group_setGroup _ _ _ _ hs, if_pos rfl]
  have listed : gs ∈ ((d.core c).setGroup gs g.arrive).slotsOf g.block := slotsOf_setGroup_same hs (by simp [Group.arrive]) rfl
  have runs : (((d.core c).setGroup gs g.arrive).releaseBarrier g.block).group gs = { g.arrive with st := .running } := by
    rw [releaseBarrier_group, own, if_pos ⟨listed, hs, rfl⟩]
  obtain ⟨l, released⟩ := barCheck_releases (d := d.setGroup c gs g.arrive) (c := c) (b := g.block) (i := gs)
    (fun j hj => by
      rw [setGroup_core] at hj
      rw [setGroup_group _ _ _ hs]
      split
      · rfl
      · next other => exact here j ((slotsOf_of_setGroup hs hj).resolve_left other) other)
    (by rwa [setGroup_core]) (by rw [setGroup_group _ _ _ hs, if_pos rfl]; rfl) k gs
  rw [setGroup_core] at released
  refine ⟨l, ?_, runs⟩
  unfold Dev.bar
  dsimp only
  rw [hg, if_neg (not_not_intro all), released, if_neg]
  simp [Dev.group, runs]

end

/-- Settles O8: EXIT through what an unwinding can come to, BAR by whether another group is yet to arrive. -/
theorem exitAndBarrier : Obligations.ExitAndBarrier := by
  intro c gs f s g hg h
  have hg := hg.symm
  have hs := gs.isLt
  have exits := exit_unwinds hg h
  refine ⟨fun a pc rest => exits.unwinds a pc rest rfl, exits.ends rfl, fun all late => ?_, fun all here => ?_⟩
  · obtain ⟨i, hi, other, late⟩ := late
    obtain ⟨l, waits⟩ := bar_waits hs hg all hi other late s.clk
    obtain ⟨t, ht, settled⟩ := issue_settles (sh := fun _ => ctlShape f false) (eff := fun d => d.bar s.clk c gs) h waits h.calm
    have groups := fun j => (settled.group c j).trans (setGroup_group s.dev c g.arrive hs j)
    refine ⟨t, ht, (groups gs).trans (if_pos rfl), fun i hi => (groups i).trans (if_neg hi), fun x hx => ?_, settled.mem, settled.slices,
      settled.ctl⟩
    rw [settled.core]
    exact (core_updCore ..).trans (if_neg hx)
  · obtain ⟨l, released, runs⟩ := bar_releases hs hg all here s.clk
    obtain ⟨t, ht, settled⟩ := issue_settles (sh := fun _ => ctlShape f false) (eff := fun d => d.bar s.clk c gs) h released h.calm
    refine ⟨t, ht, ?_, ?_, fun x hx => ?_, settled.mem, settled.slices, settled.ctl⟩
    · rw [settled.group]
      unfold Dev.group
      rw [core_setCore, if_pos rfl]
      exact runs
    · rw [settled.core, core_setCore, if_pos rfl, releaseBarrier_block]
      simp [Core.block]
    · rw [settled.core, core_setCore, if_neg hx]
      exact (core_updCore ..).trans (if_neg hx)

/-! ### The abort of a context (R385) and the events of a core (R41, R46, R66, R74) -/

section
variable (d : Dev) (k : Clock)

theorem ended_endWait (f fdev : Nat) (w : Waiter) (status : Nat) (value : BitVec 64) (rel : BitVec 32) (relDev : Nat) :
    Ended d (d.endWait k f fdev w status value rel relDev) := (ended_ledger ..).trans (ended_finishCmd ..)

theorem ended_endGroup (c s : Nat) : Ended d (d.endGroup k c s) := by
  unfold Dev.endGroup
  dsimp only
  split
  · exact Ended.self d
  · exact (ended_updCore ..).trans (ended_exitGroup ..)

theorem ended_endStall (n : Nat) (rel : BitVec 32) : Ended d (d.endStall k n rel) := by
  unfold Dev.endStall
  dsimp only
  split
  · exact Ended.self d
  · exact (ended_updStream ..).trans (ended_ledger ..)

theorem ended_settleStream (n : Nat) : Ended d (d.settleStream n) := by
  unfold Dev.settleStream
  dsimp only
  split
  · exact (ended_finishCmd ..).trans (ended_updStream ..)
  · exact Ended.self d

theorem ended_cancelStream (n : Nat) : Ended d (d.cancelStream k n) := by
  unfold Dev.cancelStream
  dsimp only
  split
  · exact Ended.self d
  · have walk : ∀ e : Dev, Ended e (e.endStreamWalk n) := fun _ => ⟨rfl, fun _ => rfl⟩
    have drop : ∀ (e : Dev) (t : BTxn), Ended e (e.dropTxn n t) := fun _ _ => ⟨rfl, fun _ => rfl⟩
    exact (ended_endStall ..).trans ((walk _).trans ((ended_updStream ..).trans ((ended_foldl _ drop ..).trans
      ((ended_settleOverflow ..).trans (ended_settleStream ..)))))

/-- A Live context whose abort starts is Aborted, and besides only what an ending touches is changed. -/
theorem startAbort_aborts {x : Nat} (live : (d.ctx x).st = .live) (reason : Nat) (silent : Bool) :
    ((d.startAbort k x reason silent).ctx x).st = .aborted ∧ (Calm d → Calm (d.startAbort k x reason silent)) := by
  have drop : ∀ (e : Dev) p, Ended e (e.dropXlat x p) := fun _ _ => ⟨rfl, fun _ => rfl⟩
  have finish : ∀ (e : Dev) (q : Nat) (m : Cmd), Ended e (if m.waiting then
      e.endWait k (bitsAt (m.word 3) 0 16) (bitsAt (m.word 3) 16 12)
        { Waiter.reset with queue := q, order := m.order, ctx := x, target := BitVec.ofNat 64 (m.word 4) } 0x11 m.seen 0 0
      else e.finishCmd q m.order 0x11 0) := fun e q m => by
    split
    · exact ended_endWait ..
    · exact ended_finishCmd ..
  obtain ⟨e, stopped, ended⟩ : ∃ f : Ctx → Ctx, (f (d.ctx x)).st = .aborted ∧ Ended (d.updCtx x f) (d.startAbort k x reason silent) := by
    unfold Dev.startAbort
    dsimp only
    rw [if_neg (not_not_intro live)]
    refine ⟨_, ?_, (ended_foldl _ ?_ _ _).trans ((ended_foldl _ ?_ _ _).trans ((ended_foldl _ ?_ _ _).trans ((ended_foldl _ ?_ _ _).trans
      ((ended_foldl _ ?_ _ _).trans (drop _ _)))))⟩
    · rfl
    · exact fun e w => (ended_updFence ..).trans (ended_endWait ..)
    · exact fun e m => finish e m.1 m.2
    · exact fun e g => ended_endGroup ..
    · exact fun e l => ended_launchDone ..
    · exact fun e n => ended_cancelStream ..
  refine ⟨?_, fun calm => ended.calm calm⟩
  rw [ended.ctx, Dev.updCtx_ctx, if_pos rfl, stopped]

end

section
variable {c : Fin 512} {gs : Fin 64} {s : State} (calm : Calm s.dev) (on : s.dev.stopped = false)
include calm on

/-- A group leaves its slot when it is Exited and awaits nothing (R41). -/
theorem groupSlotFree_resets (exited : (s.dev.group c gs).st = .exited) (done : (s.dev.core c).awaits gs = false) :
    ∃ t, exec (.groupSlotFree c gs) s = .next t ∧ t.dev.group c gs = Group.reset ∧
      (t.dev.core c).freeRegs = (s.dev.core c).freeRegs + groupRegs ((s.dev.core c).block (s.dev.group c gs).block).r ∧
      t.dev.mem = s.dev.mem := by
  have ended := ended_freeGroup s.dev s.clk c gs
  obtain ⟨groups, regs⟩ := freeGroup_core (d := s.dev) (c := c) (s := gs) (by simp [exited, done]) s.clk
  obtain ⟨t, ht, settled⟩ : ∃ t, exec (.groupSlotFree c gs) s = .next t ∧ Settled s (s.dev.freeGroup s.clk c gs) t := by
    unfold exec execGroupSlotFree
    exact onMem_settles (if_neg (by simp [on])) (ended.calm calm)
  refine ⟨t, ht, ?_, by rw [settled.core, regs], settled.mem.trans ended.mem⟩
  rw [settled.group]
  unfold Dev.group Core.group
  rw [groups]
  exact mget_mdel_same ..

/-- A block whose units are zero starts (R46). -/
theorem lmUnitZeroDone_starts {b : Fin 32} {x : Block} (listed : mget? (s.dev.core c).blocks b = some x) (idle : x.started = false) :
    ∃ t, exec (.lmUnitZeroDone c b) s = .next t ∧ CoreFrame s c t ∧ ((t.dev.core c).block b).started = true ∧
      (∀ a, a / 8192 ∈ x.zeroing → mget 0 (t.dev.core c).lm a = 0) ∧
      ∀ a, a / 8192 ∉ x.zeroing → mget 0 (t.dev.core c).lm a = mget 0 (s.dev.core c).lm a := by
  obtain ⟨t, ht, settled⟩ : ∃ t, exec (.lmUnitZeroDone c b) s = .next t ∧ Settled s (s.dev.updCore c fun co =>
      ({ co with lm := co.lm.filter fun e => !x.zeroing.contains (e.1 / 8192)
                 lmPoison := co.lmPoison.filter fun w => !x.zeroing.contains (w / 1024) } : Core).setBlock b
        { x with zeroing := [], started := true }) t := by
    unfold exec execLmUnitZeroDone
    refine onMem_settles ?_ calm
    dsimp only
    rw [listed]
    exact if_neg (by simp [on, idle])
  have own := (settled.core c).trans ((core_updCore ..).trans (if_pos rfl))
  have zeroed := mget_filter_key 0 (s.dev.core c).lm fun a => !x.zeroing.contains (a / 8192)
  refine ⟨t, ht, coreFrame_setCore settled, ?_, fun a ha => ?_, fun a ha => ?_⟩
  · rw [own]
    simp [Core.setBlock, Core.block]
  · rw [own]
    exact (zeroed a).trans (if_neg (by simp [ha]))
  · rw [own]
    exact (zeroed a).trans (if_pos (by simp [ha]))

end

/-- Settles O19: the parking of R66 and the abort of R74 by the rules for parking and for aborts, the ends of R41 and R46 by their own. -/
theorem coreEvents : Obligations.CoreEvents := by
  intro c gs s g hg calm on
  subst hg
  refine ⟨fun since h held running late hit pending => ?timeout, fun p parked st live late => ?limit, groupSlotFree_resets calm on,
    fun b x => lmUnitZeroDone_starts calm on⟩
  case timeout =>
    obtain ⟨t, ht, settled⟩ : ∃ t, exec (.heldRegionTimeout c gs) s = .next t ∧ Settled s (s.dev.park c gs (s.dev.parkInfo s.clk c gs 0x0A
        (s.dev.group c gs).pc h.1 h.2 0 (s.dev.group c gs).whole)) t := by
      unfold exec execHeldRegionTimeout
      refine onMem_settles (Eq.trans ?_ (parkGroup_pending pending ..)) calm
      dsimp only
      rw [held]
      dsimp only
      rw [if_neg (by simp [on, running]; omega), hit]
    have own := settled.group c gs
    rw [park_group _ _ gs.isLt, if_pos ⟨rfl, rfl⟩] at own
    exact ⟨t, _, ht, by rw [own]; rfl, by rw [own]; rfl, rfl, rfl, rfl, rfl, rfl, settled.mem⟩
  case limit =>
    obtain ⟨aborted, keeps⟩ := startAbort_aborts s.dev s.clk live 2 false
    obtain ⟨t, ht, settled⟩ : ∃ t, exec (.parkingLimitExpiry c gs) s = .next t ∧
        Settled s (s.dev.startAbort s.clk ((s.dev.core c).block (s.dev.group c gs).block).ctx 2 false) t := by
      unfold exec execParkingLimitExpiry
      refine onMem_settles ?_ (keeps calm)
      dsimp only
      rw [parked]
      dsimp only
      rw [if_neg (by simp [on, st, live]; omega)]
    exact ⟨t, ht, by rw [settled.ctx, aborted]⟩

/-! ### The dispatcher (R46, R49, R402 to R405) -/

theorem placeGroup_blocks (k : Core) (x : Block) (b i now : Nat) : (k.placeGroup x b i now).blocks = k.blocks := setGroup_blocks ..

theorem placeGroup_freeRegs (k : Core) (x : Block) (b i now : Nat) : (k.placeGroup x b i now).freeRegs = k.freeRegs := by
  unfold Core.placeGroup Core.setGroup
  dsimp only
  split <;> rfl

/-- The slot that a core's next block takes. -/
def Core.nextBlock (k : Core) : Nat := (lowestFree 32 (k.blocks.map Prod.fst)).getD 0

section
variable (d : Dev) (k : Clock) (q : Nat) (m : Cmd) (c : Nat)

/-- A block that is placed changes its core and its launch only. -/
theorem placeBlock_eq : ∃ co f, d.placeBlock k q m c = (d.setCore c co).updCmd q m.order f ∧
    (∀ y, (f y).nextBlock = y.nextBlock + 1) ∧ co.block (d.core c).nextBlock = d.launchBlock q m (d.core c) ∧
    co.freeRegs = (d.core c).freeRegs - groupRegs m.regs * m.groups := by
  let x := d.launchBlock q m (d.core c)
  let own := (d.core c).setBlock (d.core c).nextBlock x
  refine ⟨_, _, rfl, fun _ => rfl, ?_, ?_⟩
  · have blocks : ((List.range x.groups).foldl (fun co i => co.placeGroup x (d.core c).nextBlock i k.ccyc) own).blocks = own.blocks :=
      coreFoldl_keeps Core.blocks _ (fun _ _ => placeGroup_blocks ..) _ _
    refine (congrArg (mget Block.reset · (d.core c).nextBlock) blocks).trans ?_
    exact mget_mput_same ..
  · have regs : ((List.range x.groups).foldl (fun co i => co.placeGroup x (d.core c).nextBlock i k.ccyc) own).freeRegs = own.freeRegs :=
      coreFoldl_keeps Core.freeRegs _ (fun _ _ => placeGroup_freeRegs ..) _ _
    exact congrArg (· - groupRegs m.regs * m.groups) regs

/-- A command of an order is what the change of that order made of it. -/
theorem updCmd_cmds (n : Nat) {f : Cmd → Cmd} {y : Cmd} (hy : y ∈ ((d.updCmd q n f).queue q).cmds)
    (hn : y.order = n) : ∃ z ∈ (d.queue q).cmds, z.order = n ∧ y = f z := by
  have list : ((d.updCmd q n f).queue q).cmds = (d.queue q).cmds.map fun m => if m.order = n then f m else m := by
    simp [Dev.updCmd]
  rw [list] at hy
  obtain ⟨z, hz, rfl⟩ := List.mem_map.mp hy
  by_cases named : z.order = n
  · exact ⟨z, hz, named, if_pos named⟩
  · exact absurd ((congrArg Cmd.order (if_neg named)).symm.trans hn) named

end

/-- A berth with a launch that is ready is Live (R404). -/
theorem live_of_readyLaunch {d : Dev} {b : Nat} {l : Nat × Cmd} (h : d.readyLaunch b = some l) : (d.berth b).st = .live := by
  by_contra other
  rw [Dev.readyLaunch, if_pos other] at h
  cases h

/-- Settles O20: the winner is the berth that R402 offers the core to, and its next block is placed. -/
theorem dispatchPlacesBlock : Obligations.DispatchPlacesBlock := by
  intro s b c q m calm admits ready heldCores room limit offered launch chosen powered sound
  have placed : s.dev.dispatchFor s.clk b true = some (s.dev.placeBlock s.clk q m c) := by
    unfold Dev.dispatchFor
    rw [launch]
    dsimp only [Option.bind_some]
    refine (congrArg (Option.map _) ((congrArg (s.dev.chooseCore _) (List.filter_congr fun x _ => ?_)).trans chosen)).trans ?_
    · cases s.dev.holder x <;> rfl
    · simp [powered, Dev.meetBerth, takeLatent_none sound, live_of_readyLaunch launch]
  obtain ⟨co, f, eq, next, block, regs⟩ := placeBlock_eq s.dev s.clk q m c
  obtain ⟨t, ht, settled⟩ : ∃ t, exec .dispatchBlock s = .next t ∧ Settled s ((s.dev.setCore c co).updCmd q m.order f) t := by
    unfold exec execDispatchBlock
    refine onMem_settles ?_ calm
    dsimp only
    rw [admits, if_neg (by decide), if_pos ⟨room, limit⟩, offered]
    dsimp only [Option.bind_some]
    rw [placed, ← eq]
  have cores : ∀ x, t.dev.core x = (s.dev.setCore c co).core x := settled.core
  refine ⟨t, (s.dev.core c).nextBlock, ht, ?_, ?_, fun x hx => ?_, settled.mem, settled.slices, fun y hy same => ?_⟩
  · rw [cores, core_setCore, if_pos rfl, block]
  · rw [cores, core_setCore, if_pos rfl, regs]
  · rw [cores, core_setCore, if_neg hx]
  · rw [settled.queue] at hy
    obtain ⟨z, hz, hn, rfl⟩ := updCmd_cmds _ q _ hy same
    exact ⟨z, hz, hn, next z⟩

/-! ### Destinations of any number of registers (R78, R86) -/

section
variable (g : Group) {r : Nat} (n l v : Nat)

theorem opnd_succ (hz : isZero r = false) : g.opnd r (n + 1) l = g.opnd r n l + (g.reg (r + n) l).toNat * 2 ^ (32 * n) := by
  simp [Group.opnd, hz, List.range_succ]

theorem setOpnd_succ (hz : isZero r = false) :
    g.setOpnd r (n + 1) l v = (g.setOpnd r n l v).setReg (r + n) l (BitVec.ofNat 32 (v >>> (32 * n))) := by
  simp [Group.setOpnd, hz, List.range_succ]

/-- A write of an operand is seen in its own registers and, if none is uniform, in its own lane only. -/
theorem reg_setOpnd_other {r' l' : Nat} (hl : l < 32) (hl' : l' < 32)
    (h : r' ∉ regList r n ∨ ((∀ i < n, isU (r + i) = false) ∧ l' ≠ l)) : (g.setOpnd r n l v).reg r' l' = g.reg r' l' := by
  cases hz : isZero r with
  | true => simp [Group.setOpnd, hz]
  | false =>
    induction n with
    | zero => simp [Group.setOpnd, hz]
    | succ n ih =>
      rw [setOpnd_succ g n l v hz, reg_setReg_other _ _ _ _ _ _ hl hl', ih]
      · refine h.imp (fun out => ?_) fun own => ⟨fun i hi => own.1 i (by omega), own.2⟩
        simp only [regList, hz, List.range_succ] at out ⊢
        simp_all
      · refine h.imp (fun out same => ?_) fun own => ⟨own.1 n (by omega), own.2⟩
        simp [regList, hz, same] at out

/-- An operand of v or u registers reads back what was written, modulo its width. -/
theorem opnd_setOpnd (hz : isZero r = false) (hl : l < 32) (h : ∀ i < n, isV (r + i) = true ∨ isU (r + i) = true) :
    (g.setOpnd r n l v).opnd r n l = v % 2 ^ (32 * n) := by
  induction n with
  | zero => simp [Group.opnd, hz, Nat.mod_one]
  | succ n ih =>
    have lower : ((g.setOpnd r n l v).setReg (r + n) l (BitVec.ofNat 32 (v >>> (32 * n)))).opnd r n l = (g.setOpnd r n l v).opnd r n l :=
      opnd_congr fun i hi => reg_setReg_other _ _ _ _ _ _ hl hl (.inl (by omega))
    rw [setOpnd_succ g n l v hz, opnd_succ _ _ _ hz, lower, ih fun i hi => h i (by omega), reg_setReg_same _ _ _ _ (h n (by omega)),
      BitVec.toNat_ofNat, Nat.shiftRight_eq_div_pow, Nat.mul_succ, Nat.pow_add, Nat.mod_mul, Nat.mul_comm (2 ^ (32 * n))]

end

/-- What a result leaves in the registers of a destination of any size (R86). -/
theorem putResult_writes (g : Group) (f : InsF) {n r : Nat} (val : Nat → Nat) (hr : r ≤ 255) (h : regOk r f.d n = true) :
    Wrote g (putResult g f n val) f n val := by
  rcases regOk_cases hr h with hz | ⟨hv, hu, hp, hi⟩ | ⟨hu, hv, hp, hi⟩ | ⟨-, -, -, rfl⟩
  case inl =>
    obtain ⟨hv, hu, hp⟩ := isZero_others hz
    have nothing : putResult g f n val = putResult g f 1 val := by simp [putResult, Group.writeLanes, Group.setOpnd, hz]
    have single := putResult_wrote g f 1 r val hr (.inl rfl) (by simp [regOk, hz])
    rw [nothing]
    exact ⟨by simp [hu], by simp [hv], by simp [hp], fun r' l hl _ => single.others r' l hl (.inl (by simp [regList, hz]))⟩
  case inr.inl =>
    have hz : isZero f.d = false := by
      simp only [isV, decide_eq_true_eq] at hv
      simp only [isZero, beq_eq_false_iff_ne]
      omega
    have lanes : putResult g f n val = (lanesOf (g.acting f)).foldl (fun h l => h.setOpnd f.d n l (val l)) g := by
      simp [putResult, hu, Group.writeLanes]
    have bound : ∀ a ∈ lanesOf (g.acting f), a < 32 := fun a ha => ((lanesOf_mem _ _).mp ha).1
    have apart : ∀ (h : Group) (a r' l : Nat), a < 32 → l < 32 → l ≠ a → (h.setOpnd f.d n a (val a)).reg r' l = h.reg r' l :=
      fun h a r' l ha hl other => reg_setOpnd_other h n a (val a) ha hl (.inr ⟨fun i hi' => (hi i hi').2, other⟩)
    rw [lanes]
    refine ⟨by simp [hu], fun _ l hl acts => ?_, by simp [hp], fun r' l hl other => ?_⟩
    · obtain ⟨as, bs, he, -, later, split⟩ := foldl_lanes_split (fun h l => h.setOpnd f.d n l (val l)) _ (lanesOf_nodup (g.acting f)) l
        ((lanesOf_mem _ _).mpr ⟨hl, acts⟩) g
      have kept : ∀ (h : Group) i, (bs.foldl (fun h l => h.setOpnd f.d n l (val l)) h).reg (f.d + i) l = h.reg (f.d + i) l := fun h i =>
        foldl_lanes_reg _ _ _ (fun h a ha ne => apart h a _ l ha hl ne) bs (fun a ha => bound a (by simp [he, ha])) later h
      rw [split, opnd_congr fun i _ => kept _ i]
      exact opnd_setOpnd _ n l _ hz hl fun i hi' => .inl (hi i hi').1
    · by_cases own : r' ∈ regList f.d n
      · have still := (other.resolve_left (not_not_intro own)).2
        have idle : l ∉ lanesOf (g.acting f) := fun hm => absurd (((lanesOf_mem _ _).mp hm).2.symm.trans still) Bool.noConfusion
        exact foldl_lanes_reg _ _ _ (fun h a ha ne => apart h a r' l ha hl ne) _ bound idle g
      · refine List.foldlRecOn (motive := fun h : Group => h.reg r' l = g.reg r' l) _ _ rfl fun h ih a ha => ?_
        exact (reg_setOpnd_other h n a (val a) (bound a ha) hl (.inl own)).trans ih
  case inr.inr.inl =>
    have hz : isZero f.d = false := by
      simp only [isU, Bool.and_eq_true, decide_eq_true_eq] at hu
      simp only [isZero, beq_eq_false_iff_ne]
      omega
    rw [putResult, if_pos hu]
    refine ⟨fun _ => opnd_setOpnd g n 0 _ hz (by omega) fun i hi' => .inr (hi i hi'), by simp [hv], by simp [hp], fun r' l hl other => ?_⟩
    exact reg_setOpnd_other g n 0 _ (by omega) hl (.inl (other.resolve_right (by simp [hu])))
  case inr.inr.inr => exact putResult_wrote g f 1 r val hr (.inl rfl) h

/-! ### LDL and STL (R65, R90, R96) -/

/-- Reading words of local memory that are free of storage errors changes nothing (R217). -/
theorem meetLm_sound {d : Dev} {c : Nat} {b : Block} {off len : Nat}
    (h : ∀ i < len, (takeLatent 3 c (b.phys (off + i) / 8) d).1 = none) (k : Clock) : d.meetLm k c b off len = d := by
  refine foldl_stays fun w hw => ?_
  obtain ⟨i, hi, rfl⟩ := List.mem_map.mp (List.mem_eraseDups.mp hw)
  rw [takeLatent_none (h i (List.mem_range.mp hi))]

/-- Lanes and offsets of a local-memory access. -/
def lmAccesses (g : Group) (f : InsF) (uniform : Bool) : List (Nat × Nat) :=
  (memLanes g f uniform).map fun l => (l, lmOff g f.a (memImm f) (accWidth f.ty) l)

/-- What LDL does once its checks are passed. -/
def Dev.loadLocal (d : Dev) (k : Clock) (c s : Nat) (f : InsF) (g : Group) : Dev :=
  let w := accWidth f.ty
  let xs := lmAccesses g f (isU f.d)
  let b := (d.core c).block g.block
  let d := xs.foldl (fun d x => d.meetLm k c b x.2 w) d
  let co := d.core c
  let bad := xs.filter fun x => co.lmBad b x.2 w
  let good := xs.filter fun x => !co.lmBad b x.2 w
  let d := d.updGroup c s fun g => good.foldl (fun g x => g.setOpnd f.d (dstCount f.ty) x.1 (loadValue f.ty (co.lmGet b x.2 w))) g
  d.endLocal k c s f bad

/-- What STL does once its checks are passed. -/
def Dev.storeLocal (d : Dev) (k : Clock) (c s : Nat) (f : InsF) (g : Group) : Dev :=
  let w := accWidth f.ty
  let xs := lmAccesses g f false
  let b := (d.core c).block g.block
  let bytes := xs.flatMap fun x => bytesAt x.2 w (g.opnd f.d (dstCount f.ty) x.1)
  let d := (partWords bytes xs).foldl (fun d o => d.meetLm k c b o w) d
  let d := d.updCore c fun co => co.lmPut b bytes false
  d.updGroup c s fun g => g.advance f.len

section
variable {s : State} {c gs : Nat} {f : InsF} {g : Group} (hg : s.dev.group c gs = g) {uniform store : Bool}
  (opened : ∀ l ∈ memLanes g f uniform, LmOpen s c g (lmOff g f.a (memImm f) (accWidth f.ty) l) (accWidth f.ty) store)

include opened in
theorem lmAccesses_open {x : Nat × Nat} (hx : x ∈ lmAccesses g f uniform) : LmOpen s c g x.2 (accWidth f.ty) store := by
  obtain ⟨l, hl, rfl⟩ := List.mem_map.mp hx
  exact opened l hl

include hg opened in
/-- An access that is open passes the checks of bounds and held regions (R45, R65). -/
theorem lmPresent_open (eff : Dev → Dev) :
    lmPresent s.clk c gs f (accWidth f.ty) (lmAccesses g f uniform) store eff s.dev = eff s.dev := by
  have own : (s.dev.core c).group gs = g := hg
  have inside : (lmAccesses g f uniform).find? (fun x => decide (((s.dev.core c).block g.block).lmSize ≤ x.2)) = none :=
    List.find?_eq_none.mpr fun x hx => by simpa using (lmAccesses_open opened hx).inside
  have free : (store && ((s.dev.core c).heldHit g.block (accWidth f.ty) ((lmAccesses g f uniform).map Prod.snd)).isSome) = false := by
    cases hs : store with
    | false => rfl
    | true =>
      have none' : (s.dev.core c).heldHit g.block (accWidth f.ty) ((lmAccesses g f uniform).map Prod.snd) = none :=
        List.findSome?_eq_none_iff.mpr fun o ho => by
          obtain ⟨x, hx, rfl⟩ := List.mem_map.mp ho
          simp [(lmAccesses_open opened hx).free hs]
      simp [none']
  unfold lmPresent
  dsimp only
  rw [own, inside]
  dsimp only
  rw [free, if_neg (by decide)]

end

/-- LDL of lanes that are open writes their values into the destination, and the group moves on. -/
theorem loadLocal_open {s : State} {c gs : Nat} {f : InsF} {g : Group} (hs : gs < 64) (hg : s.dev.group c gs = g)
    (opened : ∀ l ∈ memLanes g f (isU f.d), LmOpen s c g (lmOff g f.a (memImm f) (accWidth f.ty) l) (accWidth f.ty) false) :
    s.dev.loadLocal s.clk c gs f g = s.dev.updGroup c gs fun g => (putResult g f (dstCount f.ty) fun l =>
      loadValue f.ty ((s.dev.core c).lmGet ((s.dev.core c).block g.block) (lmOff g f.a (memImm f) (accWidth f.ty) l)
        (accWidth f.ty))).advance f.len := by
  have read : (lmAccesses g f (isU f.d)).foldl
      (fun d x => d.meetLm s.clk c ((s.dev.core c).block g.block) x.2 (accWidth f.ty)) s.dev = s.dev :=
    foldl_stays fun x hx => meetLm_sound (lmAccesses_open opened hx).sound _
  have bad : (lmAccesses g f (isU f.d)).filter (fun x => (s.dev.core c).lmBad ((s.dev.core c).block g.block) x.2 (accWidth f.ty)) = [] :=
    List.filter_eq_nil_iff.mpr fun x hx => by simp [(lmAccesses_open opened hx).clean]
  have good : (lmAccesses g f (isU f.d)).filter (fun x => !(s.dev.core c).lmBad ((s.dev.core c).block g.block) x.2 (accWidth f.ty)) =
      lmAccesses g f (isU f.d) := List.filter_eq_self.mpr fun x hx => by simp [(lmAccesses_open opened hx).clean]
  have written : ∀ value : Nat → Nat, (lmAccesses g f (isU f.d)).foldl (fun g x => g.setOpnd f.d (dstCount f.ty) x.1 (value x.2)) g =
      putResult g f (dstCount f.ty) fun l => value (lmOff g f.a (memImm f) (accWidth f.ty) l) := fun value => by
    unfold lmAccesses memLanes putResult Group.writeLanes
    rw [List.foldl_map]
    split <;> rfl
  unfold Dev.loadLocal
  dsimp only
  rw [read, bad, good]
  unfold Dev.endLocal Dev.updGroup
  dsimp only
  rw [setGroup_setGroup _ _ hs, setGroup_group _ _ _ hs, if_pos rfl, hg,
    written fun o => loadValue f.ty ((s.dev.core c).lmGet ((s.dev.core c).block g.block) o (accWidth f.ty))]

/-- STL of lanes that are open writes their bytes, and the group moves on. -/
theorem storeLocal_open {s : State} {c gs : Nat} {f : InsF} {g : Group} (hg : s.dev.group c gs = g)
    (opened : ∀ l ∈ memLanes g f false, LmOpen s c g (lmOff g f.a (memImm f) (accWidth f.ty) l) (accWidth f.ty) true) :
    s.dev.storeLocal s.clk c gs f g = s.dev.updCore c fun co => ((co.lmPut ((s.dev.core c).block g.block)
      ((memLanes g f false).flatMap fun l => bytesAt (lmOff g f.a (memImm f) (accWidth f.ty) l) (accWidth f.ty) (g.opnd f.d (dstCount f.ty) l))
      false).setGroup gs (g.advance f.len)) := by
  have read : ∀ bytes, (partWords bytes (lmAccesses g f false)).foldl
      (fun d o => d.meetLm s.clk c ((s.dev.core c).block g.block) o (accWidth f.ty)) s.dev = s.dev := fun bytes =>
    foldl_stays fun o ho => by
      obtain ⟨x, hx, rfl⟩ := List.mem_map.mp (List.mem_filter.mp ho).1
      exact meetLm_sound (lmAccesses_open opened hx).sound _
  have bytes : (lmAccesses g f false).flatMap (fun x => bytesAt x.2 (accWidth f.ty) (g.opnd f.d (dstCount f.ty) x.1)) =
      (memLanes g f false).flatMap fun l =>
        bytesAt (lmOff g f.a (memImm f) (accWidth f.ty) l) (accWidth f.ty) (g.opnd f.d (dstCount f.ty) l) := List.flatMap_map ..
  unfold Dev.storeLocal
  dsimp only
  rw [read, bytes]
  unfold Dev.updGroup Dev.setGroup
  rw [updCore_updCore, updCore_group s.dev c _ rfl, hg]
  rfl

/-- Settles O13: lanes that are open pass the checks; LDL writes its destination, STL the block's bytes. -/
theorem localMemoryAccess : Obligations.LocalMemoryAccess := by
  intro c gs f s g hg hr b w
  subst hg
  refine ⟨fun h opened => ?ldl, fun h order opened => ?stl⟩
  case ldl =>
    have legal : regOk (s.dev.rOf c gs) f.d (dstCount f.ty) = true := by
      have word := h.word
      simp only [Shape.ok, lmShape, Bool.and_eq_true] at word
      exact word.1.1.1.1.2
    have loads := (lmPresent_open rfl opened fun e => e.loadLocal s.clk c gs f (s.dev.group c gs)).trans (loadLocal_open gs.isLt rfl opened)
    obtain ⟨t, ht, settled⟩ := issue_settles (sh := fun d => lmShape (d.rOf c gs) f true)
      (eff := fun d => lmPresent s.clk c gs f (accWidth f.ty) (lmAccesses (d.group c gs) f (isU f.d)) false
        (fun e => e.loadLocal s.clk c gs f (d.group c gs)) d) h loads (updGroup_calm h.calm)
    obtain ⟨frame, own⟩ := groupFrame_of gs.isLt settled
    have wrote := putResult_writes (s.dev.group c gs) f (fun l => loadValue f.ty
      ((s.dev.core c).lmGet b (lmOff (s.dev.group c gs) f.a (memImm f) w l) w)) hr legal
    refine ⟨t, ht, frame, ?_, ?_⟩
    · rw [own]
      exact moved_of_regsOnly f (putResult_regsOnly ..)
    · rw [own]
      exact ⟨wrote.uniform, wrote.perLane, wrote.predicate, wrote.others⟩
  case stl =>
    have may : ¬ (f.bits 59 58 = 2 ∧ s.dev.hasOps c gs = true) := fun held => by simp [order held.1] at held
    have stores := (lmPresent_open rfl opened fun e => e.storeLocal s.clk c gs f (s.dev.group c gs)).trans (storeLocal_open rfl opened)
    obtain ⟨t, ht, settled⟩ := issue_settles (sh := fun d => lmShape (d.rOf c gs) f false)
      (eff := fun d => if f.bits 59 58 = 2 ∧ d.hasOps c gs = true then d
        else lmPresent s.clk c gs f (accWidth f.ty) (lmAccesses (d.group c gs) f false) true
          (fun e => e.storeLocal s.clk c gs f (d.group c gs)) d) h ((if_neg may).trans stores) h.calm
    have core := (settled.core c).trans ((core_updCore ..).trans (if_pos rfl))
    have groups : ∀ j, t.dev.group c j = if j = gs.val then (s.dev.group c gs).advance f.len else s.dev.group c j := fun j => by
      unfold Dev.group
      rw [core, group_setGroup _ _ _ _ gs.isLt]
      rfl
    refine ⟨t, ht, coreFrame_setCore settled, fun j hj => by rw [groups, if_neg hj], by rw [groups, if_pos rfl], ?_⟩
    rw [core]
    exact setGroup_lm ..

/-! ### Packets that reach their agent (R304, R309) -/

/-- A packet that is taken leaves the mesh; besides, only ports change. -/
theorem take_eq (d : Dev) (p : Packet) : ∃ fab, d.take p = { d with fab := fab } ∧ fab.net = d.fab.net.erase p := by
  unfold Dev.take
  split
  · exact ⟨_, rfl, rfl⟩
  · exact ⟨_, rfl, rfl⟩

/-- A packet that arrives is taken and acted on. -/
theorem onPkt_acts {s : State} {p : Packet} {op : PktOp} {f : Dev → Option Dev} {e : Dev} (h : Arrives s p op)
    (hf : f (s.dev.take p) = some e) : s.dev.onPkt p op f = e := by
  have first : ((s.dev.fab.net.takeWhile fun q => q != p).any fun q =>
      isVc2 q.op && q.line == p.line && q.src == p.src && q.dst == p.dst && q.tgt == p.tgt) = false := by
    refine List.any_eq_false.mpr fun q hq => ?_
    have apart := h.first q hq
    simp only [Bool.and_eq_true, beq_iff_eq]
    rintro ⟨⟨⟨⟨vc2, line⟩, src⟩, dst⟩, tgt⟩
    exact apart vc2 line src dst tgt
  unfold Dev.onPkt
  dsimp only
  rw [if_pos ⟨h.code, h.here, List.contains_iff_mem.mpr h.waits, h.runs, fun _ => first⟩, hf]
  rfl

/-- The device that a packet's action comes to is the next state's, if that leaves nothing to settle. -/
theorem onPkt_settles {s : State} {p : Packet} {op : PktOp} {f : Dev → Option Dev} {e : Dev} (h : Arrives s p op)
    (hf : f (s.dev.take p) = some e) (hc : Calm e) : ∃ t, (onMem s fun d => d.onPkt p op f) = .next t ∧ Settled s e t :=
  onMem_settles (onPkt_acts h hf) hc

theorem atCore_of {s t : State} {e : Dev} {c : Nat} (h : Settled s e t) (mem : e.mem = s.dev.mem) (slices : e.slices = s.dev.slices)
    (others : ∀ x, x ≠ c → e.core x = s.dev.core x) : AtCore s c t :=
  ⟨h.pending, h.perm, h.clk, h.mem.trans mem, h.slices.trans slices, fun x hx => (h.core x).trans (others x hx)⟩

/-- A landing buffer that a packet names is listed under the packet's entry (R307). -/
theorem listed_of_landing {k : Core} {p : Packet} {m : Mshr} (h : k.landing p = some m) : mget? k.mshrs p.entry = some m := by
  unfold Core.landing at h
  obtain ⟨x, hx, same⟩ := Option.bind_eq_some_iff.mp h
  split at same
  · rw [hx, same]
  · cases same

theorem updMshr_same {d : Dev} {c e : Nat} {m : Mshr} (listed : mget? (d.core c).mshrs e = some m) (f : Mshr → Mshr) :
    mget? ((d.updMshr c e f).core c).mshrs e = some (f m) := by
  unfold Dev.updMshr
  rw [updCore_self]
  exact mget?_map_same listed f

/-! ### HeldRetry at a core (R398, R407) -/

theorem heldRetry_keeps {s : State} {p : Packet} {m : Mshr} (core : p.tgt < 512) (buffer : (s.dev.core p.tgt).landing p = some m)
    (h : Arrives s p .heldRetry) :
    ∃ t, exec (.heldRetry p) s = .next t ∧ AtCore s p.tgt t ∧ t.dev.fab.net = s.dev.fab.net.erase p ∧
      mget? (t.dev.core p.tgt).mshrs p.entry = some { m with retryAt := some s.clk.tsc } := by
  obtain ⟨fab, taken, net⟩ := take_eq s.dev p
  obtain ⟨t, ht, settled⟩ : ∃ t, exec (.heldRetry p) s = .next t ∧ Settled s
      (({ s.dev with fab := fab } : Dev).updMshr p.tgt p.entry fun x => { x with retryAt := some s.clk.tsc }) t := by
    unfold exec execHeldRetry
    refine onPkt_settles h ?_ h.calm
    dsimp only
    rw [if_pos core, taken]
    unfold Dev.coreResp
    rw [show (({ s.dev with fab := fab } : Dev).core p.tgt).landing p = some m from buffer]
  refine ⟨t, ht, atCore_of settled rfl rfl fun x hx => updCore_others _ hx _, settled.net.trans net, ?_⟩
  rw [settled.core]
  exact updMshr_same (d := { s.dev with fab := fab }) (listed_of_landing buffer) _

theorem coreHeldRetry_sends {s : State} {c e since : Nat} {m : Mshr} (hc : c < 512) (listed : mget? (s.dev.core c).mshrs e = some m)
    (held : m.retryAt = some since) (runs : s.dev.stopped = false) (due : 256 * 8 ≤ 3 * (s.clk.tsc - since)) :
    ∃ t a, exec (.coreHeldRetry ⟨c, hc⟩ e) s = .next t ∧ AtCore s c t ∧ t.dev.fab.net = s.dev.fab.net ++ [a] ∧ a.op = m.req.op ∧
      a.dst = m.req.dst ∧ a.entry = m.req.entry ∧ a.gen = m.req.gen ∧ a.line = m.req.line ∧
      ∃ m', mget? (t.dev.core c).mshrs e = some m' ∧ m'.retryAt = none := by
  let req : Packet := { m.req with hasCopy := m.req.op == .getM && ((s.dev.core c).l1Find m.line).isSome }
  let ask : Mshr → Mshr := fun m => { m with retryAt := none, req := req }
  let again : Dev := (s.dev.updMshr c e ask).send req
  have others : ∀ x, x ≠ c → again.core x = s.dev.core x := fun x hx =>
    updCore_others s.dev hx fun k => { k with mshrs := k.mshrs.map fun x => if x.1 = e then (e, ask x.2) else x }
  have acts : exec (.coreHeldRetry ⟨c, hc⟩ e) s = .next { s with dev := again } := by
    unfold exec execCoreHeldRetry onDev
    dsimp only
    rw [listed]
    dsimp only
    rw [held]
    dsimp only
    rw [if_neg]
    have late : fcyclesPassed s.clk since 256 = true := decide_eq_true (by omega)
    simp [runs, late]
  refine ⟨_, _, acts, ⟨rfl, rfl, rfl, rfl, rfl, others⟩, rfl, rfl, rfl, rfl, rfl, rfl,
    ask m, updMshr_same listed ask, rfl⟩

/-! ### EvictAck (R242) -/

theorem bwOldest_idle {k : Core} (bw : k.bw = []) : k.bwOldest = [] := by
  unfold Core.bwOldest
  rw [bw]
  rfl

/-- In a core without a BWDOT, no weight line goes on (R177). -/
theorem bwPump_idle {d : Dev} {c : Nat} (bw : (d.core c).bw = []) (k : Clock) : d.bwPump k c = d.updCore c id := by
  have rows : (d.core c).bwRows k.ccyc = d.core c := by
    unfold Core.bwRows
    rw [bwOldest_idle bw]
    rfl
  have ask : d.bwAsk k c = d := by
    unfold Dev.bwAsk
    rw [bwOldest_idle bw]
    rfl
  unfold Dev.bwPump
  dsimp only
  rw [ask, bw]
  exact congrArg (d.setCore c) rows

/-- Once the instructions in flight of a core have all left, and without a BWDOT, nothing more goes on (R52, R177). -/
theorem corePump_of_pump {d e : Dev} {c : Nat} {k : Clock} (pump : d.pump k c = e) (ops : (e.core c).ops = []) (bw : (e.core c).bw = []) :
    d.corePump k c = e.updCore c id := by
  unfold Dev.corePump
  dsimp only
  rw [pump, bwPump_idle bw, updCore_self, id, ops]
  rfl

theorem corePump_idle {d : Dev} {c : Nat} (ops : (d.core c).ops = []) (bw : (d.core c).bw = []) (k : Clock) : d.corePump k c = d.updCore c id := by
  refine corePump_of_pump ?_ ops bw
  unfold Dev.pump
  rw [ops]
  rfl

/-- A core without lines in disabled units evicts none of them (R219). -/
theorem clearL1Units_clear {d : Dev} {c : Nat} (h : UnitsClear (d.core c)) : d.clearL1Units c = d := by
  unfold Dev.clearL1Units
  dsimp only
  rw [List.filter_eq_nil_iff.mpr fun e he => by rw [h e he]; decide]
  rfl

theorem evictAck_core {s : State} {p : Packet} (h : Arrives s p .evictAck) (core : p.tgt < 512) (ops : (s.dev.core p.tgt).ops = [])
    (bw : (s.dev.core p.tgt).bw = []) (units : UnitsClear (s.dev.core p.tgt)) :
    ∃ t, exec (.evictAck p) s = .next t ∧ AtCore s p.tgt t ∧ t.dev.fab.net = s.dev.fab.net.erase p ∧
      t.dev.core p.tgt = { s.dev.core p.tgt with evict := (s.dev.core p.tgt).evict.filter fun b => b.line != p.line } := by
  obtain ⟨fab, taken, net⟩ := take_eq s.dev p
  let empty : Core → Core := fun k => { k with evict := k.evict.filter fun b => b.line != p.line }
  let e : Dev := ({ s.dev with fab := fab } : Dev).updCore p.tgt empty
  have own : e.core p.tgt = empty (s.dev.core p.tgt) := updCore_self _ _ _
  obtain ⟨t, ht, settled⟩ : ∃ t, exec (.evictAck p) s = .next t ∧ Settled s (e.updCore p.tgt id) t := by
    unfold exec execEvictAck
    refine onPkt_settles h ?_ h.calm
    rw [if_pos core, taken]
    have clear : e.clearL1Units p.tgt = e := clearL1Units_clear (by rw [own]; exact units)
    exact congrArg some ((congrArg (Dev.corePump · s.clk p.tgt) clear).trans (corePump_idle (by rw [own]; exact ops) (by rw [own]; exact bw) _))
  refine ⟨t, ht, atCore_of settled rfl rfl fun x hx => (updCore_others _ hx _).trans (updCore_others _ hx _), settled.net.trans net, ?_⟩
  rw [settled.core, updCore_self, id, own]

/-- A slice of which nothing waits for room goes on with nothing (R242). -/
theorem evictRoom_quiet {d : Dev} {n : Nat} (h : SliceQuiet (d.slice n)) (k : Clock) : d.evictRoom k n = d := by
  obtain ⟨recalls, near, off, vOff⟩ := h
  have far : (d.slice n).dir.foldl (fun d e => if e.2.far then d.farIdle n e.2.line else d) d = d :=
    foldl_stays fun e he => if_neg (by simp [near e he])
  unfold Dev.evictRoom
  dsimp only
  rw [recalls, List.foldl_nil, far]
  unfold Dev.clearUnits
  simp [off, vOff]

theorem evictAck_slice {s : State} {p : Packet} (h : Arrives s p .evictAck) (slice : 512 ≤ p.tgt) (quiet : SliceQuiet (s.dev.slice (p.tgt - 512))) :
    ∃ t, exec (.evictAck p) s = .next t ∧ t.dev.cores = s.dev.cores ∧ t.dev.fab.net = s.dev.fab.net.erase p ∧
      t.dev.slice (p.tgt - 512) =
        { s.dev.slice (p.tgt - 512) with evict := (s.dev.slice (p.tgt - 512)).evict.filter fun b => b.line != p.line } := by
  obtain ⟨fab, taken, net⟩ := take_eq s.dev p
  let empty : Slice → Slice := fun x => { x with evict := x.evict.filter fun b => b.line != p.line }
  let e : Dev := ({ s.dev with fab := fab } : Dev).updSlice (p.tgt - 512) empty
  have own : e.slice (p.tgt - 512) = empty (s.dev.slice (p.tgt - 512)) := mget_mput_same ..
  obtain ⟨t, ht, settled⟩ : ∃ t, exec (.evictAck p) s = .next t ∧ Settled s e t := by
    unfold exec execEvictAck
    refine onPkt_settles h ?_ h.calm
    rw [if_neg (by omega), taken]
    exact congrArg some (evictRoom_quiet (by rw [own]; exact ⟨quiet.recalls, quiet.near, quiet.units⟩) _)
  exact ⟨t, ht, settled.cores, settled.net.trans net, by rw [settled.slice, own]⟩

/-! ### The end of a recall (R247, R248) -/

/-- A slice whose recall of a line has ended. -/
def Slice.recallEnded (x : Slice) (r : Recall) : Slice :=
  { x with recalls := x.recalls.filter fun y => y.ent.line != r.ent.line, gens := mput x.gens r.entry ((mget 0 x.gens r.entry + 1) % 16) }

/-- The recall of a line of this device that awaits nothing ends, and nothing else happens if nothing waited for it. -/
theorem recallCheck_ends {d : Dev} {n line : Nat} {r : Recall} (found : (d.slice n).recalls.find? (fun x => x.ent.line == line) = some r)
    (acks : r.acks = 0) (owner : r.owner = false) (waiting : r.waiting = []) (near : r.putBack = false) (home : d.isHome line = true)
    (far : ∀ y ∈ (d.slice n).far, y.granted = false) (k : Clock) : d.recallCheck k n line = d.updSlice n fun x => x.recallEnded r := by
  have ended : d.recallEnd n r = d.updSlice n fun x => x.recallEnded r := by
    unfold Dev.recallEnd
    dsimp only
    rw [if_pos (by simp [near])]
    rfl
  have settle : (d.updSlice n fun x => x.recallEnded r).farSettle k line = d.updSlice n fun x => x.recallEnded r := if_pos home
  unfold Dev.recallCheck
  dsimp only
  rw [found]
  dsimp only
  rw [if_neg (by simp [acks, owner, near, Slice.recallRoom]), ended, waiting]
  unfold Dev.serveAll
  rw [List.foldl_nil, settle, updSlice_self]
  refine foldl_stays fun y hy => ?_
  unfold Dev.farDone
  dsimp only
  rw [if_pos]
  simp [far y hy]

/-- A recall of a line no longer awaits the owner. -/
def Recall.answered (line : Nat) (r : Recall) : Recall := if r.ent.line = line then { r with owner := false } else r

theorem answered_line (line : Nat) (r : Recall) : (r.answered line).ent.line = r.ent.line := by
  unfold Recall.answered
  split <;> rfl

theorem find?_answered {l : List Recall} {line : Nat} {r : Recall} (h : l.find? (fun x => x.ent.line == line) = some r) :
    (l.map (Recall.answered line)).find? (fun x => x.ent.line == line) = some { r with owner := false } := by
  have own : r.ent.line = line := by simpa using List.find?_some h
  have same : ((fun x => x.ent.line == line) ∘ Recall.answered line) = fun x : Recall => x.ent.line == line := by
    funext x
    simp [answered_line]
  rw [List.find?_map, same, h]
  simp [Recall.answered, own]

theorem filter_answered (l : List Recall) (line : Nat) :
    (l.map (Recall.answered line)).filter (fun x => x.ent.line != line) = l.filter fun x => x.ent.line != line := by
  have same : ((fun x => x.ent.line != line) ∘ Recall.answered line) = fun x : Recall => x.ent.line != line := by
    funext x
    simp [answered_line]
  rw [List.filter_map, same]
  refine (List.map_congr_left fun x hx => ?_).trans (List.map_id _)
  exact if_neg (by simpa using (List.mem_filter.mp hx).2)

/-- Two devices that differ in one slice only. -/
def SliceApart (n : Nat) (d e : Dev) : Prop := ∀ x, e.setSlice n x = d.setSlice n x

section
variable {d e : Dev} {n : Nat} {p : Packet} {r : Recall} (found : (d.slice n).recalls.find? (fun x => x.ent.line == p.line) = some r)
  (owner : r.owner = true) (acks : r.acks = 0) (waiting : r.waiting = []) (near : r.putBack = false) (entry : r.entry = p.entry)
  (gen : r.gen = p.gen) (home : d.isHome p.line = true) (far : ∀ y ∈ (d.slice n).far, y.granted = false) (k : Clock)
  (stored : (if p.op = .recallData then
      d.frameSectors k n p.line p.berth p.key p.mtype p.mirror p.sectors (lineOfWords p.data) (poisonMask p.poison) else d) = e)
  (apart : SliceApart n d e) (recalls : (e.slice n).recalls = (d.slice n).recalls) (farSame : (e.slice n).far = (d.slice n).far)
include found owner acks waiting near entry gen home far stored apart recalls farSame

/-- The owner's answer ends the recall that awaits it alone; with its data, the frame has been written. -/
theorem recallAnswered_ends : ∃ x, d.recallAnswered k n p = d.setSlice n x ∧ x.frames = (e.slice n).frames ∧
    x.recalls = (d.slice n).recalls.filter fun x => x.ent.line != p.line := by
  let answered : Slice → Slice := fun x => { x with recalls := x.recalls.map (Recall.answered p.line) }
  have own : r.ent.line = p.line := by simpa using List.find?_some found
  have awaited : (d.slice n).recalls.find? (fun x => x.entry == p.entry && x.gen == p.gen && x.ent.line == p.line && x.owner) = some r :=
    find?_narrower found (by simp [entry, gen, own, owner]) fun x hx => by simp_all
  have slice : (e.updSlice n answered).slice n = answered (e.slice n) := updSlice_self ..
  have first : ((e.updSlice n answered).slice n).recalls.find? (fun x => x.ent.line == p.line) = some { r with owner := false } := by
    rw [slice]
    refine find?_answered ?_
    rw [recalls, found]
  have homeSame : (e.updSlice n answered).isHome p.line = true := by
    have id : (d.setSlice n (answered (e.slice n))).isHome p.line = true := home
    rwa [← apart] at id
  have ends := recallCheck_ends first acks rfl waiting near homeSame (by rw [slice]; exact farSame ▸ far) k
  refine ⟨(answered (e.slice n)).recallEnded { r with owner := false }, ?_, rfl, ?_⟩
  · unfold Dev.recallAnswered
    rw [awaited]
    dsimp only
    rw [stored]
    refine ends.trans ?_
    unfold Dev.updSlice
    rw [setSlice_setSlice, apart]
    rw [show (e.setSlice n (answered (e.slice n))).slice n = answered (e.slice n) from slice]
  · unfold Slice.recallEnded
    dsimp only
    rw [own, ← recalls]
    exact filter_answered _ _

end

/-! ### The owner's data in the home's frame (R212, R217, R247) -/

theorem sliceMeet_sound {d : Dev} {n line : Nat} (h : (takeLatent 1 n line d).1 = none) (k : Clock) (full reads : List Nat) :
    d.sliceMeet k n line full reads = d := by
  unfold Dev.sliceMeet
  rw [takeLatent_none h]
  dsimp only
  repeat' split
  all_goals rfl

theorem lineMerge_none (new old : Line) : lineMerge (sectorBytes 0) new old = old := by
  have bytes : sectorBytes 0 = 0#128 := foldl_stays fun i _ => if_neg (by simp)
  have bits : bitMask 0#128 = 0#1024 := congrArg (BitVec.ofNat 1024) (foldl_stays fun i _ => if_neg (by simp))
  rw [lineMerge, bytes, bits, BitVec.and_zero, BitVec.zero_or, BitVec.not_zero, BitVec.and_allOnes]

/-- The frame in which a slice finds a line holds that line. -/
theorem line_of_frameOf {x : Slice} {set line i : Nat} {f : SLine} (h : x.frameOf set line = some i) (listed : mget? x.frames i = some f) :
    f.line = line ∧ (f.valid ≠ 0 ∨ f.present ≠ 0) := by
  have holds := List.find?_some h
  simp only [listed] at holds
  simpa using holds

/-- A frame whose contents are replaced by contents of the same line is still where the line is found. -/
theorem frameOf_mput {x : Slice} {set line i : Nat} {f : SLine} (h : x.frameOf set line = some i) (own : f.line = line) (valid : f.valid ≠ 0) :
    ({ x with frames := mput x.frames i f } : Slice).frameOf set line = some i := by
  rw [← h]
  unfold Slice.frameOf
  congr 1
  funext j
  dsimp only
  rw [mget?_mput]
  by_cases same : j = i
  · have before := List.find?_some h
    rw [if_pos same, same]
    refine Eq.trans ?_ before.symm
    simpa [own] using Or.inl valid
  · rw [if_neg same]

/-- A masked write at a home whose frame holds the whole line merges into the frame (R212). -/
theorem sliceWrite_held {d : Dev} {n line i : Nat} {fr : SLine} (sound : (takeLatent 1 n line d).1 = none)
    (found : (d.slice n).frameOf (d.setOfLine line) line = some i) (listed : mget? (d.slice n).frames i = some fr) (whole : fr.valid = 0xF#4)
    (k : Clock) (berth key mtype mirror : Nat) (mask : BitVec 128) (data : Line) (poison : BitVec 16) :
    ∃ plru f, d.sliceWrite k n line berth key mtype mirror mask data poison =
      d.setSlice n { d.slice n with plru := plru, frames := mput (d.slice n).frames i f } ∧
      f.line = line ∧ f.valid ≠ 0 ∧ f.data = lineMerge mask data fr.data := by
  obtain ⟨own, -⟩ := line_of_frameOf found listed
  let set := d.setOfLine line
  let touched : Slice := { d.slice n with plru := mput (d.slice n).plru set (plruTouch 4 1 (mget 0 (d.slice n).plru set) (i % 16)) }
  have find : d.sliceFind k n line = (some fr, d.setSlice n touched) := by
    unfold Dev.sliceFind
    dsimp only
    rw [found]
    dsimp only
    rw [listed]
  have need : sectorsOf mask &&& ~~~fr.valid &&& ~~~wholeSectors mask = 0 := by simp [whole]
  have slice : (d.setSlice n touched).slice n = touched := mget_mput_same ..
  let f : SLine := { fr with
    data := lineMerge mask data fr.data, poison := mergePoison mask poison fr.poison
    valid := fr.valid ||| sectorsOf mask, dirty := fr.dirty ||| sectorsOf mask, key := key, berth := berth, mirror := mirror }
  have valid : f.valid ≠ 0 := by
    have all : f.valid = BitVec.allOnes 4 ||| sectorsOf mask := congrArg (· ||| sectorsOf mask) whole
    rw [all, BitVec.allOnes_or]
    decide
  refine ⟨touched.plru, f, ?_, own, valid, rfl⟩
  unfold Dev.sliceWrite
  rw [sliceMeet_sound sound, find]
  dsimp only
  rw [if_pos need]
  dsimp only
  unfold Dev.putFrame
  dsimp only
  rw [slice, show touched.frameOf ((d.setSlice n touched).setOfLine fr.line) fr.line = some i from own ▸ found]
  dsimp only
  rw [setSlice_setSlice]

/-- What the owner's data leaves in the home's slice: nothing but the frame is changed, which takes the dirty sectors. -/
theorem frameSectors_held {d : Dev} {n line i : Nat} {fr : SLine} (home : d.isHome line = true) (sound : (takeLatent 1 n line d).1 = none)
    (found : (d.slice n).frameOf (d.setOfLine line) line = some i) (listed : mget? (d.slice n).frames i = some fr) (whole : fr.valid = 0xF#4)
    (k : Clock) (berth key mtype mirror : Nat) (secs : BitVec 4) (data : Line) (poison : BitVec 16) :
    ∃ e f, d.frameSectors k n line berth key mtype mirror secs data poison = e ∧ SliceApart n d e ∧
      (e.slice n).recalls = (d.slice n).recalls ∧ (e.slice n).far = (d.slice n).far ∧
      (e.slice n).frameOf (d.setOfLine line) line = some i ∧ mget? (e.slice n).frames i = some f ∧
      f.data = lineMerge (sectorBytes secs) data fr.data := by
  unfold Dev.frameSectors
  by_cases none' : secs = 0
  · exact ⟨d, fr, if_pos none', fun _ => rfl, rfl, rfl, found, listed, by rw [none', lineMerge_none]⟩
  · rw [if_neg none', if_pos home]
    obtain ⟨plru, f, eq, own, valid, merged⟩ := sliceWrite_held sound found listed whole k berth key mtype mirror (sectorBytes secs) data poison
    have slice : (d.setSlice n { d.slice n with plru := plru, frames := mput (d.slice n).frames i f }).slice n =
      { d.slice n with plru := plru, frames := mput (d.slice n).frames i f } := mget_mput_same ..
    refine ⟨_, f, eq, fun x => setSlice_setSlice .., ?_, ?_, ?_, ?_, merged⟩
    · rw [slice]
    · rw [slice]
    · rw [slice]
      exact frameOf_mput (x := { d.slice n with plru := plru }) found own valid
    · rw [slice, mget?_mput, if_pos rfl]

/-! ### The rows RECALL_ACK and RECALL_DATA (R247) -/

/-- A command that changes one slice of the home has the home's frame. -/
theorem homeFrame_of {s t : State} {line : Nat} {x : Slice} {fab : Fabric}
    (h : Settled s (({ s.dev with fab := fab } : Dev).setSlice (s.dev.lineSlice line) x) t) : HomeFrame s line t :=
  ⟨h.pending, h.perm, h.clk, h.cores, h.mem, h.whf, fun n hn => (h.slice n).trans (mget_mput_other _ _ _ hn)⟩

section
variable {s : State} {p : Packet} {r : Recall}
  (found : (s.dev.slice (s.dev.lineSlice p.line)).recalls.find? (fun x => x.ent.line == p.line) = some r)
  (owner : r.owner = true) (acks : r.acks = 0) (waiting : r.waiting = []) (near : r.putBack = false) (entry : r.entry = p.entry)
  (gen : r.gen = p.gen) (home : s.dev.isHome p.line = true) (far : ∀ y ∈ (s.dev.slice (s.dev.lineSlice p.line)).far, y.granted = false)
include found owner acks waiting near entry gen home far

theorem recallAck_ends (h : Arrives s p .recallAck) :
    ∃ t, exec (.recallAck p) s = .next t ∧ HomeFrame s p.line t ∧ t.dev.fab.net = s.dev.fab.net.erase p ∧
      (t.dev.slice (s.dev.lineSlice p.line)).recalls =
        (s.dev.slice (s.dev.lineSlice p.line)).recalls.filter fun x => x.ent.line != p.line := by
  obtain ⟨fab, taken, net⟩ := take_eq s.dev p
  let d : Dev := { s.dev with fab := fab }
  obtain ⟨x, ends, -, recalls⟩ := recallAnswered_ends (d := d) (e := d) (n := s.dev.lineSlice p.line) found owner acks waiting near entry gen
    home far s.clk (if_neg (by rw [h.code]; decide)) (fun _ => rfl) rfl rfl
  obtain ⟨t, ht, settled⟩ : ∃ t, exec (.recallAck p) s = .next t ∧ Settled s (d.setSlice (s.dev.lineSlice p.line) x) t := by
    unfold exec execRecallAck
    refine onPkt_settles h ?_ h.calm
    rw [taken]
    exact congrArg some ends
  refine ⟨t, ht, homeFrame_of settled, settled.net.trans net, ?_⟩
  rw [settled.slice]
  exact (congrArg Slice.recalls (mget_mput_same ..)).trans recalls

theorem recallData_ends {fr : SLine} (held : HomeHolds s p fr) (h : Arrives s p .recallData) :
    ∃ t, exec (.recallData p) s = .next t ∧ HomeFrame s p.line t ∧ t.dev.fab.net = s.dev.fab.net.erase p ∧
      (t.dev.slice (s.dev.lineSlice p.line)).recalls =
        (s.dev.slice (s.dev.lineSlice p.line)).recalls.filter (fun x => x.ent.line != p.line) ∧
      FrameData t p.line (lineMerge (sectorBytes p.sectors) (lineOfWords p.data) fr.data) := by
  obtain ⟨fab, taken, net⟩ := take_eq s.dev p
  let d : Dev := { s.dev with fab := fab }
  obtain ⟨i, frame, listed⟩ := held.frame
  have sound : (takeLatent 1 (s.dev.lineSlice p.line) p.line d).1 = none := (takeLatent_congr (d := s.dev) (e := d) rfl ..).trans held.sound
  obtain ⟨e, f, stored, apart, recallsSame, farSame, at', written, merged⟩ := frameSectors_held (d := d) (n := s.dev.lineSlice p.line) home sound
    frame listed held.whole s.clk p.berth p.key p.mtype p.mirror p.sectors (lineOfWords p.data) (poisonMask p.poison)
  obtain ⟨x, ends, frames, recalls⟩ := recallAnswered_ends (d := d) (e := e) (n := s.dev.lineSlice p.line) found owner acks waiting near entry gen
    home far s.clk ((if_pos h.code).trans stored) apart recallsSame farSame
  obtain ⟨t, ht, settled⟩ : ∃ t, exec (.recallData p) s = .next t ∧ Settled s (d.setSlice (s.dev.lineSlice p.line) x) t := by
    unfold exec execRecallData
    refine onPkt_settles h ?_ h.calm
    rw [taken]
    exact congrArg some ends
  have slice : t.dev.slice (s.dev.lineSlice p.line) = x := (settled.slice _).trans (mget_mput_same ..)
  have same : t.dev.lineSlice p.line = s.dev.lineSlice p.line ∧ t.dev.setOfLine p.line = s.dev.setOfLine p.line := by
    rw [settled.dev]
    exact ⟨rfl, rfl⟩
  refine ⟨t, ht, homeFrame_of settled, settled.net.trans net, (congrArg Slice.recalls slice).trans recalls, i, f, ?_, ?_, merged⟩
  · rw [same.1, same.2, slice]
    unfold Slice.frameOf at at' ⊢
    rw [frames]
    exact at'
  · rw [same.1, slice, frames]
    exact written

end

/-! ### An access that is refused (R69, R398) -/

/-- A landing buffer is free again, under its next generation (R307). -/
def Core.freeBuffer (k : Core) (e : Nat) : Core := { k with mshrs := mdel k.mshrs e, gens := mput k.gens e ((mget 0 k.gens e + 1) % 16) }

theorem unorphan_eq (d : Dev) (x : Nat) : ∃ ctxs, d.unorphan x = { d with ctl := { d.ctl with ctxs := ctxs } } := by
  unfold Dev.unorphan Dev.freeCtx
  dsimp only
  split
  · exact ⟨_, rfl⟩
  · exact ⟨_, rfl⟩

/-- Releasing a landing buffer frees it; besides, only the orphans of its context are counted (R317). -/
theorem release_eq {d : Dev} {c e : Nat} {m : Mshr} (listed : mget? (d.core c).mshrs e = some m) :
    ∃ ctxs, d.release c e = ({ d with ctl := { d.ctl with ctxs := ctxs } } : Dev).updCore c fun k => k.freeBuffer e := by
  unfold Dev.release
  rw [listed]
  dsimp only
  split
  · obtain ⟨ctxs, eq⟩ := unorphan_eq (d.updCore c fun k => k.freeBuffer e) m.ctx
    exact ⟨ctxs, eq⟩
  · exact ⟨d.ctl.ctxs, rfl⟩

/-- The fault of a lowest lane is one of the list's, and no lane of the list is lower. -/
theorem foldl_lowest (l : List (Nat × Nat × Nat × Nat)) (x : Nat × Nat × Nat × Nat) :
    let low := l.foldl (fun a b => if b.1 < a.1 then b else a) x
    low ∈ x :: l ∧ ∀ b ∈ x :: l, low.1 ≤ b.1 := by
  induction l generalizing x with
  | nil => simp
  | cons y t ih =>
    intro low
    obtain ⟨mem, least⟩ := ih (if y.1 < x.1 then y else x)
    change low ∈ (if y.1 < x.1 then y else x) :: t at mem
    change ∀ b ∈ (if y.1 < x.1 then y else x) :: t, low.1 ≤ b.1 at least
    have head := least _ (List.mem_cons_self ..)
    refine ⟨?_, fun b hb => ?_⟩
    · rcases List.mem_cons.mp mem with eq | mem
      · rw [eq]
        split <;> simp
      · exact List.mem_cons_of_mem _ (List.mem_cons_of_mem _ mem)
    · rcases List.mem_cons.mp hb with rfl | hb
      · split at head <;> omega
      · rcases List.mem_cons.mp hb with rfl | hb
        · split at head <;> omega
        · exact least b (List.mem_cons_of_mem _ hb)

/-- Whether a core has a Pending record of a berth (R73). -/
def Core.hasPending (k : Core) (b : Nat) : Bool :=
  k.groups.any fun g => g.2.st == .parked && g.2.park.any (fun p => p.pend) && (k.block g.2.block).berth == b

theorem holdsPending_updCore {d : Dev} {b c : Nat} {f : Core → Core} (h : HoldsPending d b)
    (keep : (d.core c).hasPending b = true → (f (d.core c)).hasPending b = true) : HoldsPending (d.updCore c f) b := by
  obtain ⟨full, pending⟩ := h
  refine ⟨full, ?_⟩
  unfold Dev.hasPending at pending ⊢
  rcases Bool.or_eq_true_iff.mp pending with streams | cores
  · exact Bool.or_eq_true_iff.mpr (.inl streams)
  · have listed : (d.updCore c f).cores.any (fun e => e.2.hasPending b) = true := any_mput Core.reset cores keep
    exact Bool.or_eq_true_iff.mpr (.inr listed)

/-- A group's slot is written with a group that is as Pending as the one before. -/
theorem hasPending_setGroup {k : Core} {b s : Nat} {g : Group} (h : k.hasPending b = true)
    (same : g.st = (k.group s).st ∧ g.park = (k.group s).park ∧ g.block = (k.group s).block) : (k.setGroup s g).hasPending b = true := by
  unfold Core.setGroup
  split
  · refine any_mput Group.reset h fun was => ?_
    obtain ⟨st, park, block⟩ := same
    dsimp only
    rw [st, park, block]
    exact was
  · exact h

/-- The group that runs on keeps where it is, and the instruction that faulted leaves the pipe (R68). -/
def Core.leave (k : Core) (n : Nat) (o : MemOp) : Core :=
  let g := k.group o.slot
  let regs := regList o.dst (dstCount o.ty) ++ (if o.acq then [acqMark] else [])
  { k.setGroup o.slot { g with await := g.await.filter fun x => !regs.contains x, resume := some (g.pc, g.active) } with ops := mdel k.ops n }

section
variable {d : Dev} {c n : Nat} {o : MemOp} (only : (d.core c).ops = [(n, o)]) (done : o.lanes = []) (k : Clock)
include only done

/-- The pump lets the one instruction in flight end, when all of its lanes are done. -/
theorem pump_ended : d.pump k c = d.endOp k c n := by
  unfold Dev.pump
  simp [only, mget?, done]

theorem endOp_parks (failed : o.flt ≠ []) (running : (d.group c o.slot).st = .running) (hold : (d.group c o.slot).bwHold = none)
    (replay : (d.group c o.slot).replay = none) : d.endOp k c n = d.parkOp k c n o := by
  unfold Dev.endOp
  simp [only, mget?, done, failed, running, hold, replay]

end

/-- Parking a group changes its group, and ends the walks of its core that it waited for. -/
theorem park_core (d : Dev) (c s : Nat) (p : ParkInfo) :
    (d.park c s p).core c = { d.core c with
      groups := ((d.park c s p).core c).groups, walks := (d.core c).walks.filter fun w => w.who != s } := by
  unfold Dev.park
  rw [updCore_self]
  unfold Core.setGroup
  split <;> rfl

theorem leave_group (k : Core) (n : Nat) {o : MemOp} (slot : o.slot < 64) :
    (k.leave n o).group o.slot = { k.group o.slot with
      await := (k.group o.slot).await.filter fun x => !(regList o.dst (dstCount o.ty) ++ (if o.acq then [acqMark] else [])).contains x
      resume := some ((k.group o.slot).pc, (k.group o.slot).active) } := by
  simp [Core.leave, Core.setGroup, Core.group, slot]

theorem leave_eq (k : Core) (n : Nat) (o : MemOp) : k.leave n o = { k with groups := (k.leave n o).groups, ops := mdel k.ops n } := by
  unfold Core.leave Core.setGroup
  dsimp only
  split <;> rfl

theorem parkOp_eq {d : Dev} {n : Nat} {o : MemOp} (c : Nat) (slot : o.slot < 64) (adv : o.adv = true) (failed : o.flt ≠ []) (k : Clock) :
    ∃ low ∈ o.flt, (∀ b ∈ o.flt, low.1 ≤ b.1) ∧ d.parkOp k c n o =
      (d.updCore c fun x => x.leave n o).parkGroup k c o.slot low.2.1 o.pc low.2.2.1 low.2.2.2 o.done o.active := by
  obtain ⟨x, t, flt⟩ := List.exists_cons_of_ne_nil failed
  obtain ⟨mem, least⟩ := foldl_lowest t x
  have leaves : (d.dropOp c n o).updGroup c o.slot (fun g => { g with resume := some (g.pc, g.active) }) = d.updCore c fun x => x.leave n o := by
    unfold Dev.dropOp
    dsimp only
    rw [updCore_updGroup]
    congr 1
    funext x
    simp [Core.leave, Core.setGroup, Core.group, slot, adv, mput_mput]
  refine ⟨_, by rw [flt]; exact mem, by rw [flt]; exact least, ?_⟩
  unfold Dev.parkOp
  rw [flt]
  dsimp only
  rw [if_pos adv, leaves]

/-- The one instruction in flight, all of whose lanes are done and some faulted, parks its group for the lowest lane, with its record
held Pending, and nothing more goes on. -/
theorem corePump_parks {d : Dev} {c n : Nat} {o : MemOp} (only : (d.core c).ops = [(n, o)]) (done : o.lanes = []) (failed : o.flt ≠ [])
    (adv : o.adv = true) (slot : o.slot < 64) (bw : (d.core c).bw = []) (running : (d.group c o.slot).st = .running)
    (hold : (d.group c o.slot).bwHold = none) (replay : (d.group c o.slot).replay = none)
    (pending : HoldsPending d ((d.core c).block (d.group c o.slot).block).berth) (k : Clock) :
    let e := d.updCore c fun x => x.leave n o
    ∃ low ∈ o.flt, (∀ b ∈ o.flt, low.1 ≤ b.1) ∧ d.corePump k c =
      (e.park c o.slot (e.parkInfo k c o.slot low.2.1 o.pc low.2.2.1 low.2.2.2 o.done o.active)).updCore c id := by
  intro e
  obtain ⟨low, mem, least, parks⟩ := parkOp_eq (d := d) (n := n) c slot adv failed k
  have own : e.core c = (d.core c).leave n o := updCore_self ..
  have berth : ((e.core c).block (e.group c o.slot).block).berth = ((d.core c).block (d.group c o.slot).block).berth := by
    unfold Dev.group
    rw [own, leave_group _ _ slot, leave_eq]
    rfl
  have held : HoldsPending e ((e.core c).block (e.group c o.slot).block).berth := by
    rw [berth]
    refine holdsPending_updCore pending fun was => ?_
    exact hasPending_setGroup was ⟨rfl, rfl, rfl⟩
  refine ⟨low, mem, least, corePump_of_pump ?_ ?_ ?_⟩
  · rw [pump_ended only done, endOp_parks only done k failed running hold replay, parks, parkGroup_pending held]
  · rw [park_core, own, leave_eq, only]
    simp [mdel]
  · rw [park_core, own, leave_eq]
    exact bw

/-- The faults of an instruction whose accesses are all refused (R69). -/
def MemOp.refusals (o : MemOp) : List (Nat × Nat × Nat × Nat) := o.lanes.map fun a => (a.lane, 2, a.va, 0x10)

/-- A core whose landing buffer is released for a refusal: the instruction that waited has failed in every lane. -/
def Core.refuse (k : Core) (e n : Nat) (o : MemOp) : Core :=
  { k.freeBuffer e with ops := k.ops.map fun x => if x.1 = n then (x.1, x.2.fail o.refusals) else x }

theorem fail_lanes (o : MemOp) : (o.fail o.refusals).lanes = [] := by
  refine List.filter_eq_nil_iff.mpr fun a ha => ?_
  have listed : a.lane ∈ o.refusals.map Prod.fst := by
    simp only [MemOp.refusals, List.map_map, List.mem_map]
    exact ⟨a, ha, rfl⟩
  simpa using listed

theorem refusals_ne_nil {o : MemOp} (h : o.lanes ≠ []) : o.refusals ≠ [] := by simpa [MemOp.refusals] using h

/-- An error response frees the buffer, and the one instruction that waits for it fails in every lane. -/
theorem coreError_refuses {d : Dev} {p : Packet} {m : Mshr} {n : Nat} {o : MemOp} (buffer : (d.core p.tgt).landing p = some m) (plain : m.bw = none)
    (waits : m.ops = [n]) (only : (d.core p.tgt).ops = [(n, o)]) (lanes : ∀ a ∈ o.lanes, a.line = p.line) (near : m.kind ≠ .atomF)
    (data : m.kind ≠ .fetch) (k : Clock) : ∃ ctxs, d.coreError k p.tgt p m =
      (({ d with ctl := { d.ctl with ctxs := ctxs } } : Dev).updCore p.tgt fun x => x.refuse p.entry n o).corePump k p.tgt := by
  obtain ⟨ctxs, released⟩ := release_eq (listed_of_landing buffer)
  refine ⟨ctxs, ?_⟩
  have mine : o.lanes.filter (fun a => a.line == p.line && (m.kind != .atomF || a.off == p.off)) = o.lanes :=
    List.filter_eq_self.mpr fun a ha => by simp [lanes a ha, near]
  have inPipe : (({ d with ctl := { d.ctl with ctxs := ctxs } } : Dev).updCore p.tgt fun k => k.freeBuffer p.entry).core p.tgt =
      (d.core p.tgt).freeBuffer p.entry := updCore_self ..
  unfold Dev.coreError
  dsimp only
  rw [released, if_neg data, plain, waits]
  dsimp only
  rw [inPipe, show ((d.core p.tgt).freeBuffer p.entry).ops = [(n, o)] from only]
  simp only [List.head?_cons, Option.bind_some, mget?, if_true, Option.map_some]
  rw [mine]
  unfold Dev.updOp
  rw [updCore_updCore]
  rfl

section
variable {s : State} {p : Packet} {m : Mshr} {n : Nat} {o : MemOp} (awaits : OneAwaits s p m n o)

include awaits in
/-- The lanes of an instruction whose access is refused fault, and its group parks for the lowest of them (R69). -/
theorem errorResp_parks (near : m.kind ≠ .atomF) (data : m.kind ≠ .fetch) (running : (s.dev.group p.tgt o.slot).st = .running)
    (hold : (s.dev.group p.tgt o.slot).bwHold = none) (replay : (s.dev.group p.tgt o.slot).replay = none)
    (pending : HoldsPending s.dev ((s.dev.core p.tgt).blockOf o.slot).berth) (h : Arrives s p .errorResp) :
    ∃ t i a, exec (.errorResp p) s = .next t ∧ AtCore s p.tgt t ∧ Landed s t p ∧ (t.dev.group p.tgt o.slot).st = .parked ∧
      (t.dev.group p.tgt o.slot).park = some i ∧ i.code = 2 ∧ i.detail = 0x10 ∧ i.pc = o.pc ∧ i.completed = o.done ∧
      a ∈ o.lanes ∧ (∀ b ∈ o.lanes, a.lane ≤ b.lane) ∧ i.addr = BitVec.ofNat 64 a.va := by
  obtain ⟨fab, taken, -⟩ := take_eq s.dev p
  obtain ⟨ctxs, refused⟩ := coreError_refuses (d := { s.dev with fab := fab }) awaits.buffer awaits.plain awaits.waits awaits.only
    (fun a ha => (awaits.lanes a ha).1) near data s.clk
  let d : Dev := { s.dev with fab := fab, ctl := { s.dev.ctl with ctxs := ctxs } }
  let e : Dev := d.updCore p.tgt fun x => x.refuse p.entry n o
  have own : e.core p.tgt = (s.dev.core p.tgt).refuse p.entry n o := updCore_self ..
  have group : e.group p.tgt o.slot = s.dev.group p.tgt o.slot := updCore_group d p.tgt (fun x => x.refuse p.entry n o) rfl p.tgt o.slot
  have ops : (e.core p.tgt).ops = [(n, o.fail o.refusals)] := by
    rw [own]
    simp [Core.refuse, awaits.only]
  have flt : (o.fail o.refusals).flt = o.refusals := by simp [MemOp.fail, awaits.fine]
  have held : HoldsPending e ((e.core p.tgt).block (e.group p.tgt o.slot).block).berth := by
    rw [group, own]
    exact holdsPending_updCore (d := d) pending id
  obtain ⟨low, mem, least, pump⟩ := corePump_parks ops (fail_lanes o) (by rw [flt]; exact refusals_ne_nil awaits.busy) awaits.moved awaits.slot
    (by rw [own]; exact awaits.noBw) (by rw [show (o.fail o.refusals).slot = o.slot from rfl, group]; exact running)
    (by rw [show (o.fail o.refusals).slot = o.slot from rfl, group]; exact hold)
    (by rw [show (o.fail o.refusals).slot = o.slot from rfl, group]; exact replay) held s.clk
  rw [flt] at mem least
  obtain ⟨a, ha, rfl⟩ := List.mem_map.mp mem
  let left : Dev := e.updCore p.tgt fun x => x.leave n (o.fail o.refusals)
  let info : ParkInfo := left.parkInfo s.clk p.tgt o.slot 2 o.pc a.va 0x10 o.done o.active
  obtain ⟨t, ht, settled⟩ : ∃ t, exec (.errorResp p) s = .next t ∧ Settled s ((left.park p.tgt o.slot info).updCore p.tgt id) t := by
    unfold exec execErrorResp
    refine onPkt_settles h ?_ h.calm
    dsimp only
    rw [if_pos awaits.core, taken]
    unfold Dev.coreResp
    rw [show (({ s.dev with fab := fab } : Dev).core p.tgt).landing p = some m from awaits.buffer]
    exact congrArg some (refused.trans pump)
  have core : t.dev.core p.tgt = (left.park p.tgt o.slot info).core p.tgt := by
    rw [settled.core, updCore_self, id]
  have leftCore : left.core p.tgt = ((s.dev.core p.tgt).refuse p.entry n o).leave n (o.fail o.refusals) := by
    rw [← own]
    exact updCore_self ..
  have parked : t.dev.group p.tgt o.slot = (left.group p.tgt o.slot).parkedWith info := by
    rw [settled.group, updCore_group _ p.tgt id rfl, park_group _ _ awaits.slot, if_pos ⟨rfl, rfl⟩]
  refine ⟨t, info, a, ht, atCore_of settled rfl rfl fun x hx => ?others, ⟨?_, ?_, ?_⟩, by rw [parked]; rfl, by rw [parked]; rfl,
    rfl, rfl, rfl, rfl, ha, fun b hb => least _ (List.mem_map_of_mem hb), rfl⟩
  case others =>
    rw [updCore_others _ hx, park_others _ _ _ hx, updCore_others _ hx]
    exact updCore_others d hx _
  · rw [core, park_core, leftCore, leave_eq]
    exact mhas_mdel ..
  · rw [core, park_core, leftCore, leave_eq]
    exact mget_mput_same ..
  · rw [core, park_core, leftCore, leave_eq]
    simp [Core.refuse, awaits.only, mdel]

end

/-- Settles O26: each response by its own lemma. -/
theorem refusalsRetriesAndRecalls : Obligations.RefusalsRetriesAndRecalls := by
  intro s p
  refine ⟨fun m n o awaits => errorResp_parks awaits, fun m => heldRetry_keeps, fun c e m since => coreHeldRetry_sends c.isLt, evictAck_slice,
    evictAck_core, fun r => ?answered⟩
  case answered =>
    intro sl found owner acks waiting near entry gen home far
    exact ⟨recallAck_ends found owner acks waiting near entry gen home far,
      fun fr => recallData_ends found owner acks waiting near entry gen home far⟩

end Sys2Proof.Machine

/-! ## The instruction set: vector instructions, memory instructions, the matrix queue -/

namespace Sys2Proof.Machine

/-! ### Moves, lane exchange and special values (R80, R88, R183, R184) -/

/-- An instruction whose whole effect is to write one result to its destination: what it writes, and its frame. -/
theorem result_completes {s : State} {c : Fin 512} {gs : Fin 64} {f : InsF} {sh : Dev → Shape} (h : Presents s c gs f (sh s.dev))
    (hr : s.dev.rOf c gs ≤ 255) (n : Nat) (legal : regOk (s.dev.rOf c gs) f.d n = true) (val : Dev → Group → Nat → Nat) :
    ∃ t, onMem s (fun d => issueGroup s.clk c gs f (sh d) (fun g => putResult g f n (val d g)) d) = .next t ∧ GroupFrame s c gs t ∧
      Moved (s.dev.group c gs) (t.dev.group c gs) f ∧
      Wrote (s.dev.group c gs) (t.dev.group c gs) f n (val s.dev (s.dev.group c gs)) := by
  obtain ⟨t, ht, frame, moved, own⟩ := issueGroup_moves (sh := sh s.dev) h gs.isLt
    (fun g => putResult g f n (val s.dev g)) (putResult_regsOnly ..)
  exact ⟨t, ht, frame, moved, by rw [own]; exact wrote_advance (putResult_writes _ f _ hr legal) _⟩

theorem vote_completes {s : State} {c : Fin 512} {gs : Fin 64} {f : InsF} (h : Presents s c gs f (voteShape f)) :
    ∃ t, exec (.vote c gs f) s = .next t ∧ GroupFrame s c gs t ∧ Moved (s.dev.group c gs) (t.dev.group c gs) f ∧
      (t.dev.group c gs).reg f.d 0 =
        voteOf (f.bits 60 59) (s.dev.group c gs).active (mget 0 (s.dev.group c gs).p (f.a - 0x140)) ∧
      ∀ r l, l < 32 → r ≠ f.d → (t.dev.group c gs).reg r l = (s.dev.group c gs).reg r l := by
  have uniform : isU f.d = true := by
    have word := h.word
    simp only [Shape.ok, voteShape, Bool.and_eq_true] at word
    obtain ⟨⟨⟨⟨⟨⟨-, uniform⟩, -⟩, -⟩, -⟩, -⟩, -⟩ := word
    exact uniform
  obtain ⟨t, ht, frame, moved, own⟩ := issueGroup_moves h gs.isLt
    (fun g => g.setReg f.d 0 (voteOf (f.bits 60 59) g.active (mget 0 g.p (f.a - 0x140)))) (setReg_regsOnly ..)
  refine ⟨t, ht, frame, moved, ?_, fun r l hl other => ?_⟩ <;> rw [own]
  · exact reg_setReg_same _ _ _ _ (.inr uniform)
  · exact reg_setReg_other _ _ _ _ _ _ (by decide) hl (.inl other)

/-- Settles O3: MOV and SHFL write one result, VOTE one uniform register, NOP nothing. -/
theorem movesAndLaneExchange : Obligations.MovesAndLaneExchange := by
  intro c gs f s hr
  refine ⟨fun h => ?mov, fun h => ?shfl, vote_completes, fun h => issueGroup_presents h gs.isLt id⟩
  case mov =>
    have legal : regOk (s.dev.rOf c gs) f.d (if is64 f.ty then 2 else 1) = true := by
      have word := h.word
      simp only [Shape.ok, movShape, Bool.and_eq_true] at word
      obtain ⟨⟨⟨-, legal⟩, -⟩, -⟩ := word
      exact legal
    exact result_completes (sh := fun d => movShape (d.rOf c gs) f) h hr _ legal
      fun _ _ _ => if f.wide then f.ext.toNat else ofSigned 64 (toSigned 18 f.imm18)
  case shfl =>
    have legal : regOk (s.dev.rOf c gs) f.d 1 = true := by
      have word := h.word
      simp only [Shape.ok, vecShape, Bool.and_eq_true, tiled, Bool.false_and, Bool.false_eq_true, if_false] at word
      obtain ⟨⟨⟨⟨⟨⟨⟨types, -⟩, -⟩, -⟩, ⟨⟨⟨⟨⟨-, dst⟩, -⟩, -⟩, -⟩, -⟩⟩, -⟩, -⟩, -⟩ := word
      have ty : f.ty = 0 := by simpa using types
      rwa [ty] at dst
    exact result_completes (sh := fun d => vecShape (d.rOf c gs) f [0] 0b000110000 2 false false false false false true) h hr _ legal
      fun _ g l => (g.reg f.a (shflLane (f.bits 60 59) (g.reg f.b l).toNat l)).toNat

theorem rdsv_unit (k : Clock) (d : Dev) (c gs a l : Nat) :
    rdsv k d c gs 0x0D a l = (((d.core c).blockOf gs).units[a]?).getD 0xFFFFFFFF := by
  cases unit : ((d.core c).blockOf gs).units[a]? <;> simp_all [rdsv, Core.blockOf]

/-- Settles O4: RDSV writes the special value that its index selects. -/
theorem specialValues : Obligations.SpecialValues := by
  intro c gs f s hr h
  have legal : regOk (s.dev.rOf c gs) f.d (rdsvCount f) = true := by
    have word := h.word
    simp only [Shape.ok, rdsvShape, Bool.and_eq_true] at word
    obtain ⟨⟨⟨⟨⟨-, legal⟩, -⟩, -⟩, -⟩, -⟩ := word
    exact legal
  obtain ⟨t, ht, frame, moved, wrote⟩ := result_completes (sh := fun d => rdsvShape (d.rOf c gs) f) h hr _ legal
    fun d g l => rdsv s.clk d c gs (f.imm18 % 256) (g.reg f.a l).toNat l
  refine ⟨t, ht, frame, moved, _, wrote, fun l => ?_⟩
  refine ⟨?_, ?_, ?_, ?_, ?_, ?_, ?_, ?_, ?_, ?_, ?_, ?_, ?_, fun index none' => ?unheld, fun index u unit => ?unit⟩
  case unheld => rw [index, rdsv_unit, none', Option.getD_none]
  case unit => rw [index, rdsv_unit, unit, Option.getD_some]
  all_goals
    intro index
    rw [index]
    rfl

/-! ### Floating point and conversions (R99, R106, R107, R162, R185, R186) -/

/-- Settles O5: each is a vector instruction of its own operation. -/
theorem floatResults : Obligations.FloatResults := by
  refine ⟨?_, ?_, ?_, ?_, ?_, ?_, ?_, ?_, ?_, ?_⟩ <;> exact fun c gs f s hr h => vecIns_completes c gs f s _ _ _ _ _ _ _ _ _ _ hr h

/-- An instruction that changes the registers of its group and takes draws of the core's generator (R162) moves the group on and changes
nothing else. -/
theorem draws_complete {s : State} {c : Fin 512} {gs : Fin 64} {f : InsF} {sh : Dev → Shape} (h : Presents s c gs f (sh s.dev))
    (new : Nat → Group → Group) (regs : ∀ n g, RegsOnly g (new n g)) :
    ∃ t, onMem s (fun d => issue s.clk c gs f (sh d) (fun d => d.updCore c fun k =>
        { k.setGroup gs ((new (d.core c).draws (d.group c gs)).advance f.len) with
          draws := (d.core c).draws + drawCount f (d.group c gs) }) d) = .next t ∧ CoreFrame s c t ∧
      t.dev.core c = { s.dev.core c with
        groups := (t.dev.core c).groups
        draws := (s.dev.core c).draws + drawCount f (s.dev.group c gs) } ∧
      (∀ j, j ≠ gs → t.dev.group c j = s.dev.group c j) ∧ Moved (s.dev.group c gs) (t.dev.group c gs) f ∧
      t.dev.group c gs = (new (s.dev.core c).draws (s.dev.group c gs)).advance f.len := by
  obtain ⟨t, ht, settled⟩ := issue_settles (eff := fun d => d.updCore c fun k =>
    { k.setGroup gs ((new (d.core c).draws (d.group c gs)).advance f.len) with
      draws := (d.core c).draws + drawCount f (d.group c gs) }) h rfl h.calm
  have core := (settled.core c).trans (updCore_self ..)
  have groups : ∀ j, t.dev.group c j =
      if j = gs.val then (new (s.dev.core c).draws (s.dev.group c gs)).advance f.len else s.dev.group c j := fun j => by
    unfold Dev.group
    rw [core]
    exact group_setGroup _ _ _ _ gs.isLt
  have own := (groups gs).trans (if_pos rfl)
  refine ⟨t, ht, coreFrame_setCore settled, ?_, fun j hj => (groups j).trans (if_neg fun same => hj (Fin.ext same)), ?_, own⟩
  · rw [core]
    simp only [Core.setGroup, gs.isLt, if_true]
  · rw [own]
    exact moved_of_regsOnly f (regs ..)

/-- A uniform register that an instruction writes besides its v destination leaves the destination as it is. -/
theorem opnd_setReg_uniform (g : Group) {r u n : Nat} (hu : isU u = true) (hv : ∀ i < n, isV (r + i) = true) {l : Nat} (hl : l < 32) (v : W32) :
    (g.setReg u 0 v).opnd r n l = g.opnd r n l :=
  opnd_congr fun i hi => reg_setReg_other _ _ _ _ _ _ (by decide) hl (.inl fun same => by
    have below := hv i hi
    simp only [same, isV, isU, Bool.and_eq_true, decide_eq_true_eq] at below hu
    omega)

/-- Settles O6: CVT writes its rounded element, CVT.AMAX its rounded product and then the maximum in C. -/
theorem conversions : Obligations.Conversions := by
  intro c gs f s hr
  refine ⟨fun h => ?cvt, fun h => ?amax⟩
  case cvt =>
    have word := h.word
    simp only [Shape.ok, cvtShape, Bool.and_eq_true] at word
    obtain ⟨⟨⟨⟨⟨-, legal⟩, -⟩, -⟩, -⟩, -⟩ := word
    obtain ⟨t, ht, frame, core, others, moved, own⟩ := draws_complete (sh := fun d => cvtShape (d.rOf c gs) f) h
      (fun n g => putResult g f (cvtDst f).nreg (cvtVal g f c n)) fun _ _ => putResult_regsOnly ..
    exact ⟨t, ht, frame, core, others, moved, by rw [own]; exact wrote_advance (putResult_writes _ f _ hr legal) _⟩
  case amax =>
    have word := h.word
    simp only [Shape.ok, cvtAmaxShape, Bool.and_eq_true] at word
    obtain ⟨⟨⟨⟨⟨⟨⟨⟨-, -⟩, legal⟩, -⟩, -⟩, uniform⟩, -⟩, -⟩, -⟩ := word
    have wrote := putResult_writes (s.dev.group c gs) f (cvtAmaxVal (s.dev.group c gs) f c (s.dev.core c).draws) hr legal
    obtain ⟨t, ht, frame, core, others, moved, own⟩ := draws_complete (sh := fun d => cvtAmaxShape (d.rOf c gs) f) h
      (fun n g => (putResult g f (cvtDst f).nreg (cvtAmaxVal g f c n)).setReg f.c 0 (cvtAmaxMax g f))
      fun _ _ => (putResult_regsOnly ..).trans (setReg_regsOnly ..)
    refine ⟨t, ht, frame, core, others, moved, ?_, fun hv l hl acts => ?_⟩ <;> rw [own]
    · exact reg_setReg_same _ _ _ _ (.inr uniform)
    · rcases regOk_cases hr legal with hz | ⟨-, -, -, inV⟩ | ⟨-, none', -, -⟩ | ⟨-, none', -, -⟩
      · exact absurd hv (by simp [(isZero_others hz).1])
      · exact (opnd_setReg_uniform _ uniform (fun i hi => (inV i hi).1) hl _).trans (wrote.perLane hv l hl acts)
      · exact absurd hv (by simp [none'])
      · exact absurd hv (by simp [none'])

end Sys2Proof.Machine

namespace Sys2Proof.Machine

/-! ### What an instruction of the memory pipe changes (R52) -/

/-- Two devices that differ only in the ledger and in one core: there in what its memory pipe writes, and of the groups in one. -/
structure Piped (c s : Nat) (d e : Dev) : Prop where
  dev : e = { d with cores := e.cores, ldg := e.ldg }
  others : ∀ x, x ≠ c → e.core x = d.core x
  core : e.core c = { d.core c with
    groups := (e.core c).groups, ops := (e.core c).ops, nextOp := (e.core c).nextOp, l1 := (e.core c).l1, l1Plru := (e.core c).l1Plru
    predictor := (e.core c).predictor }
  groups : ∀ j, j ≠ s → e.group c j = d.group c j

section
variable {c s : Nat} {a b d e : Dev}

theorem Piped.self (d : Dev) : Piped c s d d := ⟨rfl, fun _ _ => rfl, rfl, fun _ _ => rfl⟩

theorem Piped.trans (first : Piped c s a b) (second : Piped c s b d) : Piped c s a d := by
  refine ⟨?_, fun x hx => (second.others x hx).trans (first.others x hx), ?_, fun j hj => (second.groups j hj).trans (first.groups j hj)⟩
  · rw [second.dev, first.dev]
  · rw [second.core, first.core]

theorem Piped.calm (h : Piped c s d e) (hc : Calm d) : Calm e := by
  rw [h.dev]
  exact hc

/-- A change of the core that touches neither its groups nor more than the pipe writes. -/
theorem piped_updCore (d : Dev) {f : Core → Core} (h : ∀ k, f k = { k with
    ops := (f k).ops, nextOp := (f k).nextOp, l1 := (f k).l1, l1Plru := (f k).l1Plru, predictor := (f k).predictor }) :
    Piped c s d (d.updCore c f) := by
  have groups : ∀ k, (f k).groups = k.groups := fun k => by rw [h k]
  refine ⟨rfl, fun x hx => updCore_others d hx f, ?_, fun j _ => updCore_group d c f (groups _) c j⟩
  rw [updCore_self]
  exact (h _).trans (by rw [← groups])

theorem piped_updGroup (d : Dev) (f : Group → Group) : Piped c s d (d.updGroup c s f) := by
  refine ⟨rfl, fun x hx => updGroup_others d s f hx, ?_, fun j hj => ?_⟩
  · rw [updGroup_core]
  · unfold Dev.updGroup Dev.group
    rw [setGroup_core]
    unfold Core.setGroup
    split
    · exact mget_mput_other _ _ _ hj
    · rfl

theorem Piped.coreFrame {s t : State} {c gs : Nat} {e : Dev} (h : Piped c gs s.dev e) (ldg : e.ldg = s.dev.ldg) (settled : Settled s e t) :
    CoreFrame s c t := by
  refine ⟨settled.pending, settled.perm, settled.clk, ?_, fun p => ?_, fun x hx => (settled.core x).trans (h.others x hx)⟩
  · rw [settled.dev, h.dev, ldg]
  · rw [settled.ports p, h.dev]
    rfl

theorem Piped.outsideSame {s t : State} {c gs : Nat} {e : Dev} (h : Piped c gs s.dev e) (settled : Settled s e t) : OutsideSame s c t := by
  refine ⟨settled.pending, settled.perm, settled.clk, ?_, fun x hx => (settled.core x).trans (h.others x hx)⟩
  rw [settled.dev, h.dev]

end

/-! ### Lines of the L1 (R195) -/

/-- The L1 key at which a line is found names a copy of that line. -/
theorem line_of_l1Find {k : Core} {line i : Nat} {f : L1Line} (found : k.l1Find line = some i) (listed : mget? k.l1 i = some f) :
    f.line = line ∧ f.st ≠ .i := by
  have holds := List.find?_some found
  simp only [listed] at holds
  simpa using holds

/-- A copy that is replaced by one of the same line is still where the line is found. -/
theorem l1Find_mput {k k' : Core} {line i : Nat} {f : L1Line} (found : k.l1Find line = some i) (own : f.line = line) (valid : f.st ≠ .i)
    (l1 : k'.l1 = mput k.l1 i f) : k'.l1Find line = some i := by
  rw [← found]
  unfold Core.l1Find
  rw [l1]
  congr 1
  funext j
  rw [mget?_mput]
  by_cases same : j = i
  · have before := List.find?_some found
    rw [if_pos same, same]
    exact Eq.trans (by simp [own, valid]) before.symm
  · rw [if_neg same]

theorem l1Find_congr {k k' : Core} (l1 : k'.l1 = k.l1) (line : Nat) : k'.l1Find line = k.l1Find line := by
  unfold Core.l1Find
  rw [l1]

/-- A core whose L1 holds a copy at a key. -/
def Core.l1Write (i : Nat) (f : L1Line) (k : Core) : Core := { k with l1 := mput k.l1 i f }

theorem l1Put_held {k : Core} {line i : Nat} {f : L1Line} (found : k.l1Find line = some i) (own : f.line = line) (valid : f.st ≠ .i) :
    k.l1Put f = k.l1Write i f := by
  unfold Core.l1Put
  rw [own, found]
  exact if_neg valid

theorem accPoison_clean {p : BitVec 16} (clean : p = 0) (off w : Nat) : accPoison p off w = false := by simp [accPoison, clean]

/-! ### An instruction whose one line the L1 holds (R90 to R92, R98, R196) -/

/-- The instruction in flight after all of its lanes are done. -/
def MemOp.spent (o : MemOp) (done : BitVec 32) : MemOp := { o with lanes := [], done := done }

theorem finish_all (o : MemOp) : ∃ done, o.finish (o.lanes.map LaneAcc.lane) = o.spent done := by
  have none' : o.lanes.filter (fun a => !(o.lanes.map LaneAcc.lane).contains a.lane) = [] :=
    List.filter_eq_nil_iff.mpr fun a ha => by simpa using ⟨a, ha, rfl⟩
  exact ⟨_, congrArg (fun lanes => { o.finish (o.lanes.map LaneAcc.lane) with lanes := lanes }) none'⟩

/-- What the accesses of the one instruction in flight leave when they are all performed. -/
structure Served (c n : Nat) (o : MemOp) (d e : Dev) : Prop extends Piped c o.slot d e where
  left : ∃ done, (e.core c).ops = [(n, o.spent done)]

/-- The registers of a group after each access has put its result into its lane. -/
def putLanes (o : MemOp) (val : LaneAcc → Nat) (lanes : List LaneAcc) (g : Group) : Group :=
  lanes.foldl (fun g a => g.setOpnd o.dst (dstCount o.ty) a.lane (val a)) g

section
variable {c n : Nat} {o : MemOp} {d : Dev}

theorem updOp_group (f : MemOp → MemOp) (j : Nat) : (d.updOp c n f).group c j = d.group c j := updCore_group d c _ rfl c j

theorem updOp_core (f : MemOp → MemOp) :
    (d.updOp c n f).core c = { d.core c with ops := (d.core c).ops.map fun e => if e.1 = n then (e.1, f e.2) else e } := updCore_self ..

theorem piped_updOp (s : Nat) (f : MemOp → MemOp) : Piped c s d (d.updOp c n f) := piped_updCore d fun _ => rfl

theorem putLane_core (l m v : Nat) : (d.putLane c o l m v).core c = { d.core c with groups := ((d.putLane c o l m v).core c).groups } :=
  updGroup_core ..

/-- Putting results into lanes writes the registers of the group, and nothing else. -/
theorem foldl_putLane (slot : o.slot < 64) (val : LaneAcc → Nat) (lanes : List LaneAcc) (d : Dev) :
    let e := lanes.foldl (fun d a => d.putLane c o a.lane (dstCount o.ty) (val a)) d
    Piped c o.slot d e ∧ e.ldg = d.ldg ∧ e.core c = { d.core c with groups := (e.core c).groups } ∧
      e.group c o.slot = putLanes o val lanes (d.group c o.slot) := by
  induction lanes generalizing d with
  | nil => exact ⟨Piped.self d, rfl, rfl, rfl⟩
  | cons a t ih =>
    obtain ⟨piped, ldg, core, group⟩ := ih (d.putLane c o a.lane (dstCount o.ty) (val a))
    refine ⟨(piped_updGroup d _).trans piped, ldg, core.trans ?_, group.trans ?_⟩
    · rw [putLane_core]
      rfl
    · unfold Dev.putLane
      rw [group_updGroup _ _ _ _ _ _ slot, if_pos ⟨rfl, rfl⟩]
      rfl

end

section
variable {c n : Nat} {o : MemOp} {d : Dev} (only : (d.core c).ops = [(n, o)])
include only

/-- All accesses of the one instruction in flight end together. -/
theorem served_of_finish {e : Dev} (piped : Piped c o.slot d e) (ops : (e.core c).ops = (d.core c).ops) :
    Served c n o d (e.updOp c n fun x => x.finish (o.lanes.map LaneAcc.lane)) := by
  obtain ⟨done, all⟩ := finish_all o
  refine ⟨piped.trans (piped_updOp ..), done, ?_⟩
  rw [updOp_core, ops, only]
  simp [all]

/-- Loads of a line that is clean of poison put its bytes into their lanes (R90). -/
theorem bindLoads_serves (slot : o.slot < 64) (data : Line) :
    let e := d.bindLoads c n o o.lanes data 0
    Served c n o d e ∧ e.ldg = d.ldg ∧ (e.core c).l1 = (d.core c).l1 ∧
      e.group c o.slot = putLanes o (fun a => loadValue o.ty (lineGet data a.off (accWidth o.ty))) o.lanes (d.group c o.slot) := by
  obtain ⟨piped, ldg, core, group⟩ := foldl_putLane (c := c) slot (fun a => loadValue o.ty (lineGet data a.off (accWidth o.ty))) o.lanes d
  have bad : o.lanes.filter (fun a => accPoison 0 a.off (accWidth o.ty)) = [] :=
    List.filter_eq_nil_iff.mpr fun a _ => by rw [accPoison_clean rfl]; decide
  have good : o.lanes.filter (fun a => !accPoison 0 a.off (accWidth o.ty)) = o.lanes :=
    List.filter_eq_self.mpr fun a _ => by rw [accPoison_clean rfl]; rfl
  have noFault : ∀ x : MemOp, x.fail [] = x := fun x => by simp [MemOp.fail]
  unfold Dev.bindLoads
  simp only [bad, good, List.map_nil, noFault]
  refine ⟨served_of_finish only piped (by rw [core]), ldg, ?_, (updOp_group ..).trans group⟩
  rw [updOp_core, core]

/-- The copy of a line after stores have merged their bytes into it. -/
def L1Line.merged (f : L1Line) (stored : BitVec 128 × Line) : L1Line :=
  { f with st := .m, dirty := f.dirty ||| sectorsOf stored.1, data := lineMerge stored.1 stored.2 f.data
           poison := mergePoison stored.1 0 f.poison }

/-- Stores of a line that the L1 may write merge into its copy, which becomes M (R91, R92). -/
theorem store_serves (i : Nat) (f : L1Line) {line : Nat} (found : (d.core c).l1Find line = some i) (own : f.line = line) :
    let f' := f.merged (storeBytes o o.lanes)
    let e := (d.updCore c fun co => co.l1Put f').updOp c n fun x => x.finish (o.lanes.map LaneAcc.lane)
    Served c n o d e ∧ e.ldg = d.ldg ∧ (e.core c).l1 = mput (d.core c).l1 i f' ∧ ∀ j, e.group c j = d.group c j := by
  intro f' e
  have core : (d.updCore c (Core.l1Write i f')).core c = (d.core c).l1Write i f' := updCore_self ..
  have served := served_of_finish only (piped_updCore (c := c) (s := o.slot) d (f := Core.l1Write i f') fun _ => rfl) (by rw [core]; rfl)
  have eq : e = (d.updCore c (Core.l1Write i f')).updOp c n fun x => x.finish (o.lanes.map LaneAcc.lane) :=
    congrArg (Dev.updOp · c n _) (congrArg (d.setCore c) (l1Put_held found own nofun))
  rw [eq]
  refine ⟨served, rfl, ?_, fun j => (updOp_group ..).trans (updCore_group d c _ rfl c j)⟩
  rw [updOp_core, core]
  rfl

end

/-- Where results that are handed out by position go: the lane of an access takes the result at its place in the list. -/
theorem foldl_zipIdx {α β : Type} [DecidableEq α] (f : β → α → Nat → β) {l : List α} (distinct : l.Nodup) (b : β) :
    l.zipIdx.foldl (fun b x => f b x.1 x.2) b = l.foldl (fun b a => f b a (l.idxOf a)) b := by
  have places : l.zipIdx = l.map fun a => (a, l.idxOf a) := by
    refine List.ext_getElem (by simp) fun i h₁ h₂ => ?_
    simp only [List.getElem_zipIdx, List.getElem_map, Nat.zero_add]
    rw [distinct.idxOf_getElem]
  rw [places, List.foldl_map]

section
variable {c n : Nat} {o : MemOp} {d : Dev} (only : (d.core c).ops = [(n, o)])

include only in
/-- The results of an atomic go to its lanes by their places (R100). -/
theorem atomResults_serves (slot : o.slot < 64) (kind : o.kind = .atomic) (distinct : o.lanes.Nodup) (k : Clock) (res : List Nat) :
    let e := d.atomResults k c n o o.lanes res
    Served c n o d e ∧ e.ldg = d.ldg ∧ e.core c = { d.core c with groups := (e.core c).groups, ops := (e.core c).ops } ∧
      e.group c o.slot = putLanes o (fun a => res.getD (o.lanes.idxOf a) 0) o.lanes (d.group c o.slot) := by
  obtain ⟨piped, ldg, core, group⟩ := foldl_putLane (c := c) slot (fun a => res.getD (o.lanes.idxOf a) 0) o.lanes d
  have handed : (o.lanes.zipIdx).foldl (fun d x => d.putLane c o x.1.lane (dstCount o.ty) (res.getD x.2 0)) d =
      o.lanes.foldl (fun d a => d.putLane c o a.lane (dstCount o.ty) (res.getD (o.lanes.idxOf a) 0)) d :=
    foldl_zipIdx (fun d a i => d.putLane c o a.lane (dstCount o.ty) (res.getD i 0)) distinct d
  unfold Dev.atomResults
  simp only [kind]
  rw [handed]
  refine ⟨served_of_finish only piped (by rw [core]), ldg, ?_, (updOp_group ..).trans group⟩
  rw [updOp_core, core]

/-- What an access does with the copy of its line that the L1 holds, in a state that allows the access. -/
def Dev.hit (k : Clock) (c n line : Nat) (how : Option Bool) (o : MemOp) (f : L1Line) (d : Dev) : Dev :=
  if o.kind = .load then d.bindLoads c n o o.lanes f.data f.poison
  else if o.kind = .store then
    (d.updCore c fun co => co.l1Put (f.merged (storeBytes o o.lanes))).updOp c n fun x => x.finish (o.lanes.map LaneAcc.lane)
  else Dev.nearAtomics k c n how 32 d line

/-- The conditions under which an access acts on the L1 at once: it is the one instruction in flight, its lanes are in one line, which
is tracked, and which no buffer of the core has; the L1 holds the line free of storage errors, in a state that allows the access. -/
structure Hits (d : Dev) (c n line : Nat) (o : MemOp) (i : Nat) (f : L1Line) : Prop where
  only : (d.core c).ops = [(n, o)]
  busy : o.lanes ≠ []
  lanes : ∀ a ∈ o.lanes, a.line = line
  fresh : ∀ a ∈ o.lanes, a.stale = false
  tracked : ∀ a ∈ o.lanes, isTracked a.mtype = true
  near : isAtomic o.kind = true → ∀ a ∈ o.lanes, a.far = false
  kind : o.kind ≠ .cflush ∧ o.kind ≠ .cinv
  noMiss : ∀ m ∈ (d.core c).mshrs, m.2.line ≠ line
  noEvict : ∀ b ∈ (d.core c).evict, b.line ≠ line
  found : (d.core c).l1Find line = some i
  listed : mget? (d.core c).l1 i = some f
  sound : (takeLatent 2 c line d).1 = none
  allowed : o.kind = .load ∨ f.st = .m ∨ f.st = .e

theorem lineBusy_idle {line : Nat} (only : (d.core c).ops = [(n, o)]) (noMiss : ∀ m ∈ (d.core c).mshrs, m.2.line ≠ line)
    (noEvict : ∀ b ∈ (d.core c).evict, b.line ≠ line) : (d.core c).lineBusy n line = false := by
  unfold Core.lineBusy
  have misses : (d.core c).mshrs.any (fun e => e.2.line == line && e.2.bw.isNone && e.2.kind != .fetch) = false :=
    List.any_eq_false.mpr fun m hm => by simp [noMiss m hm]
  have evicts : (d.core c).evict.any (fun b => b.line == line) = false := List.any_eq_false.mpr fun b hb => by simp [noEvict b hb]
  simp [only, misses, evicts]

/-- An access whose place no UNMAP overtook acts on its line at once (R290). -/
theorem opLine_fresh (listed : mget? (d.core c).ops n = some o) {line : Nat} (fresh : ∀ a ∈ o.lanes, a.stale = false) (k : Clock)
    (how : Option Bool) : d.opLine k c n line how = d.opLineNow k c n line how := by
  have none' : o.lanes.filter (fun a => a.line == line && a.stale) = [] := List.filter_eq_nil_iff.mpr fun a ha => by simp [fresh a ha]
  unfold Dev.opLine
  rw [listed]
  dsimp only
  rw [none']
  rfl

theorem opLine_hits {line i : Nat} {f : L1Line} (h : Hits d c n line o i f) (k : Clock) (how : Option Bool) :
    d.opLine k c n line how = Dev.hit k c n line how o f (d.updCore c fun co => co.l1Touch i) := by
  have listed : mget? (d.core c).ops n = some o := by simp [h.only, mget?]
  obtain ⟨a, t, cons⟩ := List.exists_cons_of_ne_nil h.busy
  have ha : a ∈ o.lanes := by simp [cons]
  have head : o.lanes.find? (fun a => a.line == line) = some a := by simp [cons, h.lanes a ha]
  have mine : o.lanes.filter (fun a => a.line == line) = o.lanes := List.filter_eq_self.mpr fun b hb => by simp [h.lanes b hb]
  have far : (isTracked a.mtype && !(isAtomic o.kind && a.far)) = true := by
    cases atomic : isAtomic o.kind with
    | true => simp [h.tracked a ha, h.near atomic a ha]
    | false => simp [h.tracked a ha]
  have own := (line_of_l1Find h.found h.listed).1
  have meet : ∀ full reads, d.meetL1 k c i f full reads = (true, d) := fun full reads => by
    unfold Dev.meetL1
    rw [own, takeLatent_none h.sound]
    simp
  rw [opLine_fresh listed h.fresh]
  unfold Dev.opLineNow
  simp only [listed, head, lineBusy_idle h.only h.noMiss h.noEvict, Bool.false_eq_true, if_false, h.kind.1, h.kind.2, or_self, far, if_true,
    h.found, h.listed, mine, meet, Option.bind_some, Option.getD_some, Bool.not_true]
  unfold Dev.hit
  rcases h.allowed with load | may
  · simp [load]
  · simp [may, L1Line.merged]

end

/-! ### Atomics and lock words on a line that the L1 holds (R98 to R103, R252) -/

/-- The copy of a line after an atomic that leaves value `v` at an offset. -/
def L1Line.atom (f : L1Line) (off w v : Nat) : L1Line :=
  { f with st := .m, dirty := f.dirty ||| sectorsOf (spanMask off w), data := lineSet f.data off w v
           poison := mergePoison (spanMask off w) 0 f.poison }

section
variable {c n : Nat} {o : MemOp} {d : Dev} {line i : Nat} {f : L1Line} (only : (d.core c).ops = [(n, o)]) (busy : o.lanes ≠ [])
  (lanes : ∀ a ∈ o.lanes, a.line = line) {ga : Nat} (place : ∀ a ∈ o.lanes, a.ga = ga) (found : (d.core c).l1Find line = some i)
  (listed : mget? (d.core c).l1 i = some f) (clean : f.poison = 0)

include only busy lanes place found listed clean in
/-- An atomic whose lanes all name one location acts on it once (R100). -/
theorem nearAtomics_one (fuel : Nat) (k : Clock) (how : Option Bool) :
    let w := atomWidth o.code o.ty
    let r := atomEval o.code o.ty (lineGet f.data (ga % 128) w) (atomOperands o o.lanes)
    let e := (d.updCore c (Core.l1Write i (f.atom (ga % 128) w r.1))).atomResults k c n o o.lanes r.2
    (∃ done, (e.core c).ops = [(n, o.spent done)]) →
    ∃ delta, Dev.nearAtomics k c n how (fuel + 2) d line = e.updCore c fun co => co.predict line delta := by
  intro w r e gone
  obtain ⟨done, left⟩ := gone
  obtain ⟨a, t, cons⟩ := List.exists_cons_of_ne_nil busy
  have ha : a ∈ o.lanes := by simp [cons]
  have off : a.off = ga % 128 := congrArg (· % 128) (place a ha)
  have head : o.lanes.find? (fun a => a.line == line) = some a := by simp [cons, lanes a ha]
  have mine : o.lanes.filter (fun b => b.ga == a.ga) = o.lanes := List.filter_eq_self.mpr fun b hb => by simp [place b hb, place a ha]
  have first : mget? (d.core c).ops n = some o := by simp [only, mget?]
  have put : d.updCore c (fun co => co.l1Put (f.atom (ga % 128) w r.1)) = d.updCore c (Core.l1Write i (f.atom (ga % 128) w r.1)) :=
    congrArg (d.setCore c) (l1Put_held found (line_of_l1Find found listed).1 nofun)
  have rest : ∀ delta, Dev.nearAtomics k c n none (fuel + 1) (e.updCore c fun co => co.predict line delta) line =
      e.updCore c fun co => co.predict line delta := fun delta => by
    have after : mget? ((e.updCore c fun co => co.predict line delta).core c).ops n = some (o.spent done) := by
      rw [updCore_self]
      unfold Core.predict
      simp [left, mget?]
    rw [Dev.nearAtomics.eq_def]
    dsimp only
    rw [after]
    rfl
  have step : ∀ delta, Dev.nearAtomics k c n none (fuel + 1)
      (((d.updCore c fun co => co.l1Put (f.atom (ga % 128) w r.1)).atomResults k c n o o.lanes r.2).updCore c
        fun co => co.predict line delta) line = e.updCore c fun co => co.predict line delta := fun delta => by rw [put, rest]
  rw [Dev.nearAtomics.eq_def]
  simp only [first, head, mine, found, listed, Option.bind_some, accPoison_clean clean, Bool.false_eq_true, if_false, off]
  exact ⟨_, step _⟩

theorem Served.within {d' e : Dev} (h : Served c n o d' e) (first : Piped c o.slot d d') (line : Nat) (delta : Int) :
    Served c n o d (e.updCore c fun co => co.predict line delta) := by
  obtain ⟨done, left⟩ := h.left
  exact ⟨(first.trans h.toPiped).trans (piped_updCore e fun _ => rfl), done, by rw [updCore_self]; exact left⟩

theorem l1Write_pipes (s i : Nat) (f : L1Line) : Piped c s d (d.updCore c (Core.l1Write i f)) := piped_updCore d fun _ => rfl

section
include only busy lanes place found listed clean

/-- An atomic on the one location that its lanes name: the location in the L1, and each lane's result. -/
theorem atomic_serves (slot : o.slot < 64) (kind : o.kind = .atomic) (distinct : o.lanes.Nodup) (k : Clock) (how : Option Bool) :
    let w := atomWidth o.aop o.ty
    let r := atomEval o.aop o.ty (lineGet f.data (ga % 128) w) (atomOperands o o.lanes)
    let e := Dev.nearAtomics k c n how 32 d line
    Served c n o d e ∧ e.ldg = d.ldg ∧ (e.core c).l1 = mput (d.core c).l1 i (f.atom (ga % 128) w r.1) ∧
      e.group c o.slot = putLanes o (fun a => r.2.getD (o.lanes.idxOf a) 0) o.lanes (d.group c o.slot) := by
  intro w r
  have code : o.code = o.aop := by simp [MemOp.code, kind]
  let d' := d.updCore c (Core.l1Write i (f.atom (ga % 128) w r.1))
  have core : d'.core c = (d.core c).l1Write i (f.atom (ga % 128) w r.1) := updCore_self ..
  obtain ⟨served, ldg, handed, group⟩ := atomResults_serves (d := d') (by rw [core]; exact only) slot kind distinct k r.2
  have one := nearAtomics_one only busy lanes place found listed clean 30 k how
  rw [code] at one
  obtain ⟨delta, eq⟩ := one served.left
  rw [eq]
  refine ⟨served.within (l1Write_pipes ..) line delta, ldg, ?_, (updCore_group _ c (fun co => co.predict line delta) rfl c o.slot).trans
    (group.trans ?_)⟩
  · rw [updCore_self]
    unfold Core.predict
    rw [handed, core]
    rfl
  · rw [updCore_group d c (Core.l1Write i (f.atom (ga % 128) w r.1)) rfl]

end

/-- What ACQ and REL write to the group of their lane: the status, and the lane's spin count and held mark (R62, R102, R103). -/
theorem acqResult_eq (slot : o.slot < 64) (k : Clock) (a : LaneAcc) (status word : Nat) :
    ∃ ldg spins held, d.acqResult k c o a status word = { d.updGroup c o.slot fun g =>
      { g.setOpnd o.dst 1 a.lane status with spins := spins, acqHeld := held } with ldg := ldg } := by
  have own : (d.putLane c o a.lane 1 status).group c o.slot = (d.group c o.slot).setOpnd o.dst 1 a.lane status := by
    unfold Dev.putLane
    rw [group_updGroup _ _ _ _ _ _ slot, if_pos ⟨rfl, rfl⟩]
  have written : ∀ g, (d.putLane c o a.lane 1 status).setGroup c o.slot g = d.updGroup c o.slot fun _ => g := fun g => setGroup_setGroup d c slot _ g
  have recorded : ∀ (e : Dev) kind w st, ∃ ldg, e.lockRecord k c o kind a w st = { e with ldg := ldg } := fun e _ _ _ => ledger_eq ..
  unfold Dev.acqResult
  dsimp only
  rw [own, written, written]
  split
  · split
    · obtain ⟨ldg, eq⟩ := recorded _ 0x07 word 0
      rw [eq]
      exact ⟨ldg, _, _, rfl⟩
    · exact ⟨d.ldg, _, _, rfl⟩
  · obtain ⟨ldg, eq⟩ := recorded _ 0x06 word status
    rw [eq]
    exact ⟨ldg, _, _, rfl⟩

/-- The group of a lock instruction's lane once its status is written. -/
def Group.locked (g : Group) (dst lane status : Nat) (spins : List (Nat × Nat)) (held : BitVec 32) : Group :=
  { g.setOpnd dst 1 lane status with spins := spins, acqHeld := held }

theorem locked_same (g : Group) (dst lane status : Nat) : g.locked dst lane status g.spins g.acqHeld = g.setOpnd dst 1 lane status := by
  obtain ⟨v, u, p, eq⟩ := setOpnd_regsOnly g dst 1 lane status
  unfold Group.locked
  rw [eq]

/-- The result of the one lane of an ACQ or a REL (R102, R103). -/
theorem lockResults_serves (only : (d.core c).ops = [(n, o)]) (slot : o.slot < 64) (kind : o.kind = .acq ∨ o.kind = .rel) {a : LaneAcc}
    (single : o.lanes = [a]) (k : Clock) (res : List Nat) :
    let e := d.atomResults k c n o o.lanes res
    Served c n o d e ∧ e.core c = { d.core c with groups := (e.core c).groups, ops := (e.core c).ops } ∧
      ∃ spins held, e.group c o.slot = (d.group c o.slot).locked o.dst a.lane (res.getD 0 0) spins held ∧
        (o.kind = .rel → spins = (d.group c o.slot).spins) := by
  have one : ∃ ldg spins held, d.atomResults k c n o o.lanes res =
      Dev.updOp { d.updGroup c o.slot fun g => g.locked o.dst a.lane (res.getD 0 0) spins held with ldg := ldg } c n
        (fun x => x.finish (o.lanes.map LaneAcc.lane)) ∧ (o.kind = .rel → spins = (d.group c o.slot).spins) := by
    unfold Dev.atomResults
    rcases kind with acq | rel
    · obtain ⟨ldg, spins, held, eq⟩ := acqResult_eq (d := d) (c := c) slot k a (res.getD 0 0) (res.getD 1 0)
      refine ⟨ldg, spins, held, ?_, by simp [acq]⟩
      simp only [acq, single, List.zipIdx_cons, List.zipIdx_nil, List.foldl_cons, List.foldl_nil, Nat.mul_zero, Nat.zero_add, eq]
      rfl
    · refine ⟨d.ldg, (d.group c o.slot).spins, (d.group c o.slot).acqHeld, ?_, fun _ => rfl⟩
      have same : d.putLane c o a.lane 1 (res.getD 0 0) = d.updGroup c o.slot fun g =>
          g.locked o.dst a.lane (res.getD 0 0) (d.group c o.slot).spins (d.group c o.slot).acqHeld :=
        congrArg (d.setGroup c o.slot) (locked_same ..).symm
      simp only [rel, single, List.zipIdx_cons, List.zipIdx_nil, List.foldl_cons, List.foldl_nil, same]
      rfl
  obtain ⟨ldg, spins, held, eq, kept⟩ := one
  let new : Group → Group := fun g => g.locked o.dst a.lane (res.getD 0 0) spins held
  let d' : Dev := { d.updGroup c o.slot new with ldg := ldg }
  have core : d'.core c = { d.core c with groups := (d'.core c).groups } := updGroup_core d c o.slot new
  have piped : Piped c o.slot d d' := by
    have same := piped_updGroup (c := c) (s := o.slot) d new
    exact ⟨rfl, same.others, same.core, same.groups⟩
  have group : d'.group c o.slot = new (d.group c o.slot) := (group_updGroup d c o.slot c o.slot new slot).trans (if_pos ⟨rfl, rfl⟩)
  rw [eq]
  refine ⟨served_of_finish only piped (by rw [core]), ?_, spins, held, (updOp_group ..).trans group, kept⟩
  rw [updOp_core, core]

include only lanes place found listed clean in
/-- A lock word on a line that the L1 holds: the word in the L1, and the lane's status. -/
theorem lock_serves (slot : o.slot < 64) (kind : o.kind = .acq ∨ o.kind = .rel) {a : LaneAcc} (single : o.lanes = [a]) (k : Clock)
    (how : Option Bool) :
    let r := atomEval o.code o.ty (lineGet f.data (ga % 128) 8) [a.data.toNat]
    let e := Dev.nearAtomics k c n how 32 d line
    Served c n o d e ∧ (e.core c).l1 = mput (d.core c).l1 i (f.atom (ga % 128) 8 r.1) ∧
      ∃ spins held, e.group c o.slot = (d.group c o.slot).locked o.dst a.lane (r.2.getD 0 0) spins held ∧
        (o.kind = .rel → spins = (d.group c o.slot).spins) := by
  intro r
  have width : atomWidth o.code o.ty = 8 := by rcases kind with kind | kind <;> simp [atomWidth, MemOp.code, kind]
  have operands : atomOperands o o.lanes = [a.data.toNat] := by rcases kind with kind | kind <;> simp [atomOperands, single, kind]
  let d' := d.updCore c (Core.l1Write i (f.atom (ga % 128) 8 r.1))
  have core : d'.core c = (d.core c).l1Write i (f.atom (ga % 128) 8 r.1) := updCore_self ..
  obtain ⟨served, handed, group⟩ := lockResults_serves (d := d') (by rw [core]; exact only) slot kind single k r.2
  have one := nearAtomics_one only (by simp [single]) lanes place found listed clean 30 k how
  rw [width, operands] at one
  obtain ⟨delta, eq⟩ := one served.left
  rw [eq]
  refine ⟨served.within (l1Write_pipes ..) line delta, ?_, ?_⟩
  · rw [updCore_self]
    unfold Core.predict
    rw [handed, core]
    rfl
  · rw [updCore_group _ c (fun co => co.predict line delta) rfl c o.slot,
      ← updCore_group d c (Core.l1Write i (f.atom (ga % 128) 8 r.1)) rfl c o.slot]
    exact group

end

/-! ### The pipe takes an instruction (R50, R52, R68) -/

/-- The access of a lane whose address an entry translates. -/
def laneAccess (k : Core) (hint : Nat) (e : BitVec 256) (va ga l : Nat) : LaneAcc :=
  let a : LaneAcc := { LaneAcc.reset with
    lane := l, va := va, ga := ga, mtype := reType e, key := reKey e, mirror := if reType e = 3 then reMirror e else 0 }
  { a with far := k.runsFar a.mtype hint a.line }

/-- A memory instruction of a group as the pipe takes it, with its accesses. -/
def Dev.taken (d : Dev) (c s : Nat) (f : InsF) (o : MemOp) (uniform : Bool) (lanes : List LaneAcc) : MemOp :=
  let g := d.group c s
  let b := (d.core c).block g.block
  { o with
    slot := s, queue := b.queue, launch := b.launch, pc := g.pc, active := g.whole, lanes := lanes, flt := [], ctx := b.ctx, berth := b.berth
    epoch := (d.ctx b.ctx).epoch
    done := if uniform then 0 else g.before ||| (g.active &&& ~~~(g.acting f)) }

/-- Bytes to which the addresses of a memory instruction are aligned (R90, R91, R93, R102). -/
def MemOp.align (o : MemOp) : Nat :=
  if o.kind = .acq ∨ o.kind = .rel then 8 else if o.kind = .cflush ∨ o.kind = .cinv then 1 else accWidth o.ty

/-- An instruction all of whose lanes translate enters the pipe. -/
theorem memPresent_translates {d : Dev} {c s : Nat} {f : InsF} {o : MemOp} {addrA imm need : Nat} {uniform : Bool} {e : Nat → BitVec 256}
    {ga : Nat → Nat} (ok : ∀ l ∈ memLanes (d.group c s) f uniform,
      d.coreXlate c s (laneVa (d.group c s) addrA imm o.align l) need = .ok (e l) (ga l)) (k : Clock)
    (fill : Group → Nat → LaneAcc → LaneAcc) :
    memPresent k c s f o addrA imm need uniform fill d = d.runOp k c s f.len (d.taken c s f o uniform
      ((memLanes (d.group c s) f uniform).map fun l => fill (d.group c s) l
        (laneAccess (d.core c) o.hint (e l) (laneVa (d.group c s) addrA imm o.align l) (ga l) l))) := by
  have results : ((memLanes (d.group c s) f uniform).map fun l => (l, laneVa (d.group c s) addrA imm o.align l)).map
      (fun x => (x, d.coreXlate c s x.2 need)) =
      (memLanes (d.group c s) f uniform).map fun l => ((l, laneVa (d.group c s) addrA imm o.align l), XRes.ok (e l) (ga l)) := by
    rw [List.map_map]
    exact List.map_congr_left fun l hl => congrArg _ (ok l hl)
  have none' : ((memLanes (d.group c s) f uniform).map fun l =>
      ((l, laneVa (d.group c s) addrA imm o.align l), XRes.ok (e l) (ga l))).find? (fun r => r.2 == .wait) = none :=
    List.find?_eq_none.mpr fun r hr => by
      obtain ⟨l, -, rfl⟩ := List.mem_map.mp hr
      simp
  unfold memPresent
  dsimp only
  rw [← MemOp.align, results, none']
  dsimp only
  rw [List.filterMap_map, List.filterMap_map]
  simp only [Function.comp_def, List.filterMap_eq_map', List.filterMap_none]
  rfl

/-- The device once an instruction has entered its core's pipe. -/
def Dev.enter (d : Dev) (c : Nat) (o : MemOp) : Dev :=
  d.updCore c fun co => { co with ops := mput co.ops co.nextOp o, nextOp := co.nextOp + 1 }

theorem enter_pipes (d : Dev) (c s : Nat) (o : MemOp) : Piped c s d (d.enter c o) := piped_updCore d fun _ => rfl

theorem enter_group (d : Dev) (c : Nat) (o : MemOp) (j : Nat) : (d.enter c o).group c j = d.group c j := updCore_group d c _ rfl c j

/-- A list of one value, repeated, has that value alone. -/
theorem eraseDups_const {l : List Nat} {a : Nat} (busy : l ≠ []) (same : ∀ x ∈ l, x = a) : l.eraseDups = [a] := by
  obtain ⟨x, t, rfl⟩ := List.exists_cons_of_ne_nil busy
  have head : x = a := same x (by simp)
  have rest : t.filter (fun b => !b == x) = [] := List.filter_eq_nil_iff.mpr fun b hb => by simp [head, same b (List.mem_cons_of_mem _ hb)]
  rw [List.eraseDups_cons, rest, head]
  rfl

/-- The lines of accesses that are all in one line. -/
theorem lines_one {lanes : List LaneAcc} {line : Nat} (busy : lanes ≠ []) (same : ∀ a ∈ lanes, a.line = line) :
    (lanes.map LaneAcc.line).eraseDups = [line] :=
  eraseDups_const (by simpa using busy) fun x hx => by
    obtain ⟨a, ha, rfl⟩ := List.mem_map.mp hx
    exact same a ha

theorem dropOp_group {d : Dev} {c n : Nat} {o : MemOp} (adv : o.adv = false) (j : Nat) : (d.dropOp c n o).group c j = d.group c j := by
  unfold Dev.dropOp
  simp only [Dev.group, updCore_self, adv, Bool.false_eq_true, if_false]
  unfold Core.setGroup
  split
  · by_cases same : j = o.slot
    · simp [Core.group, same]
    · simp [Core.group, same]
  · rfl

/-- An instruction that leaves the pipe leaves the rest of it as it is. -/
theorem dropOp_core (d : Dev) (c n : Nat) (o : MemOp) :
    (d.dropOp c n o).core c = { d.core c with groups := ((d.dropOp c n o).core c).groups, ops := mdel (d.core c).ops n } := by
  unfold Dev.dropOp
  rw [updCore_self]
  unfold Core.setGroup
  split <;> rfl

theorem dropOp_pipes (d : Dev) (c n : Nat) (o : MemOp) : Piped c o.slot d (d.dropOp c n o) := by
  refine ⟨rfl, fun x hx => updCore_others d hx _, (dropOp_core ..).trans (by rw [dropOp_core]), fun j hj => ?_⟩
  unfold Dev.dropOp Dev.group
  rw [updCore_self]
  unfold Core.setGroup
  split
  · exact mget_mput_other _ _ _ hj
  · rfl

/-- An instruction whose accesses are all performed at once leaves the pipe again, and its group goes on. -/
theorem runOp_ends {d e : Dev} {c : Nat} {o : MemOp} (adv : o.adv = false) (fine : o.flt = [])
    (room : (d.core c).used + ((o.lanes.map LaneAcc.line).eraseDups).length ≤ 192) {k : Clock}
    (acts : ((o.lanes.map LaneAcc.line).eraseDups).foldl (fun x line => x.opLine k c (d.core c).nextOp line none) (d.enter c o) = e)
    {done : BitVec 32} (left : (e.core c).ops = [((d.core c).nextOp, o.spent done)]) (len : Nat) :
    d.runOp k c o.slot len o = (e.dropOp c (d.core c).nextOp (o.spent done)).updGroup c o.slot fun g => g.advance len := by
  have listed : mget? (e.core c).ops (d.core c).nextOp = some (o.spent done) := by simp [left, mget?]
  have ended : e.endOp k c (d.core c).nextOp = e := by
    unfold Dev.endOp
    rw [listed]
    simp [MemOp.spent, fine, adv]
  have entered : d.setCore c { d.core c with ops := mput (d.core c).ops (d.core c).nextOp o, nextOp := (d.core c).nextOp + 1 } = d.enter c o := rfl
  unfold Dev.runOp
  dsimp only
  rw [if_neg (by omega), entered, acts, ended, listed]
  simp [MemOp.spent, fine]

/-- What an instruction leaves that is performed at once: the ledger and the L1 as the accesses left them, and its group moved on. -/
theorem runOp_served {d e : Dev} {c : Nat} {o : MemOp} (slot : o.slot < 64) (adv : o.adv = false) (fine : o.flt = [])
    (room : (d.core c).used + ((o.lanes.map LaneAcc.line).eraseDups).length ≤ 192) {k : Clock}
    (acts : ((o.lanes.map LaneAcc.line).eraseDups).foldl (fun x line => x.opLine k c (d.core c).nextOp line none) (d.enter c o) = e)
    (served : Served c (d.core c).nextOp o (d.enter c o) e) (len : Nat) :
    let e' := d.runOp k c o.slot len o
    Piped c o.slot d e' ∧ e'.ldg = e.ldg ∧ (e'.core c).l1 = (e.core c).l1 ∧ e'.group c o.slot = (e.group c o.slot).advance len := by
  obtain ⟨done, left⟩ := served.left
  have dropped := dropOp_core e c (d.core c).nextOp (o.spent done)
  have moved := updGroup_core (e.dropOp c (d.core c).nextOp (o.spent done)) c o.slot fun g => g.advance len
  rw [runOp_ends adv fine room acts left]
  refine ⟨(((enter_pipes ..).trans served.toPiped).trans (dropOp_pipes ..)).trans (piped_updGroup ..), rfl, ?_, ?_⟩
  · rw [moved, dropped]
  · rw [group_updGroup _ _ _ _ _ _ slot, if_pos ⟨rfl, rfl⟩, dropOp_group (o := o.spent done) adv]

/-- Filling in a lane's operands changes nothing of where its access goes. -/
def FillsData (fill : Group → Nat → LaneAcc → LaneAcc) : Prop := ∀ g l a, ∃ x y, fill g l a = { a with data := x, data2 := y }

/-- An access of a lane to a place in a line, which may act on a copy that the L1 holds. -/
structure AccessAt (o : MemOp) (line l ga : Nat) (a : LaneAcc) : Prop where
  lane : a.lane = l
  place : a.ga = ga
  line : a.line = line
  fresh : a.stale = false
  tracked : isTracked a.mtype = true
  near : isAtomic o.kind = true → a.far = false

/-- A memory instruction whose lanes are all in one line that the L1 holds enters the pipe, and meets that line. -/
theorem oneLine_present {s : State} {c gs : Nat} {f : InsF} {o : MemOp} {addrA imm need line : Nat} {uniform : Bool} {ga : Nat → Nat}
    {fl : L1Line} (one : OneLine s c gs (memLanes (s.dev.group c gs) f uniform) (laneVa (s.dev.group c gs) addrA imm o.align) need ga line fl)
    (kind : o.kind ≠ .cflush ∧ o.kind ≠ .cinv)
    (near : isAtomic o.kind = true → ∀ mtype, isTracked mtype = true → (s.dev.core c).runsFar mtype o.hint line = false)
    (allowed : o.kind = .load ∨ fl.st = .m ∨ fl.st = .e) {fill : Group → Nat → LaneAcc → LaneAcc} (fills : FillsData fill) :
    let lanes := memLanes (s.dev.group c gs) f uniform
    ∃ (acc : Nat → LaneAcc) (i : Nat), (s.dev.core c).l1Find line = some i ∧ mget? (s.dev.core c).l1 i = some fl ∧
      (∀ l ∈ lanes, AccessAt o line l (ga l) (acc l) ∧ ∃ a, acc l = fill (s.dev.group c gs) l a) ∧
      memPresent s.clk c gs f o addrA imm need uniform fill s.dev = s.dev.runOp s.clk c gs f.len (s.dev.taken c gs f o uniform (lanes.map acc)) ∧
      (lanes ≠ [] → Hits (s.dev.enter c (s.dev.taken c gs f o uniform (lanes.map acc))) c (s.dev.core c).nextOp line
        (s.dev.taken c gs f o uniform (lanes.map acc)) i fl) := by
  intro lanes
  choose! e ok tracked inLine using one.xlate
  obtain ⟨i, found, listed⟩ := one.held
  let base : Nat → LaneAcc := fun l =>
    laneAccess (s.dev.core c) o.hint (e l) (laneVa (s.dev.group c gs) addrA imm o.align l) (ga l) l
  let acc : Nat → LaneAcc := fun l => fill (s.dev.group c gs) l (base l)
  have placed : ∀ l ∈ lanes, AccessAt o line l (ga l) (acc l) := fun l hl => by
    obtain ⟨x, y, eq⟩ := fills (s.dev.group c gs) l (base l)
    have own : acc l = { base l with data := x, data2 := y } := eq
    have far : isAtomic o.kind = true → (base l).far = false := fun atomic =>
      (congrArg ((s.dev.core c).runsFar (reType (e l)) o.hint) (inLine l hl)).trans (near atomic _ (tracked l hl))
    rw [own]
    exact ⟨rfl, rfl, inLine l hl, rfl, tracked l hl, far⟩
  refine ⟨acc, i, found, listed, fun l hl => ⟨placed l hl, base l, rfl⟩, memPresent_translates ok s.clk fill, fun busy => ?_⟩
  let o' := s.dev.taken c gs f o uniform (lanes.map acc)
  have core : (s.dev.enter c o').core c = { s.dev.core c with
      ops := mput (s.dev.core c).ops (s.dev.core c).nextOp o', nextOp := (s.dev.core c).nextOp + 1 } := updCore_self ..
  have every : ∀ {p : LaneAcc → Prop}, (∀ l ∈ lanes, p (acc l)) → ∀ a ∈ o'.lanes, p a := fun h a ha => by
    obtain ⟨l, hl, rfl⟩ := List.mem_map.mp ha
    exact h l hl
  exact {
    only := by rw [core, one.alone]; rfl
    busy := by simpa [o', Dev.taken] using busy
    lanes := every fun l hl => (placed l hl).line
    fresh := every fun l hl => (placed l hl).fresh
    tracked := every fun l hl => (placed l hl).tracked
    near := fun atomic => every fun l hl => (placed l hl).near atomic
    kind := kind
    noMiss := by rw [core]; exact one.noMiss
    noEvict := by rw [core]; exact one.noEvict
    found := by rw [core]; exact found
    listed := by rw [core]; exact listed
    sound := (takeLatent_congr (d := s.dev) (e := s.dev.enter c o') rfl ..).trans one.sound
    allowed := allowed }

/-- The device once an instruction has entered the pipe and touched the L1 line at a key (R195). -/
def Dev.touched (d : Dev) (c : Nat) (o : MemOp) (i : Nat) : Dev := (d.enter c o).updCore c fun co => co.l1Touch i

section
variable {d e : Dev} {c line i : Nat} {o : MemOp} {fl : L1Line} (hits : Hits (d.enter c o) c (d.core c).nextOp line o i fl)

theorem touched_core (d : Dev) (c : Nat) (o : MemOp) (i : Nat) :
    (d.touched c o i).core c = { (d.enter c o).core c with l1Plru := ((d.touched c o i).core c).l1Plru } := by
  unfold Dev.touched
  rw [updCore_self]
  rfl

theorem touched_pipes (d : Dev) (c s : Nat) (o : MemOp) (i : Nat) : Piped c s (d.enter c o) (d.touched c o i) := piped_updCore _ fun _ => rfl

theorem touched_l1 (d : Dev) (c : Nat) (o : MemOp) (i : Nat) : ((d.touched c o i).core c).l1 = (d.core c).l1 := by
  rw [touched_core]
  unfold Dev.enter
  rw [updCore_self]

theorem touched_group (d : Dev) (c : Nat) (o : MemOp) (i j : Nat) : (d.touched c o i).group c j = d.group c j :=
  (updCore_group (d.enter c o) c (fun co => co.l1Touch i) rfl c j).trans (enter_group d c o j)

include hits in
theorem touched_only : ((d.touched c o i).core c).ops = [((d.core c).nextOp, o)] := by
  rw [touched_core]
  exact hits.only

include hits in
/-- An instruction that meets the L1 at once is performed and leaves the pipe, and its group goes on. -/
theorem runOp_hits (slot : o.slot < 64) (adv : o.adv = false) (fine : o.flt = []) (room : (d.core c).used + 1 ≤ 192) {k : Clock}
    (acts : Dev.hit k c (d.core c).nextOp line none o fl (d.touched c o i) = e)
    (served : Served c (d.core c).nextOp o (d.touched c o i) e) (len : Nat) :
    let e' := d.runOp k c o.slot len o
    Piped c o.slot d e' ∧ e'.ldg = e.ldg ∧ (e'.core c).l1 = (e.core c).l1 ∧ e'.group c o.slot = (e.group c o.slot).advance len := by
  have one := lines_one hits.busy hits.lanes
  refine runOp_served slot adv fine (by rw [one]; exact room) ?_ ⟨(touched_pipes d c o.slot o i).trans served.toPiped, served.left⟩ len
  rw [one, List.foldl_cons, List.foldl_nil, opLine_hits hits]
  exact acts

end

/-! ### LD and ST (R90 to R92) -/

/-- Results that go lane by lane into a destination are a result of the instruction (R86). -/
theorem putLanes_result {g : Group} {f : InsF} {o : MemOp} (dst : o.dst = f.d) {acc : Nat → LaneAcc} {val : LaneAcc → Nat} {v : Nat → Nat}
    (same : ∀ l ∈ memLanes g f (isU f.d), (acc l).lane = l ∧ val (acc l) = v l) :
    putLanes o val ((memLanes g f (isU f.d)).map acc) g = putResult g f (dstCount o.ty) v := by
  unfold putLanes
  rw [List.foldl_map, dst]
  refine (List.foldl_ext _ (fun g l => g.setOpnd f.d (dstCount o.ty) l (v l)) g fun g l hl => ?_).trans ?_
  · rw [(same l hl).1, (same l hl).2]
  · unfold memLanes putResult Group.writeLanes
    split <;> rfl

/-- A load of at most one line, which the L1 holds clean of poison, is performed at once. -/
theorem load_runs {d : Dev} {c line i : Nat} {o : MemOp} {fl : L1Line} (slot : o.slot < 64) (adv : o.adv = false) (fine : o.flt = [])
    (alone : (d.core c).ops = [])
    (room : (d.core c).used + 1 ≤ 192) (kind : o.kind = .load) (clean : fl.poison = 0)
    (hits : o.lanes ≠ [] → Hits (d.enter c o) c (d.core c).nextOp line o i fl) (k : Clock) (len : Nat) :
    let e := d.runOp k c o.slot len o
    Piped c o.slot d e ∧ e.ldg = d.ldg ∧ (e.core c).l1 = (d.core c).l1 ∧ e.group c o.slot =
      (putLanes o (fun a => loadValue o.ty (lineGet fl.data a.off (accWidth o.ty))) o.lanes (d.group c o.slot)).advance len := by
  by_cases none' : o.lanes = []
  · have spent : o = o.spent o.done := by rw [MemOp.spent, ← none']
    have core : (d.enter c o).core c = { d.core c with
        ops := mput (d.core c).ops (d.core c).nextOp o, nextOp := (d.core c).nextOp + 1 } := updCore_self ..
    have served : Served c (d.core c).nextOp o (d.enter c o) (d.enter c o) :=
      ⟨Piped.self _, o.done, by rw [core, alone, ← spent]; rfl⟩
    obtain ⟨piped, ldg, l1, group⟩ := runOp_served (k := k) slot adv fine (by rw [none']; exact Nat.le_of_succ_le room) (by rw [none']; rfl) served len
    rw [core] at l1
    rw [enter_group] at group
    exact ⟨piped, ldg, l1, group.trans (by rw [none']; rfl)⟩
  · have acts : Dev.hit k c (d.core c).nextOp line none o fl (d.touched c o i) =
        (d.touched c o i).bindLoads c (d.core c).nextOp o o.lanes fl.data 0 := (if_pos kind).trans (by rw [clean])
    obtain ⟨served, ldg, l1, group⟩ := bindLoads_serves (touched_only (hits none')) slot fl.data
    obtain ⟨piped, ldg', l1', group'⟩ := runOp_hits (hits none') slot adv fine room acts served len
    rw [touched_group] at group
    exact ⟨piped, ldg'.trans ldg, l1'.trans (l1.trans (touched_l1 ..)), group'.trans (by rw [group])⟩


theorem ld_completes {s : State} {c : Fin 512} {gs : Fin 64} {f : InsF} {ga : Nat → Nat} {line : Nat} {fl : L1Line}
    (hr : s.dev.rOf c gs ≤ 255) (h : Presents s c gs f (ldShape (s.dev.rOf c gs) f))
    (one : OneLine s c gs (memLanes (s.dev.group c gs) f (isU f.d)) (laneVa (s.dev.group c gs) f.a (memImm f) (accWidth f.ty)) 1 ga line fl) :
    ∃ t, exec (.ld c gs f) s = .next t ∧ CoreFrame s c t ∧ (∀ j, j ≠ gs.val → t.dev.group c j = s.dev.group c j) ∧
      Wrote (s.dev.group c gs) (t.dev.group c gs) f (dstCount f.ty)
        (fun l => loadValue f.ty (lineGet fl.data (ga l % 128) (accWidth f.ty))) ∧
      Moved (s.dev.group c gs) (t.dev.group c gs) f ∧ (t.dev.core c).l1 = (s.dev.core c).l1 := by
  have legal : regOk (s.dev.rOf c gs) f.d (dstCount f.ty) = true := by
    have word := h.word
    simp only [Shape.ok, ldShape, Bool.and_eq_true] at word
    obtain ⟨⟨⟨⟨⟨⟨⟨-, legal⟩, -⟩, -⟩, -⟩, -⟩, -⟩, -⟩ := word
    exact legal
  let o : MemOp := { MemOp.reset with kind := .load, ty := f.ty, dst := f.d, acq := f.bits 59 58 == 1 }
  obtain ⟨acc, i, -, -, placed, present, hits⟩ := oneLine_present (f := f) (o := o) one ⟨nofun, nofun⟩ nofun (.inl rfl)
    (fill := fun _ _ a => a) fun _ _ a => ⟨a.data, a.data2, rfl⟩
  let lanes := memLanes (s.dev.group c gs) f (isU f.d)
  obtain ⟨piped, ldg, l1, group⟩ := load_runs (o := s.dev.taken c gs f o (isU f.d) (lanes.map acc)) gs.isLt rfl rfl one.alone one.room rfl
    one.clean (fun busy => hits (by simpa [Dev.taken, lanes] using busy)) s.clk f.len
  have result := putLanes_result (g := s.dev.group c gs) (f := f) (o := s.dev.taken c gs f o (isU f.d) (lanes.map acc)) rfl (acc := acc)
    (val := fun a => loadValue f.ty (lineGet fl.data a.off (accWidth f.ty)))
    (v := fun l => loadValue f.ty (lineGet fl.data (ga l % 128) (accWidth f.ty)))
    fun l hl => ⟨(placed l hl).1.lane, by simp only [LaneAcc.off, (placed l hl).1.place]⟩
  obtain ⟨t, ht, settled⟩ := issue_settles (sh := fun d => ldShape (d.rOf c gs) f)
    (eff := memPresent s.clk c gs f o f.a (memImm f) 1 (isU f.d) fun _ _ a => a) h present (piped.calm h.calm)
  have own : t.dev.group c gs = (putResult (s.dev.group c gs) f (dstCount f.ty) _).advance f.len :=
    (settled.group c gs).trans (group.trans (congrArg (Group.advance · f.len) result))
  refine ⟨t, ht, piped.coreFrame ldg settled, fun j hj => (settled.group c j).trans (piped.groups j hj), ?_, ?_,
    (congrArg Core.l1 (settled.core c)).trans l1⟩
  · rw [own]
    exact wrote_advance (putResult_writes _ f _ hr legal) _
  · rw [own]
    exact moved_of_regsOnly f (putResult_regsOnly ..)

/-- A store to a line that the L1 may write is performed at once. -/
theorem store_runs {d : Dev} {c line i : Nat} {o : MemOp} {fl : L1Line} (slot : o.slot < 64) (adv : o.adv = false) (fine : o.flt = [])
    (room : (d.core c).used + 1 ≤ 192) (kind : o.kind = .store) (found : (d.core c).l1Find line = some i)
    (hits : Hits (d.enter c o) c (d.core c).nextOp line o i fl) (k : Clock) (len : Nat) :
    let e := d.runOp k c o.slot len o
    Piped c o.slot d e ∧ e.ldg = d.ldg ∧ e.group c o.slot = (d.group c o.slot).advance len ∧
      (e.core c).l1 = mput (d.core c).l1 i (fl.merged (storeBytes o o.lanes)) := by
  have own := (line_of_l1Find hits.found hits.listed).1
  obtain ⟨served, ldg, l1, group⟩ := store_serves (touched_only hits) i fl ((l1Find_congr (touched_l1 ..) _).trans found) own
  obtain ⟨piped, ldg', l1', group'⟩ := runOp_hits (k := k) hits slot adv fine room
    ((if_neg (by simp [kind])).trans (if_pos kind)) served len
  exact ⟨piped, ldg'.trans ldg, group'.trans (by rw [group, touched_group]), l1'.trans (l1.trans (by rw [touched_l1]))⟩

/-- The bytes that stores put into a line depend on where they go and what they carry alone (R92). -/
theorem storeBytes_map {o o' : MemOp} (ty : o.ty = o'.ty) {ls : List Nat} {acc acc' : Nat → LaneAcc}
    (same : ∀ l ∈ ls, (acc l).off = (acc' l).off ∧ (acc l).data = (acc' l).data) : storeBytes o (ls.map acc) = storeBytes o' (ls.map acc') := by
  unfold storeBytes
  dsimp only
  rw [List.foldl_map, List.foldl_map, ty]
  exact List.foldl_ext _ _ _ fun r l hl => by rw [(same l hl).1, (same l hl).2]

theorem st_completes {s : State} {c : Fin 512} {gs : Fin 64} {f : InsF} {ga : Nat → Nat} {line : Nat} {fl : L1Line}
    (h : Presents s c gs f (stShape (s.dev.rOf c gs) f)) (busy : memLanes (s.dev.group c gs) f false ≠ []) (may : fl.st = .m ∨ fl.st = .e)
    (one : OneLine s c gs (memLanes (s.dev.group c gs) f false) (laneVa (s.dev.group c gs) f.a (memImm f) (accWidth f.ty)) 2 ga line fl) :
    let mine := (memLanes (s.dev.group c gs) f false).map fun l =>
      ({ LaneAcc.reset with ga := ga l, data := BitVec.ofNat 128 ((s.dev.group c gs).opnd f.d (dstCount f.ty) l) } : LaneAcc)
    let stored := storeBytes { MemOp.reset with kind := .store, ty := f.ty } mine
    ∃ t, exec (.st c gs f) s = .next t ∧ CoreFrame s c t ∧ (∀ j, j ≠ gs.val → t.dev.group c j = s.dev.group c j) ∧
      t.dev.group c gs = (s.dev.group c gs).advance f.len ∧
      ∃ i fl', (t.dev.core c).l1Find line = some i ∧ mget? (t.dev.core c).l1 i = some fl' ∧ fl'.st = .m ∧
        fl'.dirty = fl.dirty ||| sectorsOf stored.1 ∧ fl'.data = lineMerge stored.1 stored.2 fl.data ∧
        ∀ j, j ≠ i → mget? (t.dev.core c).l1 j = mget? (s.dev.core c).l1 j := by
  intro mine stored
  let o : MemOp := { MemOp.reset with kind := .store, ty := f.ty }
  obtain ⟨acc, i, found, listed, placed, present, hits⟩ := oneLine_present (f := f) (o := o) one ⟨nofun, nofun⟩ nofun (.inr may)
    (fill := fun g l a => { a with data := BitVec.ofNat 128 (g.opnd f.d (dstCount f.ty) l) }) fun _ _ a => ⟨_, a.data2, rfl⟩
  let o' := s.dev.taken c gs f o false ((memLanes (s.dev.group c gs) f false).map acc)
  have bytes : storeBytes o' o'.lanes = stored := storeBytes_map rfl fun l hl => by
    obtain ⟨at', a, filled⟩ := placed l hl
    exact ⟨congrArg (· % 128) at'.place, by rw [filled]⟩
  obtain ⟨piped, ldg, group, l1⟩ := store_runs (o := o') gs.isLt rfl rfl one.room rfl found (hits busy) s.clk f.len
  rw [bytes] at l1
  have order : ¬ (f.bits 59 58 = 2 ∧ s.dev.hasOps c gs = true) := fun held => by simp [Dev.hasOps, one.alone] at held
  obtain ⟨t, ht, settled⟩ := issue_settles (sh := fun d => stShape (d.rOf c gs) f)
    (eff := fun d => if f.bits 59 58 = 2 ∧ d.hasOps c gs = true then d
      else memPresent s.clk c gs f o f.a (memImm f) 2 false
        (fun g l a => { a with data := BitVec.ofNat 128 (g.opnd f.d (dstCount f.ty) l) }) d) h ((if_neg order).trans present) (piped.calm h.calm)
  have l1' : (t.dev.core c).l1 = mput (s.dev.core c).l1 i (fl.merged stored) := (congrArg Core.l1 (settled.core c)).trans l1
  refine ⟨t, ht, piped.coreFrame ldg settled, fun j hj => (settled.group c j).trans (piped.groups j hj), (settled.group c gs).trans group, i,
    fl.merged stored, l1Find_mput (f := fl.merged stored) found (line_of_l1Find found listed).1 nofun l1', ?_, rfl, rfl, rfl, fun j hj => ?_⟩
  · rw [l1', mget?_mput, if_pos rfl]
  · rw [l1', mget?_mput, if_neg hj]

/-- Settles O10: a line that the L1 holds serves LD and ST at once. -/
theorem loadAndStoreHit : Obligations.LoadAndStoreHit := by
  intro c gs f s g ga line fl hg hr
  subst hg
  exact ⟨ld_completes hr, st_completes⟩

/-! ### ATOM on a line that the L1 holds (R98 to R100, R252) -/

/-- An atomic on one location of a line that the L1 may write is performed at once. -/
theorem atomic_runs {d : Dev} {c line i ga : Nat} {o : MemOp} {fl : L1Line} (slot : o.slot < 64) (adv : o.adv = false) (fine : o.flt = [])
    (room : (d.core c).used + 1 ≤ 192) (kind : o.kind = .atomic) (clean : fl.poison = 0) (found : (d.core c).l1Find line = some i)
    (listed : mget? (d.core c).l1 i = some fl) (place : ∀ a ∈ o.lanes, a.ga = ga) (distinct : o.lanes.Nodup)
    (hits : Hits (d.enter c o) c (d.core c).nextOp line o i fl) (k : Clock) (len : Nat) :
    let w := atomWidth o.aop o.ty
    let r := atomEval o.aop o.ty (lineGet fl.data (ga % 128) w) (atomOperands o o.lanes)
    let e := d.runOp k c o.slot len o
    Piped c o.slot d e ∧ e.ldg = d.ldg ∧ (e.core c).l1 = mput (d.core c).l1 i (fl.atom (ga % 128) w r.1) ∧
      e.group c o.slot = (putLanes o (fun a => r.2.getD (o.lanes.idxOf a) 0) o.lanes (d.group c o.slot)).advance len := by
  obtain ⟨served, ldg, l1, group⟩ := atomic_serves (touched_only hits) hits.busy hits.lanes place
    ((l1Find_congr (touched_l1 ..) _).trans found) ((congrArg (mget? · i) (touched_l1 ..)).trans listed) clean slot kind distinct k none
  obtain ⟨piped, ldg', l1', group'⟩ := runOp_hits (k := k) hits slot adv fine room
    ((if_neg (by simp [kind])).trans (if_neg (by simp [kind]))) served len
  exact ⟨piped, ldg'.trans ldg, l1'.trans (l1.trans (by rw [touched_l1])), group'.trans (by rw [group, touched_group])⟩

theorem memLanes_nodup (g : Group) (f : InsF) (uniform : Bool) : (memLanes g f uniform).Nodup := by
  unfold memLanes
  split
  · exact List.nodup_singleton 0
  · exact lanesOf_nodup _

/-- A list of different values whose images tell them apart: an image has the place of its value. -/
theorem idxOf_map_on {α β : Type} [DecidableEq α] [DecidableEq β] {l : List α} {f : α → β} {g : β → α} (inv : ∀ a ∈ l, g (f a) = a)
    (distinct : l.Nodup) {a : α} (ha : a ∈ l) : (l.map f).Nodup ∧ (l.map f).idxOf (f a) = l.idxOf a := by
  have images : (l.map f).Nodup := List.Nodup.map_on (fun x hx y hy same => by rw [← inv x hx, same, inv y hy]) distinct
  obtain ⟨i, hi, rfl⟩ := List.getElem_of_mem ha
  have hi' : i < (l.map f).length := by simpa using hi
  refine ⟨images, ?_⟩
  rw [distinct.idxOf_getElem i hi, ← List.getElem_map f (h := hi'), images.idxOf_getElem i hi']

theorem runsFar_near {k : Core} {hint line : Nat} (near : hint ≠ 2 ∧ (hint = 0 → mget 0 k.predictor (predIdx line) < 4)) {mtype : Nat}
    (tracked : isTracked mtype = true) : k.runsFar mtype hint line = false := by
  obtain ⟨notFar, low⟩ := near
  by_cases auto : hint = 0
  · simp [Core.runsFar, tracked, auto, low auto]
  · simp [Core.runsFar, tracked, auto, notFar]

/-- The destination of an atomic is one that its group has (R87, R98). -/
theorem atom_legal {op r : Nat} {loc : Bool} {f : InsF} (word : (atomShape op r loc f).ok f = true) : regOk r f.d (dstCount f.ty) = true := by
  simp only [Shape.ok, atomShape, Bool.and_eq_true] at word
  obtain ⟨⟨⟨⟨⟨⟨⟨⟨-, legal⟩, -⟩, -⟩, -⟩, -⟩, -⟩, -⟩, -⟩ := word
  exact legal

/-- An ATOM completes near whenever its lanes name one location of a line that the L1 may write. -/
theorem atom_completes {i : Fin 512 → Fin 64 → InsF → Instr} {op : Nat} (hi : ∀ c gs f s, exec (i c gs f) s = atomIns op c gs f s)
    (small : op < 8) : AtomCompletes i op := by
  intro c gs f s g a fl hg hr h lanes w r busy one near
  subst hg
  have legal := atom_legal h.word
  let o : MemOp := { MemOp.reset with
    kind := .atomic, ty := f.ty, dst := f.d, aop := op, hint := f.bits 61 60, acq := f.bits 59 58 % 2 == 1 }
  obtain ⟨acc, j, found, listed, placed, present, hits⟩ := oneLine_present (f := f) (o := o) one ⟨nofun, nofun⟩
    (fun _ _ => runsFar_near near.near) (.inr near.writable) (fill := atomFill f) fun _ _ _ => ⟨_, _, rfl⟩
  let o' := s.dev.taken c gs f o (isU f.d) (lanes.map acc)
  have indexed := fun l hl => idxOf_map_on (l := lanes) (f := acc) (g := LaneAcc.lane) (fun l hl => (placed l hl).1.lane)
    (memLanes_nodup ..) (a := l) hl
  have place : ∀ b ∈ o'.lanes, b.ga = a := fun b hb => by
    obtain ⟨l, hl, rfl⟩ := List.mem_map.mp hb
    exact (placed l hl).1.place
  have distinct : o'.lanes.Nodup := by
    obtain ⟨l, hl⟩ := List.exists_mem_of_ne_nil _ busy
    exact (indexed l hl).1
  have operands : atomOperands o' o'.lanes = lanes.flatMap fun l =>
      let x := atomFill f (s.dev.group c gs) l LaneAcc.reset
      if op = 7 then [x.data.toNat, x.data2.toNat] else [x.data.toNat] := by
    unfold atomOperands
    rw [show o'.lanes = lanes.map acc from rfl, List.flatMap_map]
    refine List.flatMap_congr fun l hl => ?_
    obtain ⟨-, b, filled⟩ := placed l hl
    rw [filled]
    simp [atomFill, o', Dev.taken, o]
  have width : atomWidth op f.ty = w := if_neg (by omega)
  obtain ⟨piped, ldg, l1, group⟩ := atomic_runs (o := o') gs.isLt rfl rfl one.room rfl one.clean found listed place distinct (hits busy) s.clk f.len
  rw [show o'.aop = op from rfl, show o'.ty = f.ty from rfl, width, operands] at l1 group
  have result := putLanes_result (g := s.dev.group c gs) (f := f) (o := o') rfl (acc := acc)
    (val := fun b => r.2.getD (o'.lanes.idxOf b) 0) (v := fun l => r.2.getD (lanes.idxOf l) 0)
    fun l hl => ⟨(placed l hl).1.lane, congrArg (r.2.getD · 0) (indexed l hl).2⟩
  have order : ¬ (2 ≤ f.bits 59 58 ∧ s.dev.hasOps c gs = true) := fun held => by simp [Dev.hasOps, one.alone] at held
  obtain ⟨t, ht, settled⟩ := issue_settles (sh := fun d => atomShape op (d.rOf c gs) false f)
    (eff := fun d => if 2 ≤ f.bits 59 58 ∧ d.hasOps c gs = true then d
      else memPresent s.clk c gs f o f.a 0 8 (isU f.d) (atomFill f) d) h ((if_neg order).trans present) (piped.calm h.calm)
  have own : t.dev.group c gs = (putResult (s.dev.group c gs) f (dstCount f.ty) fun l => r.2.getD (lanes.idxOf l) 0).advance f.len :=
    (settled.group c gs).trans (group.trans (congrArg (Group.advance · f.len) result))
  have l1' : (t.dev.core c).l1 = mput (s.dev.core c).l1 j (fl.atom (a % 128) w r.1) := (congrArg Core.l1 (settled.core c)).trans l1
  refine ⟨t, (hi c gs f s).trans ht, piped.coreFrame ldg settled, fun j hj => (settled.group c j).trans (piped.groups j hj), ?_, ?_, j,
    fl.atom (a % 128) w r.1, l1Find_mput (f := fl.atom (a % 128) w r.1) found (line_of_l1Find found listed).1 nofun l1', ?_, rfl, rfl, rfl⟩
  · rw [own]
    exact wrote_advance (putResult_writes _ f _ hr legal) _
  · rw [own]
    exact moved_of_regsOnly f (putResult_regsOnly ..)
  · rw [l1', mget?_mput, if_pos rfl]

/-- Settles O11: each is an ATOM of its own operation. -/
theorem atomicsNear : Obligations.AtomicsNear := by
  refine ⟨?_, ?_, ?_, ?_, ?_, ?_, ?_, ?_⟩ <;> exact atom_completes (fun _ _ _ _ => rfl) (by decide)

end Sys2Proof.Machine

namespace Sys2Proof.Machine

/-! ### ACQ and REL on a lock word that the L1 holds (R102, R103) -/

/-- Fields that lie one above the other stay below what follows them. -/
theorem packBits_bound (fs : List (Nat × Nat × Nat)) {w : Nat} (h : ∀ x ∈ fs, x.1 + x.2.1 ≤ w) : packBits fs ≤ fs.length * 2 ^ w := by
  have sum : ∀ acc, fs.foldl (fun acc f => acc + (f.2.2 % 2 ^ f.2.1) * 2 ^ f.1) acc ≤ acc + fs.length * 2 ^ w := by
    induction fs with
    | nil => simp
    | cons x t ih =>
      intro acc
      have field : (x.2.2 % 2 ^ x.2.1) * 2 ^ x.1 ≤ 2 ^ w := calc
        _ ≤ 2 ^ x.2.1 * 2 ^ x.1 := Nat.mul_le_mul_right _ (Nat.mod_lt _ (Nat.two_pow_pos _)).le
        _ = 2 ^ (x.1 + x.2.1) := by rw [← pow_add, Nat.add_comm]
        _ ≤ 2 ^ w := Nat.pow_le_pow_right (by decide) (h x (by simp))
      have rest := ih (fun y hy => h y (List.mem_cons_of_mem _ hy)) (acc + (x.2.2 % 2 ^ x.2.1) * 2 ^ x.1)
      rw [List.foldl_cons, List.length_cons, Nat.succ_mul]
      omega
  have all := sum 0
  rwa [Nat.zero_add] at all

theorem lockId_bound (lane slot core dev fill : Nat) : lockId lane slot core dev fill < 2 ^ 128 := by
  have fields := packBits_bound [(0, 1, 1), (1, 5, lane), (6, 6, slot), (12, 9, core), (21, 12, dev), (33, 8, fill)] (w := 41) (by simp)
  exact fields.trans_lt (by norm_num)

/-- What one lane's lock instruction does with the word (R102, R103). -/
def MemOp.lock (o : MemOp) (x id : Nat) : Nat × Nat := if o.kind = .acq then lockAcq x id else lockRel x id

theorem atomEval_lock {o : MemOp} (kind : o.kind = .acq ∨ o.kind = .rel) (ty x id : Nat) :
    (atomEval o.code ty x [id]).1 = (o.lock x id).1 ∧ (atomEval o.code ty x [id]).2.getD 0 0 = (o.lock x id).2 := by
  rcases kind with kind | kind <;> simp [MemOp.code, MemOp.lock, kind, atomEval, lockAcqs, lockRels]

/-- A lock instruction of one lane on a line that the L1 may write is performed at once. -/
theorem lock_present {s : State} {c gs : Nat} {f : InsF} {o : MemOp} {l a : Nat} {fl : L1Line} (slot : gs < 64)
    (kind : o.kind = .acq ∨ o.kind = .rel) (dst : o.dst = f.d) (adv : o.adv = false)
    (single : memLanes (s.dev.group c gs) f (isU f.d) = [l])
    (one : OneLine s c gs [l] (laneVa (s.dev.group c gs) f.a 0 8) 8 (fun _ => a) (gaLine a) fl) (near : NearLine s c o.hint (gaLine a) fl) :
    let r := o.lock (lineGet fl.data (a % 128) 8) (lockId l gs c s.dev.id (mget 0 (s.dev.core c).fills gs % 256))
    let e := memPresent s.clk c gs f o f.a 0 8 (isU f.d) (fun _ l a => lockFill s.dev c gs l a) s.dev
    Piped c gs s.dev e ∧
      (∃ i, (s.dev.core c).l1Find (gaLine a) = some i ∧ mget? (s.dev.core c).l1 i = some fl ∧
        (e.core c).l1 = mput (s.dev.core c).l1 i (fl.atom (a % 128) 8 r.1)) ∧
      ∃ spins held, e.group c gs = ((s.dev.group c gs).locked f.d l r.2 spins held).advance f.len ∧
        (o.kind = .rel → spins = (s.dev.group c gs).spins) := by
  intro r e
  have align : o.align = 8 := if_pos kind
  have other : o.kind ≠ .cflush ∧ o.kind ≠ .cinv ∧ o.kind ≠ .load ∧ o.kind ≠ .store := by rcases kind with kind | kind <;> simp [kind]
  obtain ⟨notFlush, notInv, notLoad, notStore⟩ := other
  obtain ⟨acc, i, found, listed, placed, present, hits⟩ := oneLine_present (o := o) (addrA := f.a) (imm := 0) (fl := fl)
    (by rw [single, align]; exact one) ⟨notFlush, notInv⟩ (fun _ _ => runsFar_near near.near) (.inr near.writable)
    (fill := fun _ l a => lockFill s.dev c gs l a) fun _ _ a => ⟨_, a.data2, rfl⟩
  rw [single] at placed present hits
  let o' := s.dev.taken c gs f o (isU f.d) [acc l]
  have hits' : Hits (s.dev.enter c o') c (s.dev.core c).nextOp (gaLine a) o' i fl := hits (by simp)
  obtain ⟨at', b, filled⟩ := placed l (by simp)
  have data : (acc l).data.toNat = lockId l gs c s.dev.id (mget 0 (s.dev.core c).fills gs % 256) := by
    rw [filled]
    exact (BitVec.toNat_ofNat ..).trans (Nat.mod_eq_of_lt (lockId_bound ..))
  obtain ⟨served, l1, spins, held, group, kept⟩ := lock_serves (touched_only hits') hits'.lanes (ga := a)
    (fun b hb => by rw [List.mem_singleton.mp hb]; exact at'.place)
    ((l1Find_congr (touched_l1 ..) _).trans found) ((congrArg (mget? · i) (touched_l1 ..)).trans listed) one.clean slot kind rfl s.clk none
  obtain ⟨piped, -, l1', group'⟩ := runOp_hits (k := s.clk) hits' slot adv rfl one.room ((if_neg notLoad).trans (if_neg notStore)) served f.len
  obtain ⟨word, status⟩ := atomEval_lock kind o.ty (lineGet fl.data (a % 128) 8)
    (lockId l gs c s.dev.id (mget 0 (s.dev.core c).fills gs % 256))
  rw [data, touched_l1, show o'.code = o.code from rfl, show o'.ty = o.ty from rfl, word] at l1
  rw [data, touched_group, at'.lane, show o'.code = o.code from rfl, show o'.ty = o.ty from rfl, status] at group
  rw [touched_group] at kept
  have eq : e = s.dev.runOp s.clk c gs f.len o' := present
  rw [eq]
  exact ⟨piped, ⟨i, found, listed, l1'.trans l1⟩, spins, held, group'.trans (by rw [group, ← dst]; rfl), kept⟩

/-- What a lock instruction leaves that has been performed: the status, the word, and its group goes on. -/
theorem lock_leaves {s t : State} {e : Dev} {c gs : Nat} {f : InsF} {l a len : Nat} {r : Nat × Nat} {fl : L1Line} {spins : List (Nat × Nat)}
    {held : BitVec 32} (hr : s.dev.rOf c gs ≤ 255) (legal : regOk (s.dev.rOf c gs) f.d 1 = true)
    (single : memLanes (s.dev.group c gs) f (isU f.d) = [l]) (piped : Piped c gs s.dev e) (settled : Settled s e t)
    (word : ∃ i, (s.dev.core c).l1Find (gaLine a) = some i ∧ mget? (s.dev.core c).l1 i = some fl ∧
      (e.core c).l1 = mput (s.dev.core c).l1 i (fl.atom (a % 128) 8 r.1))
    (group : e.group c gs = ((s.dev.group c gs).locked f.d l r.2 spins held).advance len) :
    ∃ i fl', OutsideSame s c t ∧ Wrote (s.dev.group c gs) (t.dev.group c gs) f 1 (fun _ => r.2) ∧
      (t.dev.group c gs).pc = ((s.dev.group c gs).advance len).pc ∧ (t.dev.group c gs).spins = spins ∧
      (t.dev.core c).l1Find (gaLine a) = some i ∧ mget? (t.dev.core c).l1 i = some fl' ∧ fl'.data = lineSet fl.data (a % 128) 8 r.1 := by
  obtain ⟨i, found, listed, l1⟩ := word
  have result : (s.dev.group c gs).setOpnd f.d 1 l r.2 = putResult (s.dev.group c gs) f 1 fun _ => r.2 := by
    unfold memLanes at single
    unfold putResult Group.writeLanes
    split at single
    · next uniform => rw [if_pos uniform, List.singleton_inj.mp single]
    · next lanes => rw [if_neg lanes, single]; rfl
  have own := (settled.group c gs).trans group
  have wrote := putResult_writes (s.dev.group c gs) f (fun _ => r.2) hr legal
  obtain ⟨v, u, p, regs⟩ := setOpnd_regsOnly (s.dev.group c gs) f.d 1 l r.2
  have l1' : (t.dev.core c).l1 = mput (s.dev.core c).l1 i (fl.atom (a % 128) 8 r.1) := (congrArg Core.l1 (settled.core c)).trans l1
  refine ⟨i, fl.atom (a % 128) 8 r.1, piped.outsideSame settled, ?_, ?_, ?_,
    l1Find_mput (f := fl.atom (a % 128) 8 r.1) found (line_of_l1Find found listed).1 nofun l1', ?_, rfl⟩
  · rw [own]
    rw [← result] at wrote
    exact ⟨wrote.uniform, wrote.perLane, wrote.predicate, wrote.others⟩
  · rw [own]
    unfold Group.locked
    rw [regs]
    rfl
  · rw [own]
    rfl
  · rw [l1', mget?_mput, if_pos rfl]

theorem lock_legal {r : Nat} {f : InsF} (word : (lockShape r f).ok f = true) : regOk r f.d 1 = true := by
  simp only [Shape.ok, lockShape, Bool.and_eq_true] at word
  obtain ⟨⟨⟨⟨⟨⟨⟨⟨-, legal⟩, -⟩, -⟩, -⟩, -⟩, -⟩, -⟩, -⟩ := word
  exact legal

section
variable {c : Fin 512} {gs : Fin 64} {f : InsF} {s : State} {l a : Nat} {fl : L1Line}

/-- The device whose group has forgotten its spin counts, as a REL leaves it (R62). -/
def Dev.unspun (d : Dev) (c s : Nat) : Dev := d.updGroup c s fun g => { g with spins := [] }

theorem unspun_group (d : Dev) (c : Nat) (gs : Fin 64) : (d.unspun c gs).group c gs = { d.group c gs with spins := [] } :=
  (group_updGroup d c gs c gs _ gs.isLt).trans (if_pos ⟨rfl, rfl⟩)

theorem unspun_core (d : Dev) (c s : Nat) : (d.unspun c s).core c = { d.core c with groups := ((d.unspun c s).core c).groups } :=
  updGroup_core ..

/-- What a lock instruction leaves of a group does not depend on the spin counts that the group had. -/
theorem locked_unspun (g : Group) (dst lane status : Nat) (spins : List (Nat × Nat)) (held : BitVec 32) :
    Group.locked { g with spins := [] } dst lane status spins held = g.locked dst lane status spins held := by
  have reg : ∀ (g : Group) r l v, ({ g with spins := [] } : Group).setReg r l v = { g.setReg r l v with spins := [] } := fun g r l v => by
    unfold Group.setReg
    split
    · rfl
    · split
      · rfl
      · split <;> rfl
  have opnd : ({ g with spins := [] } : Group).setOpnd dst 1 lane status = { g.setOpnd dst 1 lane status with spins := [] } := by
    unfold Group.setOpnd
    split
    · rfl
    · exact reg ..
  unfold Group.locked
  rw [opnd]

/-- Spin counts do not matter to where a group's addresses lead. -/
theorem unspun_xlate (d : Dev) (c : Nat) (gs : Fin 64) (va need : Nat) : (d.unspun c gs).coreXlate c gs va need = d.coreXlate c gs va need := by
  have group := unspun_group d c gs
  have block : ((d.unspun c gs).core c).blockOf gs = (d.core c).blockOf gs := by
    have at' : ((d.unspun c gs).core c).group gs = { (d.core c).group gs with spins := [] } := group
    unfold Core.blockOf
    rw [at', unspun_core]
    rfl
  have lookup : ∀ x, (d.unspun c gs).coreLookup c x va = d.coreLookup c x va := fun x => by
    unfold Dev.coreLookup
    rw [unspun_core]
    rfl
  unfold Dev.coreXlate
  simp only [block, group, lookup]

theorem oneLine_unspun {lanes : List Nat} {va : Nat → Nat} {need line : Nat} {ga : Nat → Nat} (one : OneLine s c gs lanes va need ga line fl) :
    OneLine { s with dev := s.dev.unspun c gs } c gs lanes va need ga line fl := by
  have core := unspun_core s.dev c gs
  refine ⟨fun l hl => ?_, ?_, ?_, ?_, ?_, (takeLatent_congr (d := s.dev) (e := s.dev.unspun c gs) rfl ..).trans one.sound, one.clean, ?_⟩
  · rw [unspun_xlate]
    exact one.xlate l hl
  all_goals
    dsimp only
    rw [core]
  · exact one.held
  · exact one.alone
  · exact one.noMiss
  · exact one.noEvict
  · exact one.room

theorem acq_completes (hr : s.dev.rOf c gs ≤ 255) (h : Presents s c gs f (lockShape (s.dev.rOf c gs) f))
    (single : memLanes (s.dev.group c gs) f (isU f.d) = [l])
    (one : OneLine s c gs [l] (laneVa (s.dev.group c gs) f.a 0 8) 8 (fun _ => a) (gaLine a) fl)
    (near : NearLine s c (f.bits 61 60) (gaLine a) fl) (few : mget 0 (s.dev.group c gs).spins l / 32 < 64) :
    let r := lockAcq (lineGet fl.data (a % 128) 8) (lockId l gs c s.dev.id (mget 0 (s.dev.core c).fills gs % 256))
    ∃ t i fl', exec (.acq c gs f) s = .next t ∧ OutsideSame s c t ∧ Wrote (s.dev.group c gs) (t.dev.group c gs) f 1 (fun _ => r.2) ∧
      (t.dev.group c gs).pc = ((s.dev.group c gs).advance f.len).pc ∧ (t.dev.core c).l1Find (gaLine a) = some i ∧
      mget? (t.dev.core c).l1 i = some fl' ∧ fl'.data = lineSet fl.data (a % 128) 8 r.1 := by
  intro r
  let o : MemOp := { MemOp.reset with kind := .acq, dst := f.d, hint := f.bits 61 60, acq := true }
  obtain ⟨piped, word, spins, held, group, -⟩ := lock_present (o := o) gs.isLt (.inl rfl) rfl rfl single one near
  have patient : (memLanes (s.dev.group c gs) f (isU f.d)).find? (fun l => decide (64 ≤ mget 0 (s.dev.group c gs).spins l / 32)) = none := by
    simp [single, few]
  obtain ⟨t, ht, settled⟩ := issue_settles (sh := fun d => lockShape (d.rOf c gs) f) (eff := fun d =>
      let g := d.group c gs
      match (memLanes g f (isU f.d)).find? fun l => decide (64 ≤ mget 0 g.spins l / 32) with
      | some l => d.parkGroup s.clk c gs 6 g.pc (laneVa g f.a 0 8 l) (mget 0 g.spins l % 32) 0 g.whole
      | none => memPresent s.clk c gs f o f.a 0 8 (isU f.d) (fun _ l a => lockFill d c gs l a) d)
    h (by dsimp only; rw [patient]) (piped.calm h.calm)
  obtain ⟨i, fl', outside, wrote, pc, -, found, listed, data⟩ := lock_leaves hr (lock_legal h.word) single piped settled word group
  exact ⟨t, i, fl', ht, outside, wrote, pc, found, listed, data⟩

theorem rel_completes (hr : s.dev.rOf c gs ≤ 255) (h : Presents s c gs f (lockShape (s.dev.rOf c gs) f))
    (single : memLanes (s.dev.group c gs) f (isU f.d) = [l])
    (one : OneLine s c gs [l] (laneVa (s.dev.group c gs) f.a 0 8) 8 (fun _ => a) (gaLine a) fl)
    (near : NearLine s c (f.bits 61 60) (gaLine a) fl) :
    let r := lockRel (lineGet fl.data (a % 128) 8) (lockId l gs c s.dev.id (mget 0 (s.dev.core c).fills gs % 256))
    ∃ t i fl', exec (.rel c gs f) s = .next t ∧ OutsideSame s c t ∧ Wrote (s.dev.group c gs) (t.dev.group c gs) f 1 (fun _ => r.2) ∧
      (t.dev.group c gs).pc = ((s.dev.group c gs).advance f.len).pc ∧ (t.dev.group c gs).spins = [] ∧
      (t.dev.core c).l1Find (gaLine a) = some i ∧ mget? (t.dev.core c).l1 i = some fl' ∧ fl'.data = lineSet fl.data (a % 128) 8 r.1 := by
  intro r
  let o : MemOp := { MemOp.reset with kind := .rel, dst := f.d, hint := f.bits 61 60 }
  let d' := s.dev.unspun c gs
  have core := unspun_core s.dev c gs
  have own : d'.group c gs = { s.dev.group c gs with spins := [] } := unspun_group ..
  have idle : s.dev.hasOps c gs = false := by simp [Dev.hasOps, one.alone]
  have forget : (if (memLanes (s.dev.group c gs) f (isU f.d)).isEmpty = true then s.dev
      else s.dev.updGroup c gs fun g => { g with spins := [] }) = d' := if_neg (by simp [single])
  obtain ⟨piped, word, spins, held, group, kept⟩ := lock_present (s := { s with dev := d' }) (o := o) (f := f) (l := l) (a := a) (fl := fl) gs.isLt
    (.inr rfl) rfl rfl (by rw [own]; exact single) (by rw [own]; exact oneLine_unspun one) ⟨by dsimp only; rw [core]; exact near.near, near.writable⟩
  have all : Piped c gs s.dev _ := (piped_updGroup s.dev fun g => { g with spins := [] }).trans piped
  obtain ⟨t, ht, settled⟩ := issue_settles (sh := fun d => lockShape (d.rOf c gs) f) (eff := fun d =>
      if d.hasOps c gs then d
      else
        let d := if (memLanes (d.group c gs) f (isU f.d)).isEmpty then d else d.updGroup c gs fun g => { g with spins := [] }
        memPresent s.clk c gs f o f.a 0 8 (isU f.d) (fun _ l a => lockFill d c gs l a) d)
    h (by dsimp only; rw [if_neg (by simp [idle]), forget]) (all.calm h.calm)
  have none' : spins = [] := (kept rfl).trans (by dsimp only; rw [own])
  dsimp only at word group
  rw [core] at word
  rw [own, core, locked_unspun] at group
  obtain ⟨i, fl', outside, wrote, pc, count, found, listed, data⟩ := lock_leaves hr (lock_legal h.word) single all settled word
    (r := r) (spins := spins) (held := held) group
  exact ⟨t, i, fl', ht, outside, wrote, pc, count.trans none', found, listed, data⟩

end

/-- Settles O15: an ACQ acts on the word as it finds it, a REL once its group's spin counts are forgotten. -/
theorem lockWords : Obligations.LockWords := by
  intro c gs f s g l a fl hg hr h _ single one near
  subst hg
  exact ⟨acq_completes hr h single one near, rel_completes hr h single one near⟩

end Sys2Proof.Machine

namespace Sys2Proof.Machine

/-! ### ATOML on one location of local memory (R98, R100) -/

/-- Results that are handed to the lanes of an instruction by their places are a result of it (R86, R100). -/
theorem zipIdx_result (g : Group) (f : InsF) (n : Nat) (res : List Nat) :
    ((memLanes g f (isU f.d)).zipIdx).foldl (fun g e => g.setOpnd f.d n e.1 (res.getD e.2 0)) g =
      putResult g f n fun l => res.getD ((memLanes g f (isU f.d)).idxOf l) 0 := by
  rw [foldl_zipIdx (fun g l i => Group.setOpnd g f.d n l (res.getD i 0)) (memLanes_nodup ..)]
  unfold putResult Group.writeLanes memLanes
  split <;> rfl

/-- A local-memory access whose offsets are within the block's allocation, and for a store outside every held region, passes the checks
(R45, R65). -/
theorem lmPresent_passes {d : Dev} {c s w : Nat} {f : InsF} {xs : List (Nat × Nat)} {store : Bool}
    (inside : ∀ x ∈ xs, x.2 < ((d.core c).block (d.group c s).block).lmSize)
    (free : store = true → ∀ x ∈ xs, (d.core c).heldBy (d.group c s).block x.2 w = none) (k : Clock) (eff : Dev → Dev) :
    lmPresent k c s f w xs store eff d = eff d := by
  have bounds : xs.find? (fun x => decide (((d.core c).block ((d.core c).group s).block).lmSize ≤ x.2)) = none :=
    List.find?_eq_none.mpr fun x hx out => Nat.not_le.mpr (inside x hx) (of_decide_eq_true out)
  have open' : (store && ((d.core c).heldHit ((d.core c).group s).block w (xs.map Prod.snd)).isSome) = false := by
    cases hs : store with
    | false => rfl
    | true =>
      have none' : (d.core c).heldHit ((d.core c).group s).block w (xs.map Prod.snd) = none :=
        List.findSome?_eq_none_iff.mpr fun o ho => by
          obtain ⟨x, hx, rfl⟩ := List.mem_map.mp ho
          exact Option.map_eq_none_iff.mpr (free hs x hx)
      simp [none']
  unfold lmPresent
  dsimp only
  rw [bounds]
  dsimp only
  rw [open', if_neg (by decide)]

/-- What an ATOML does once its checks are passed, its lanes at these offsets. -/
def Dev.atomLocal (d : Dev) (k : Clock) (c s op : Nat) (f : InsF) (g : Group) (xs : List (Nat × Nat)) : Dev :=
  let w := accWidth f.ty
  let b := (d.core c).block g.block
  let d := xs.foldl (fun d x => d.meetLm k c b x.2 w) d
  let bad := xs.filter fun x => (d.core c).lmBad b x.2 w
  let good := xs.filter fun x => !(d.core c).lmBad b x.2 w
  let offs := (good.map Prod.snd).eraseDups
  let d := offs.foldl (fun d off => atomlOne c s op f b off ((good.filter fun x => x.2 == off).map Prod.fst) d) d
  d.endLocal k c s f bad

/-- An ATOML whose lanes name one open location acts on it once, and the group moves on. -/
theorem atomLocal_open {s : State} {c gs off op : Nat} {f : InsF} {store : Bool} (hs : gs < 64)
    (busy : memLanes (s.dev.group c gs) f (isU f.d) ≠ []) (opened : LmOpen s c (s.dev.group c gs) off (accWidth f.ty) store) :
    let g := s.dev.group c gs
    let b := (s.dev.core c).block g.block
    let lanes := memLanes g f (isU f.d)
    let r := atomEval op f.ty ((s.dev.core c).lmGet b off (accWidth f.ty)) (lanes.flatMap fun l =>
      if op = 7 then [g.opnd f.b (dstCount f.ty) l, g.opnd f.c (dstCount f.ty) l] else [g.opnd f.b (dstCount f.ty) l])
    s.dev.atomLocal s.clk c gs op f g (lanes.map fun l => (l, off)) = s.dev.setCore c
      (((s.dev.core c).lmPut b (bytesAt off (accWidth f.ty) r.1) false).setGroup gs
        ((putResult g f (dstCount f.ty) fun l => r.2.getD (lanes.idxOf l) 0).advance f.len)) := by
  intro g b lanes r
  have there : ∀ x ∈ lanes.map fun l => (l, off), x.2 = off := fun x hx => by
    obtain ⟨l, -, rfl⟩ := List.mem_map.mp hx
    rfl
  have read : (lanes.map fun l => (l, off)).foldl (fun d x => d.meetLm s.clk c b x.2 (accWidth f.ty)) s.dev = s.dev :=
    foldl_stays fun x hx => by
      rw [there x hx]
      exact meetLm_sound opened.sound _
  have clean : ∀ x ∈ lanes.map fun l => (l, off), (s.dev.core c).lmBad b x.2 (accWidth f.ty) = false := fun x hx => by
    rw [there x hx]
    exact opened.clean
  have bad : (lanes.map fun l => (l, off)).filter (fun x => (s.dev.core c).lmBad b x.2 (accWidth f.ty)) = [] :=
    List.filter_eq_nil_iff.mpr fun x hx => by simp [clean x hx]
  have good : (lanes.map fun l => (l, off)).filter (fun x => !(s.dev.core c).lmBad b x.2 (accWidth f.ty)) = lanes.map fun l => (l, off) :=
    List.filter_eq_self.mpr fun x hx => by simp [clean x hx]
  have offs : ((lanes.map fun l => (l, off)).map Prod.snd).eraseDups = [off] := eraseDups_const (by simpa using busy) fun x hx => by
    obtain ⟨y, hy, rfl⟩ := List.mem_map.mp hx
    exact there y hy
  have mine : ((lanes.map fun l => (l, off)).filter fun x => x.2 == off).map Prod.fst = lanes := by
    rw [List.filter_eq_self.mpr fun x hx => by simp [there x hx], List.map_map]
    exact List.map_id _
  unfold Dev.atomLocal
  dsimp only
  rw [read, bad, good, offs, List.foldl_cons, List.foldl_nil, mine]
  unfold Dev.endLocal atomlOne Dev.updGroup
  dsimp only
  rw [setGroup_setGroup _ _ hs, setGroup_group _ _ _ hs, if_pos rfl, updCore_group s.dev c _ rfl, zipIdx_result]
  unfold Dev.setGroup
  rw [updCore_updCore]
  rfl

/-- An ATOML completes whenever its lanes name one open location of local memory. -/
theorem atoml_completes {i : Fin 512 → Fin 64 → InsF → Instr} {op : Nat} (hi : ∀ c gs f s, exec (i c gs f) s = atomlIns op c gs f s) :
    AtomlCompletes i op := by
  intro c gs f s g off hg hr h b lanes w n r busy there order opened
  subst hg
  have legal := atom_legal h.word
  have accesses : lanes.map (fun l => (l, lmOff (s.dev.group c gs) f.a 0 w l)) = lanes.map fun l => (l, off) :=
    List.map_congr_left fun l hl => by rw [there l hl]
  have within : ∀ x ∈ lanes.map fun l => (l, off), x.2 = off := fun x hx => by
    obtain ⟨l, -, rfl⟩ := List.mem_map.mp hx
    rfl
  have passes := lmPresent_passes (d := s.dev) (c := c) (s := gs) (w := w) (f := f) (xs := lanes.map fun l => (l, off)) (store := true)
    (fun x hx => by rw [within x hx]; exact opened.inside) (fun _ x hx => by rw [within x hx]; exact opened.free rfl) s.clk
    fun e => e.atomLocal s.clk c gs op f (s.dev.group c gs) (lanes.map fun l => (l, off))
  have acts := passes.trans (atomLocal_open gs.isLt busy opened)
  rw [← accesses] at acts
  have may : ¬ (2 ≤ f.bits 59 58 ∧ s.dev.hasOps c gs = true) := fun held => by simp [order held.1] at held
  obtain ⟨t, ht, settled⟩ := issue_settles (sh := fun d => atomShape op (d.rOf c gs) true f)
    (eff := fun d =>
      let g := d.group c gs
      let w := accWidth f.ty
      let xs := (memLanes g f (isU f.d)).map fun l => (l, lmOff g f.a 0 w l)
      if 2 ≤ f.bits 59 58 ∧ d.hasOps c gs = true then d else lmPresent s.clk c gs f w xs true (fun e => e.atomLocal s.clk c gs op f g xs) d)
    h ((if_neg may).trans acts) h.calm
  have core := (settled.core c).trans ((core_setCore ..).trans (if_pos rfl))
  have groups : ∀ j, t.dev.group c j = if j = gs.val then (putResult (s.dev.group c gs) f n fun l => r.2.getD (lanes.idxOf l) 0).advance f.len
      else s.dev.group c j := fun j => by
    unfold Dev.group
    rw [core, group_setGroup _ _ _ _ gs.isLt]
    rfl
  refine ⟨t, (hi c gs f s).trans ht, coreFrame_setCore settled, fun j hj => by rw [groups, if_neg hj], ?_, ?_, ?_⟩
  · rw [groups, if_pos rfl]
    exact wrote_advance (putResult_writes _ f _ hr legal) _
  · rw [groups, if_pos rfl]
    exact moved_of_regsOnly f (putResult_regsOnly ..)
  · rw [core]
    exact setGroup_lm ..

/-- Settles O12: each is an ATOML of its own operation. -/
theorem atomicsLocal : Obligations.AtomicsLocal := by
  refine ⟨?_, ?_, ?_, ?_, ?_, ?_, ?_, ?_⟩ <;> exact atoml_completes fun _ _ _ _ => rfl

end Sys2Proof.Machine

namespace Sys2Proof.Machine

/-! ### The matrix queue accepts an instruction (R52, R109, R114) -/

theorem lowestFree_below {n : Nat} (pos : 0 < n) (used : List Nat) : (lowestFree n used).getD 0 < n := by
  cases found : lowestFree n used with
  | none => exact pos
  | some i => exact List.mem_range.mp (List.mem_of_find?_eq_some found)

/-- Ending a claim concerns the tiles alone (R116). -/
theorem endClaim_queue (k : Core) (t b : Nat) : (k.endClaim t b).mxq = k.mxq ∧ (k.endClaim t b).mxSerial = k.mxSerial := by
  unfold Core.endClaim Core.setTile
  dsimp only
  split
  · split <;> exact ⟨rfl, rfl⟩
  · exact ⟨rfl, rfl⟩

/-- The core once it has accepted a matrix instruction, which ends the claim on its tile when `release` says so (R114, R116). -/
def Core.accepted (k : Core) (s : Nat) (e : MxEntry) (release : Bool) : Core :=
  if release then (k.mxAccept s e).2.endClaim e.tile (k.group s).block else (k.mxAccept s e).2

/-- The entry that holds an accepted instruction (R109). -/
def Core.entryOf (k : Core) (s : Nat) (e : MxEntry) : MxEntry :=
  let b := k.block (k.group s).block
  { e with serial := k.mxSerial, block := (k.group s).block, ctx := b.ctx, claims := (k.tile e.tile).claim != some (k.group s).block, queue := b.queue }

theorem accepted_queue (k : Core) (s : Nat) (e : MxEntry) (release : Bool) :
    (k.accepted s e release).mxSerial = (k.mxSerial + 1) % 2 ^ 29 ∧
      ∃ n < 8, (k.mxAccept s e).1 = n + k.mxSerial * 8 ∧ mget? (k.accepted s e release).mxq n = some (k.entryOf s e) := by
  let n := (lowestFree 8 ((k.mxq.filter fun e => !e.2.done).map Prod.fst)).getD 0
  have queue : (k.mxAccept s e).2.mxSerial = (k.mxSerial + 1) % 2 ^ 29 ∧ mget? (k.mxAccept s e).2.mxq n = some (k.entryOf s e) := by
    refine ⟨rfl, ?_⟩
    have mxq : (k.mxAccept s e).2.mxq = mput k.mxq n (k.entryOf s e) := rfl
    rw [mxq, mget?_mput, if_pos rfl]
  obtain ⟨kept, serial⟩ := endClaim_queue (k.mxAccept s e).2 e.tile (k.group s).block
  unfold Core.accepted
  split
  · exact ⟨serial.trans queue.1, n, lowestFree_below (by decide) _, rfl, by rw [kept]; exact queue.2⟩
  · exact ⟨queue.1, n, lowestFree_below (by decide) _, rfl, queue.2⟩

theorem accepted_groups (k : Core) (s : Nat) (e : MxEntry) (release : Bool) : (k.accepted s e release).groups = k.groups := by
  have accept : (k.mxAccept s e).2.groups = k.groups := setTile_groups ..
  unfold Core.accepted
  split
  · rw [endClaim_groups, accept]
  · exact accept

/-- An accepted instruction changes its core, and of the groups its own. -/
theorem mxIssue_eq (d : Dev) (c s : Nat) (f : InsF) (e : MxEntry) (release : Bool) :
    d.mxIssue c s f e release = d.setCore c (((d.core c).accepted s e release).setGroup s
      (((d.group c s).setReg f.d 0 (BitVec.ofNat 32 ((d.core c).mxAccept s e).1)).advance f.len)) := by
  have same : (d.updCore c fun _ => (d.core c).accepted s e release).group c s = d.group c s := updCore_group d c _ (accepted_groups ..) c s
  have issued : d.mxIssue c s f e release = (d.updCore c fun _ => (d.core c).accepted s e release).updGroup c s
      fun g => (g.setReg f.d 0 (BitVec.ofNat 32 ((d.core c).mxAccept s e).1)).advance f.len := rfl
  rw [issued]
  unfold Dev.updGroup
  rw [same]
  unfold Dev.setGroup
  rw [updCore_updCore]
  rfl

section
variable {s t : State} {c : Nat} {gs : Fin 64} {f : InsF} {e : MxEntry} {release : Bool}

theorem mxIssue_accepted (uniform : isU f.d = true) (tile : e.tile = f.bits 50 50) (waits : e.phase = .queued) (open' : e.done = false)
    (settled : Settled s (s.dev.mxIssue c gs f e release) t) : MxAccepted s c gs f e.op t := by
  rw [mxIssue_eq] at settled
  have core := (settled.core c).trans ((core_setCore ..).trans (if_pos rfl))
  obtain ⟨serial, n, below, token, entry⟩ := accepted_queue (s.dev.core c) gs e release
  have groups : ∀ j, t.dev.group c j = if j = gs.val then
      ((s.dev.group c gs).setReg f.d 0 (BitVec.ofNat 32 ((s.dev.core c).mxAccept gs e).1)).advance f.len else s.dev.group c j := fun j => by
    unfold Dev.group
    rw [core, group_setGroup _ _ _ _ gs.isLt]
    unfold Core.group
    rw [accepted_groups]
    rfl
  have kept : (t.dev.core c).mxq = ((s.dev.core c).accepted gs e release).mxq ∧
      (t.dev.core c).mxSerial = ((s.dev.core c).accepted gs e release).mxSerial := by
    rw [core]
    unfold Core.setGroup
    split <;> exact ⟨rfl, rfl⟩
  refine ⟨coreFrame_setCore settled, fun j hj => by rw [groups, if_neg hj], kept.2.trans serial, ?_, n, (s.dev.core c).entryOf gs e, below,
    by rw [kept.1]; exact entry, rfl, tile, rfl, rfl, waits, open', ?_⟩
  · rw [groups, if_pos rfl]
    exact moved_of_regsOnly f (setReg_regsOnly ..)
  · rw [groups, if_pos rfl, token]
    exact reg_setReg_same _ _ _ _ (.inr uniform)

end

section
variable {s : State} {c : Fin 512} {gs : Fin 64} {f : InsF}

/-- A matrix instruction whose tile and queue are free to its block and that passes its checks is accepted. -/
theorem mxPresent_accepts {mods : Nat} {aDesc bDesc cCount : Bool} (h : Presents s c gs f (mxShape f mods aDesc bDesc cCount))
    (free : (s.dev.core c).mxAccepts (f.bits 50 50) (s.dev.group c gs).block = true) {check : Core → Block → Option (Nat × Nat × Nat)}
    (passes : check (s.dev.core c) ((s.dev.core c).block (s.dev.group c gs).block) = none) {make : Core → Block → MxEntry} {op : MxOp}
    (made : ∀ k b, (make k b).op = op ∧ (make k b).phase = .queued ∧ (make k b).done = false) {release : Bool} {eff : Dev → Dev}
    (acts : eff s.dev = mxPresent s.clk c gs f (f.bits 50 50) check make release s.dev) :
    ∃ t, onMem s (fun d => issue s.clk c gs f (mxShape f mods aDesc bDesc cCount) eff d) = .next t ∧ MxAccepted s c gs f op t := by
  let entry := make (s.dev.core c) ((s.dev.core c).block (s.dev.group c gs).block)
  obtain ⟨code, waits, open'⟩ := made (s.dev.core c) ((s.dev.core c).block (s.dev.group c gs).block)
  have accepts : eff s.dev = s.dev.mxIssue c gs f { entry with tile := f.bits 50 50 } release := by
    have block : ((s.dev.core c).group gs).block = (s.dev.group c gs).block := rfl
    rw [acts]
    unfold mxPresent
    dsimp only
    rw [block, free, passes]
    rfl
  have uniform : isU f.d = true := by
    have word := h.word
    simp only [Shape.ok, mxShape, Bool.and_eq_true] at word
    obtain ⟨⟨⟨⟨⟨⟨⟨-, uniform⟩, -⟩, -⟩, -⟩, -⟩, -⟩, -⟩ := word
    exact uniform
  obtain ⟨t, ht, settled⟩ := issue_settles (sh := fun _ => mxShape f mods aDesc bDesc cCount) h accepts (by rw [mxIssue_eq]; exact h.calm)
  have accepted := mxIssue_accepted (e := { entry with tile := f.bits 50 50 }) uniform rfl waits open' settled
  rw [show ({ entry with tile := f.bits 50 50 } : MxEntry).op = op from code] at accepted
  exact ⟨t, ht, accepted⟩

/-- A group that waits for a completed token takes its status word (R123). -/
theorem mxwait_completes (h : Presents s c gs f (mxwaitShape f)) {w : Nat}
    (completed : mxStatus (s.dev.core c) (s.dev.group c gs).block ((s.dev.group c gs).reg f.a 0).toNat = some w) :
    ∃ t, exec (.mxwait c gs f) s = .next t ∧ GroupFrame s c gs t ∧ (t.dev.group c gs).reg f.d 0 = BitVec.ofNat 32 w ∧
      (t.dev.group c gs).pc = ((s.dev.group c gs).advance 8).pc ∧
      ∀ r l, l < 32 → r ≠ f.d → (t.dev.group c gs).reg r l = (s.dev.group c gs).reg r l := by
  have uniform : isU f.d = true := by
    have word := h.word
    simp only [Shape.ok, mxwaitShape, Bool.and_eq_true] at word
    obtain ⟨⟨⟨⟨⟨⟨-, uniform⟩, -⟩, -⟩, -⟩, -⟩, -⟩ := word
    exact uniform
  obtain ⟨t, ht, frame, own⟩ := issue_gives (g := ((s.dev.group c gs).setReg f.d 0 (BitVec.ofNat 32 w)).advance 8)
    (eff := fun d =>
      let g := d.group c gs
      match mxStatus (d.core c) g.block (g.reg f.a 0).toNat with
      | none => d
      | some w => d.setGroup c gs ((g.setReg f.d 0 (BitVec.ofNat 32 w)).advance 8)) h gs.isLt (by dsimp only; rw [completed])
  obtain ⟨v, u, p, regs⟩ := setReg_regsOnly (s.dev.group c gs) f.d 0 (BitVec.ofNat 32 w)
  refine ⟨t, ht, frame, ?_, ?_, fun r l hl other => ?_⟩
  · rw [own]
    exact reg_setReg_same _ _ _ _ (.inr uniform)
  · rw [own, regs]
    rfl
  · rw [own]
    exact reg_setReg_other _ _ _ _ _ _ (by decide) hl (.inl other)

end

/-- The entry of MXZERO (R119). -/
def zeroEntry (f : InsF) : MxEntry :=
  { MxEntry.reset with op := .zero, kindArg := match f.bits 52 51 with
    | 0 => .unset
    | 1 => .fp32
    | 2 => .bf16
    | _ => .int32 }

/-- The entry of MXSTREAM or MXDIAG on two descriptors (R120, R121). -/
def operandsEntry (op : MxOp) (offA offB steps : Nat) (k : Core) (b : Block) : MxEntry :=
  { MxEntry.reset with op := op, da := mxDesc (descWords k b offA), db := mxDesc (descWords k b offB), k := steps }

/-- The entry of MXDRAIN (R122). -/
def drainEntry (f : InsF) (off : Nat) (fuse : Option Nat) (k : Core) (b : Block) : MxEntry :=
  { MxEntry.reset with
    op := .drain, da := mxDesc (descWords k b off), zeroAfter := f.bits 52 52 == 1
    fuse := match fuse with | some o => mxFuse (descWords k b o) | none => MxFuse.reset }

/-- Settles O16: each matrix instruction presents its own checks and entry to the queue. -/
theorem matrixInstructionsAccepted : Obligations.MatrixInstructionsAccepted := by
  intro c gs f s g k b hg hk hb tile offA offB fuse steps
  subst hg hk hb
  refine ⟨fun free => ⟨fun h => ?zero, fun h passes => ?stream, fun h passes => ?diag, fun h passes => ?drain⟩, fun w h => mxwait_completes h⟩
  case zero =>
    exact mxPresent_accepts h free (check := fun _ _ => none) rfl (make := fun _ _ => zeroEntry f) (release := false)
      (eff := mxPresent s.clk c gs f (f.bits 50 50) (fun _ _ => none) (fun _ _ => zeroEntry f) false)
      (fun _ _ => ⟨rfl, rfl, rfl⟩) rfl
  case stream =>
    exact mxPresent_accepts h free (check := fun k b => checkOperands false (issueKindOf k tile (s.dev.group c gs).block) offA offB steps k b)
      passes (make := operandsEntry .stream offA offB steps) (fun _ _ => ⟨rfl, rfl, rfl⟩) (release := false) rfl
  case diag =>
    exact mxPresent_accepts h free (check := fun k b => checkOperands true (issueKindOf k tile (s.dev.group c gs).block) offA offB steps k b)
      passes (make := operandsEntry .diag offA offB steps) (fun _ _ => ⟨rfl, rfl, rfl⟩) (release := false) rfl
  case drain =>
    exact mxPresent_accepts h free (check := fun k b => checkDrain offA fuse k b) passes (make := drainEntry f offA fuse)
      (fun _ _ => ⟨rfl, rfl, rfl⟩) (release := f.bits 51 51 == 1) rfl

end Sys2Proof.Machine

namespace Sys2Proof.Machine

/-! ### A line that the home's slice holds (R209, R212) -/

/-- A frame of a slice that holds a whole line clean of poison and of storage errors, with no mirror repair of the line (R209, R217, R476). -/
structure FrameHeld (d : Dev) (n line i : Nat) (fr : SLine) : Prop where
  found : (d.slice n).frameOf (d.setOfLine line) line = some i
  listed : mget? (d.slice n).frames i = some fr
  whole : fr.valid = 0xF#4
  clean : fr.poison = 0
  sound : (takeLatent 1 n line d).1 = none
  settled : ∀ r ∈ (d.slice n).repairs, r.line ≠ line

/-- A device of which one slice has been read: the access is counted, and the line's set touched (R210, R488). -/
def Dev.sliceTouched (d : Dev) (n : Nat) (cnt : Cnt) (plru : List (Nat × Nat)) : Dev :=
  ({ d with cnt := cnt } : Dev).setSlice n { d.slice n with plru := plru }

theorem sliceTouched_slice (d : Dev) (n : Nat) (cnt : Cnt) (plru : List (Nat × Nat)) :
    (d.sliceTouched n cnt plru).slice n = { d.slice n with plru := plru } := mget_mput_same ..

section
variable {d : Dev} {n line i : Nat} {fr : SLine} (h : FrameHeld d n line i fr)
include h

theorem FrameHeld.touched (cnt : Cnt) (plru : List (Nat × Nat)) : FrameHeld (d.sliceTouched n cnt plru) n line i fr := by
  have slice := sliceTouched_slice d n cnt plru
  refine ⟨?_, ?_, h.whole, h.clean, (takeLatent_congr (d := d) (e := d.sliceTouched n cnt plru) rfl ..).trans h.sound, ?_⟩
  all_goals rw [slice]
  · exact h.found
  · exact h.listed
  · exact h.settled

/-- A line that the array of a slice holds is found there, and its set is touched (R210). -/
theorem sliceFind_held (k : Clock) : ∃ plru, d.sliceFind k n line = (some fr, d.setSlice n { d.slice n with plru := plru }) := by
  unfold Dev.sliceFind
  dsimp only
  rw [h.found]
  dsimp only
  rw [h.listed]
  exact ⟨_, rfl⟩

theorem sliceRead_held (k : Clock) (berth key mtype mirror ins : Nat) :
    ∃ cnt plru, d.sliceRead k n line berth key mtype mirror 0xF#4 ins = (fr, d.sliceTouched n cnt plru) := by
  let word := (if ((d.slice n).unitOf (d.setOfLine line) line).isSome = true then 70 else 71) + 2 * (n / 32)
  have held : FrameHeld (d.bump word 1) n line i fr :=
    ⟨h.found, h.listed, h.whole, h.clean, (takeLatent_congr (d := d) (e := d.bump word 1) rfl ..).trans h.sound, h.settled⟩
  obtain ⟨plru, find⟩ := sliceFind_held held k
  refine ⟨(d.bump word 1).cnt, plru, ?_⟩
  unfold Dev.sliceRead
  dsimp only
  rw [sliceMeet_sound held.sound, find]
  dsimp only
  rw [if_pos (by simp [h.whole])]
  rfl

/-- A line that the slice holds whole is read there for a request, without HBM (R209). -/
theorem homeRead_held (k : Clock) {p : Packet} (own : p.line = line) (ins : Nat) :
    ∃ cnt plru, d.homeRead k n line p 0xF#4 ins = (some (fr.data, fr.poison), d.sliceTouched n cnt plru) := by
  obtain ⟨cnt, plru, read⟩ := sliceRead_held h k p.berth p.key p.mtype p.mirror ins
  refine ⟨cnt, plru, ?_⟩
  have copy : (d.slice n).lineOf (d.setOfLine line) line = some fr := by simp [Slice.lineOf, h.found, h.listed]
  have calm : (d.slice n).repairs.any (fun r => r.line == p.line && r.sectors &&& 0xF#4 != 0) = false :=
    List.any_eq_false.mpr fun r hr => by simp [own, h.settled r hr]
  have miss : (0xF#4 &&& ~~~fr.valid) = 0 := by simp [h.whole]
  have free : d.charge k n p.berth 0 = d := if_pos (.inr rfl)
  have bad : poisonSectors fr.poison &&& 0xF#4 = 0 := by
    rw [h.clean]
    rfl
  have cost : (List.range 4).filter (fun j => (0 : BitVec 4).getLsbD j) = [] := rfl
  unfold Dev.homeRead
  simp only [calm, copy, Option.elim_some, miss, cost, Bool.false_eq_true, List.length_nil, if_false, ne_eq, not_true, false_and, free, read, bad]
  split <;> rfl

end

/-! ### Untracked accesses and far atomics at the home (R200, R212, R253) -/

/-- What serving a request leaves when the home's slice holds its line: packet `a` is sent, the frame of the line holds `data`, and
besides, of the slices only the home's and of the rest only counters, figures and the log differ. -/
structure HomeServed (d : Dev) (p a : Packet) (data : Line) (e : Dev) : Prop where
  dev : e = { d with fab := e.fab, ctl := { d.ctl with ctxs := e.ctl.ctxs }, cnt := e.cnt, erl := e.erl, slices := e.slices }
  slices : ∀ n, n ≠ d.lineSlice p.line → e.slice n = d.slice n
  net : e.fab.net = d.fab.net ++ [{ a with via := none, esc := false }]
  frame : ∃ i f, (e.slice (d.lineSlice p.line)).frameOf (d.setOfLine p.line) p.line = some i ∧
    mget? (e.slice (d.lineSlice p.line)).frames i = some f ∧ f.data = data

/-- One slice is changed, and an answer sent. -/
theorem homeServed_send {d : Dev} {p a : Packet} {x : Slice} {i : Nat} {f : SLine} (cnt : Cnt) (erl : Erl)
    (found : x.frameOf (d.setOfLine p.line) p.line = some i) (listed : mget? x.frames i = some f) :
    HomeServed d p a f.data ((({ d with cnt := cnt, erl := erl } : Dev).setSlice (d.lineSlice p.line) x).send a) := by
  have slice : ((({ d with cnt := cnt, erl := erl } : Dev).setSlice (d.lineSlice p.line) x).send a).slice (d.lineSlice p.line) = x :=
    mget_mput_same ..
  exact ⟨rfl, fun n hn => mget_mput_other _ _ _ hn, rfl, i, f, by rw [slice]; exact found, by rw [slice]; exact listed, rfl⟩

section
variable {d : Dev} {p : Packet} {i : Nat} {fr : SLine} (h : FrameHeld d (d.lineSlice p.line) p.line i fr) (normal : p.mtype ≠ 2)
  (none' : (d.slice (d.lineSlice p.line)).dirOf p.line = none)
include h normal

include none' in
/-- A ReadU is answered with the line (R200). -/
theorem readU_served (k : Clock) : HomeServed d p
    { answerPkt d p .readData with data := lineWords fr.data, poison := poisonList fr.poison, sectors := p.sectors } fr.data
    (d.serveReadU k (d.lineSlice p.line) p) := by
  obtain ⟨cnt, plru, read⟩ := homeRead_held h k rfl p.alloc
  have served : d.serveReadU k (d.lineSlice p.line) p = (d.sliceTouched (d.lineSlice p.line) cnt plru).send
      { answerPkt d p .readData with data := lineWords fr.data, poison := poisonList fr.poison, sectors := p.sectors } := by
    unfold Dev.serveReadU
    dsimp only
    rw [if_neg normal, none']
    dsimp only
    rw [read]
    rfl
  rw [served]
  exact homeServed_send cnt d.erl (x := { d.slice (d.lineSlice p.line) with plru := plru }) h.found h.listed

/-- A WriteU is merged into the frame, and acknowledged (R200, R212). -/
theorem writeU_served (k : Clock) : HomeServed d p (answerPkt d p .writeAck) (lineMerge p.mask (lineOfWords p.data) fr.data)
    (d.serveWriteU k (d.lineSlice p.line) p) := by
  let n := d.lineSlice p.line
  let d' := d.updSlice n fun x => x.cancelRepair p.line p.mask
  have waits : (d.slice n).writeWaits p.line p.mask = false := List.any_eq_false.mpr fun r hr => by simp [h.settled r hr]
  have fed : d.writeStarved k p p.line p.mask = false := by simp [Dev.writeStarved, normal]
  have slice : d'.slice n = (d.slice n).cancelRepair p.line p.mask := updSlice_self ..
  obtain ⟨plru, f, eq, own, valid, merged⟩ := sliceWrite_held (d := d') (n := n) (line := p.line) (i := i) (fr := fr)
    ((takeLatent_congr (d := d) (e := d') rfl ..).trans h.sound) (by rw [slice]; exact h.found) (by rw [slice]; exact h.listed) h.whole k
    p.berth p.key p.mtype p.mirror p.mask (lineOfWords p.data) (poisonMask p.poison)
  let x : Slice := { d'.slice n with plru := plru, frames := mput (d'.slice n).frames i f }
  have found : x.frameOf (d.setOfLine p.line) p.line = some i :=
    frameOf_mput (x := { d'.slice n with plru := plru }) (by rw [slice]; exact h.found) own valid
  have served : d.serveWriteU k n p =
      (({ d with erl := (d.untaint p.line (wholeSectors p.mask)).erl } : Dev).setSlice n x).send (answerPkt d p .writeAck) := by
    unfold Dev.serveWriteU
    dsimp only
    rw [waits, fed]
    simp only [Bool.false_eq_true, if_false, normal]
    rw [eq]
    unfold Dev.untaint
    rw [show d'.setSlice n x = d.setSlice n x from setSlice_setSlice ..]
    rfl
  rw [served, ← merged]
  exact homeServed_send d.cnt _ found (by rw [mget?_mput, if_pos rfl])

include none' in
/-- A far atomic acts on its location of the frame, and its results go back (R100, R253). -/
theorem atomF_served (k : Clock) (room : (d.slice (d.lineSlice p.line)).atomSlots < 64)
    (idle : ∀ x ∈ (d.slice (d.lineSlice p.line)).atoms, x.line ≠ p.line) :
    let w := atomWidth p.aop p.aty
    let r := atomEval p.aop p.aty (lineGet fr.data p.off w) (p.data.map BitVec.toNat)
    ∃ e, d.serveAtom k (d.lineSlice p.line) p = some e ∧ HomeServed d p
      { answerPkt d p .atomResp with aop := p.aop, aty := p.aty, lanes := p.lanes, off := p.off, data := r.2.map (BitVec.ofNat 64) }
      (lineMerge (spanMask p.off w) (lineSet 0 p.off w r.1) fr.data) e := by
  intro w r
  let n := d.lineSlice p.line
  let q : Packet := { p with contended := false }
  let a : Packet :=
    { answerPkt d p .atomResp with aop := p.aop, aty := p.aty, lanes := p.lanes, off := p.off, data := r.2.map (BitVec.ofNat 64) }
  obtain ⟨cnt, plru, read⟩ := homeRead_held h k (p := q) rfl 0
  obtain ⟨plru', f, eq, own, valid, merged⟩ := sliceWrite_held (h.touched cnt plru).sound (h.touched cnt plru).found
    (h.touched cnt plru).listed h.whole k p.berth p.key p.mtype p.mirror (spanMask p.off w) (lineSet 0 p.off w r.1) 0
  let x : Slice := { (d.sliceTouched n cnt plru).slice n with
    plru := plru', frames := mput ((d.sliceTouched n cnt plru).slice n).frames i f }
  have found : x.frameOf (d.setOfLine p.line) p.line = some i :=
    frameOf_mput (x := { (d.sliceTouched n cnt plru).slice n with plru := plru' }) (h.touched cnt plru).found own valid
  have apply : atomApply (d.sliceTouched n cnt plru) q fr.data fr.poison = (some (spanMask p.off w, lineSet 0 p.off w r.1), a) := by
    unfold atomApply
    dsimp only
    rw [accPoison_clean h.clean]
    rfl
  have acts : d.atomFrame k n q = (({ d with cnt := cnt } : Dev).setSlice n x).send a := by
    unfold Dev.atomFrame
    rw [if_neg normal, show d.homeRead k n q.line q 0xF#4 0 = _ from read]
    dsimp only
    rw [apply]
    dsimp only
    rw [if_neg normal, eq, show (d.sliceTouched n cnt plru).setSlice n x = ({ d with cnt := cnt } : Dev).setSlice n x from setSlice_setSlice ..]
  refine ⟨_, ?_, by rw [← merged]; exact homeServed_send cnt d.erl found (by rw [mget?_mput, if_pos rfl])⟩
  have first : (d.slice n).atoms.find? (fun a => a.line == p.line) = none := List.find?_eq_none.mpr fun x hx => by simp [idle x hx]
  unfold Dev.serveAtom
  dsimp only
  rw [if_neg (by omega), first]
  dsimp only
  rw [none']
  exact congrArg some acts

end

/-! ### A request that its home serves at once -/

theorem meetDir_sound {d : Dev} {line : Nat} (sound : ∀ k, k = 6 ∨ k = 7 → (takeLatent k (d.lineSlice line) line d).1 = none) (k : Clock) :
    d.meetDir k line = d := by
  unfold Dev.meetDir
  dsimp only
  rw [takeLatent_none (sound 6 (.inl rfl))]
  dsimp only
  rw [takeLatent_none (sound 7 (.inr rfl))]

/-- The figures of a request's context are the context's own (R491). -/
theorem forCtx_served {d e : Dev} {p a : Packet} {data : Line} {f : Dev → Option Dev} (acts : f d = some e) (served : HomeServed d p a data e) :
    ∃ e', d.forCtx p f = some e' ∧ HomeServed d p a data e' := by
  unfold Dev.forCtx
  rw [acts]
  refine ⟨_, rfl, ?_⟩
  dsimp only
  split
  · exact ⟨by rw [served.dev]; rfl, served.slices, served.net, served.frame⟩
  · exact served

/-- What the home does with a request that draws no error (R200, R212, R253). -/
def Dev.serveHome (d : Dev) (k : Clock) (n : Nat) (p : Packet) : Option Dev :=
  match p.op with
  | .getS | .getM => d.serveGet k n p
  | .atomF => d.serveAtom k n p
  | .readU => some (d.serveReadU k n p)
  | .writeU => some (d.serveWriteU k n p)
  | _ => d.serveBulk k p

section
variable {s : State} {p : Packet} (atHome : AtHome s p)
include atHome

theorem serveReq_home (fab : Fabric) (k : Clock) :
    let d : Dev := { s.dev with fab := fab }
    d.serveReq k p = d.forCtx p fun e => e.serveHome k (d.lineSlice p.line) p := by
  intro d
  have free : ((p.op == .getS || p.op == .getM || p.op == .atomF || p.op == .readU) &&
      (d.slice (d.lineSlice p.line)).recalls.any fun r => r.ent.line == p.line) = false := by
    have none' : (d.slice (d.lineSlice p.line)).recalls.any (fun r => r.ent.line == p.line) = false :=
      List.any_eq_false.mpr fun r hr => by simpa using atHome.free r hr
    rw [none', Bool.and_false]
  have allowed : d.homeError p = none := atHome.allowed
  have home : d.isHome p.line = true := atHome.home
  unfold Dev.serveReq
  dsimp only
  rw [free, if_neg (by decide), if_pos home, allowed]
  rfl

/-- A request that its home serves from its own slice is answered, and what it leaves has the home's frame. -/
theorem home_answers {op : PktOp} (h : Arrives s p op) {a : Packet} {data : Line}
    (served : ∀ fab, let d : Dev := { s.dev with fab := fab }
      ∃ e, d.serveHome s.clk (d.lineSlice p.line) p = some e ∧ HomeServed d p a data e) :
    ∃ t, reqIns op p s = .next t ∧ HomeFrame s p.line t ∧ Replaced s t p { a with via := none, esc := false } ∧ FrameData t p.line data := by
  obtain ⟨fab, taken, net⟩ := take_eq s.dev p
  let d : Dev := { s.dev with fab := fab }
  obtain ⟨e, acts, left⟩ := served fab
  obtain ⟨e', done, left'⟩ := forCtx_served (f := fun e => e.serveHome s.clk (d.lineSlice p.line) p) acts left
  have met : d.meetDir s.clk p.line = d := meetDir_sound (fun k hk => (takeLatent_congr (d := s.dev) (e := d) rfl ..).trans (atHome.sound k hk)) _
  have calm : Calm e' := by
    rw [left'.dev]
    exact h.calm
  obtain ⟨t, ht, settled⟩ : ∃ t, reqIns op p s = .next t ∧ Settled s e' t := by
    refine onPkt_settles h ?_ calm
    rw [taken, met]
    exact (serveReq_home atHome fab s.clk).trans done
  have kept : t.dev.cores = s.dev.cores ∧ t.dev.mem = s.dev.mem ∧ t.dev.whf = s.dev.whf := by
    rw [settled.cores, settled.mem, settled.whf, left'.dev]
    exact ⟨rfl, rfl, rfl⟩
  obtain ⟨cores, mem, whf⟩ := kept
  have same : t.dev.lineSlice p.line = s.dev.lineSlice p.line ∧ t.dev.setOfLine p.line = s.dev.setOfLine p.line := by
    rw [settled.dev, left'.dev]
    exact ⟨rfl, rfl⟩
  obtain ⟨i, f, found, listed, holds⟩ := left'.frame
  refine ⟨t, ht, ⟨settled.pending, settled.perm, settled.clk, cores, mem, whf, fun n hn => (settled.slice n).trans (left'.slices n hn)⟩, ?_,
    i, f, ?_, ?_, holds⟩
  · exact settled.net.trans (left'.net.trans (by rw [net]))
  · rw [same.1, same.2, settled.slice]
    exact found
  · rw [same.1, settled.slice]
    exact listed

omit atHome in
theorem frameHeld_of {fr : SLine} (holds : HomeHolds s p fr) :
    ∃ i, ∀ fab : Fabric, FrameHeld { s.dev with fab := fab } (s.dev.lineSlice p.line) p.line i fr := by
  obtain ⟨i, found, listed⟩ := holds.frame
  exact ⟨i, fun fab => ⟨found, listed, holds.whole, holds.clean,
    (takeLatent_congr (d := s.dev) (e := { s.dev with fab := fab }) rfl ..).trans holds.sound, holds.settled⟩⟩

end

theorem poisonList_clean {x : BitVec 16} (clean : x = 0) : poisonList x = [] := by
  rw [clean]
  rfl

/-- Settles O23: each request by what its home does with the frame. -/
theorem homeReadsWritesAndAtomics : Obligations.HomeReadsWritesAndAtomics := by
  intro s p fr atHome holds noEntry
  obtain ⟨i, held⟩ := frameHeld_of holds
  refine ⟨fun h => ?read, fun h => ?write, fun h room idle => ?atom⟩
  case read =>
    obtain ⟨t, ht, frame, replaced, data⟩ := home_answers atHome h
        (a := { answerPkt s.dev p .readData with data := lineWords fr.data, poison := poisonList fr.poison, sectors := p.sectors }) fun fab =>
      ⟨_, by unfold Dev.serveHome; rw [h.code], readU_served (held fab) holds.normal noEntry s.clk⟩
    exact ⟨t, _, ht, frame, replaced, ⟨rfl, rfl, rfl, rfl, rfl, rfl⟩, rfl, rfl, poisonList_clean holds.clean, data⟩
  case write =>
    obtain ⟨t, ht, frame, replaced, data⟩ := home_answers atHome h (a := answerPkt s.dev p .writeAck) fun fab =>
      ⟨_, by unfold Dev.serveHome; rw [h.code], writeU_served (held fab) holds.normal s.clk⟩
    exact ⟨t, _, ht, frame, replaced, ⟨rfl, rfl, rfl, rfl, rfl, rfl⟩, rfl, data⟩
  case atom =>
    intro w r
    obtain ⟨t, ht, frame, replaced, data⟩ := home_answers atHome h (a := { answerPkt s.dev p .atomResp with
        aop := p.aop, aty := p.aty, lanes := p.lanes, off := p.off, data := r.2.map (BitVec.ofNat 64) }) fun fab => by
      obtain ⟨e, acts, served⟩ := atomF_served (held fab) holds.normal noEntry s.clk room idle
      exact ⟨e, by unfold Dev.serveHome; rw [h.code]; exact acts, served⟩
    exact ⟨t, _, ht, frame, replaced, ⟨rfl, rfl, rfl, rfl, rfl, rfl⟩, rfl, rfl, data⟩

end Sys2Proof.Machine

namespace Sys2Proof.Machine

/-! ### Results that go lane by lane into v registers (R78, R90) -/

section
variable {o : MemOp} (val : LaneAcc → Nat)

/-- A lane that no access names keeps its registers. -/
theorem putLanes_reg_other (v : ∀ i < dstCount o.ty, isU (o.dst + i) = false) {l : Nat} (hl : l < 32) (r : Nat) {lanes : List LaneAcc}
    (bound : ∀ a ∈ lanes, a.lane < 32) (out : ∀ a ∈ lanes, a.lane ≠ l) (g : Group) : (putLanes o val lanes g).reg r l = g.reg r l := by
  induction lanes generalizing g with
  | nil => rfl
  | cons a t ih =>
    have rest := ih (fun b hb => bound b (List.mem_cons_of_mem _ hb)) (fun b hb => out b (List.mem_cons_of_mem _ hb))
      (g.setOpnd o.dst (dstCount o.ty) a.lane (val a))
    exact rest.trans (reg_setOpnd_other g _ _ _ (bound a (List.mem_cons_self ..)) hl (.inr ⟨v, (out a (List.mem_cons_self ..)).symm⟩))

/-- Accesses of different lanes leave each its value. -/
theorem putLanes_opnd (uses : isV o.dst = true) (file : o.dst + dstCount o.ty ≤ 255) {lanes : List LaneAcc} (bound : ∀ a ∈ lanes, a.lane < 32)
    (distinct : (lanes.map LaneAcc.lane).Nodup) (g : Group) {a : LaneAcc} (ha : a ∈ lanes) :
    (putLanes o val lanes g).opnd o.dst (dstCount o.ty) a.lane = val a % 2 ^ (32 * dstCount o.ty) := by
  have each : ∀ i < dstCount o.ty, isV (o.dst + i) = true ∧ isU (o.dst + i) = false := fun i hi => by
    simp only [isV, isU, decide_eq_true_eq, Bool.and_eq_false_iff, decide_eq_false_iff_not]
    omega
  have hz : isZero o.dst = false := by
    simp only [isV, decide_eq_true_eq] at uses
    simp only [isZero, beq_eq_false_iff_ne]
    omega
  induction lanes generalizing g with
  | nil => cases ha
  | cons b t ih =>
    obtain ⟨head, tail⟩ := List.nodup_cons.mp distinct
    have later : ∀ x ∈ t, x.lane < 32 := fun x hx => bound x (List.mem_cons_of_mem _ hx)
    rcases List.mem_cons.mp ha with rfl | ha
    · have apart : ∀ x ∈ t, x.lane ≠ a.lane := fun x hx same => head (same ▸ List.mem_map_of_mem hx)
      have own := bound a (List.mem_cons_self ..)
      have kept : ∀ i < dstCount o.ty, (putLanes o val (a :: t) g).reg (o.dst + i) a.lane =
          (g.setOpnd o.dst (dstCount o.ty) a.lane (val a)).reg (o.dst + i) a.lane := fun i _ =>
        putLanes_reg_other val (fun i hi => (each i hi).2) own _ later apart _
      rw [opnd_congr kept]
      exact opnd_setOpnd g _ _ _ hz own fun i hi => .inl (each i hi).1
    · exact ih later tail _ ha

end

/-! ### A response reaches its landing buffer (R243, R307) -/

/-- The device once a packet is taken, before its landing buffer is released: besides the L1 of its core only the buffer itself differs. -/
structure Landing (s : State) (p : Packet) (d : Dev) : Prop where
  dev : d = { s.dev with cores := d.cores, fab := d.fab }
  net : d.fab.net = s.dev.fab.net.erase p
  others : ∀ x, x ≠ p.tgt → d.core x = s.dev.core x
  core : d.core p.tgt = { s.dev.core p.tgt with
    mshrs := (d.core p.tgt).mshrs, l1 := (d.core p.tgt).l1, l1Plru := (d.core p.tgt).l1Plru }
  rest : mdel (d.core p.tgt).mshrs p.entry = mdel (s.dev.core p.tgt).mshrs p.entry

/-- The device once the landing buffer of a response is free again: besides the L1 of its core nothing else differs. -/
structure Freed (s : State) (p : Packet) (d : Dev) : Prop where
  dev : d = { s.dev with cores := d.cores, fab := d.fab, ctl := { s.dev.ctl with ctxs := d.ctl.ctxs } }
  net : d.fab.net = s.dev.fab.net.erase p
  others : ∀ x, x ≠ p.tgt → d.core x = s.dev.core x
  core : d.core p.tgt = { (s.dev.core p.tgt).freeBuffer p.entry with l1 := (d.core p.tgt).l1, l1Plru := (d.core p.tgt).l1Plru }

theorem mdel_map_same {α : Type} (m : List (Nat × α)) (k : Nat) (f : α → α) :
    mdel (m.map fun x => if x.1 = k then (k, f x.2) else x) k = mdel m k := by
  unfold mdel
  rw [List.filter_map]
  have keys : ((fun e : Nat × α => e.1 != k) ∘ fun x => if x.1 = k then (k, f x.2) else x) = fun e => e.1 != k := by
    funext x
    by_cases same : x.1 = k <;> simp [same]
  rw [keys]
  refine (List.map_congr_left fun x hx => ?_).trans (List.map_id _)
  exact if_neg (by simpa using (List.mem_filter.mp hx).2)

section
variable {s : State} {p : Packet} {d : Dev}

theorem landing_taken {fab : Fabric} (net : fab.net = s.dev.fab.net.erase p) : Landing s p { s.dev with fab := fab } :=
  ⟨rfl, net, fun _ _ => rfl, rfl, rfl⟩

theorem landing_updCore (h : Landing s p d) {f : Core → Core} (l1Only : ∀ k, f k = { k with l1 := (f k).l1, l1Plru := (f k).l1Plru }) :
    Landing s p (d.updCore p.tgt f) := by
  have own : (d.updCore p.tgt f).core p.tgt = f (d.core p.tgt) := updCore_self ..
  refine ⟨?_, h.net, fun x hx => (updCore_others d hx f).trans (h.others x hx), ?_, ?_⟩
  · rw [h.dev]
    rfl
  · rw [own, l1Only, h.core]
  · rw [own, l1Only]
    exact h.rest

theorem updMshr_core (d : Dev) (c e : Nat) (f : Mshr → Mshr) : (d.updMshr c e f).core c = { d.core c with
    mshrs := (d.core c).mshrs.map fun x => if x.1 = e then (e, f x.2) else x } := updCore_self ..

theorem landing_updMshr (h : Landing s p d) (f : Mshr → Mshr) : Landing s p (d.updMshr p.tgt p.entry f) := by
  refine ⟨?_, h.net, fun x hx => (updCore_others d hx _).trans (h.others x hx), ?_, ?_⟩
  · rw [h.dev]
    rfl
  · rw [updMshr_core, h.core]
  · rw [updMshr_core]
    exact (mdel_map_same ..).trans h.rest

/-- Releasing the buffer leaves the L1 as it is. -/
theorem landing_released (h : Landing s p d) {m : Mshr} (listed : mget? (d.core p.tgt).mshrs p.entry = some m) :
    Freed s p (d.release p.tgt p.entry) ∧ ((d.release p.tgt p.entry).core p.tgt).l1 = (d.core p.tgt).l1 ∧
      (d.release p.tgt p.entry).slices = s.dev.slices ∧ ∀ j, (d.release p.tgt p.entry).group p.tgt j = s.dev.group p.tgt j := by
  obtain ⟨ctxs, eq⟩ := release_eq listed
  let d' : Dev := { d with ctl := { d.ctl with ctxs := ctxs } }
  have own : (d'.updCore p.tgt fun k => k.freeBuffer p.entry).core p.tgt = (d.core p.tgt).freeBuffer p.entry := updCore_self ..
  rw [eq]
  refine ⟨⟨?_, h.net, fun x hx => (updCore_others d' hx _).trans (h.others x hx), ?_⟩, by rw [own]; rfl, ?_, fun j => ?_⟩
  · rw [h.dev]
    rfl
  · rw [own]
    unfold Core.freeBuffer
    rw [h.rest, h.core]
  · have slices : d.slices = s.dev.slices := by rw [h.dev]
    exact slices
  · unfold Dev.group
    rw [own, h.core]
    rfl

/-- What acts on a core whose landing buffer is free, and in which no instruction is left, lands the response. -/
theorem freed_lands (h : Freed s p d) {gs : Nat} {e : Dev} (piped : Piped p.tgt gs d e) (ops : (e.core p.tgt).ops = []) {t : State}
    (settled : Settled s e t) : AtCore s p.tgt t ∧ t.dev.fab.net = s.dev.fab.net.erase p ∧ Landed s t p := by
  have same : e.mem = s.dev.mem ∧ e.slices = s.dev.slices ∧ e.fab = d.fab := by
    rw [piped.dev, h.dev]
    exact ⟨rfl, rfl, rfl⟩
  obtain ⟨mem, slices, fab⟩ := same
  have core : (e.core p.tgt).mshrs = mdel (s.dev.core p.tgt).mshrs p.entry ∧
      (e.core p.tgt).gens = mput (s.dev.core p.tgt).gens p.entry ((mget 0 (s.dev.core p.tgt).gens p.entry + 1) % 16) := by
    rw [piped.core, h.core]
    exact ⟨rfl, rfl⟩
  refine ⟨atCore_of settled mem slices fun x hx => (piped.others x hx).trans (h.others x hx), ?_, ?_, ?_, ?_⟩
  · rw [settled.net, fab]
    exact h.net
  · rw [settled.core, core.1]
    exact mhas_mdel ..
  · rw [settled.core, core.2]
    exact mget_mput_same ..
  · rw [settled.core]
    exact ops

theorem freed_calm (h : Freed s p d) (calm : Calm s.dev) : Calm d := by
  rw [h.dev]
  exact calm

end

/-! ### The instruction that waited is performed, and leaves the pipe (R52) -/

/-- An instruction that was performed has left the pipe, and its group awaits its registers no longer: `e` is the device before, `e'` after. -/
structure Left (c s : Nat) (e e' : Dev) : Prop extends Piped c s e e' where
  ops : (e'.core c).ops = []
  l1 : (e'.core c).l1 = (e.core c).l1
  group : ∃ await, e'.group c s = { e.group c s with await := await }

theorem updCoreId_core (d : Dev) (c : Nat) : (d.updCore c id).core c = d.core c := updCore_self ..

theorem updCoreId_pipes (d : Dev) (c s : Nat) : Piped c s d (d.updCore c id) := piped_updCore d fun _ => rfl

theorem Left.again {c s : Nat} {e e' : Dev} (h : Left c s e e') : Left c s e (e'.updCore c id) := by
  obtain ⟨await, group⟩ := h.group
  refine ⟨h.toPiped.trans (updCoreId_pipes ..), ?_, ?_, await, ?_⟩
  · rw [updCoreId_core]
    exact h.ops
  · rw [updCoreId_core]
    exact h.l1
  · unfold Dev.group at group ⊢
    rw [updCoreId_core]
    exact group

section
variable {c n : Nat} {o : MemOp} {d e : Dev} (fine : o.flt = []) (moved : o.adv = true) (slot : o.slot < 64)
include fine moved slot

/-- The one instruction in flight leaves when its accesses are all performed, and nothing else goes on. -/
theorem corePump_served (served : Served c n o d e) (bw : (d.core c).bw = []) (k : Clock) : Left c o.slot e (e.corePump k c) := by
  obtain ⟨done, left⟩ := served.left
  have ended : e.pump k c = e.dropOp c n (o.spent done) := by
    rw [pump_ended left rfl]
    unfold Dev.endOp
    simp [left, mget?, MemOp.spent, fine, moved]
  have dropped := dropOp_core e c n (o.spent done)
  have none' : ((e.dropOp c n (o.spent done)).core c).ops = [] := by
    rw [dropped, left]
    simp [mdel]
  have idle : ((e.dropOp c n (o.spent done)).core c).bw = [] := by
    rw [dropped, served.core]
    exact bw
  rw [corePump_of_pump ended none' idle]
  refine Left.again ⟨dropOp_pipes e c n (o.spent done), none', by rw [dropped], ?_⟩
  unfold Dev.dropOp Dev.group
  rw [updCore_self]
  exact ⟨_, (group_setGroup _ _ _ _ slot).trans (if_pos rfl)⟩

end

/-- A core in which nothing is left, whose line nothing else concerns, goes on with nothing (R243). -/
theorem settles_idle {d : Dev} {c line : Nat} (ops : (d.core c).ops = []) (bw : (d.core c).bw = []) (noMiss : ∀ m ∈ (d.core c).mshrs, m.2.line ≠ line)
    (noFwd : ∀ q ∈ (d.core c).fwdq, q.line ≠ line) (noFar : ∀ q ∈ (d.slice (d.lineSlice line)).fwdq, q.line ≠ line) (k : Clock) :
    ((d.serveFwds k c line).corePump k c).farSettle k line = (d.updCore c id).updCore c id := by
  have asks : (d.core c).asking line = false := by
    have none' : (d.core c).mshrOf line = none := List.find?_eq_none.mpr fun m hm => by simp [noMiss m hm]
    simp [Core.asking, none']
  have kept : (d.core c).fwdq.filter (fun q => q.line != line) = (d.core c).fwdq := List.filter_eq_self.mpr fun q hq => by simp [noFwd q hq]
  have queued : (d.core c).fwdq.filter (fun q => q.line == line) = [] := List.filter_eq_nil_iff.mpr fun q hq => by simp [noFwd q hq]
  have served : d.serveFwds k c line = d.updCore c id := by
    unfold Dev.serveFwds
    dsimp only
    rw [asks, kept, queued]
    rfl
  have far : ((d.updCore c id).updCore c id).farSettle k line = (d.updCore c id).updCore c id := by
    have waits : (((d.updCore c id).updCore c id).slice (((d.updCore c id).updCore c id).lineSlice line)).fwdq.filter
        (fun q => q.line == line) = [] := List.filter_eq_nil_iff.mpr fun q hq => by simpa using noFar q hq
    unfold Dev.farSettle
    dsimp only
    rw [waits]
    split <;> rfl
  rw [served, corePump_idle (by rw [updCoreId_core]; exact ops) (by rw [updCoreId_core]; exact bw), far]

end Sys2Proof.Machine

namespace Sys2Proof.Machine

/-! ### An answer with every InvAck (R243, R244, R246) -/

theorem landing_line {k : Core} {p : Packet} {m : Mshr} (h : k.landing p = some m) : m.line = p.line := by
  unfold Core.landing at h
  obtain ⟨x, -, same⟩ := Option.bind_eq_some_iff.mp h
  split at same
  next own =>
    cases same
    exact own.2
  next => cases same

/-- What the pipe does leaves the buffers of its core as they are, and those that wait. -/
theorem piped_buffers {c gs : Nat} {d e : Dev} (h : Piped c gs d e) :
    (e.core c).bw = (d.core c).bw ∧ (e.core c).mshrs = (d.core c).mshrs ∧ (e.core c).fwdq = (d.core c).fwdq := by
  rw [h.core]
  exact ⟨rfl, rfl, rfl⟩

/-- What acts on a core leaves the slice of a line as it is. -/
theorem piped_slice {c gs : Nat} {d e : Dev} (h : Piped c gs d e) (line : Nat) : e.slice (e.lineSlice line) = d.slice (d.lineSlice line) := by
  rw [h.dev]
  rfl

/-! ### The one instruction that a response serves -/

section
variable {s : State} {p : Packet} {m : Mshr} {n : Nat} {o : MemOp} (awaits : OneAwaits s p m n o) {r : Dev} (freed : Freed s p r)
include awaits freed

theorem freed_only : (r.core p.tgt).ops = [(n, o)] := by
  rw [freed.core]
  exact awaits.only

theorem freed_bw : (r.core p.tgt).bw = [] := by
  rw [freed.core]
  exact awaits.noBw

/-- The accesses of a response's line that are still to be performed are all that the instruction has. -/
theorem freed_found : (m.ops.head?.bind fun n => (mget? (r.core p.tgt).ops n).map fun o => (n, o)) = some (n, o) := by
  rw [awaits.waits, freed_only awaits freed]
  simp [mget?]

omit freed in
theorem awaits_mine : o.lanes.filter (fun a => a.line == p.line) = o.lanes :=
  List.filter_eq_self.mpr fun a ha => by simp [(awaits.lanes a ha).1]

/-- A line of the L1 that rests, once the buffer is free, meets the instruction that waited for it. -/
theorem freed_hits (rests : LineRests s p o) {i : Nat} {f : L1Line} (found : (r.core p.tgt).l1Find p.line = some i)
    (listed : mget? (r.core p.tgt).l1 i = some f) (kind : o.kind = .load ∨ o.kind = .store ∧ f.st = .m) : Hits r p.tgt n p.line o i f := by
  have other : isAtomic o.kind = false ∧ o.kind ≠ .cflush ∧ o.kind ≠ .cinv := by
    rcases kind with kind | ⟨kind, -⟩ <;> simp [kind, isAtomic]
  have latent : r.latent = s.dev.latent := by rw [freed.dev]
  exact {
    only := freed_only awaits freed
    busy := awaits.busy
    lanes := fun a ha => (awaits.lanes a ha).1
    fresh := rests.fresh
    tracked := rests.tracked
    near := fun atomic => by simp [other.1] at atomic
    kind := other.2
    noMiss := by
      rw [freed.core]
      intro x hx same
      obtain ⟨hx, key⟩ := List.mem_filter.mp hx
      exact absurd (rests.alone x hx same) (by simpa using key)
    noEvict := by rw [freed.core]; exact rests.noEvict
    found := found
    listed := listed
    sound := (takeLatent_congr latent ..).trans rests.sound
    allowed := kind.imp id fun store => .inl store.2 }

omit awaits in
theorem freed_noFar (rests : LineRests s p o) : ∀ q ∈ (r.slice (r.lineSlice p.line)).fwdq, q.line ≠ p.line := by
  rw [freed.dev]
  exact rests.noFar

omit awaits in
theorem freed_noFwd (rests : LineRests s p o) : ∀ q ∈ (r.core p.tgt).fwdq, q.line ≠ p.line := by
  rw [freed.core]
  exact rests.noFwd

omit awaits in
/-- What is left once the instruction has gone is the next state of the core. -/
theorem left_lands {gs : Nat} {x e : Dev} (piped : Piped p.tgt gs r e) (left : Left p.tgt gs x e) (calm : Calm s.dev) :
    Calm e ∧ ∀ t, Settled s e t → (AtCore s p.tgt t ∧ t.dev.fab.net = s.dev.fab.net.erase p ∧ Landed s t p) ∧
      (t.dev.core p.tgt).l1 = (x.core p.tgt).l1 ∧ ∃ await, t.dev.group p.tgt gs = { x.group p.tgt gs with await := await } := by
  obtain ⟨await, group⟩ := left.group
  refine ⟨piped.calm (freed_calm freed calm), fun t settled => ⟨freed_lands freed piped left.ops settled, ?_, await, ?_⟩⟩
  · rw [settled.core]
    exact left.l1
  · rw [settled.group]
    exact group

omit freed in
/-- The lanes of an instruction whose accesses have put their values hold them. -/
theorem lanesHold_of {val : LaneAcc → Nat} {t : State} {g : Group} {await : List Nat}
    (own : t.dev.group p.tgt o.slot = { putLanes o val o.lanes g with await := await }) : LanesHold t p.tgt o val := fun uses a ha => by
  rw [own]
  exact putLanes_opnd val uses (awaits.inFile uses) (fun a ha => (awaits.lanes a ha).2) awaits.distinct g ha

/-- What performs the accesses of the one instruction that waits lands the response. -/
theorem served_lands {e : Dev} (served : Served p.tgt n o r e) (calm : Calm s.dev) :
    Calm (e.corePump s.clk p.tgt) ∧ ∀ t, Settled s (e.corePump s.clk p.tgt) t →
      (AtCore s p.tgt t ∧ t.dev.fab.net = s.dev.fab.net.erase p ∧ Landed s t p) ∧
      (t.dev.core p.tgt).l1 = (e.core p.tgt).l1 ∧ ∃ await, t.dev.group p.tgt o.slot = { e.group p.tgt o.slot with await := await } := by
  have left := corePump_served awaits.fine awaits.moved awaits.slot served (freed_bw awaits freed) s.clk
  exact left_lands freed (served.toPiped.trans left.toPiped) left calm

end

/-! ### ReadData, AtomResp and WriteAck (R100, R246) -/

section
variable {s : State} {p : Packet} {m : Mshr} {n : Nat} {o : MemOp} (awaits : OneAwaits s p m n o)
include awaits

theorem readData_completes (h : Arrives s p .readData) (data : m.kind ≠ .fetch) (clean : p.poison = []) :
    ∃ t, exec (.readData p) s = .next t ∧ AtCore s p.tgt t ∧ t.dev.fab.net = s.dev.fab.net.erase p ∧ Landed s t p ∧
      LanesHold t p.tgt o fun a => loadValue o.ty (lineGet (lineOfWords p.data) a.off (accWidth o.ty)) := by
  obtain ⟨fab, taken, net⟩ := take_eq s.dev p
  let d : Dev := { s.dev with fab := fab }
  obtain ⟨freed, -, -, -⟩ := landing_released (landing_taken net) (listed_of_landing awaits.buffer)
  obtain ⟨served, -, -, group⟩ := bindLoads_serves (freed_only awaits freed) awaits.slot (lineOfWords p.data)
  obtain ⟨calm, lands⟩ := served_lands awaits freed served h.calm
  obtain ⟨t, ht, settled⟩ : ∃ t, exec (.readData p) s = .next t ∧ Settled s _ t := by
    unfold exec execReadData
    refine onPkt_settles h ?_ calm
    dsimp only
    rw [if_pos awaits.core, taken]
    unfold Dev.coreResp Dev.coreRead
    rw [show (d.core p.tgt).landing p = some m from awaits.buffer]
    dsimp only
    rw [if_neg data, awaits.plain, clean]
    dsimp only
    rw [freed_found awaits freed]
    dsimp only
    rw [awaits_mine awaits]
    rfl
  obtain ⟨⟨atCore, left, landed⟩, -, await, own⟩ := lands t settled
  exact ⟨t, ht, atCore, left, landed, lanesHold_of awaits (own.trans (by rw [group]))⟩

theorem atomResp_completes (h : Arrives s p .atomResp) (atomic : o.kind = .atomic) (clean : p.poison = []) (place : ∀ a ∈ o.lanes, a.off = p.off) :
    ∃ t, exec (.atomResp p) s = .next t ∧ AtCore s p.tgt t ∧ t.dev.fab.net = s.dev.fab.net.erase p ∧ Landed s t p ∧
      LanesHold t p.tgt o fun a => (p.data.map BitVec.toNat).getD (o.lanes.idxOf a) 0 := by
  obtain ⟨fab, taken, net⟩ := take_eq s.dev p
  let d : Dev := { s.dev with fab := fab }
  obtain ⟨freed, -, -, -⟩ := landing_released (landing_taken net) (listed_of_landing awaits.buffer)
  obtain ⟨served, -, -, group⟩ := atomResults_serves (freed_only awaits freed) awaits.slot atomic (List.Nodup.of_map _ awaits.distinct) s.clk
    (p.data.map BitVec.toNat)
  let e := (d.release p.tgt p.entry).atomResults s.clk p.tgt n o o.lanes (p.data.map BitVec.toNat)
  let e' := if o.lanes.any fun a => isTracked a.mtype then e.updCore p.tgt fun co => co.predict p.line (if p.contended then 1 else -1) else e
  have mine : o.lanes.filter (fun a => a.line == p.line && a.off == p.off) = o.lanes :=
    List.filter_eq_self.mpr fun a ha => by simp [(awaits.lanes a ha).1, place a ha]
  have predicted : Served p.tgt n o (d.release p.tgt p.entry) e' ∧ ∀ j, e'.group p.tgt j = e.group p.tgt j := by
    unfold e'
    split
    · exact ⟨served.within (Piped.self _) _ _, fun j => updCore_group e p.tgt _ rfl p.tgt j⟩
    · exact ⟨served, fun _ => rfl⟩
  obtain ⟨calm, lands⟩ := served_lands awaits freed predicted.1 h.calm
  obtain ⟨t, ht, settled⟩ : ∃ t, exec (.atomResp p) s = .next t ∧ Settled s (e'.corePump s.clk p.tgt) t := by
    unfold exec execAtomResp
    refine onPkt_settles h ?_ calm
    rw [if_pos awaits.core, taken]
    unfold Dev.coreResp Dev.coreAtom
    rw [show (d.core p.tgt).landing p = some m from awaits.buffer]
    dsimp only
    rw [clean, freed_found awaits freed]
    dsimp only
    rw [mine]
    rfl
  obtain ⟨⟨atCore, left, landed⟩, -, await, own⟩ := lands t settled
  exact ⟨t, ht, atCore, left, landed, lanesHold_of awaits (own.trans (by rw [predicted.2, group]))⟩

theorem writeAck_completes (h : Arrives s p .writeAck) :
    ∃ t, exec (.writeAck p) s = .next t ∧ AtCore s p.tgt t ∧ t.dev.fab.net = s.dev.fab.net.erase p ∧ Landed s t p ∧
      ∀ r l, (t.dev.group p.tgt o.slot).reg r l = (s.dev.group p.tgt o.slot).reg r l := by
  obtain ⟨fab, taken, net⟩ := take_eq s.dev p
  let d : Dev := { s.dev with fab := fab }
  obtain ⟨freed, -, -, groups⟩ := landing_released (landing_taken net) (listed_of_landing awaits.buffer)
  have served := served_of_finish (freed_only awaits freed) (Piped.self (s := o.slot) (d.release p.tgt p.entry)) rfl
  obtain ⟨calm, lands⟩ := served_lands awaits freed served h.calm
  obtain ⟨t, ht, settled⟩ : ∃ t, exec (.writeAck p) s = .next t ∧ Settled s _ t := by
    unfold exec execWriteAck
    refine onPkt_settles h ?_ calm
    rw [if_pos awaits.core, taken]
    unfold Dev.coreResp Dev.coreWritten
    rw [show (d.core p.tgt).landing p = some m from awaits.buffer]
    dsimp only
    rw [freed_found awaits freed]
    dsimp only
    rw [awaits_mine awaits]
  obtain ⟨⟨atCore, left, landed⟩, -, await, own⟩ := lands t settled
  refine ⟨t, ht, atCore, left, landed, fun r l => ?_⟩
  rw [own, updOp_group, groups]
  rfl

end

end Sys2Proof.Machine

namespace Sys2Proof.Machine

/-! ### A line enters the L1 (R195, R219) -/

/-- A core whose L1 takes a line at a key. -/
def Core.l1Enter (i : Nat) (f : L1Line) (k : Core) : Core := ({ k with l1 := mput k.l1 i f }).l1Touch i

/-- Key 8 * set + w of a line in the L1 is in an enabled unit and free (R195, R219). -/
def Core.l1Free (k : Core) (line w : Nat) : Prop :=
  k.l1Off.contains (8 * (l1Set line / 16) + w) = false ∧ mhas k.l1 (8 * l1Set line + w) = false

theorem l1Insert_free {d : Dev} {c : Nat} {f : L1Line} (free : ∃ w < 8, (d.core c).l1Free f.line w) :
    ∃ w < 8, (d.core c).l1Free f.line w ∧ d.l1Insert c f = d.updCore c (Core.l1Enter (8 * l1Set f.line + w) f) := by
  obtain ⟨w, hw, off, out⟩ := free
  have some' : ((List.range 8).find? fun w => !(d.core c).l1Off.contains (8 * (l1Set f.line / 16) + w) &&
      !mhas (d.core c).l1 (8 * l1Set f.line + w)).isSome = true :=
    List.find?_isSome.mpr ⟨w, List.mem_range.mpr hw, by rw [off, out]; rfl⟩
  obtain ⟨v, found⟩ := Option.isSome_iff_exists.mp some'
  have holds := List.find?_some found
  simp only [Bool.and_eq_true, Bool.not_eq_true'] at holds
  obtain ⟨voff, vout⟩ := holds
  refine ⟨v, List.mem_range.mp (List.mem_of_find?_eq_some found), ⟨voff, vout⟩, ?_⟩
  unfold Dev.l1Insert
  dsimp only
  rw [found, Option.getD_some, vout]
  rfl

/-- Of a list, the only member that satisfies a predicate is found. -/
theorem find?_unique {α : Type} {l : List α} {q : α → Bool} {a : α} (mem : a ∈ l) (holds : q a = true) (only : ∀ b ∈ l, q b = true → b = a) :
    l.find? q = some a := by
  obtain ⟨b, found⟩ := Option.isSome_iff_exists.mp (List.find?_isSome.mpr ⟨a, mem, holds⟩)
  rw [found, only b (List.mem_of_find?_eq_some found) (List.find?_some found)]

/-- A line that the L1 did not hold is found where it was entered. -/
theorem l1Find_enter {k k' : Core} {line w : Nat} {f : L1Line} (absent : k.l1Find line = none) (below : w < 8) (own : f.line = line)
    (valid : f.st ≠ .i) (l1 : k'.l1 = mput k.l1 (8 * l1Set line + w) f) : k'.l1Find line = some (8 * l1Set line + w) := by
  have none' := List.find?_eq_none.mp absent
  refine find?_unique (List.mem_map.mpr ⟨w, List.mem_range.mpr below, rfl⟩) ?_ fun i hi h => ?_
  · rw [l1, mget?_mput, if_pos rfl]
    simp [own, valid]
  · by_contra apart
    rw [l1, mget?_mput, if_neg apart] at h
    exact none' i hi h

/-- A core that takes a line in an enabled unit still has none in a disabled one. -/
theorem unitsClear_mput {k k' : Core} {i : Nat} {f : L1Line} (clear : UnitsClear k) (enabled : k.l1Off.contains (8 * (i / 8 / 16) + i % 8) = false)
    (l1 : k'.l1 = mput k.l1 i f) (off : k'.l1Off = k.l1Off) : UnitsClear k' := by
  intro e he
  rw [l1] at he
  rw [off]
  rcases mem_mput he with rfl | he
  · exact enabled
  · exact clear e he

theorem mem_of_mget? {α : Type} {m : List (Nat × α)} {k : Nat} {v : α} (h : mget? m k = some v) : (k, v) ∈ m := by
  induction m with
  | nil => cases h
  | cons e t ih =>
    unfold mget? at h
    split at h
    next same =>
      cases h
      exact same ▸ List.mem_cons_self ..
    next => exact List.mem_cons_of_mem _ (ih h)

/-! ### Data, Grant and the last InvAck (R241, R243, R246) -/

/-- A landing buffer that has its answer and every InvAck, for which one instruction waits (R243). -/
structure Answered (d : Dev) (p : Packet) (n : Nat) (m : Mshr) : Prop where
  buffer : mget? (d.core p.tgt).mshrs p.entry = some m
  granted : m.granted = true
  need : m.need = some m.got
  waits : m.ops = [n]
  line : m.line = p.line

/-- The device once a landing buffer is released, and the copy of its line at a key of the L1 touched (R195, R307). -/
def Dev.landedAt (d : Dev) (p : Packet) (i : Nat) : Dev := (d.release p.tgt p.entry).updCore p.tgt fun co => co.l1Touch i

theorem landedAt_core (d : Dev) (p : Packet) (i : Nat) :
    (d.landedAt p i).core p.tgt = ((d.release p.tgt p.entry).core p.tgt).l1Touch i := updCore_self ..

section
variable {s : State} {p : Packet} {m : Mshr} {n : Nat} {o : MemOp} (awaits : OneAwaits s p m n o)

section
variable {d : Dev} (landing : Landing s p d) {m' : Mshr} (answered : Answered d p n m')
include landing answered

theorem landedAt_l1 (i : Nat) : ((d.landedAt p i).core p.tgt).l1 = (d.core p.tgt).l1 := by
  rw [landedAt_core]
  exact (landing_released landing answered.buffer).2.1

theorem landedAt_l1Off (i : Nat) : ((d.landedAt p i).core p.tgt).l1Off = (s.dev.core p.tgt).l1Off := by
  rw [landedAt_core]
  have same := congrArg Core.l1Off (landing_released landing answered.buffer).1.core
  exact same

include awaits

theorem landedAt_only (i : Nat) : ((d.landedAt p i).core p.tgt).ops = [(n, o)] := by
  rw [landedAt_core]
  exact freed_only awaits (landing_released landing answered.buffer).1

variable (rests : LineRests s p o)
include rests

/-- The buffer is released, the one instruction that waits is performed on the line's copy and leaves, and nothing else goes on. -/
theorem answered_lands {i : Nat} {f : L1Line} (found : (d.core p.tgt).l1Find p.line = some i) (listed : mget? (d.core p.tgt).l1 i = some f)
    (kind : o.kind = .load ∨ o.kind = .store ∧ f.st = .m) {x : Dev}
    (acts : Dev.hit s.clk p.tgt n p.line (some m'.contended) o f (d.landedAt p i) = x) (served : Served p.tgt n o (d.landedAt p i) x)
    (keeps : ¬ (m'.invSeen = true ∧ (x.core p.tgt).l1State p.line = .s)) (units : UnitsClear (x.core p.tgt)) (calm : Calm s.dev) :
    let e := d.coreDone s.clk p.tgt p.entry
    Calm e ∧ ∀ t, Settled s e t → (AtCore s p.tgt t ∧ t.dev.fab.net = s.dev.fab.net.erase p ∧ Landed s t p) ∧
      (t.dev.core p.tgt).l1 = (x.core p.tgt).l1 ∧
      ∃ await, t.dev.group p.tgt o.slot = { x.group p.tgt o.slot with await := await } := by
  obtain ⟨freed, l1, -, -⟩ := landing_released landing answered.buffer
  let r := d.release p.tgt p.entry
  have hits := freed_hits awaits freed rests ((l1Find_congr l1 _).trans found) ((congrArg (mget? · i) l1).trans listed) kind
  have performed : m'.ops.foldl (fun d n => d.opLine s.clk p.tgt n p.line (some m'.contended)) r = x := by
    rw [answered.waits, List.foldl_cons, List.foldl_nil, opLine_hits hits]
    exact acts
  have bw : ((d.landedAt p i).core p.tgt).bw = [] := by
    rw [landedAt_core]
    exact freed_bw awaits freed
  have left := corePump_served awaits.fine awaits.moved awaits.slot served bw s.clk
  have touch : Piped p.tgt o.slot r (r.updCore p.tgt fun co => co.l1Touch i) := piped_updCore r fun _ => rfl
  have through : Piped p.tgt o.slot r (x.corePump s.clk p.tgt) := (touch.trans served.toPiped).trans left.toPiped
  obtain ⟨bwSame, mshrs, fwdq⟩ := piped_buffers through
  have idle := settles_idle (d := x.corePump s.clk p.tgt) (c := p.tgt) (line := p.line) left.ops (bwSame.trans (freed_bw awaits freed))
    (by rw [mshrs]; exact hits.noMiss) (by rw [fwdq]; exact freed_noFwd freed rests) (by rw [piped_slice through]; exact freed_noFar freed rests) s.clk
  have done : d.coreDone s.clk p.tgt p.entry = ((x.corePump s.clk p.tgt).updCore p.tgt id).updCore p.tgt id := by
    unfold Dev.coreDone
    rw [answered.buffer]
    dsimp only
    rw [if_neg (by simp [answered.granted, answered.need]), answered.line, performed, if_neg keeps, clearL1Units_clear units, idle]
  have lands := left_lands freed ((through.trans (updCoreId_pipes ..)).trans (updCoreId_pipes ..)) left.again.again calm
  rw [← done] at lands
  exact lands

/-- A store whose copy is in M is performed, and its buffer free. -/
theorem store_lands (store : o.kind = .store) {i : Nat} {f : L1Line} (found : (d.core p.tgt).l1Find p.line = some i)
    (listed : mget? (d.core p.tgt).l1 i = some f) (modified : f.st = .m) (units : UnitsClear (d.core p.tgt)) (calm : Calm s.dev) :
    let e := d.coreDone s.clk p.tgt p.entry
    Calm e ∧ ∀ t, Settled s e t → (AtCore s p.tgt t ∧ t.dev.fab.net = s.dev.fab.net.erase p ∧ Landed s t p) ∧
      ∃ f', (t.dev.core p.tgt).l1Find p.line = some i ∧ mget? (t.dev.core p.tgt).l1 i = some f' ∧ f'.st = .m ∧
        f'.data = lineMerge (storeBytes o o.lanes).1 (storeBytes o o.lanes).2 f.data ∧ f'.dirty = f.dirty ||| sectorsOf (storeBytes o o.lanes).1 := by
  have l1 := landedAt_l1 landing answered i
  have own := (line_of_l1Find found listed).1
  obtain ⟨served, -, written, -⟩ := store_serves (landedAt_only awaits landing answered i) i f ((l1Find_congr l1 _).trans found) own
  rw [l1] at written
  let stored := f.merged (storeBytes o o.lanes)
  let x := ((d.landedAt p i).updCore p.tgt fun co => co.l1Put stored).updOp p.tgt n fun x => x.finish (o.lanes.map LaneAcc.lane)
  have at' : (x.core p.tgt).l1State p.line = .m := by
    have still := l1Find_mput (f := stored) found own nofun written
    unfold Core.l1State
    rw [still, written]
    simp [mget?_mput, L1Line.merged]
  have off : (x.core p.tgt).l1Off = (d.core p.tgt).l1Off := by
    rw [served.core]
    exact (landedAt_l1Off landing answered i).trans (congrArg Core.l1Off landing.core).symm
  obtain ⟨calm', lands⟩ := answered_lands awaits landing answered rests found listed (.inr ⟨store, modified⟩)
    ((if_neg (by simp [store])).trans (if_pos store)) served (fun lost => absurd (at'.symm.trans lost.2) (by decide))
    (unitsClear_mput units (units _ (mem_of_mget? listed)) written off) calm
  refine ⟨calm', fun t settled => ?_⟩
  obtain ⟨landed, same, -⟩ := lands t settled
  have final : (t.dev.core p.tgt).l1 = mput (d.core p.tgt).l1 i stored := same.trans written
  exact ⟨landed, stored, l1Find_mput (f := stored) found own nofun final, by rw [final, mget?_mput, if_pos rfl], rfl, rfl, rfl⟩

end

variable (rests : LineRests s p o)
include awaits rests

/-- What a store's response leaves: the buffer free, the instruction gone, and the copy in M with the store's bytes. -/
def StoreDone (s : State) (p : Packet) (o : MemOp) (i : Nat) (f : L1Line) (t : State) : Prop :=
  AtCore s p.tgt t ∧ t.dev.fab.net = s.dev.fab.net.erase p ∧ Landed s t p ∧
    ∃ f', (t.dev.core p.tgt).l1Find p.line = some i ∧ mget? (t.dev.core p.tgt).l1 i = some f' ∧ f'.st = .m ∧
      f'.data = lineMerge (storeBytes o o.lanes).1 (storeBytes o o.lanes).2 f.data ∧ f'.dirty = f.dirty ||| sectorsOf (storeBytes o o.lanes).1

theorem grant_completes (store : o.kind = .store) {i : Nat} {f : L1Line} (found : (s.dev.core p.tgt).l1Find p.line = some i)
    (listed : mget? (s.dev.core p.tgt).l1 i = some f) (h : Arrives s p .grant) (acks : p.acks = m.got) :
    ∃ t, exec (.grant p) s = .next t ∧ StoreDone s p o i f t := by
  obtain ⟨fab, taken, net⟩ := take_eq s.dev p
  have lineIs := landing_line awaits.buffer
  let d : Dev := { s.dev with fab := fab }
  let fm : L1Line := { f with st := .m }
  let granted : Mshr → Mshr := fun x => { x with granted := true, need := some p.acks, contended := p.contended }
  have own := (line_of_l1Find found listed).1
  let d₁ := d.updCore p.tgt (Core.l1Write i fm)
  let d₂ := d₁.updMshr p.tgt p.entry granted
  have core₁ : d₁.core p.tgt = (s.dev.core p.tgt).l1Write i fm := updCore_self ..
  have core₂ := updMshr_core d₁ p.tgt p.entry granted
  have made : (d.updCore p.tgt fun co => match (co.l1Find p.line).bind fun i => mget? co.l1 i with
      | some f => co.l1Put { f with st := .m }
      | none => co) = d₁ := by
    refine congrArg (d.setCore p.tgt) ?_
    dsimp only
    rw [show (d.core p.tgt).l1Find p.line = some i from found, Option.bind_some, show mget? (d.core p.tgt).l1 i = some f from listed]
    exact l1Put_held (f := fm) found own nofun
  have l1₂ : (d₂.core p.tgt).l1 = mput (s.dev.core p.tgt).l1 i fm := by
    rw [core₂, core₁]
    rfl
  have answered : Answered d₂ p n (granted m) :=
    ⟨updMshr_same (by rw [core₁]; exact listed_of_landing awaits.buffer) granted, rfl, congrArg some acks, awaits.waits, lineIs⟩
  obtain ⟨calm, lands⟩ := store_lands awaits (f := fm) (i := i) (landing_updMshr (landing_updCore (landing_taken net) fun _ => rfl) granted)
    answered rests store (l1Find_mput (f := fm) found own nofun l1₂) (by rw [l1₂, mget?_mput, if_pos rfl]) rfl
    (unitsClear_mput rests.units (rests.units _ (mem_of_mget? listed)) l1₂ (by rw [core₂, core₁]; rfl)) h.calm
  obtain ⟨t, ht, settled⟩ : ∃ t, exec (.grant p) s = .next t ∧ Settled s (d₂.coreDone s.clk p.tgt p.entry) t := by
    unfold exec execGrant
    refine onPkt_settles h ?_ calm
    rw [if_pos awaits.core, taken]
    unfold Dev.coreResp Dev.coreGrant
    rw [show (d.core p.tgt).landing p = some m from awaits.buffer]
    exact congrArg (fun x => some ((x.updMshr p.tgt p.entry granted).coreDone s.clk p.tgt p.entry)) made
  obtain ⟨⟨atCore, left, landed⟩, copy⟩ := lands t settled
  exact ⟨t, ht, atCore, left, landed, copy⟩

theorem invAck_completes (store : o.kind = .store) {i : Nat} {f : L1Line} (found : (s.dev.core p.tgt).l1Find p.line = some i)
    (listed : mget? (s.dev.core p.tgt).l1 i = some f) (h : Arrives s p .invAck) (granted : m.granted = true) (need : m.need = some (m.got + 1))
    (modified : f.st = .m) : ∃ t, exec (.invAck p) s = .next t ∧ StoreDone s p o i f t := by
  obtain ⟨fab, taken, net⟩ := take_eq s.dev p
  have lineIs := landing_line awaits.buffer
  let d : Dev := { s.dev with fab := fab }
  let counted : Mshr → Mshr := fun x => { x with got := x.got + 1 }
  have core := updMshr_core d p.tgt p.entry counted
  have answered : Answered (d.updMshr p.tgt p.entry counted) p n (counted m) :=
    ⟨updMshr_same (d := d) (listed_of_landing awaits.buffer) counted, granted, need, awaits.waits, lineIs⟩
  obtain ⟨calm, lands⟩ := store_lands awaits (f := f) (i := i) (landing_updMshr (landing_taken net) counted) answered rests store
    (by rw [core]; exact found) (by rw [core]; exact listed) modified (by rw [core]; exact rests.units) h.calm
  obtain ⟨t, ht, settled⟩ : ∃ t, exec (.invAck p) s = .next t ∧
      Settled s ((d.updMshr p.tgt p.entry counted).coreDone s.clk p.tgt p.entry) t := by
    unfold exec execInvAck
    refine onPkt_settles h ?_ calm
    rw [if_pos awaits.core, taken]
    unfold Dev.coreResp
    rw [show (d.core p.tgt).landing p = some m from awaits.buffer]
  obtain ⟨⟨atCore, left, landed⟩, copy⟩ := lands t settled
  exact ⟨t, ht, atCore, left, landed, copy⟩

/-- The L1 copy that a Data packet brings (R241, R243). -/
def dataCopy (p : Packet) (m : Mshr) : L1Line :=
  let st : LState := match p.grant with
    | 3 => .m
    | 2 => .e
    | _ => .s
  { L1Line.reset with
    line := p.line, st := st, dirty := if st = .m then p.sectors else 0, data := lineOfWords p.data, poison := poisonMask p.poison
    berth := m.berth, key := m.key, mirror := m.mirror }

omit awaits rests in
theorem dataCopy_state (shared : p.grant ≠ 3) : (dataCopy p m).st = if p.grant = 2 then .e else .s := by
  unfold dataCopy
  dsimp only
  split
  next three => exact absurd three shared
  next two => rw [if_pos two]
  next other => rw [if_neg other]

theorem data_completes (h : Arrives s p .data) (asked : m.kind = .getS) (load : o.kind = .load) (unseen : m.invSeen = false) (none' : m.got = 0)
    (absent : (s.dev.core p.tgt).l1Find p.line = none) (free : ∃ w < 8, (s.dev.core p.tgt).l1Free p.line w) (shared : p.grant ≠ 3)
    (clean : p.poison = []) :
    ∃ t, exec (.data p) s = .next t ∧ AtCore s p.tgt t ∧ t.dev.fab.net = s.dev.fab.net.erase p ∧ Landed s t p ∧
      LanesHold t p.tgt o (fun a => loadValue o.ty (lineGet (lineOfWords p.data) a.off (accWidth o.ty))) ∧
      ∃ i f, (t.dev.core p.tgt).l1Find p.line = some i ∧ mget? (t.dev.core p.tgt).l1 i = some f ∧ f.data = lineOfWords p.data ∧
        f.st = (if p.grant = 2 then .e else .s) := by
  obtain ⟨fab, taken, net⟩ := take_eq s.dev p
  have lineIs := landing_line awaits.buffer
  let d : Dev := { s.dev with fab := fab }
  let f := dataCopy p m
  have valid : f.st ≠ .i := by
    rw [dataCopy_state shared]
    split <;> decide
  obtain ⟨w, below, ⟨enabled, -⟩, entered⟩ := l1Insert_free (d := d) (c := p.tgt) (f := f) free
  let i := 8 * l1Set p.line + w
  let answered : Mshr → Mshr := fun x => { x with granted := true, need := some (if p.grant = 3 then p.acks else 0), contended := p.contended }
  let d₁ := d.updCore p.tgt (Core.l1Enter i f)
  let d₂ := d₁.updMshr p.tgt p.entry answered
  have core₁ : d₁.core p.tgt = (s.dev.core p.tgt).l1Enter i f := updCore_self ..
  have core₂ := updMshr_core d₁ p.tgt p.entry answered
  have l1₂ : (d₂.core p.tgt).l1 = mput (s.dev.core p.tgt).l1 i f := by
    rw [core₂, core₁]
    rfl
  have landing : Landing s p d₂ := landing_updMshr (landing_updCore (landing_taken net) fun _ => rfl) answered
  have complete : Answered d₂ p n (answered m) :=
    ⟨updMshr_same (by rw [core₁]; exact listed_of_landing awaits.buffer) answered, rfl, congrArg some ((if_neg shared).trans none'.symm),
      awaits.waits, lineIs⟩
  have found : (d₂.core p.tgt).l1Find p.line = some i := l1Find_enter absent below rfl valid l1₂
  have listed : mget? (d₂.core p.tgt).l1 i = some f := by rw [l1₂, mget?_mput, if_pos rfl]
  obtain ⟨served, -, kept, group⟩ := bindLoads_serves (landedAt_only awaits landing complete i) awaits.slot (lineOfWords p.data)
  let x := (d₂.landedAt p i).bindLoads p.tgt n o o.lanes (lineOfWords p.data) 0
  have l1x : (x.core p.tgt).l1 = mput (s.dev.core p.tgt).l1 i f := kept.trans ((landedAt_l1 landing complete i).trans l1₂)
  have off : (x.core p.tgt).l1Off = (s.dev.core p.tgt).l1Off := by
    rw [served.core]
    exact landedAt_l1Off landing complete i
  have unit : (s.dev.core p.tgt).l1Off.contains (8 * (i / 8 / 16) + i % 8) = false := by
    have set : i / 8 = l1Set p.line := by omega
    have way : i % 8 = w := by omega
    rw [set, way]
    exact enabled
  obtain ⟨calm, lands⟩ := answered_lands awaits landing complete rests found listed (.inl load)
    ((if_pos load).trans (by rw [show f.poison = 0 from congrArg poisonMask clean]; rfl)) served
    (fun lost => absurd (unseen.symm.trans lost.1) (by decide)) (unitsClear_mput rests.units unit l1x off) h.calm
  obtain ⟨t, ht, settled⟩ : ∃ t, exec (.data p) s = .next t ∧ Settled s (d₂.coreDone s.clk p.tgt p.entry) t := by
    unfold exec execData
    refine onPkt_settles h ?_ calm
    rw [if_pos awaits.core, taken]
    unfold Dev.coreResp Dev.coreData
    rw [show (d.core p.tgt).landing p = some m from awaits.buffer]
    dsimp only
    rw [if_neg (by simp [asked]), show (d.core p.tgt).l1Find p.line = none from absent, if_neg (by decide)]
    exact congrArg (fun x => some ((x.updMshr p.tgt p.entry answered).coreDone s.clk p.tgt p.entry)) entered
  obtain ⟨⟨atCore, gone, landed⟩, same, await, own⟩ := lands t settled
  have final := same.trans l1x
  exact ⟨t, ht, atCore, gone, landed, lanesHold_of awaits (own.trans (by rw [group])), i, f, l1Find_enter absent below rfl valid final,
    by rw [final, mget?_mput, if_pos rfl], rfl, dataCopy_state shared⟩

end

/-- Settles O25: each response by what it does with the one instruction that waits for it. -/
theorem responsesComplete : Obligations.ResponsesComplete := by
  intro s p m n o awaits c free load
  refine ⟨fun h rests asked isLoad unseen none' absent way shared clean => ?data, fun i f rests store found listed =>
    ⟨grant_completes awaits rests store found listed, invAck_completes awaits rests store found listed⟩,
    fun h data _ clean => readData_completes awaits h data clean, atomResp_completes awaits, writeAck_completes awaits⟩
  case data => exact data_completes awaits rests h asked isLoad unseen none' absent way shared clean

end Sys2Proof.Machine

namespace Sys2Proof.Machine

/-! ### CFLUSH and CINV of a remote streaming line (R93, R199) -/

/-- The one access of a cache operation, on a line that nothing else of its core concerns, reaches the device's slice. -/
theorem opLine_cache {d : Dev} {c n : Nat} {o : MemOp} {a : LaneAcc} (only : (d.core c).ops = [(n, o)]) (single : o.lanes = [a])
    (fresh : a.stale = false) (kind : o.kind = .cflush ∨ o.kind = .cinv) (noMiss : ∀ m ∈ (d.core c).mshrs, m.2.line ≠ a.line)
    (noEvict : ∀ b ∈ (d.core c).evict, b.line ≠ a.line) (k : Clock) : d.opLine k c n a.line none = d.cacheOp k c n o a [a.lane] := by
  have listed : mget? (d.core c).ops n = some o := by simp [only, mget?]
  rw [opLine_fresh listed (by simp [single, fresh])]
  unfold Dev.opLineNow
  simp [listed, single, lineBusy_idle only noMiss noEvict, kind]

/-- A cache operation as the pipe takes it, whose one lane is at a place in a remote streaming line that nothing else of its core concerns
(R52, R199). -/
structure Flushes (d : Dev) (c : Nat) (o : MemOp) (a : LaneAcc) : Prop where
  single : o.lanes = [a]
  fresh : a.stale = false
  streaming : a.mtype = 1
  remote : d.isHome a.line = false
  alone : (d.core c).ops = []
  room : (d.core c).used + 1 ≤ 192
  noMiss : ∀ m ∈ (d.core c).mshrs, m.2.line ≠ a.line
  noEvict : ∀ b ∈ (d.core c).evict, b.line ≠ a.line
  slot : o.slot < 64
  adv : o.adv = false
  fine : o.flt = []

section
variable {d : Dev} {c : Nat} {o : MemOp} {a : LaneAcc} (h : Flushes d c o a)
include h

theorem flushes_lines : (o.lanes.map LaneAcc.line).eraseDups = [a.line] := lines_one (by simp [h.single]) (by simp [h.single])

theorem flushes_entered : ((d.enter c o).core c).ops = [((d.core c).nextOp, o)] := by
  unfold Dev.enter
  rw [updCore_self, h.alone]
  rfl

/-- The pipe lets the access of a cache operation act at once. -/
theorem flushes_acts (kind : o.kind = .cflush ∨ o.kind = .cinv) (k : Clock) :
    ((o.lanes.map LaneAcc.line).eraseDups).foldl (fun x line => x.opLine k c (d.core c).nextOp line none) (d.enter c o) =
      (d.enter c o).cacheOp k c (d.core c).nextOp o a [a.lane] := by
  have core : (d.enter c o).core c = { d.core c with
      ops := mput (d.core c).ops (d.core c).nextOp o, nextOp := (d.core c).nextOp + 1 } := updCore_self ..
  rw [flushes_lines h, List.foldl_cons, List.foldl_nil]
  exact opLine_cache (flushes_entered h) h.single h.fresh kind (by rw [core]; exact h.noMiss) (by rw [core]; exact h.noEvict) k

/-- CINV drops the line from the device's slice, and its group goes on (R199). -/
theorem cinv_runs (kind : o.kind = .cinv) (k : Clock) (len : Nat) :
    let e := d.runOp k c o.slot len o
    e = { d with cores := e.cores, slices := e.slices } ∧
      e.slice (d.lineSlice a.line) = (d.slice (d.lineSlice a.line)).dropLine a.line ∧ e.group c o.slot = (d.group c o.slot).advance len := by
  let n := (d.core c).nextOp
  let d' := (d.enter c o).updSlice (d.lineSlice a.line) fun x => x.dropLine a.line
  have dropped : (d.enter c o).cacheOp k c n o a [a.lane] = d'.updOp c n fun x => x.finish (o.lanes.map LaneAcc.lane) := by
    have remote : (d.enter c o).isHome a.line = false := h.remote
    unfold Dev.cacheOp
    dsimp only
    rw [remote, h.streaming, if_neg (by decide), if_pos kind, h.single]
    rfl
  obtain ⟨done, all⟩ := finish_all o
  have left : ((d'.updOp c n fun x => x.finish (o.lanes.map LaneAcc.lane)).core c).ops = [(n, o.spent done)] := by
    rw [updOp_core, show (d'.core c).ops = [(n, o)] from flushes_entered h]
    simp [all]
  have ends := runOp_ends h.adv h.fine (by rw [flushes_lines h]; exact h.room) ((flushes_acts h (.inr kind) k).trans dropped) left len
  intro e
  have slice : d'.slice (d.lineSlice a.line) = (d.slice (d.lineSlice a.line)).dropLine a.line := updSlice_self ..
  refine ⟨?_, ?_, ?_⟩
  · unfold e
    rw [ends]
    rfl
  · unfold e
    rw [ends]
    exact slice
  · unfold e
    rw [ends, group_updGroup _ _ _ _ _ _ h.slot, if_pos ⟨rfl, rfl⟩, dropOp_group (o := o.spent done) h.adv, updOp_group]
    exact congrArg (Group.advance · len) (enter_group d c o o.slot)

end

/-- An instruction some of whose accesses are under way stays in the pipe, and its group goes on (R52). -/
theorem runOp_waits {d e : Dev} {c : Nat} {o : MemOp} (busy : o.lanes ≠ []) (fine : o.flt = [])
    (room : (d.core c).used + ((o.lanes.map LaneAcc.line).eraseDups).length ≤ 192) {k : Clock}
    (acts : ((o.lanes.map LaneAcc.line).eraseDups).foldl (fun x line => x.opLine k c (d.core c).nextOp line none) (d.enter c o) = e)
    (left : (e.core c).ops = [((d.core c).nextOp, o)]) (len : Nat) :
    ∃ regs, d.runOp k c o.slot len o = (e.updOp c (d.core c).nextOp fun x => { x with adv := true }).updGroup c o.slot
      fun g => { g with await := g.await ++ regs }.advance len := by
  have listed : mget? (e.core c).ops (d.core c).nextOp = some o := by simp [left, mget?]
  have stays : e.endOp k c (d.core c).nextOp = e := by
    unfold Dev.endOp
    rw [listed]
    simp [busy]
  have entered : d.setCore c { d.core c with ops := mput (d.core c).ops (d.core c).nextOp o, nextOp := (d.core c).nextOp + 1 } = d.enter c o := rfl
  unfold Dev.runOp
  dsimp only
  rw [if_neg (by omega), entered, acts, stays, listed]
  simp only [fine, List.isEmpty_nil, Bool.not_true, Bool.false_eq_true, if_false, List.isEmpty_iff, busy]
  exact ⟨_, rfl⟩

/-- A request of a core is sent, in a landing buffer of it (R307); besides, only its queue's bytes are counted (R492). -/
theorem coreReq_sends (d : Dev) (k : Clock) (c n : Nat) (o : MemOp) (a : LaneAcc) (kind : ReqKind) (p : Packet) :
    ∃ queues mshrs q, d.coreReq k c n o a kind true p = (({ d with ctl := { d.ctl with queues := queues } } : Dev).updCore c fun x =>
        { x with mshrs := mshrs }).send q ∧
      q.op = p.op ∧ q.line = a.line ∧ q.mask = p.mask ∧ q.data = p.data ∧ q.dst = a.line / 2 ^ 38 := by
  unfold Dev.coreReq Dev.landReq
  dsimp only
  split
  · exact ⟨_, _, _, rfl, rfl, rfl, rfl, rfl, rfl⟩
  · exact ⟨d.ctl.queues, _, _, rfl, rfl, rfl, rfl, rfl, rfl⟩

section
variable {d : Dev} {c : Nat} {o : MemOp} {a : LaneAcc} (h : Flushes d c o a)
include h

/-- CFLUSH sends the dirty bytes of the line in the device's slice home as one masked write, and its group goes on (R199). -/
theorem cflush_runs (kind : o.kind = .cflush) {i : Nat} {fr : SLine}
    (found : (d.slice (d.lineSlice a.line)).frameOf (d.setOfLine a.line) a.line = some i)
    (listed : mget? (d.slice (d.lineSlice a.line)).frames i = some fr) (dirty : fr.bytes ≠ 0) (k : Clock) (len : Nat) :
    let e := d.runOp k c o.slot len o
    (Calm d → Calm e) ∧ (e.group c o.slot).pc = ((d.group c o.slot).advance len).pc ∧
      mget? (e.slice (d.lineSlice a.line)).frames i = some { fr with bytes := 0 } ∧
      ∃ p, e.fab.net = d.fab.net ++ [p] ∧ p.op = .writeU ∧ p.line = a.line ∧ p.mask = fr.bytes ∧ p.data = lineWords fr.data ∧
        p.dst = a.line / 2 ^ 38 := by
  let n := (d.core c).nextOp
  let sl := d.lineSlice a.line
  let d' := d.enter c o
  let touched : Slice := { d.slice sl with
    plru := mput (d.slice sl).plru (d.setOfLine a.line) (plruTouch 4 1 (mget 0 (d.slice sl).plru (d.setOfLine a.line)) (i % 16)) }
  let clean : SLine := { fr with bytes := 0 }
  let d₁ := d'.setSlice sl { touched with frames := mput (d.slice sl).frames i clean }
  have own := (line_of_frameOf found listed).1
  have find : d'.sliceFind k sl a.line = (some fr, d'.setSlice sl touched) := by
    unfold Dev.sliceFind
    dsimp only
    rw [show (d'.slice sl).frameOf (d'.setOfLine a.line) a.line = some i from found]
    dsimp only
    rw [show mget? (d'.slice sl).frames i = some fr from listed]
    rfl
  have put : (d'.setSlice sl touched).putFrame sl clean = d₁ := by
    have slice : (d'.setSlice sl touched).slice sl = touched := mget_mput_same ..
    unfold Dev.putFrame
    dsimp only
    rw [slice, show touched.frameOf ((d'.setSlice sl touched).setOfLine clean.line) clean.line = some i from own ▸ found]
    exact setSlice_setSlice ..
  obtain ⟨queues, mshrs, q, sends, op, line, mask, data, dst⟩ := coreReq_sends d₁ k c n o a .flush
    (writeUPkt d₁ a.line c o.berth a.key 1 fr.bytes fr.data fr.poison)
  let counted : Dev := { d₁ with ctl := { d₁.ctl with queues := queues } }
  let e := (counted.updCore c fun x => { x with mshrs := mshrs }).send q
  have acts : d'.cacheOp k c n o a [a.lane] = e := by
    have remote : d'.isHome a.line = false := h.remote
    have there : d'.lineSlice a.line = sl := rfl
    unfold Dev.cacheOp
    dsimp only
    rw [remote, h.streaming, if_neg (by decide), if_neg (by simp [kind]), there, find]
    dsimp only
    rw [if_neg dirty, put]
    exact sends
  have core : e.core c = { (d.enter c o).core c with mshrs := mshrs } := updCore_self counted c fun x => { x with mshrs := mshrs }
  have left : (e.core c).ops = [(n, o)] := by
    rw [core]
    exact flushes_entered h
  obtain ⟨regs, runs⟩ := runOp_waits (k := k) (by simp [h.single]) h.fine (by rw [flushes_lines h]; exact h.room)
    ((flushes_acts h (.inl kind) k).trans acts) left len
  have group : e.group c o.slot = d.group c o.slot :=
    (updCore_group counted c (fun x => { x with mshrs := mshrs }) rfl c o.slot).trans (enter_group d c o o.slot)
  have slice : d₁.slice sl = { touched with frames := mput (d.slice sl).frames i clean } := mget_mput_same ..
  intro e'
  unfold e'
  rw [runs]
  refine ⟨fun calm => calm, ?_, ?_, { q with via := none, esc := false }, rfl, op, line, mask, data, dst⟩
  · rw [group_updGroup _ _ _ _ _ _ h.slot, if_pos ⟨rfl, rfl⟩, updOp_group, group]
    rfl
  · have frames : mget? (d₁.slice sl).frames i = some clean := by rw [slice, mget?_mput, if_pos rfl]
    exact frames

end

/-! ### The instructions -/

section
variable {c : Fin 512} {gs : Fin 64} {f : InsF} {s : State}

theorem mfence_completes (h : Presents s c gs f (mfenceShape f)) (idle : s.dev.hasOps c gs = false) :
    ∃ t, exec (.mfence c gs f) s = .next t ∧ GroupFrame s c gs t ∧ t.dev.group c gs = (s.dev.group c gs).advance 8 :=
  issue_gives (eff := fun d => if d.hasOps c gs then d else d.updGroup c gs fun g => g.advance 8) h gs.isLt (if_neg (by simp [idle]))

variable {l ga : Nat} {e : BitVec 256} (single : memLanes (s.dev.group c gs) f false = [l])
  (xlate : s.dev.coreXlate c gs (laneVa (s.dev.group c gs) f.a (memImm f) 1 l) 0 = .ok e ga) (streaming : reType e = 1)
  (remote : s.dev.isHome (gaLine ga) = false) (alone : (s.dev.core c).ops = []) (room : (s.dev.core c).used + 1 ≤ 192)
  (noMiss : ∀ m ∈ (s.dev.core c).mshrs, m.2.line ≠ gaLine ga) (noEvict : ∀ b ∈ (s.dev.core c).evict, b.line ≠ gaLine ga)
include single xlate streaming remote alone room noMiss noEvict

/-- A cache operation of one lane on such a line enters the pipe. -/
theorem cache_presents {o : MemOp} (kind : o.kind = .cflush ∨ o.kind = .cinv) (adv : o.adv = false) :
    ∃ a o', Flushes s.dev c o' a ∧ a.line = gaLine ga ∧ o'.kind = o.kind ∧ o'.slot = gs ∧
      memPresent s.clk c gs f o f.a (memImm f) 0 false (fun _ _ a => a) s.dev = s.dev.runOp s.clk c gs f.len o' := by
  have align : o.align = 1 := by
    unfold MemOp.align
    rw [if_neg (by rcases kind with kind | kind <;> simp [kind]), if_pos kind]
  have present := memPresent_translates (d := s.dev) (c := c) (s := gs) (f := f) (o := o) (addrA := f.a) (imm := memImm f) (need := 0)
    (uniform := false) (e := fun _ => e) (ga := fun _ => ga) (fun x hx => by
      rw [single] at hx
      rw [List.mem_singleton.mp hx, align]
      exact xlate) s.clk fun _ _ a => a
  rw [single] at present
  let a := laneAccess (s.dev.core c) o.hint e (laneVa (s.dev.group c gs) f.a (memImm f) o.align l) ga l
  exact ⟨a, s.dev.taken c gs f o false [a], ⟨rfl, rfl, streaming, remote, alone, room, noMiss, noEvict, gs.isLt, adv, rfl⟩, rfl, rfl, rfl, present⟩

theorem cinv_completes (h : Presents s c gs f (cacheShape (s.dev.rOf c gs) f)) :
    ∃ t, exec (.cinv c gs f) s = .next t ∧ t.dev.group c gs = (s.dev.group c gs).advance f.len ∧
      t.dev.slice (s.dev.lineSlice (gaLine ga)) = (s.dev.slice (s.dev.lineSlice (gaLine ga))).dropLine (gaLine ga) ∧
      t.dev.fab.net = s.dev.fab.net ∧ t.dev.mem = s.dev.mem := by
  let o : MemOp := { MemOp.reset with kind := .cinv }
  obtain ⟨a, o', flushes, line, kind, slot, present⟩ := cache_presents (o := o) single xlate streaming remote alone room noMiss noEvict (.inr rfl) rfl
  obtain ⟨dev, slice, group⟩ := cinv_runs flushes kind s.clk f.len
  rw [slot] at dev slice group
  rw [line] at slice
  have calm : Calm (s.dev.runOp s.clk c gs f.len o') := by
    rw [dev]
    exact h.calm
  obtain ⟨t, ht, settled⟩ := issue_settles (sh := fun d => cacheShape (d.rOf c gs) f)
    (eff := memPresent s.clk c gs f o f.a (memImm f) 0 false fun _ _ a => a) h present calm
  refine ⟨t, ht, (settled.group c gs).trans group, (settled.slice _).trans slice, settled.net.trans ?_, settled.mem.trans ?_⟩
  · rw [dev]
  · rw [dev]

theorem cflush_completes (h : Presents s c gs f (cacheShape (s.dev.rOf c gs) f)) {i : Nat} {fr : SLine}
    (found : (s.dev.slice (s.dev.lineSlice (gaLine ga))).frameOf (s.dev.setOfLine (gaLine ga)) (gaLine ga) = some i)
    (listed : mget? (s.dev.slice (s.dev.lineSlice (gaLine ga))).frames i = some fr) (dirty : fr.bytes ≠ 0) :
    ∃ t p, exec (.cflush c gs f) s = .next t ∧ (t.dev.group c gs).pc = ((s.dev.group c gs).advance f.len).pc ∧
      t.dev.fab.net = s.dev.fab.net ++ [p] ∧ p.op = .writeU ∧ p.line = gaLine ga ∧ p.mask = fr.bytes ∧ p.data = lineWords fr.data ∧
      p.dst = gaLine ga / 2 ^ 38 ∧ mget? (t.dev.slice (s.dev.lineSlice (gaLine ga))).frames i = some { fr with bytes := 0 } := by
  let o : MemOp := { MemOp.reset with kind := .cflush }
  obtain ⟨a, o', flushes, line, kind, slot, present⟩ := cache_presents (o := o) single xlate streaming remote alone room noMiss noEvict (.inl rfl) rfl
  obtain ⟨calm, pc, frame, p, net, op, at', mask, data, dst⟩ := cflush_runs flushes kind (by rw [line]; exact found) (by rw [line]; exact listed)
    dirty s.clk f.len
  rw [slot] at calm pc frame net
  rw [line] at frame at' dst
  obtain ⟨t, ht, settled⟩ := issue_settles (sh := fun d => cacheShape (d.rOf c gs) f)
    (eff := memPresent s.clk c gs f o f.a (memImm f) 0 false fun _ _ a => a) h present (calm h.calm)
  refine ⟨t, p, ht, ?_, settled.net.trans net, op, at', mask, data, dst, ?_⟩
  · rw [settled.group]
    exact pc
  · rw [settled.slice]
    exact frame

end

/-- Settles O14: each instruction by its own lemma. -/
theorem fencesAndCacheOperations : Obligations.FencesAndCacheOperations := by
  intro c gs f s g hg
  subst hg
  refine ⟨mfence_completes, fun l e ga i fr h single xlate streaming remote alone room noMiss noEvict => ?cache⟩
  case cache =>
    intro sl found listed
    exact ⟨cflush_completes single xlate streaming remote alone room noMiss noEvict h found listed,
      cinv_completes single xlate streaming remote alone room noMiss noEvict h⟩

end Sys2Proof.Machine

namespace Sys2Proof.Machine

/-! ### Tiles and the matrix queue of a core (R52, R113) -/

@[simp] theorem tile_setTile (k : Core) (t : Nat) (x : Tile) : (k.setTile t x).tile t = x := by
  unfold Core.tile Core.setTile
  by_cases first : t = 0 <;> simp [first]

@[simp] theorem setTile_mxq (k : Core) (t : Nat) (x : Tile) : (k.setTile t x).mxq = k.mxq := by
  unfold Core.setTile
  split <;> rfl

@[simp] theorem setTile_mulEnd (k : Core) (t : Nat) (x : Tile) : (k.setTile t x).mulEnd = k.mulEnd := by
  unfold Core.setTile
  split <;> rfl

theorem updMx_entry (k : Core) (n : Nat) (f : MxEntry → MxEntry) (m : Nat) :
    mget? (k.updMx n f).mxq m = if m = n then (mget? k.mxq n).map f else mget? k.mxq m := by
  unfold Core.updMx
  dsimp only
  induction k.mxq with
  | nil => simp [mget?]
  | cons e q ih =>
    obtain ⟨j, y⟩ := e
    by_cases changed : j = n
    · by_cases here : m = n
      · simp [mget?, changed, here]
      · simp [mget?, changed, here, Ne.symm here, ih]
    · by_cases here : j = m
      · simp [mget?, here, here ▸ changed]
      · simp [mget?, changed, here, ih]

theorem updMx_own {k : Core} {n : Nat} {x : MxEntry} (listed : mget? k.mxq n = some x) (f : MxEntry → MxEntry) :
    mget? (k.updMx n f).mxq n = some (f x) := by
  rw [updMx_entry, if_pos rfl, listed]
  rfl

/-- A phase writes its tile and its own entry. -/
theorem setTile_updMx {k : Core} {n : Nat} {x : MxEntry} (listed : mget? k.mxq n = some x) (i : Nat) (t : Tile) (f : MxEntry → MxEntry) :
    mget? ((k.setTile i t).updMx n f).mxq n = some (f x) ∧ ((k.setTile i t).updMx n f).tile i = t :=
  ⟨updMx_own (by rw [setTile_mxq, listed]) f, tile_setTile ..⟩

/-- A change of an entry that leaves its lead-in and its update as they are moves no update in time (R134). -/
theorem mulEnd_updMx (k : Core) (n : Nat) {f : MxEntry → MxEntry} (lead : ∀ y, (f y).leadAt + (f y).lead = y.leadAt + y.lead)
    (len : ∀ y, (f y).upLen = y.upLen) : (k.updMx n f).mulEnd = k.mulEnd := by
  have updates : (k.updMx n f).updates = k.updates := by
    unfold Core.updates
    refine congrArg (fun step => (List.foldl step ([], k.mulFree) k.mulq).1) (funext₂ fun acc m => ?_)
    rw [updMx_entry]
    by_cases here : m = n
    · subst here
      cases mget? k.mxq m <;> simp [lead, len]
    · rw [if_neg here]
  unfold Core.mulEnd
  rw [updates]
  rfl

/-! ### The lead-in of a pass (R133, R134) -/

theorem leadIn_waits {k : Core} {n at' : Nat} {t : Tile} {x : MxEntry} (busy : at' + x.lead < k.mulEnd) : k.leadIn n t x at' = k :=
  if_pos busy

/-- An entry whose pass begins on a tile with a lead-in in an A-cycle (R133, R135). -/
def MxEntry.leading (y : MxEntry) (t : Tile) (at' : Nat) : MxEntry := { y with phase := .pass, leadAt := at', n0 := t.level, snap := t.acc }

theorem leadIn_begins {k : Core} {n at' : Nat} {t : Tile} {x y : MxEntry} (free : k.mulEnd ≤ at' + x.lead) (listed : mget? k.mxq n = some y) :
    mget? (k.leadIn n t x at').mxq n = some (y.leading t at') ∧
      (k.leadIn n t x at').tile x.tile = { t with kind := kindAfter x.da.fmt t.kind } := by
  have begins : k.leadIn n t x at' = { (k.setTile x.tile { t with kind := kindAfter x.da.fmt t.kind }).updMx n
      (fun y => y.leading t at') with mulq := k.mulq ++ [n] } := if_neg (by omega)
  obtain ⟨entry, tile⟩ := setTile_updMx listed x.tile { t with kind := kindAfter x.da.fmt t.kind } fun y => y.leading t at'
  rw [begins]
  exact ⟨entry, tile⟩

/-! ### The first phase of a queued instruction (R115, R134) -/

/-- The tile on which an instruction's own phases begin: a claim has zeroed it (R115). -/
def Core.ownTile (k : Core) (x : MxEntry) : Tile := if x.claims then (k.tile x.tile).zeroed .unset else k.tile x.tile

/-- The core once the zero phase of a queued pass that claims its tile has begun (R115, R134). -/
def Core.claimBegun (k : Core) (n : Nat) (x : MxEntry) (acyc : Nat) : Core :=
  if x.claims then (k.setTile x.tile (k.ownTile x)).updMx n fun y => { y with since := acyc, phase := .zero } else k

theorem claimBegun_spec {k : Core} {n : Nat} {x : MxEntry} (listed : mget? k.mxq n = some x) (acyc : Nat) :
    (k.claimBegun n x acyc).mulEnd = k.mulEnd ∧ (k.claimBegun n x acyc).tile x.tile = k.ownTile x ∧
      mget? (k.claimBegun n x acyc).mxq n = some (if x.claims then { x with since := acyc, phase := .zero } else x) := by
  unfold Core.claimBegun
  by_cases claims : x.claims = true
  · obtain ⟨entry, tile⟩ := setTile_updMx listed x.tile (k.ownTile x) fun y => { y with since := acyc, phase := .zero }
    rw [if_pos claims, if_pos claims, mulEnd_updMx, setTile_mulEnd]
    · exact ⟨rfl, tile, entry⟩
    · exact fun _ => rfl
    · exact fun _ => rfl
  · rw [if_neg claims, if_neg claims]
    exact ⟨rfl, by simp [Core.ownTile, claims], listed⟩

/-- A pass's entry as it notes since when it holds its tile (R491). -/
def MxEntry.sinceOfPass (y : MxEntry) (acyc : Nat) : MxEntry := if y.phase = .pass then { y with since := acyc } else y

/-- The core once the first phase of a queued MXSTREAM or MXDIAG has begun, or waits for the multipliers (R134). -/
def Core.passBegun (k : Core) (n : Nat) (x : MxEntry) (acyc : Nat) : Core :=
  ((k.claimBegun n x acyc).leadIn n (k.ownTile x) x { x with since := acyc }.ownAt).updMx n fun y => y.sinceOfPass acyc

/-- The core once MXZERO has begun (R119). -/
def Core.zeroBegun (k : Core) (n : Nat) (x : MxEntry) (acyc : Nat) : Core :=
  (k.setTile x.tile ((k.ownTile x).zeroed x.kindArg)).updMx n fun y => { y with since := acyc, phase := .zero }

/-- The core once a drain has begun, and read its amax word (R160). -/
def Core.drainBegun (k : Core) (n : Nat) (x : MxEntry) (acyc : Nat) : Core :=
  let amax := match x.fuse.amax with
    | some o => k.lmGet (k.block x.block) o 4
    | none => 0
  (k.setTile x.tile (k.ownTile x)).updMx n fun y => { y with since := acyc, phase := .drain, amax := BitVec.ofNat 32 amax }

/-- The core once a queued instruction has begun what it can of its first phases (R133, R134). -/
def Core.phaseBegun (k : Core) (n : Nat) (x : MxEntry) (acyc : Nat) : Core :=
  match x.op with
  | .zero => k.zeroBegun n x acyc
  | .drain => k.drainBegun n x acyc
  | _ => k.passBegun n x acyc

section
variable {k : Core} {n acyc : Nat} {x : MxEntry} (listed : mget? k.mxq n = some x)
include listed

theorem zeroBegun_spec : mget? (k.zeroBegun n x acyc).mxq n = some { x with since := acyc, phase := .zero } ∧
    (k.zeroBegun n x acyc).tile x.tile = (k.ownTile x).zeroed x.kindArg :=
  setTile_updMx listed x.tile ((k.ownTile x).zeroed x.kindArg) fun y => { y with since := acyc, phase := .zero }

theorem drainBegun_entry : ∃ y, mget? (k.drainBegun n x acyc).mxq n = some y ∧ y.phase = .drain ∧ y.since = acyc :=
  ⟨_, updMx_own (by rw [setTile_mxq, listed]) _, rfl, rfl⟩

/-- With the multipliers free in time, the pass begins at once (R134, condition 5). -/
theorem passBegun_leads (free : k.mulEnd ≤ acyc + (if x.claims then 2 else 0) + x.lead) :
    (k.passBegun n x acyc).tile x.tile = { k.ownTile x with kind := kindAfter x.da.fmt (k.ownTile x).kind } ∧
      ∃ y, mget? (k.passBegun n x acyc).mxq n = some y ∧ y.phase = .pass ∧ y.since = acyc ∧
        y.leadAt = acyc + (if x.claims then 2 else 0) := by
  obtain ⟨same, -, entry⟩ := claimBegun_spec listed acyc
  obtain ⟨leads, tile⟩ := leadIn_begins (t := k.ownTile x) (x := x) (at' := { x with since := acyc }.ownAt) (same ▸ free) entry
  exact ⟨tile, _, updMx_own leads _, rfl, rfl, rfl⟩

/-- With the multipliers taken, only the zero phase of a claim begins (R134, condition 5). -/
theorem passBegun_waits (queued : x.phase = .queued) (busy : acyc + (if x.claims then 2 else 0) + x.lead < k.mulEnd) :
    (k.passBegun n x acyc).tile x.tile = k.ownTile x ∧
      mget? (k.passBegun n x acyc).mxq n = some (if x.claims then { x with since := acyc, phase := .zero } else x) := by
  obtain ⟨same, tile, entry⟩ := claimBegun_spec listed acyc
  unfold Core.passBegun
  rw [leadIn_waits (same ▸ busy)]
  refine ⟨tile, (updMx_own entry _).trans ?_⟩
  by_cases claims : x.claims = true <;> simp [claims, MxEntry.sinceOfPass, queued]

end

/-! ### The end of a pass (R138, R153) -/

/-- The pass of an entry over its tile's contents (R111, R121). -/
def Core.passOf (k : Core) (x : MxEntry) : PassRes := runPass k (k.block x.block) x (k.tile x.tile)

/-- The core once a pass has ended its instruction (R153). -/
def Core.passEnded (k : Core) (n : Nat) (x : MxEntry) (acyc : Nat) : Core :=
  ((k.endUpdates n acyc).setTile x.tile { k.tile x.tile with acc := (k.passOf x).acc }).updMx n
    fun y => { y with phase := .done, status := if x.replays = 0 then 0 else 1 }

/-- A tile as the replay pass of an entry begins on it: a level higher, from the snapshot (R153). -/
def Tile.raised (t : Tile) (x : MxEntry) : Tile :=
  { t with level := t.level + 1, acc := rescale t.kind (t.level + 1 - x.n0) x.snap }

/-- The core once the replay pass of an entry has begun (R134, R153). -/
def Core.passReplayed (k : Core) (n : Nat) (x : MxEntry) (acyc : Nat) : Core :=
  (((k.endUpdates n acyc).setTile x.tile ((k.tile x.tile).raised x)).updMx n
    fun y => { y with replays := y.replays + 1, leadAt := acyc }).replayFirst n acyc

section
variable {k : Core} {n : Nat} {x : MxEntry} (listed : mget? k.mxq n = some x) (acyc : Nat)
include listed

theorem passEnded_spec :
    mget? (k.passEnded n x acyc).mxq n = some { x with phase := .done, status := if x.replays = 0 then 0 else 1 } ∧
      (k.passEnded n x acyc).tile x.tile = { k.tile x.tile with acc := (k.passOf x).acc } :=
  setTile_updMx (k := k.endUpdates n acyc) listed x.tile { k.tile x.tile with acc := (k.passOf x).acc }
    fun y => { y with phase := .done, status := if x.replays = 0 then 0 else 1 }

theorem passReplayed_spec :
    mget? (k.passReplayed n x acyc).mxq n = some { x with replays := x.replays + 1, leadAt := acyc } ∧
      (k.passReplayed n x acyc).tile x.tile = (k.tile x.tile).raised x :=
  setTile_updMx (k := k.endUpdates n acyc) listed x.tile ((k.tile x.tile).raised x)
    fun y => { y with replays := y.replays + 1, leadAt := acyc }

end

/-! ### What a drain leaves alone (R122) -/

@[simp] theorem drainPut_mxq (k : Core) (b : Block) (c draws : Nat) (t : Tile) (e : MxEntry) (i : Nat) :
    (drainPut k b c draws t e i).mxq = k.mxq := by
  unfold drainPut
  dsimp only
  repeat' split
  all_goals rfl

@[simp] theorem drainRows_mxq (k : Core) (c : Nat) (e : MxEntry) (rows : Nat) : (drainRows k c e rows).mxq = k.mxq := by
  have rowsDone := coreFoldl_keeps Core.mxq (fun k' i => drainPut k' (k.block e.block) c k.draws (k.tile e.tile) e i)
    (fun k' i => drainPut_mxq k' ..) (List.range rows) k
  unfold drainRows
  dsimp only
  split <;> exact rowsDone

@[simp] theorem lmPut_mxq (k : Core) (b : Block) (bytes : List (Nat × Byte)) (poison : Bool) : (k.lmPut b bytes poison).mxq = k.mxq := rfl

@[simp] theorem drainAll_mxq (k : Core) (c : Nat) (e : MxEntry) : (drainAll k c e).mxq = k.mxq := by
  unfold drainAll
  dsimp only
  split <;> split <;> simp

/-! ### The commands of the phases -/

/-- A command whose effect comes to a change of one core has the frame of a core. -/
theorem onMem_setCore {s : State} {f : Dev → Dev} {c : Nat} {k : Core} (acts : f s.dev = s.dev.setCore c k) (calm : Calm s.dev) :
    ∃ t, onMem s f = .next t ∧ CoreFrame s c t ∧ t.dev.core c = k := by
  obtain ⟨t, ht, settled⟩ := onMem_settles acts calm
  exact ⟨t, ht, coreFrame_setCore settled, (settled.core c).trans (by rw [core_setCore, if_pos rfl])⟩

/-- A matrix queue entry whose token is still open, on a device that runs and has nothing to settle (R136). -/
structure MxOpen (s : State) (c n : Nat) (x : MxEntry) : Prop where
  listed : mget? (s.dev.core c).mxq n = some x
  calm : Calm s.dev
  pending : x.done = false
  on : s.dev.stopped = false

/-- With no storage error latent in local memory, reading the operands changes nothing (R217). -/
theorem meetHeld_sound {d : Dev} (sound : ∀ l ∈ d.latent, l.kind ≠ 3) (k : Clock) (c : Nat) (b : Block) (spans : List (Nat × Nat)) :
    spans.foldl (fun d p => d.meetLm k c b p.1 (p.2 - p.1)) d = d :=
  foldl_stays fun p _ => meetLm_sound (fun i _ => by
    unfold takeLatent
    rw [List.find?_eq_none.mpr fun l hl => by simp [sound l hl]]) _

section
variable {s : State} {c : Fin 512} {n : Fin 8} {x : MxEntry} (h : MxOpen s c n x)
include h

/-- A queued instruction that is ready begins its first phase (R134). -/
theorem phaseStart_queued (queued : x.phase = .queued) (ready : (s.dev.core c).mxReady x = true)
    (free : x.op = .drain → (s.dev.core c).drainFree = true) :
    ∃ t, exec (.matrixPhaseStart c n) s = .next t ∧ CoreFrame s c t ∧ t.dev.core c = (s.dev.core c).phaseBegun n x s.clk.acyc := by
  unfold exec execMatrixPhaseStart
  refine onMem_setCore ?_ h.calm
  dsimp only
  rw [h.listed]
  dsimp only
  rw [if_neg (by simp [h.pending, h.on]), if_neg (by simp [queued]), if_neg (by simpa [queued, ready] using free)]
  unfold Core.phaseBegun
  cases x.op <;> rfl

/-- After its zero phase a pass begins once the multipliers will be free (R134). -/
theorem phaseStart_afterZero (zero : x.phase = .zero) (op : x.op = .stream ∨ x.op = .diag)
    (free : (s.dev.core c).mulEnd ≤ max s.clk.acyc x.ownAt + x.lead) :
    ∃ t y, exec (.matrixPhaseStart c n) s = .next t ∧ CoreFrame s c t ∧ mget? (t.dev.core c).mxq n = some y ∧ y.phase = .pass ∧
      y.leadAt = max s.clk.acyc x.ownAt ∧
      (t.dev.core c).tile x.tile =
        { (s.dev.core c).tile x.tile with kind := kindAfter x.da.fmt ((s.dev.core c).tile x.tile).kind } := by
  obtain ⟨t, ht, frame, core⟩ : ∃ t, exec (.matrixPhaseStart c n) s = .next t ∧ CoreFrame s c t ∧
      t.dev.core c = (s.dev.core c).leadIn n ((s.dev.core c).tile x.tile) x (max s.clk.acyc x.ownAt) := by
    unfold exec execMatrixPhaseStart
    refine onMem_setCore ?_ h.calm
    dsimp only
    rw [h.listed]
    dsimp only
    rw [if_neg (by simp [h.pending, h.on]), if_pos ⟨zero, op⟩]
  obtain ⟨entry, tile⟩ := leadIn_begins (t := (s.dev.core c).tile x.tile) free h.listed
  exact ⟨t, _, ht, frame, core ▸ entry, rfl, rfl, core ▸ tile⟩

/-- A pass that read no poison settles, if it did not overflow or can be replayed (R138, R153). -/
theorem passEnd_settles (passing : x.phase = .pass) (head : (s.dev.core c).mulq.head? = some n.val) (sound : ∀ l ∈ s.dev.latent, l.kind ≠ 3)
    (clean : ((s.dev.core c).passOf x).bad = false)
    (replays : ((s.dev.core c).passOf x).flag = true →
      ((s.dev.core c).block x.block).scalePinned = false ∧ ((s.dev.core c).tile x.tile).level < 3) :
    ∃ t, exec (.matrixPassEnd c n) s = .next t ∧ CoreFrame s c t ∧ t.dev.core c =
      if ((s.dev.core c).passOf x).flag then (s.dev.core c).passReplayed n x s.clk.acyc else (s.dev.core c).passEnded n x s.clk.acyc := by
  let r := runPass ((s.dev.core c).endUpdates n s.clk.acyc) ((s.dev.core c).block x.block) x ((s.dev.core c).tile x.tile)
  have same : r = (s.dev.core c).passOf x := rfl
  unfold exec execMatrixPassEnd
  refine onMem_setCore ?_ h.calm
  dsimp only
  rw [h.listed]
  dsimp only
  rw [if_neg (by simp [h.pending, h.on, passing, head]), meetHeld_sound sound]
  refine (if_neg (c := r.bad = true) (by simp [same, clean])).trans ?_
  cases flag : ((s.dev.core c).passOf x).flag with
  | false => exact if_pos (c := (!r.flag) = true) (by simp [same, flag])
  | true =>
    obtain ⟨free, below⟩ := replays flag
    rw [free]
    exact (if_neg (c := (!r.flag) = true) (by simp [same, flag])).trans ((if_neg (by decide)).trans (if_neg (Nat.ne_of_lt below)))

/-- The token completes after the final phase, with the status of R123. -/
theorem tokenComplete_completes (final : (x.phase = .zero ∧ x.op = .zero) ∨ x.phase = .drain ∨ x.phase = .done) :
    ∃ t y, exec (.matrixTokenComplete c n) s = .next t ∧ mget? (t.dev.core c).mxq n = some y ∧ y.done = true ∧
      y.status = (if x.op = .drain then drainStatus ((s.dev.core c).tile x.tile) else x.status) ∧ t.dev.mem = s.dev.mem := by
  let status := if x.op = .drain then drainStatus ((s.dev.core c).tile x.tile) else x.status
  let drained := if x.op = .drain then drainAll (s.dev.core c) c x else s.dev.core c
  let k := drained.updMx n fun y => { y with phase := .done, done := true, status := status, snap := [] }
  let count := s.clk.acyc - x.since
  obtain ⟨t, ht, settled⟩ : ∃ t, exec (.matrixTokenComplete c n) s = .next t ∧
      Settled s (((s.dev.setCore c k).updCtx x.ctx fun v => { v with arrayBusy := v.arrayBusy + count }).updBank x.queue
        fun v => { v with arrayBusy := v.arrayBusy + count }) t := by
    unfold exec execMatrixTokenComplete
    refine onMem_settles ?_ h.calm
    dsimp only
    rw [h.listed]
    exact if_neg (by rcases final with ⟨zero, op⟩ | drain | done <;> simp [*, h.pending, h.on])
  have queue : drained.mxq = (s.dev.core c).mxq := by
    unfold drained
    split <;> simp
  have entry : mget? k.mxq n = some { x with phase := .done, done := true, status := status, snap := [] } :=
    updMx_own (queue ▸ h.listed) _
  have core : t.dev.core c = k := (settled.core c).trans (by simp)
  exact ⟨t, _, ht, core ▸ entry, rfl, rfl, settled.mem⟩

end

/-- Settles O17: each phase's beginning or end by its own lemma; the first one of a pass by whether the multipliers will be free. -/
theorem matrixPhases : Obligations.MatrixPhases := by
  intro c n s k x hk listed calm pending on sound t0 pass
  subst hk
  have h : MxOpen s c n x := ⟨listed, calm, pending, on⟩
  refine ⟨fun queued ready free => ?first, phaseStart_afterZero h, fun passing head clean (stays : ((s.dev.core c).passOf x).flag = false) => ?ends,
    fun passing head clean (overflow : ((s.dev.core c).passOf x).flag = true) unpinned below => ?replays, tokenComplete_completes h⟩
  case first =>
    obtain ⟨t, ht, frame, core⟩ := phaseStart_queued h queued ready free
    cases op : x.op with
    | zero =>
      simp only [Core.phaseBegun, op] at core
      obtain ⟨entry, tile⟩ := zeroBegun_spec (acyc := s.clk.acyc) listed
      exact ⟨t, _, ht, frame, core ▸ entry, fun _ => ⟨rfl, rfl, core ▸ tile⟩, nofun, nofun⟩
    | drain =>
      simp only [Core.phaseBegun, op] at core
      obtain ⟨y, entry, phase, since⟩ := drainBegun_entry (acyc := s.clk.acyc) listed
      exact ⟨t, y, ht, frame, core ▸ entry, nofun, fun _ => ⟨phase, since⟩, nofun⟩
    | stream | diag =>
      simp only [Core.phaseBegun, op] at core
      rcases Nat.lt_or_ge (s.clk.acyc + (if x.claims then 2 else 0) + x.lead) (s.dev.core c).mulEnd with busy | idle
      · obtain ⟨tile, entry⟩ := passBegun_waits listed queued busy
        refine ⟨t, _, ht, frame, core ▸ entry, nofun, nofun, fun _ =>
          ⟨fun idle => absurd idle (by omega), fun _ claims => ?claimed, fun _ keeps => ?kept⟩⟩
        case claimed =>
          rw [if_pos claims]
          exact ⟨rfl, rfl, core ▸ tile⟩
        case kept =>
          rw [core, tile]
          simp [Core.ownTile, keeps]
      · obtain ⟨tile, y, entry, phase, since, leadAt⟩ := passBegun_leads listed idle
        exact ⟨t, y, ht, frame, core ▸ entry, nofun, nofun, fun _ => ⟨fun _ => ⟨phase, since, leadAt, core ▸ tile⟩,
          fun busy => absurd busy (by omega), fun busy => absurd busy (by omega)⟩⟩
  case ends =>
    obtain ⟨t, ht, frame, core⟩ := passEnd_settles h passing head sound clean fun overflow => nomatch stays.symm.trans overflow
    rw [if_neg (by simp [stays])] at core
    obtain ⟨entry, tile⟩ := passEnded_spec listed s.clk.acyc
    exact ⟨t, _, ht, frame, core ▸ entry, rfl, rfl, core ▸ tile⟩
  case replays =>
    obtain ⟨t, ht, frame, core⟩ := passEnd_settles h passing head sound clean fun _ => ⟨unpinned, below⟩
    rw [if_pos overflow] at core
    obtain ⟨entry, tile⟩ := passReplayed_spec listed s.clk.acyc
    rw [← core] at entry tile
    exact ⟨t, _, ht, frame, entry, passing, rfl, congrArg Tile.level tile, congrArg Tile.acc tile⟩

end Sys2Proof.Machine

namespace Sys2Proof.Machine

/-! ### Integer, logic and predicate instructions (R77, R183 to R185, R189) -/

/-- An instruction whose meaning is a vector instruction with these checks and this operation completes as one. -/
theorem vecCompletes_of {i : Fin 512 → Fin 64 → InsF → Instr} {types : List Nat} {allow uses : Nat} {tile wide cPred bOne dOne : Bool}
    {more : InsF → Bool} {op : InsF → Nat → Nat → Nat → Nat}
    (means : ∀ c gs f s, exec (i c gs f) s = vecIns c gs f types allow uses tile wide cPred bOne dOne (more f) (op f) s) :
    VecCompletes i types allow uses tile wide cPred bOne dOne more op := by
  intro c gs f s hr h
  rw [means]
  exact vecIns_completes c gs f s _ _ _ _ _ _ _ _ _ _ hr h

/-- Settles O1: each is a vector instruction of its own operation. -/
theorem integerResults : Obligations.IntegerResults := by
  refine ⟨?iadd, ?isub, ?imul, ?imad, ?imin, ?imax, ?and, ?or, ?xor, ?not, ?shl, ?shr, ?popc, ?clz⟩ <;>
    exact vecCompletes_of fun _ _ _ _ => rfl

/-- For a type of 32 bits it makes no difference whether D is said to be one register (R78). -/
theorem vecShape_dOne {f : InsF} (narrow : is64 f.ty = false) (r : Nat) (types : List Nat) (allow uses : Nat)
    (tile wide cPred bOne dOne more : Bool) :
    vecShape r f types allow uses tile wide cPred bOne dOne more = vecShape r f types allow uses tile wide cPred bOne false more := by
  simp [vecShape, narrow]

/-- PLOP (R183), whose one type has 32 bits. -/
theorem plop_completes : VecCompletes .plop [0] 0b011111111 3 false false false false false (fun f => isP f.d)
    (fun f a b c => plopBit (f.bits 62 55) a b c) := by
  intro c gs f s hr h
  have narrow : is64 f.ty = false := by
    have word := h.word
    simp only [Shape.ok, vecShape, Bool.and_eq_true] at word
    obtain ⟨⟨⟨⟨⟨⟨⟨types, -⟩, -⟩, -⟩, -⟩, -⟩, -⟩, -⟩ := word
    rw [show f.ty = 0 by simpa using types]
    rfl
  obtain ⟨t, ht, frame, moved, tile, lanes⟩ := vecIns_completes c gs f s _ _ _ _ _ _ _ true _
    (fun a b x => plopBit (f.bits 62 55) a b x) hr ((vecShape_dOne narrow ..).symm ▸ h)
  refine ⟨t, ht, frame, moved, tile, fun plain => ?_⟩
  simpa only [narrow, Bool.not_false, Bool.or_true] using lanes plain

/-- Settles O2: SEL and SETP are vector instructions as they stand, and PLOP is one that writes one register. -/
theorem selectsAndPredicates : Obligations.SelectsAndPredicates :=
  ⟨vecCompletes_of fun _ _ _ _ => rfl, vecCompletes_of fun _ _ _ _ => rfl, plop_completes⟩

end Sys2Proof.Machine

namespace Sys2Proof.Machine

/-! ### The slots of a core's bywash as their weight lines go on (R177) -/

/-- A slot that has gone on: its lines are at the addresses they were at, none of them is to be translated afresh unless one was, and besides
them only the rows given to the multipliers and their time have changed, the rows only where some had arrived. -/
structure SlotKept (b b' : BwSlot) : Prop where
  rest : b' = { b with wLines := b'.wLines, rowsIn := b'.rowsIn, busyTo := b'.busyTo }
  places : b'.wLines.map LaneAcc.va = b.wLines.map LaneAcc.va
  fresh : (∀ a ∈ b.wLines, a.stale = false) → ∀ a ∈ b'.wLines, a.stale = false
  rows : b.rowsHere = 0 → b'.rowsIn = b.rowsIn

/-- Whether row `i` of a slot needs the line at an address (R172, R177). -/
def BwSlot.rowNeeds (b : BwSlot) (i va : Nat) : Bool :=
  spansMeet (va, va + 128) (b.wva + (b.k0 + i) * bwRow b.fmt, b.wva + (b.k0 + i + 1) * bwRow b.fmt) ||
    (b.fmt == 0x0C && spansMeet (va, va + 128) (b.sva + (b.k0 + i) / 32 * 32, b.sva + (b.k0 + i) / 32 * 32 + 32))

/-- Which rows have arrived is told by the places of the lines that have not (R177). -/
theorem rowsHere_eq (b : BwSlot) :
    b.rowsHere = ((List.range (64 * b.chunks)).takeWhile fun i => !(b.wLines.map LaneAcc.va).any (b.rowNeeds i)).length := by
  simp only [List.any_map]
  rfl

theorem SlotKept.rowsHere {b b' : BwSlot} (h : SlotKept b b') : b'.rowsHere = b.rowsHere := by
  rw [rowsHere_eq, rowsHere_eq, h.places, h.rest]
  rfl

theorem SlotKept.self (b : BwSlot) : SlotKept b b := ⟨rfl, rfl, id, fun _ => rfl⟩

theorem SlotKept.trans {a b c : BwSlot} (first : SlotKept a b) (second : SlotKept b c) : SlotKept a c := by
  refine ⟨?_, second.places.trans first.places, second.fresh ∘ first.fresh, fun none' =>
    (second.rows (first.rowsHere.trans none')).trans (first.rows none')⟩
  rw [second.rest, first.rest]

theorem SlotKept.wLines_eq_nil {b b' : BwSlot} (h : SlotKept b b') : b'.wLines = [] ↔ b.wLines = [] := by
  rw [← List.map_eq_nil_iff, h.places, List.map_eq_nil_iff]

/-- Every slot of that number still awaits lines. -/
def AwaitsLines (m : List (Nat × BwSlot)) (n : Nat) : Prop := ∀ e ∈ m, e.1 = n → e.2.wLines ≠ []

/-- Slots that have gone on: none is new, and one that awaits lines is still there. -/
structure SlotsKept (m m' : List (Nat × BwSlot)) : Prop where
  source : ∀ e' ∈ m', ∃ e ∈ m, e.1 = e'.1 ∧ SlotKept e.2 e'.2
  stays : ∀ n, AwaitsLines m n → mhas m n = true → mhas m' n = true

section
variable {m m' m'' : List (Nat × BwSlot)}

theorem SlotsKept.self (m : List (Nat × BwSlot)) : SlotsKept m m := ⟨fun e he => ⟨e, he, rfl, SlotKept.self _⟩, fun _ _ => id⟩

theorem SlotsKept.awaitsLines (h : SlotsKept m m') {n : Nat} (awaits : AwaitsLines m n) : AwaitsLines m' n := by
  intro e' he' number
  obtain ⟨e, he, same, kept⟩ := h.source e' he'
  exact mt kept.wLines_eq_nil.mp (awaits e he (same.trans number))

theorem SlotsKept.trans (first : SlotsKept m m') (second : SlotsKept m' m'') : SlotsKept m m'' := by
  refine ⟨fun e'' he'' => ?_, fun n awaits there => second.stays n (first.awaitsLines awaits) (first.stays n awaits there)⟩
  obtain ⟨e', he', same', kept'⟩ := second.source e'' he''
  obtain ⟨e, he, same, kept⟩ := first.source e' he'
  exact ⟨e, he, same.trans same', kept.trans kept'⟩

theorem SlotsKept.absent (h : SlotsKept m m') {n : Nat} (none' : mhas m n = false) : mhas m' n = false := by
  simp only [mhas, List.any_eq_false, beq_iff_eq] at none' ⊢
  intro e' he'
  obtain ⟨e, he, same, -⟩ := h.source e' he'
  exact same ▸ none' e he

theorem slotsKept_map {f : Nat × BwSlot → Nat × BwSlot} (h : ∀ e, (f e).1 = e.1 ∧ SlotKept e.2 (f e).2) : SlotsKept m (m.map f) := by
  refine ⟨fun e' he' => ?_, fun n _ there => ?_⟩
  · obtain ⟨e, he, rfl⟩ := List.mem_map.mp he'
    exact ⟨e, he, (h e).1.symm, (h e).2⟩
  · simp only [mhas, List.any_map, List.any_eq_true, Function.comp_apply, beq_iff_eq] at there ⊢
    obtain ⟨e, he, number⟩ := there
    exact ⟨e, he, (h e).1.trans number⟩

theorem mhas_mput {α : Type} (m : List (Nat × α)) (k j : Nat) (v : α) : mhas (mput m k v) j = (decide (j = k) || mhas m j) := by
  rw [Bool.eq_iff_iff]
  simp only [mhas, List.any_eq_true, beq_iff_eq, Bool.or_eq_true, decide_eq_true_eq]
  constructor
  · rintro ⟨e, he, number⟩
    rcases mem_mput he with rfl | he
    · exact .inl number.symm
    · exact .inr ⟨e, he, number⟩
  · intro h
    by_cases same : j = k
    · exact ⟨(k, v), mem_mput_same m k v, same.symm⟩
    · obtain ⟨e, he, number⟩ := h.resolve_left same
      exact ⟨e, mem_mput_other he (fun own => same (number.symm.trans own)) v, number⟩

/-- A slot listed anew as it has gone on from the first slots. -/
theorem SlotsKept.mput (h : SlotsKept m m') {e : Nat × BwSlot} (he : e ∈ m) {b : BwSlot} (kept : SlotKept e.2 b) :
    SlotsKept m (mput m' e.1 b) := by
  refine ⟨fun x hx => ?_, fun n awaits there => ?_⟩
  · rcases mem_mput hx with rfl | hx
    · exact ⟨e, he, rfl, kept⟩
    · exact h.source x hx
  · rw [mhas_mput, h.stays n awaits there, Bool.or_true]

theorem slotsKept_mdel {n : Nat} (done : ∃ e ∈ m, e.1 = n ∧ e.2.wLines = []) : SlotsKept m (mdel m n) := by
  refine ⟨fun e he => ⟨e, (List.mem_filter.mp he).1, rfl, SlotKept.self _⟩, fun j awaits there => ?_⟩
  obtain ⟨e, he, number, empty⟩ := done
  have apart : j ≠ n := fun same => awaits e he (number.trans same.symm) empty
  simp only [mhas, mdel, List.any_eq_true, List.mem_filter, beq_iff_eq, bne_iff_ne] at there ⊢
  obtain ⟨x, hx, own⟩ := there
  exact ⟨x, ⟨hx, own ▸ apart⟩, own⟩

end

/-! ### What the device keeps as the slots of a core go on (R176, R177, R290) -/

/-- Slots of core `c` have gone on, and beside them landing buffers, the mesh and counters: no register is changed, and a group that is held
for a slot that awaits lines is as it was. -/
structure BwGoes (c : Nat) (d e : Dev) : Prop where
  calm : Calm d → Calm e
  mem : e.mem = d.mem
  ops : (e.core c).ops = (d.core c).ops
  slots : SlotsKept (d.core c).bw (e.core c).bw
  regs : ∀ j r l, (e.group c j).reg r l = (d.group c j).reg r l
  held : ∀ j n, AwaitsLines (d.core c).bw n → (d.group c j).bwHold = some n → e.group c j = d.group c j

section
variable {c : Nat} {d e x : Dev}

theorem BwGoes.self (d : Dev) : BwGoes c d d := ⟨id, rfl, rfl, SlotsKept.self _, fun _ _ _ => rfl, fun _ _ _ _ => rfl⟩

theorem BwGoes.trans (first : BwGoes c d e) (second : BwGoes c e x) : BwGoes c d x := by
  refine ⟨second.calm ∘ first.calm, second.mem.trans first.mem, second.ops.trans first.ops, first.slots.trans second.slots,
    fun j r l => (second.regs j r l).trans (first.regs j r l), fun j n awaits hold => ?_⟩
  have same := first.held j n awaits hold
  exact (second.held j n (first.slots.awaitsLines awaits) (same ▸ hold)).trans same

theorem BwGoes.quiet (h : BwGoes c d e) (quiet : BwQuiet (d.core c)) : BwQuiet (e.core c) := by
  intro e' he'
  obtain ⟨y, hy, -, kept⟩ := h.slots.source e' he'
  obtain ⟨fresh, done⟩ := quiet y hy
  refine ⟨kept.fresh fresh, fun empty => ?_⟩
  rw [kept.rest]
  exact done (kept.wLines_eq_nil.mp empty)

/-- Steps each of which lets the slots go on, while none of them waits for anything but lines on their way. -/
theorem bwGoes_foldl {α : Type} {f : Dev → α → Dev} {l : List α} (h : ∀ d, BwQuiet (d.core c) → ∀ a ∈ l, BwGoes c d (f d a)) (d : Dev)
    (quiet : BwQuiet (d.core c)) : BwGoes c d (l.foldl f d) := by
  induction l generalizing d with
  | nil => exact BwGoes.self d
  | cons a t ih =>
    have step := h d quiet a (List.mem_cons_self ..)
    exact step.trans (ih (fun d quiet x hx => h d quiet x (List.mem_cons_of_mem _ hx)) _ (step.quiet quiet))

/-- A change that touches only the slots and the landing buffers of the core. -/
theorem bwGoes_of (calm : Calm d → Calm e) (mem : e.mem = d.mem)
    (core : e.core c = { d.core c with bw := (e.core c).bw, mshrs := (e.core c).mshrs }) (slots : SlotsKept (d.core c).bw (e.core c).bw) :
    BwGoes c d e := by
  have groups : ∀ j, e.group c j = d.group c j := fun j => by
    unfold Dev.group
    rw [core]
    rfl
  exact ⟨calm, mem, by rw [core], slots, fun j r l => by rw [groups], fun j _ _ _ => groups j⟩

theorem bwGoes_updCore (d : Dev) {f : Core → Core} (core : ∀ k, f k = { k with bw := (f k).bw })
    (slots : SlotsKept (d.core c).bw (f (d.core c)).bw) : BwGoes c d (d.updCore c f) := by
  refine bwGoes_of id rfl ?_ (by rwa [updCore_self])
  rw [updCore_self, core]

theorem updGroup_group_cases (d : Dev) (c s : Nat) (f : Group → Group) (j : Nat) :
    (d.updGroup c s f).group c j = d.group c j ∨ j = s ∧ (d.updGroup c s f).group c j = f (d.group c s) := by
  by_cases inside : s < 64
  · rw [group_updGroup _ _ _ _ _ _ inside]
    by_cases same : j = s <;> simp [same]
  · refine .inl ?_
    unfold Dev.updGroup Dev.group
    rw [setGroup_core]
    simp [Core.setGroup, inside]

/-- A group goes on whose slot has every line. -/
theorem bwGoes_updGroup {n s : Nat} {f : Group → Group} (regs : ∀ g r l, (f g).reg r l = g.reg r l)
    (done : ∃ e ∈ (d.core c).bw, e.1 = n ∧ e.2.wLines = []) (hold : (d.group c s).bwHold = some n) : BwGoes c d (d.updGroup c s f) := by
  have core := updGroup_core d c s f
  have bw : ((d.updGroup c s f).core c).bw = (d.core c).bw := by rw [core]
  refine ⟨updGroup_calm, rfl, by rw [core], bw ▸ SlotsKept.self _, fun j r l => ?_, fun j i awaits own => ?_⟩
  · rcases updGroup_group_cases d c s f j with same | ⟨rfl, new⟩
    · rw [same]
    · rw [new, regs]
  · rcases updGroup_group_cases d c s f j with same | ⟨rfl, -⟩
    · exact same
    · obtain ⟨e, he, number, empty⟩ := done
      have slot : n = i := Option.some.inj (hold.symm.trans own)
      exact absurd empty (awaits e he (number.trans slot))

end

/-! ### Requests, ends and rows (R176, R177) -/

section
variable {c : Nat} {d : Dev} {k : Clock}

/-- The slots in acceptance order are slots in use. -/
theorem mem_of_bwOldest {k : Core} {e : Nat × BwSlot} (he : e ∈ k.bwOldest) : e ∈ k.bw := by
  refine List.foldlRecOn k.bw _ (motive := fun l : List (Nat × BwSlot) => ∀ e ∈ l, e ∈ k.bw)
    (fun _ none' => absurd none' List.not_mem_nil) (fun l listed a ha e he => ?_) e he
  simp only [List.mem_append, List.mem_filter, List.mem_singleton] at he
  rcases he with (⟨he, -⟩ | rfl) | ⟨he, -⟩
  · exact listed e he
  · exact ha
  · exact listed e he

/-- A slot in which a line that needs no new translation is listed anew. -/
theorem slotKept_relist (b : BwSlot) {a : LaneAcc} (fresh : a.stale = false) :
    SlotKept b { b with wLines := b.wLines.map fun y => if y.va = a.va then a else y } := by
  refine ⟨rfl, ?_, fun all x hx => ?_, fun _ => rfl⟩
  · simp only [List.map_map]
    refine List.map_congr_left fun y _ => ?_
    by_cases same : y.va = a.va <;> simp [same]
  · obtain ⟨y, hy, rfl⟩ := List.mem_map.mp hx
    by_cases same : y.va = a.va
    · rw [if_pos same]
      exact fresh
    · rw [if_neg same]
      exact all y hy

theorem bwGoes_updBw (d : Dev) (n : Nat) {f : BwSlot → BwSlot} (kept : ∀ b, SlotKept b (f b)) : BwGoes c d (d.updBw c n f) := by
  refine bwGoes_updCore d (fun _ => rfl) (slotsKept_map fun e => ?_)
  by_cases own : e.1 = n
  · simp only [own, if_true]
    exact ⟨trivial, kept _⟩
  · simp only [own, if_false]
    exact ⟨trivial, SlotKept.self _⟩

theorem bwGoes_landReq (d : Dev) (k : Clock) (m : Mshr) (a : LaneAcc) (home : Bool) (p : Packet) :
    BwGoes c d (d.landReq k c m a home p) := by
  have core : ∀ (buffers : List (Nat × Mshr)) (p : Packet), ((d.setCore c { d.core c with mshrs := buffers }).send p).core c =
      { d.core c with mshrs := buffers } := fun _ _ => (core_setCore ..).trans (if_pos rfl)
  unfold Dev.landReq
  refine bwGoes_of id rfl ?_ ?_ <;> rw [core]
  exact SlotsKept.self _

theorem bwGoes_updBank (d : Dev) (q : Nat) (f : Bank → Bank) : BwGoes c d (d.updBank q f) := bwGoes_of id rfl rfl (SlotsKept.self _)

/-- Lines that are due are requested (R177). -/
theorem bwAsk_goes (quiet : BwQuiet (d.core c)) : BwGoes c d (d.bwAsk k c) := by
  refine bwGoes_foldl (fun d' quiet' e he => bwGoes_foldl (fun x _ a ha => ?_) d' quiet') d quiet
  have fresh : a.stale = false := (quiet e (mem_of_bwOldest he)).1 a ha
  simp only [fresh, Bool.false_eq_true, if_false]
  split
  · exact BwGoes.self x
  split
  · exact BwGoes.self x
  refine (bwGoes_updBw x e.1 fun b => slotKept_relist b fresh).trans ?_
  split
  · exact (bwGoes_updBank ..).trans (bwGoes_landReq ..)
  · exact bwGoes_landReq ..

/-- The wait for a slot whose lines have all come ends without a fault (R176, R179). -/
theorem bwEnd_goes (quiet : BwQuiet (d.core c)) (n : Nat) : BwGoes c d (d.bwEnd k c n) := by
  unfold Dev.bwEnd
  split
  · exact BwGoes.self d
  next b listed =>
  split
  · exact BwGoes.self d
  next empty =>
  have lines : b.wLines = [] := by simpa using empty
  have done : ∃ e ∈ (d.core c).bw, e.1 = n ∧ e.2.wLines = [] := ⟨(n, b), mem_of_mget? listed, rfl, lines⟩
  split
  · exact bwGoes_updCore d (fun _ => rfl) (slotsKept_mdel done)
  next going =>
  have sound : b.bad = [] := ((quiet (n, b) (mem_of_mget? listed)).2 lines).resolve_left going
  rw [sound]
  dsimp only [List.head?_nil]
  split
  next hold => exact bwGoes_updGroup (fun _ _ _ => rfl) done hold
  · exact BwGoes.self d

/-- The multipliers take the rows that have arrived (R177). -/
theorem bwRows_slots (k : Core) (ccyc : Nat) :
    k.bwRows ccyc = { k with bw := (k.bwRows ccyc).bw } ∧ SlotsKept k.bw (k.bwRows ccyc).bw := by
  unfold Core.bwRows
  dsimp only
  refine List.foldlRecOn _ _ (motive := fun r : Core × Option Nat => r.1 = { k with bw := r.1.bw } ∧ SlotsKept k.bw r.1.bw)
    ⟨rfl, SlotsKept.self _⟩ fun r ⟨core, slots⟩ e he => ?_
  have listed : e ∈ k.bw := mem_of_bwOldest (List.mem_filter.mp he).1
  cases r.2 with
  | none => exact ⟨core, slots⟩
  | some t =>
    refine ⟨?_, slots.mput listed ⟨rfl, rfl, id, fun none' => ?_⟩⟩
    · dsimp only
      rw [core]
    · simp [none']

/-- The slots of a core go on (R177). -/
theorem bwPump_goes (quiet : BwQuiet (d.core c)) : BwGoes c d (d.bwPump k c) := by
  have ask := bwAsk_goes (k := k) quiet
  have ends := bwGoes_foldl (l := ((d.bwAsk k c).core c).bw.map Prod.fst) (fun x quiet n _ => bwEnd_goes (k := k) quiet n)
    (d.bwAsk k c) (ask.quiet quiet)
  exact (ask.trans ends).trans (bwGoes_updCore _ (fun x => (bwRows_slots x k.ccyc).1) (bwRows_slots _ k.ccyc).2)

/-- With no memory instruction in flight, the slots are all of a core that goes on (R52, R177). -/
theorem corePump_goes (ops : (d.core c).ops = []) (quiet : BwQuiet (d.core c)) : BwGoes c d (d.corePump k c) := by
  have pump : d.pump k c = d := by
    unfold Dev.pump
    rw [ops]
    rfl
  have goes := bwPump_goes (k := k) quiet
  unfold Dev.corePump
  dsimp only
  rw [pump, goes.ops.trans ops]
  exact goes

end

/-! ### BWDOT takes a slot (R168, R170, R175 to R177) -/

/-- The access of a slot to the line of an address that a range translates (R174, R260). -/
def lineAccess (e : BitVec 256) (va ga : Nat) : LaneAcc :=
  { LaneAcc.reset with va := va / 128 * 128, ga := ga / 128 * 128, mtype := reType e, key := reKey e
                       mirror := if reType e = 3 then reMirror e else 0 }

/-- The lines of a slot, each once, by the addresses that name them. -/
def slotLines (range : Nat → BitVec 256) (ga : Nat → Nat) (vas : List Nat) : List LaneAcc :=
  vas.foldl (fun l va => if l.any (fun a => a.va == va / 128 * 128) then l else l ++ [lineAccess (range va) va (ga va)]) []

/-- Every line of a slot is freshly translated, and each address has its line. -/
theorem slotLines_spec (range : Nat → BitVec 256) (ga : Nat → Nat) (vas : List Nat) :
    (∀ a ∈ slotLines range ga vas, a.stale = false) ∧ ∀ va ∈ vas, ∃ a ∈ slotLines range ga vas, a.va = va / 128 * 128 := by
  induction vas using List.reverseRecOn with
  | nil => exact ⟨nofun, nofun⟩
  | append_singleton vas va ih =>
    obtain ⟨fresh, found⟩ := ih
    have step : slotLines range ga (vas ++ [va]) = if (slotLines range ga vas).any (fun a => a.va == va / 128 * 128) then
        slotLines range ga vas else slotLines range ga vas ++ [lineAccess (range va) va (ga va)] := List.foldl_concat ..
    rw [step]
    split
    next listed =>
      refine ⟨fresh, fun x hx => ?_⟩
      rcases List.mem_append.mp hx with hx | hx
      · exact found x hx
      · rw [List.mem_singleton.mp hx]
        simpa using listed
    next =>
      refine ⟨fun a ha => ?_, fun x hx => ?_⟩
      · rcases List.mem_append.mp ha with ha | ha
        · exact fresh a ha
        · rw [List.mem_singleton.mp ha]
          rfl
      · rcases List.mem_append.mp hx with hx | hx
        · obtain ⟨a, ha, own⟩ := found x hx
          exact ⟨a, List.mem_append_left _ ha, own⟩
        · exact ⟨_, List.mem_append_right _ (List.mem_singleton_self _), by rw [List.mem_singleton.mp hx]; rfl⟩

/-- The slot as a BWDOT enters it: its place in order, the activations that it copies, and its lines (R177). -/
def Dev.bwEntry (d : Dev) (c s : Nat) (f : InsF) (lines : List LaneAcc) : BwSlot :=
  let b := d.bwSlot c s f
  let blk := (d.core c).blockOf s
  { b with
    slot := s, order := (d.core c).bwOrder, wLines := lines, ctx := blk.ctx, berth := blk.berth, epoch := (d.ctx blk.ctx).epoch
    act := (List.range (b.vcount * b.chunks)).flatMap fun i => (List.range 32).map fun l => (32 * i + l, (d.group c s).reg (f.b + i) l) }

/-- The device once slot `n` holds a BWDOT and its group is held for it (R176). -/
def Dev.bwEnter (d : Dev) (c s n : Nat) (f : InsF) (b : BwSlot) : Dev :=
  (d.setCore c { d.core c with bw := mput (d.core c).bw n b, bwOrder := (d.core c).bwOrder + 1 }).updGroup c s
    fun g => { g with bwHold := some n, await := g.await ++ (List.range b.vcount).map fun j => f.d + j }

/-- A BWDOT that passes its checks, and whose lines all translate, enters the lowest free slot (R175 to R177). -/
theorem bwPresent_enters {d : Dev} {c s n : Nat} {f : InsF} {range : Nat → BitVec 256} {ga : Nat → Nat} (k : Clock)
    (free : lowestFree 4 ((d.core c).bw.map Prod.fst) = some n)
    (inside : mxOff (d.group c s) f f.a 0 + 32 ≤ ((d.core c).blockOf s).lmSize)
    (regs : bwRegsBad ((d.core c).blockOf s).r f.d f.b (d.bwSlot c s f).vcount (d.bwSlot c s f).chunks = false)
    (checked : bwCheck (d.group c s) f ((d.core c).blockOf s).lmSize ((d.core c).blockOf s).lmUnits (mxOff (d.group c s) f f.a 0)
      (descWords (d.core c) ((d.core c).blockOf s) (mxOff (d.group c s) f f.a 0)) (d.bwSlot c s f) = none)
    (xlate : ∀ va ∈ spanLines (d.bwSlot c s f).wSpan ++ spanLines (d.bwSlot c s f).sSpan,
      d.coreXlate c s va 1 = .ok (range va) (ga va)) :
    bwPresent k c s f d = (d.bwEnter c s n f (d.bwEntry c s f
      (slotLines range ga (spanLines (d.bwSlot c s f).wSpan ++ spanLines (d.bwSlot c s f).sSpan)))).bwPump k c := by
  have translated := List.map_congr_left fun va hva => congrArg (Prod.mk va) (xlate va hva)
  unfold Dev.bwEntry Dev.bwEnter
  unfold Dev.bwSlot Dev.group Core.blockOf at *
  unfold bwPresent
  dsimp only at *
  rw [free]
  dsimp only
  rw [if_neg (Nat.not_lt.mpr inside), regs, checked, translated]
  simp only [Bool.false_eq_true, if_false]
  rw [List.find?_eq_none.mpr (List.forall_mem_map.mpr fun _ _ => by simp), List.filterMap_eq_nil_iff.mpr (List.forall_mem_map.mpr fun _ _ => rfl)]
  dsimp only
  rw [List.foldl_map]
  rfl

theorem fmtE_pos (fmt : Nat) : 0 < fmtE fmt := by
  unfold fmtE fmtBits
  split <;> decide

theorem bwRow_pos (fmt : Nat) : 0 < bwRow fmt := Nat.mul_pos (by decide) (fmtE_pos _)

theorem mem_spanLines_first {s : Nat × Nat} (some' : s.1 < s.2) : s.1 ∈ spanLines s := by
  unfold spanLines
  rw [if_neg (by omega)]
  exact List.mem_map.mpr ⟨0, List.mem_range.mpr (Nat.succ_pos _), by omega⟩

/-- A slot of any rows has the line of its first byte among its lines (R172, R174). -/
theorem slotLines_first {b : BwSlot} (range : Nat → BitVec 256) (ga : Nat → Nat) (rows : 0 < b.chunks) :
    ∃ a ∈ slotLines range ga (spanLines b.wSpan ++ spanLines b.sSpan), a.va = b.wSpan.1 / 128 * 128 := by
  have more : b.k0 * bwRow b.fmt < (b.k0 + 64 * b.chunks) * bwRow b.fmt := Nat.mul_lt_mul_of_pos_right (by omega) (bwRow_pos _)
  have span : b.wSpan.1 < b.wSpan.2 := Nat.add_lt_add_left more _
  exact (slotLines_spec ..).2 _ (List.mem_append_left _ (mem_spanLines_first span))

/-- No row of a slot has arrived that awaits the line of its first byte (R177). -/
theorem rowsHere_waits {b : BwSlot} {a : LaneAcc} (ha : a ∈ b.wLines) (own : a.va = b.wSpan.1 / 128 * 128) (rows : 0 < b.chunks) :
    b.rowsHere = 0 := by
  have pos := bwRow_pos b.fmt
  have needs : b.rowNeeds 0 a.va = true := by
    have next' : (b.k0 + 0 + 1) * bwRow b.fmt = b.k0 * bwRow b.fmt + bwRow b.fmt := Nat.succ_mul ..
    simp only [BwSlot.rowNeeds, spansMeet, own, BwSlot.wSpan, next', Nat.add_zero, Bool.or_eq_true, Bool.and_eq_true, decide_eq_true_eq]
    omega
  obtain ⟨m, count⟩ : ∃ m, 64 * b.chunks = m + 1 := ⟨64 * b.chunks - 1, by omega⟩
  have waits : (b.wLines.map LaneAcc.va).any (b.rowNeeds 0) = true := List.any_eq_true.mpr ⟨_, List.mem_map_of_mem ha, needs⟩
  rw [rowsHere_eq, count, List.range_succ_eq_map, List.takeWhile_cons, waits]
  rfl

theorem bwEntry_waits {d : Dev} {c s : Nat} {f : InsF} {lines : List LaneAcc} {a : LaneAcc} (ha : a ∈ lines)
    (place : a.va = (d.bwSlot c s f).wSpan.1 / 128 * 128) :
    (d.bwEntry c s f lines).wLines ≠ [] ∧ (d.bwEntry c s f lines).rowsHere = 0 :=
  ⟨List.ne_nil_of_mem ha, rowsHere_waits (b := d.bwEntry c s f lines) ha place (Nat.succ_pos _)⟩

theorem absent_of_lowestFree {α : Type} {n : Nat} {m : List (Nat × α)} (free : lowestFree 4 (m.map Prod.fst) = some n) :
    ∀ e ∈ m, e.1 ≠ n := by
  have unused := List.find?_some free
  simp only [Bool.not_eq_true', List.contains_eq_mem, decide_eq_false_iff_not] at unused
  exact fun e he own => unused (own ▸ List.mem_map_of_mem he)

theorem mget?_of_mhas {α : Type} {m : List (Nat × α)} {k : Nat} (h : mhas m k = true) : ∃ v, mget? m k = some v := by
  induction m with
  | nil => cases h
  | cons e t ih =>
    obtain ⟨j, w⟩ := e
    by_cases same : j = k
    · exact ⟨w, by simp [mget?, same]⟩
    · simp only [mhas, List.any_cons, beq_iff_eq, same, Bool.or_eq_true, false_or] at h
      simpa [mget?, same] using ih h

section
variable {d : Dev} {c s n : Nat} {f : InsF} {b : BwSlot} (absent : ∀ e ∈ (d.core c).bw, e.1 ≠ n) (inside : s < 64)

theorem bwEnter_bw : ((d.bwEnter c s n f b).core c).bw = mput (d.core c).bw n b := by
  unfold Dev.bwEnter
  rw [updGroup_core, core_setCore, if_pos rfl]

include inside in
theorem bwEnter_group : (d.bwEnter c s n f b).group c s = { d.group c s with
    bwHold := some n, await := (d.group c s).await ++ (List.range b.vcount).map fun j => f.d + j } := by
  have same : (d.setCore c { d.core c with bw := mput (d.core c).bw n b, bwOrder := (d.core c).bwOrder + 1 }).group c s = d.group c s := by
    unfold Dev.group
    rw [core_setCore, if_pos rfl]
    rfl
  unfold Dev.bwEnter
  rw [group_updGroup _ _ _ _ _ _ inside, if_pos ⟨rfl, rfl⟩, same]

include absent in
/-- The one slot of that number is the BWDOT's. -/
theorem bwEnter_only {e : Nat × BwSlot} (he : e ∈ ((d.bwEnter c s n f b).core c).bw) (own : e.1 = n) : e.2 = b := by
  rw [bwEnter_bw] at he
  rcases mem_mput he with rfl | he
  · rfl
  · exact absurd own (absent e he)

theorem bwEnter_quiet (quiet : BwQuiet (d.core c)) (fresh : ∀ a ∈ b.wLines, a.stale = false) (waits : b.wLines ≠ []) :
    BwQuiet ((d.bwEnter c s n f b).core c) := by
  intro e he
  rw [bwEnter_bw] at he
  rcases mem_mput he with rfl | he
  · exact ⟨fresh, fun none' => absurd none' waits⟩
  · exact quiet e he

include absent inside in
/-- A BWDOT that awaits its first line stays in its slot, with no row given to the multipliers, and holds its group (R176, R177). -/
theorem bwEnter_holds {e : Dev} (h : BwGoes c (d.bwEnter c s n f b) e) (waits : b.wLines ≠ []) (none' : b.rowsHere = 0) :
    (∃ y, mget? (e.core c).bw n = some y ∧ y.rowsIn = b.rowsIn ∧
      y = { b with wLines := y.wLines, rowsIn := y.rowsIn, busyTo := y.busyTo }) ∧
    e.group c s = (d.bwEnter c s n f b).group c s := by
  have awaits : AwaitsLines ((d.bwEnter c s n f b).core c).bw n := fun x hx own => bwEnter_only absent hx own ▸ waits
  have there : mhas ((d.bwEnter c s n f b).core c).bw n = true := by simp [bwEnter_bw, mhas_mput]
  obtain ⟨y, listed⟩ := mget?_of_mhas (h.slots.stays n awaits there)
  obtain ⟨x, hx, own, kept⟩ := h.slots.source _ (mem_of_mget? listed)
  rw [bwEnter_only absent hx own] at kept
  exact ⟨⟨y, listed, kept.rows none', kept.rest⟩, h.held s n awaits (by rw [bwEnter_group inside])⟩

end

/-! ### BWDOT_COMPLETE (R168, R177) -/

/-- The accumulators of a slot, by row and lane: those of the lanes below cols that A held (R168). -/
def BwSlot.cells (x : BwSlot) : List (Nat × Nat) :=
  (List.range x.vcount).flatMap fun j => ((List.range x.cols).filter fun n => x.active.getLsbD n).map fun n => (j, n)

/-- What an accumulator holds after the rows of the slot (R167). -/
def BwSlot.result (x : BwSlot) (g : Group) (p : Nat × Nat) : W32 :=
  BitVec.ofNat 32 (x.dot p.1 p.2 (if x.fresh then 0 else (g.reg (x.d + p.1) p.2).toNat))

/-- A group whose accumulators a slot has written back. -/
def Group.washed (g : Group) (x : BwSlot) : Group :=
  let g' := x.cells.foldl (fun h p => h.setReg (x.d + p.1) p.2 (x.result g p)) g
  { g' with await := g'.await.filter fun r => !(decide (x.d ≤ r) && decide (r < x.d + x.vcount)) }

theorem mem_cells {x : BwSlot} {p : Nat × Nat} : p ∈ x.cells ↔ p.1 < x.vcount ∧ p.2 < x.cols ∧ x.active.getLsbD p.2 = true := by
  obtain ⟨j, n⟩ := p
  simp only [BwSlot.cells, List.mem_flatMap, List.mem_map, List.mem_filter, List.mem_range, Prod.mk.injEq]
  constructor
  · rintro ⟨_, row, _, col, rfl, rfl⟩
    exact ⟨row, col⟩
  · exact fun ⟨row, col⟩ => ⟨j, row, n, col, rfl, rfl⟩

/-- Going through the accumulators of a slot is going through its rows, and in each through its lanes. -/
theorem foldl_cells {α : Type} (x : BwSlot) (f : α → Nat × Nat → α) (a : α) :
    x.cells.foldl f a = (List.range x.vcount).foldl (fun a j =>
      ((List.range x.cols).filter fun n => x.active.getLsbD n).foldl (fun a n => f a (j, n)) a) a := by
  simp only [BwSlot.cells, List.foldl_flatMap, List.foldl_map]

section
variable {d : Nat} {v : Nat × Nat → W32} {ps : List (Nat × Nat)} (lanes : ∀ p ∈ ps, p.2 < 32) (regs : ∀ p ∈ ps, isV (d + p.1) = true)
include lanes regs

/-- Writing cells of a register tile: every other register and lane is as it was. -/
theorem reg_foldl_cells_other {r l : Nat} (hl : l < 32) (other : ∀ p ∈ ps, r ≠ d + p.1 ∨ l ≠ p.2) (g : Group) :
    (ps.foldl (fun h p => h.setReg (d + p.1) p.2 (v p)) g).reg r l = g.reg r l := by
  refine List.foldlRecOn ps _ (motive := fun h : Group => h.reg r l = g.reg r l) rfl fun h same p hp => ?_
  have notU : isU (d + p.1) = false := by
    have own := regs p hp
    simp only [isV, isU, decide_eq_true_eq, Bool.and_eq_false_iff, decide_eq_false_iff_not] at own ⊢
    omega
  rw [reg_setReg_other _ _ _ _ _ _ (lanes p hp) hl ((other p hp).imp id fun apart => ⟨notU, apart⟩)]
  exact same

/-- Each cell reads what was written to it. -/
theorem reg_foldl_cells_same {p : Nat × Nat} (hp : p ∈ ps) (g : Group) :
    (ps.foldl (fun h p => h.setReg (d + p.1) p.2 (v p)) g).reg (d + p.1) p.2 = v p := by
  induction ps generalizing g with
  | nil => cases hp
  | cons a t ih =>
    have lanes' : ∀ p ∈ t, p.2 < 32 := fun x hx => lanes x (List.mem_cons_of_mem _ hx)
    have regs' : ∀ p ∈ t, isV (d + p.1) = true := fun x hx => regs x (List.mem_cons_of_mem _ hx)
    rw [List.foldl_cons]
    by_cases later : p ∈ t
    · exact ih lanes' regs' later _
    · have first : p = a := (List.mem_cons.mp hp).resolve_right later
      rw [reg_foldl_cells_other lanes' regs' (lanes p hp), first]
      · exact reg_setReg_same _ _ _ _ (.inl (regs a (List.mem_cons_self ..)))
      · intro x hx
        by_cases row : d + p.1 = d + x.1
        · exact .inr fun col => later (by rwa [show p = x from Prod.ext (by omega) col])
        · exact .inl row

end

section
variable {x : BwSlot} (file : x.d + x.vcount ≤ 255) (cols : x.cols ≤ 32)
include file cols

theorem cells_inside : (∀ p ∈ x.cells, p.2 < 32) ∧ ∀ p ∈ x.cells, isV (x.d + p.1) = true := by
  refine ⟨fun p hp => ?_, fun p hp => ?_⟩ <;> obtain ⟨row, col, -⟩ := mem_cells.mp hp
  · omega
  · exact decide_eq_true (by omega)

theorem washed_reg_same (g : Group) {j l : Nat} (hj : j < x.vcount) (hl : l < x.cols) (acts : x.active.getLsbD l = true) :
    (g.washed x).reg (x.d + j) l = x.result g (j, l) :=
  reg_foldl_cells_same (v := x.result g) (p := (j, l)) (cells_inside file cols).1 (cells_inside file cols).2
    (mem_cells.mpr ⟨hj, hl, acts⟩) g

theorem washed_reg_other (g : Group) {r l : Nat} (hl : l < 32)
    (other : r < x.d ∨ x.d + x.vcount ≤ r ∨ x.cols ≤ l ∨ x.active.getLsbD l = false) : (g.washed x).reg r l = g.reg r l := by
  refine reg_foldl_cells_other (v := x.result g) (cells_inside file cols).1 (cells_inside file cols).2 hl (fun p hp => ?_) g
  obtain ⟨row, col, acts⟩ := mem_cells.mp hp
  by_cases lane : l = p.2
  · subst lane
    have off : r < x.d ∨ x.d + x.vcount ≤ r := by
      rcases other with h | h | h | h
      · exact .inl h
      · exact .inr h
      · omega
      · exact nomatch acts.symm.trans h
    exact .inl (by omega)
  · exact .inr lane

end

/-- The core once a slot has been written back and is free. -/
def Dev.bwWashed (d : Dev) (c n : Nat) (x : BwSlot) : Dev :=
  (d.updGroup c x.slot fun g => g.washed x).updCore c fun k => { k with bw := mdel k.bw n }

theorem bwWashed_core (d : Dev) (c n : Nat) (x : BwSlot) : (d.bwWashed c n x).core c =
    { d.core c with groups := ((d.bwWashed c n x).core c).groups, bw := mdel (d.core c).bw n } := by
  unfold Dev.bwWashed
  rw [updCore_self, updGroup_core]

theorem bwWashed_group (d : Dev) (c n : Nat) {x : BwSlot} (slot : x.slot < 64) :
    (d.bwWashed c n x).group c x.slot = (d.group c x.slot).washed x := by
  unfold Dev.bwWashed
  rw [updCore_group _ _ _ rfl, group_updGroup _ _ _ _ _ _ slot, if_pos ⟨rfl, rfl⟩]

theorem bwWashed_quiet {d : Dev} {c n : Nat} {x : BwSlot} (quiet : BwQuiet (d.core c)) : BwQuiet ((d.bwWashed c n x).core c) := by
  rw [bwWashed_core]
  exact fun e he => quiet e (List.mem_filter.mp he).1

/-- The oldest slot that is written back leaves its number free, and the other slots go on (R177). -/
theorem bwdotComplete_washes {c : Fin 512} {n : Fin 4} {s : State} {x : BwSlot} (listed : mget? (s.dev.core c).bw n = some x)
    (written : x.written s.clk.ccyc = true) (going : x.cancelled = false)
    (first : ∀ e ∈ (s.dev.core c).bw, e.2.cancelled = true ∨ x.order ≤ e.2.order) (on : s.dev.stopped = false)
    (calm : Calm ((s.dev.bwWashed c n x).corePump s.clk c)) :
    ∃ t, exec (.bwdotComplete c n) s = .next t ∧ Settled s ((s.dev.bwWashed c n x).corePump s.clk c) t := by
  unfold exec execBwdotComplete
  refine onMem_settles ?_ calm
  have oldest : ((s.dev.core c).bw.all fun e => e.2.cancelled || decide (x.order ≤ e.2.order)) = true :=
    List.all_eq_true.mpr fun e he => by simpa using first e he
  rw [listed]
  dsimp only
  rw [written, going, oldest, on]
  unfold Dev.bwWashed Group.washed
  simp only [foldl_cells]
  rfl

/-- Settles O18: BWDOT enters a slot that then awaits its first line; a slot is written back before the others go on. -/
theorem bywashInstruction : Obligations.BywashInstruction := by
  intro c gs f s g k hg hk quiet
  subst hg hk
  refine ⟨fun n h => ?takes, fun n x listed calm own written going ops first on file cols => ?completes⟩
  case takes =>
    intro x off blk free inside regs checked xlate
    choose! range ga xlate using xlate
    have enters := bwPresent_enters s.clk free inside regs checked xlate
    obtain ⟨a, ha, place⟩ := slotLines_first (b := s.dev.bwSlot c gs f) range ga (Nat.succ_pos _)
    have fresh := (slotLines_spec range ga (spanLines (s.dev.bwSlot c gs f).wSpan ++ spanLines (s.dev.bwSlot c gs f).sSpan)).1
    revert enters ha fresh
    generalize slotLines range ga _ = lines
    intro enters ha fresh
    obtain ⟨waits, none'⟩ := bwEntry_waits ha place
    have goes := bwPump_goes (k := s.clk) (bwEnter_quiet (s := gs) (n := n) (f := f) quiet fresh waits)
    obtain ⟨t, ht, settled⟩ := issue_settles (sh := fun d => bwShape f (d.bwSlot c gs f).vcount (d.bwSlot c gs f).chunks) h enters
      (goes.calm h.calm)
    obtain ⟨⟨y, slot, rowsIn, rest⟩, group⟩ := bwEnter_holds (absent_of_lowestFree free) gs.isLt goes waits none'
    rw [bwEnter_group gs.isLt, ← settled.group] at group
    refine ⟨t, y, ht, by rw [settled.core]; exact slot, ?_⟩
    rw [group, rest]
    exact ⟨rfl, rfl, rfl, rfl, rfl, rfl, rfl, rowsIn, rfl, rfl, fun _ _ => rfl, settled.mem.trans goes.mem⟩
  case completes =>
    have goes := corePump_goes (k := s.clk) (d := s.dev.bwWashed c n x) (by rw [bwWashed_core]; exact ops) (bwWashed_quiet quiet)
    obtain ⟨t, ht, settled⟩ := bwdotComplete_washes listed written going first on (goes.calm calm)
    have regs : ∀ r l, (t.dev.group c gs).reg r l = ((s.dev.group c gs).washed x).reg r l := fun r l => by
      rw [settled.group, goes.regs, ← own, bwWashed_group _ _ _ (own ▸ gs.isLt)]
    refine ⟨t, ht, ?free, settled.mem.trans goes.mem, fun j l hj hl acts => ?own, fun r l hl other => ?others⟩
    case free =>
      rw [settled.core]
      refine goes.slots.absent ?_
      rw [bwWashed_core]
      exact mhas_mdel ..
    case own => rw [regs, washed_reg_same file cols _ hj hl acts, BwSlot.result]
    case others => rw [regs, washed_reg_other file cols _ hl other]

end Sys2Proof.Machine

namespace Sys2Proof.Machine

/-! ### A retraining that fails on a stack already lost (R227, R228) -/

/-- Nothing waits to be settled, and no slice holds a request that waits for its channel. -/
def NoneStalled (d : Dev) : Prop := Calm d ∧ ∀ n, (d.slice n).stalled = []

theorem serveStalled_noneStalled {d : Dev} (h : NoneStalled d) (k : Clock) (n : Nat) : NoneStalled (d.serveStalled k n) := by
  obtain ⟨calm, idle⟩ := h
  unfold Dev.serveStalled
  rw [idle n]
  refine ⟨calm, fun j => ?_⟩
  show ((d.updSlice n fun s => { s with stalled := [] }).slice j).stalled = []
  rw [Dev.updSlice_slice]
  split
  · rfl
  · exact idle j

/-- Losing a stack that is lost already logs no record (R228): nothing is left to settle. -/
theorem stackGone_noneStalled {d : Dev} {n : Nat} (h : NoneStalled d) (lost : (d.stack n).st = 3) (k : Clock) (ch cause : Nat) :
    NoneStalled (d.stackGone k n ch cause) := by
  have same : d.loseStack k n ch cause = d := if_pos lost
  unfold Dev.stackGone
  rw [same]
  exact List.foldlRecOn _ _ h fun _ he c _ => serveStalled_noneStalled he k (16 * n + c)

/-- A failed retraining of a channel whose stack is lost already retires no device. -/
theorem channelRetrainDone_lost_perm {s : State} {x : Fin 8} (h : NoneStalled s.dev) (lost : (s.dev.stack x).st = 3) (ch : Fin 16) :
    ∃ t, exec (.channelRetrainDone x ch false) s = .next t ∧ t.perm = s.perm := by
  show ∃ t, execChannelRetrainDone x ch false s = .next t ∧ _
  unfold execChannelRetrainDone
  refine Exists.imp (fun t => And.imp_right Settled.perm) (onMem_settles rfl ?_)
  dsimp only
  split
  · exact h.1
  · exact (stackGone_noneStalled h lost s.clk ch 2).1

/-- A Ready device of which stack 0 is lost (R228) while its channel 0 still retrains (R227). -/
def lostInRetraining : State :=
  { State.reset with dev := { Dev.reset with
      lkp := { Dev.reset.lkp with st := .ready, applied := true }
      mem := { Dev.reset.mem with stks := [(0, { Stack.reset with st := 3, retraining := 1 })] } } }

/-- Refutes O27: its clause on a failed retraining asks for a channel that retrains and a device that is not Retired, but not that the stack
is still to be lost. In `lostInRetraining` it is lost already, so the failure logs no second record, and `retire` stays clear. -/
theorem not_memoryServices : ¬ Obligations.MemoryServices := by
  intro h
  obtain ⟨-, -, retrains, -⟩ := h lostInRetraining ⟨rfl, rfl, rfl⟩ rfl
  obtain ⟨-, done⟩ := retrains 0 0
  obtain ⟨-, fails⟩ := done rfl
  obtain ⟨t, ht, retired, -⟩ := fails LkpSt.noConfusion
  obtain ⟨t', ht', kept⟩ := channelRetrainDone_lost_perm (s := lostInRetraining) (x := 0) ⟨⟨rfl, rfl, rfl⟩, fun _ => rfl⟩ rfl 0
  obtain rfl : t' = t := Host.Outcome.next.inj (ht'.symm.trans ht)
  rw [kept] at retired
  exact Bool.noConfusion retired

end Sys2Proof.Machine

namespace Sys2Proof.Machine

/-! ### What a core does with a copy of a line (R195, R245) -/

theorem mget?_mdel_same {α : Type} (m : List (Nat × α)) (k : Nat) : mget? (mdel m k) k = none := by
  induction m with
  | nil => rfl
  | cons e t ih =>
    obtain ⟨j, v⟩ := e
    by_cases same : j = k
    · simpa [mdel, same] using ih
    · simpa [mdel, mget?, same] using ih

section
variable {k : Core} {line i : Nat} {f : L1Line} (found : k.l1Find line = some i) (listed : mget? k.l1 i = some f)
include found listed

theorem copyOf_held : k.copyOf line = some (f.st, f.dirty, f.data, f.poison) := by
  unfold Core.copyOf
  rw [found, Option.bind_some, listed]

/-- A copy that is given up leaves the L1. -/
theorem setCopy_invalid (clean : Bool) : k.setCopy line .i clean = { k with l1 := mdel k.l1 i } := by
  unfold Core.setCopy
  rw [found, Option.bind_some, listed]
  rfl

/-- A copy that stays takes its new state, and keeps its dirty bits unless they are dropped. -/
theorem setCopy_valid {st : LState} (valid : st ≠ .i) :
    k.setCopy line st false = k.l1Write i { f with st := st } := by
  unfold Core.setCopy
  rw [found, Option.bind_some, listed]
  exact if_neg valid

/-- An Inv takes the copy out of the L1 (R245). -/
theorem farLose_l1 : (k.farLose line).l1 = mdel k.l1 i := by
  unfold Core.farLose
  rw [copyOf_held found listed, setCopy_invalid found listed]
  rfl

end

theorem afterFwdGetS_valid {st : LState} (valid : st ≠ .i) : afterFwdGetS st ≠ .i := by
  cases st
  case i => exact absurd rfl valid
  all_goals exact LState.noConfusion

theorem meetCopy_sound {d : Dev} {c line : Nat} (sound : (takeLatent 2 c line d).1 = none) (k : Clock) : d.meetCopy k c line = d := by
  unfold Dev.meetCopy
  rw [takeLatent_none sound]
  split <;> rfl

/-- A Recall of a copy in M or O is answered with its dirty sectors, one of a copy in E or S with an acknowledgement alone (R245). -/
theorem recallAnswer_cases (d : Dev) (p : Packet) (f : L1Line) :
    let a := d.recallAnswer p f.st f.dirty f.data f.poison
    (f.st = .m ∨ f.st = .o → a.op = .recallData ∧ a.sectors = f.dirty ∧ a.data = lineWords f.data) ∧
      (¬(f.st = .m ∨ f.st = .o) → a.op = .recallAck ∧ a.sectors = 0 ∧ a.data = []) := by
  constructor <;> intro carries <;> simp [Dev.recallAnswer, carries]

/-! ### A forward that a core answers at once (R243, R245, R247) -/

section
variable {d : Dev} {p : Packet} {i : Nat} {f : L1Line} (found : (d.core p.tgt).l1Find p.line = some i)
  (listed : mget? (d.core p.tgt).l1 i = some f) (sound : (takeLatent 2 p.tgt p.line d).1 = none) (k : Clock)
include found listed sound

/-- What a core answers to a forward of a line that it holds (R245, R247). -/
theorem coreAnswer_held :
    (p.op = .fwdGetS → d.coreAnswer k p.tgt p =
      (d.forwardData p 1 0 f.data f.poison).updCore p.tgt fun k => k.setCopy p.line (afterFwdGetS f.st) false) ∧
    (p.op = .fwdGetM → d.coreAnswer k p.tgt p =
      (d.forwardData p 3 f.dirty f.data f.poison).updCore p.tgt fun k => k.setCopy p.line .i true) ∧
    (p.op = .recall → d.coreAnswer k p.tgt p =
      (d.send { d.recallAnswer p f.st f.dirty f.data f.poison with
        tgt := 512 + d.lineSlice p.line, dst := d.id, berth := f.berth, key := f.key, mtype := if f.mirror = 0 then 0 else 3
        mirror := f.mirror }).updCore p.tgt fun k => k.setCopy p.line .i true) := by
  unfold Dev.coreAnswer
  dsimp only
  rw [meetCopy_sound sound, copyOf_held found listed, found, Option.bind_some, listed]
  exact ⟨fun op => by rw [op], fun op => by rw [op], fun op => by rw [op]⟩

omit found listed sound in
/-- A forward about a line that the core awaits no answer for is answered at once (R243). -/
theorem coreForward_quiet (quiet : (d.core p.tgt).asking p.line = false) (room : (d.core p.tgt).fwdq.length < 16) :
    d.coreForward k p.tgt p = some (d.coreAnswer k p.tgt p) := by
  have none' : (d.core p.tgt).mshrOf p.line = none := Option.isSome_eq_false_iff.mp quiet |> Option.isNone_iff_eq_none.mp
  unfold Dev.coreForward
  dsimp only
  rw [if_neg (by omega), none']
  cases (d.core p.tgt).copyOf p.line <;> rfl

end

/-- A packet that changes one core and draws one answer leaves everything else of the device as it was. -/
theorem core_answers {s : State} {p : Packet} {op : PktOp} {f : Dev → Option Dev} {g : Core → Core} {P : Packet → Prop}
    (h : Arrives s p op)
    (acts : ∀ fab, let d : Dev := { s.dev with fab := fab }
      ∃ a, f d = some ((d.send a).updCore p.tgt g) ∧ P { a with via := none, esc := false }) :
    ∃ t a, (onMem s fun d => d.onPkt p op f) = .next t ∧ AtCore s p.tgt t ∧ Replaced s t p a ∧ P a ∧
      t.dev.core p.tgt = g (s.dev.core p.tgt) := by
  obtain ⟨fab, taken, net⟩ := take_eq s.dev p
  obtain ⟨a, acts, holds⟩ := acts fab
  obtain ⟨t, ht, settled⟩ := onPkt_settles h ((congrArg f taken).trans acts) h.calm
  exact ⟨t, _, ht, atCore_of settled rfl rfl fun x hx => updCore_others _ hx _, settled.net.trans (congrArg (· ++ _) net), holds,
    (settled.core _).trans (updCore_self ..)⟩

section
variable {s : State} {p : Packet} {i : Nat} {f : L1Line} (holds : HoldsLine s p i f)
include holds

/-- A core that holds the line answers a forward by one packet, and changes its copy. -/
theorem forward_answers {op : PktOp} {g : Core → Core} {P : Packet → Prop} (h : Arrives s p op)
    (acts : ∀ fab, let d : Dev := { s.dev with fab := fab }
      (takeLatent 2 p.tgt p.line d).1 = none →
        ∃ a, d.coreAnswer s.clk p.tgt p = (d.send a).updCore p.tgt g ∧ P { a with via := none, esc := false }) :
    ∃ t a, fwdIns op p s = .next t ∧ AtCore s p.tgt t ∧ Replaced s t p a ∧ P a ∧ t.dev.core p.tgt = g (s.dev.core p.tgt) := by
  refine core_answers h fun fab => ?_
  obtain ⟨a, answer, fits⟩ := acts fab ((takeLatent_congr (d := s.dev) (e := { s.dev with fab := fab }) rfl ..).trans holds.sound)
  refine ⟨a, ?_, fits⟩
  rw [if_pos holds.core]
  exact (coreForward_quiet (d := { s.dev with fab := fab }) s.clk holds.quiet holds.room).trans (congrArg some answer)

theorem inv_answers (h : Arrives s p .inv) :
    ∃ t a, execInv p s = .next t ∧ AtCore s p.tgt t ∧ Replaced s t p a ∧
      (a.op = .invAck ∧ a.dst = p.ackDev ∧ a.tgt = p.ackTag % 1024 ∧ a.line = p.line) ∧
      t.dev.core p.tgt = (s.dev.core p.tgt).farLose p.line := by
  refine core_answers (g := fun k => k.farLose p.line) h fun fab => ⟨s.dev.invAckFor p, ?_, rfl, rfl, rfl, rfl⟩
  rw [if_pos holds.core]
  exact if_neg (Nat.not_le.mpr holds.room)

end

/-- Settles O24: each message by the copy that the core holds. -/
theorem holdersAnswer : Obligations.HoldersAnswer := by
  intro s p i f holds toReq kept
  have found := holds.found
  have listed := holds.line
  obtain ⟨-, valid⟩ := line_of_l1Find found listed
  have gone : mget? ((s.dev.core p.tgt).setCopy p.line .i true).l1 i = none := by
    rw [setCopy_invalid found listed]
    exact mget?_mdel_same ..
  refine ⟨fun h => ?fwdGetS, fun h => ?fwdGetM, fun h => ?recalled, fun h => ?inv⟩
  case fwdGetS =>
    obtain ⟨t, a, ht, atCore, replaced, ⟨reaches, grant⟩, core⟩ := forward_answers (P := fun a => toReq a ∧ a.grant = 1) holds h
      fun fab sound => by
        obtain ⟨answer, -, -⟩ := coreAnswer_held (d := { s.dev with fab := fab }) found listed sound s.clk
        exact ⟨_, answer h.code, ⟨rfl, rfl, rfl, rfl, rfl, rfl, rfl, rfl⟩, rfl⟩
    refine ⟨t, a, ht, atCore, replaced, reaches, grant, ?_⟩
    rw [core, setCopy_valid found listed (afterFwdGetS_valid valid)]
    exact (mget?_mput ..).trans (if_pos rfl)
  case fwdGetM =>
    obtain ⟨t, a, ht, atCore, replaced, ⟨reaches, grant, acks, sectors⟩, core⟩ := forward_answers
      (P := fun a => toReq a ∧ a.grant = 3 ∧ a.acks = p.acks ∧ a.sectors = f.dirty) holds h
      fun fab sound => by
        obtain ⟨-, answer, -⟩ := coreAnswer_held (d := { s.dev with fab := fab }) found listed sound s.clk
        exact ⟨_, answer h.code, ⟨rfl, rfl, rfl, rfl, rfl, rfl, rfl, rfl⟩, rfl, rfl, rfl⟩
    exact ⟨t, a, ht, atCore, replaced, reaches, grant, acks, sectors, by rw [core]; exact gone⟩
  case recalled =>
    obtain ⟨t, a, ht, atCore, replaced, ⟨tgt, line, data, ack⟩, core⟩ := forward_answers
      (P := fun a => a.tgt = 512 + s.dev.lineSlice p.line ∧ a.line = p.line ∧
        (kept → a.op = .recallData ∧ a.sectors = f.dirty ∧ a.data = lineWords f.data) ∧
        (¬kept → a.op = .recallAck ∧ a.sectors = 0 ∧ a.data = [])) holds h
      fun fab sound => by
        obtain ⟨-, -, answer⟩ := coreAnswer_held (d := { s.dev with fab := fab }) found listed sound s.clk
        exact ⟨_, answer h.code, rfl, rfl, recallAnswer_cases { s.dev with fab := fab } p f⟩
    exact ⟨t, a, ht, atCore, replaced, tgt, line, data, ack, by rw [core]; exact gone⟩
  case inv =>
    obtain ⟨t, a, ht, atCore, replaced, ⟨op, dst, tgt, line⟩, core⟩ := inv_answers holds h
    refine ⟨t, a, ht, atCore, replaced, op, dst, tgt, line, ?_⟩
    rw [core, farLose_l1 found listed]
    exact mget?_mdel_same ..

end Sys2Proof.Machine

namespace Sys2Proof.Machine

/-! ### Directory entries (R233 to R236) -/

theorem line_of_dirOf {x : Slice} {line : Nat} {e : DirEntry} (listed : x.dirOf line = some e) : e.line = line := by
  obtain ⟨f, found, rfl⟩ := Option.map_eq_some_iff.mp listed
  simpa using List.find?_some found

theorem dirOf_congr {x y : Slice} (dir : y.dir = x.dir) (line : Nat) : y.dirOf line = x.dirOf line := by
  unfold Slice.dirOf
  rw [dir]

/-- Writing back the entry of a line of this device leaves it in its place, or frees it if it is Uncached (R234). -/
theorem dirOf_dirPut {x : Slice} {line : Nat} {e old : DirEntry} (listed : x.dirOf line = some old) (own : e.line = line)
    (near : e.far = false) : (x.dirPut e).dirOf line = if e.st = .uncached then none else some e := by
  obtain ⟨f, found, -⟩ := Option.map_eq_some_iff.mp listed
  unfold Slice.dirPut
  by_cases freed : e.st = .uncached
  · rw [if_pos (by simp [near, freed]), if_pos freed]
    simp [Slice.dirOf, own]
  · have same : ((fun g : Nat × DirEntry => g.2.line == line) ∘ fun g => if g.2.line = e.line then (g.1, e) else g) =
        fun g => g.2.line == line := by
      funext g
      by_cases at' : g.2.line = line <;> simp [own, at']
    have here : f.2.line = line := by simpa using List.find?_some found
    rw [if_neg (by simp [near, freed]), if_neg freed]
    unfold Slice.dirOf
    dsimp only
    rw [List.find?_map, same, found]
    simp [own, here]

@[simp] theorem dirPut_frames (x : Slice) (e : DirEntry) : (x.dirPut e).frames = x.frames := by
  unfold Slice.dirPut
  split <;> rfl

theorem dirPut_frameOf (x : Slice) (e : DirEntry) (set line : Nat) : (x.dirPut e).frameOf set line = x.frameOf set line := by
  unfold Slice.frameOf
  rw [dirPut_frames]

theorem dirSet_listed {d : Dev} {n : Nat} {e old : DirEntry} (listed : (d.slice n).dirOf e.line = some old) :
    d.dirSet n e = some (d.setSlice n ((d.slice n).dirPut e)) := by
  unfold Dev.dirSet
  dsimp only
  rw [listed]

/-- A line without an entry takes a free way of its set (R234). -/
theorem dirSet_room {d : Dev} {n : Nat} {e : DirEntry} (absent : (d.slice n).dirOf e.line = none) (cached : e.st ≠ .uncached)
    (room : ∃ w < 16, mhas (d.slice n).dir (16 * (d.setOfLine e.line % 512) + w) = false) :
    ∃ x, d.dirSet n e = some (d.setSlice n x) ∧ x.dirOf e.line = some e := by
  obtain ⟨w, below, free⟩ := room
  obtain ⟨v, found⟩ := Option.isSome_iff_exists.mp
    ((List.find?_isSome (p := fun w => !mhas (d.slice n).dir (16 * (d.setOfLine e.line % 512) + w))).mpr
      ⟨w, List.mem_range.mpr below, by rw [free]; rfl⟩)
  let set := d.setOfLine e.line % 512
  let x : Slice := { d.slice n with
    dir := mput (d.slice n).dir (16 * set + v) e, dirPlru := mput (d.slice n).dirPlru set (plruTouch 4 1 (mget 0 (d.slice n).dirPlru set) v) }
  have acts : d.dirSet n e = some (d.setSlice n x) := by
    unfold Dev.dirSet
    dsimp only
    rw [absent]
    dsimp only
    rw [if_neg (by simp [cached])]
    unfold Dev.dirAlloc
    dsimp only
    rw [found]
  have first := List.find?_eq_none.mp (Option.map_eq_none_iff.mp absent)
  refine ⟨x, acts, congrArg (Option.map Prod.snd) (find?_unique (mem_mput_same ..) (by simp) fun b mem at' => ?_)⟩
  exact (mem_mput mem).resolve_right fun listed => first b listed at'

/-! ### What a request or a Put leaves at the home (R241) -/

/-- A message about a line of this device has acted on the home's slice alone: the slice is now `x`, and packet `a` has been sent. -/
structure HomeLeaves (s : State) (p : Packet) (x : Slice) (a : Packet) (t : State) : Prop where
  frame : HomeFrame s p.line t
  replaced : Replaced s t p a
  slice : t.dev.slice (s.dev.lineSlice p.line) = x
  place : t.dev.lineSlice p.line = s.dev.lineSlice p.line
  set : t.dev.setOfLine p.line = s.dev.setOfLine p.line

theorem HomeLeaves.entryAt {s t : State} {p a : Packet} {x : Slice} (h : HomeLeaves s p x a t) : entryAt t p.line = x.dirOf p.line := by
  unfold Sys2Proof.entryAt
  rw [h.place, h.slice]

/-- A slice's frame of a line holds this data. -/
def Slice.HoldsData (x : Slice) (set line : Nat) (data : Line) : Prop :=
  ∃ i fr, x.frameOf set line = some i ∧ mget? x.frames i = some fr ∧ fr.data = data

theorem HomeLeaves.frameData {s t : State} {p a : Packet} {x : Slice} {data : Line} (h : HomeLeaves s p x a t)
    (holds : x.HoldsData (s.dev.setOfLine p.line) p.line data) : FrameData t p.line data := by
  unfold FrameData
  rw [h.place, h.set, h.slice]
  exact holds

/-- No storage error of a line's directory entry is met, whatever is in the mesh (R256). -/
theorem meetDir_mesh {s : State} {line : Nat} (sound : ∀ k, k = 6 ∨ k = 7 → (takeLatent k (s.dev.lineSlice line) line s.dev).1 = none)
    (fab : Fabric) : ({ s.dev with fab := fab } : Dev).meetDir s.clk line = { s.dev with fab := fab } :=
  meetDir_sound (fun k hk => (takeLatent_congr (d := s.dev) (e := { s.dev with fab := fab }) rfl ..).trans (sound k hk)) _

/-- A message that changes the home's slice and draws one answer leaves everything else but counts and figures as it was. -/
theorem home_leaves {s : State} {p : Packet} {op : PktOp} {f : Dev → Option Dev} {P : Slice → Prop} (h : Arrives s p op)
    {a : Packet} (acts : ∀ fab, let d : Dev := { s.dev with fab := fab }
      ∃ cnt ctxs x, f d = some ((({ d with cnt := cnt, ctl := { d.ctl with ctxs := ctxs } } : Dev).setSlice (d.lineSlice p.line) x).send a) ∧
        P x) :
    ∃ t x, (onMem s fun d => d.onPkt p op f) = .next t ∧ HomeLeaves s p x { a with via := none, esc := false } t ∧ P x := by
  obtain ⟨fab, taken, net⟩ := take_eq s.dev p
  obtain ⟨cnt, ctxs, x, acts, holds⟩ := acts fab
  obtain ⟨t, ht, settled⟩ := onPkt_settles h ((congrArg f taken).trans acts) h.calm
  refine ⟨t, x, ht, ⟨⟨settled.pending, settled.perm, settled.clk, settled.cores, settled.mem, settled.whf, fun n hn => ?_⟩,
    settled.net.trans (congrArg (· ++ _) net), (settled.slice _).trans (mget_mput_same ..), ?_, ?_⟩, holds⟩
  · exact (settled.slice n).trans (mget_mput_other _ _ _ hn)
  all_goals
    rw [settled.dev]
    rfl

/-! ### GetS and GetM at the home (R241, R243) -/

/-- The figures of a request's context are all that counting its HBM bytes changes (R491). -/
theorem forCtx_eq {d e : Dev} {f : Dev → Option Dev} (acts : f d = some e) (p : Packet) :
    ∃ ctxs, d.forCtx p f = some { e with ctl := { e.ctl with ctxs := ctxs } } := by
  unfold Dev.forCtx
  rw [acts]
  dsimp only [Option.map_some]
  split
  · exact ⟨_, rfl⟩
  · exact ⟨e.ctl.ctxs, rfl⟩

/-- A GetS or GetM that its home serves at once leaves what the directory's action does. -/
theorem get_leaves {s : State} {p : Packet} {op : PktOp} {P : Slice → Prop} (atHome : AtHome s p) (h : Arrives s p op)
    (get : op = .getS ∨ op = .getM) {a : Packet}
    (served : ∀ fab, let d : Dev := { s.dev with fab := fab }
      ∃ cnt x, d.serveGet s.clk (d.lineSlice p.line) p = some ((({ d with cnt := cnt } : Dev).setSlice (d.lineSlice p.line) x).send a) ∧ P x) :
    ∃ t x, reqIns op p s = .next t ∧ HomeLeaves s p x { a with via := none, esc := false } t ∧ P x := by
  refine home_leaves h fun fab => ?_
  obtain ⟨cnt, x, acts, holds⟩ := served fab
  let d : Dev := { s.dev with fab := fab }
  have action : d.serveHome s.clk (d.lineSlice p.line) p = d.serveGet s.clk (d.lineSlice p.line) p := by
    unfold Dev.serveHome
    rcases get with rfl | rfl <;> rw [h.code]
  obtain ⟨ctxs, counted⟩ := forCtx_eq (f := fun e => e.serveHome s.clk (d.lineSlice p.line) p) (action.trans acts) p
  have met : d.meetDir s.clk p.line = d := meetDir_mesh atHome.sound fab
  exact ⟨cnt, ctxs, x, (congrArg (Dev.serveReq · s.clk p) met).trans ((serveReq_home atHome fab s.clk).trans counted), holds⟩

/-- The entry of a line that its owner holds alone, once a GetS or GetM has been forwarded to the owner (R241). -/
def DirEntry.handedOn (e : DirEntry) (d : Dev) (p : Packet) : DirEntry :=
  if p.op = .getM then { e with st := .exclusive, owner := ownerPtr d p, sharers := [], coarse := false, coreGroups := 0, devGroups := 0 }
  else { e with st := .owned, sharers := [sharerPtr d p] }

theorem handedOn_kept (e : DirEntry) (d : Dev) (p : Packet) :
    (e.handedOn d p).line = e.line ∧ (e.handedOn d p).far = e.far ∧ (e.handedOn d p).st ≠ .uncached := by
  unfold DirEntry.handedOn
  split
  · exact ⟨rfl, rfl, DirState.noConfusion⟩
  · exact ⟨rfl, rfl, DirState.noConfusion⟩

/-- The forward of a GetS or GetM to its owner (R243). -/
def Dev.ownerForward (d : Dev) (p : Packet) (e : DirEntry) (x : Nat) : Packet :=
  toPtr d e.line x { Packet.reset with
    op := if p.op = .getM then .fwdGetM else .fwdGetS, agent := p.agent, entry := p.entry, gen := p.gen, reqDev := p.src, line := e.line }

theorem ownerForward_fields (d : Dev) (p : Packet) (e : DirEntry) (x : Nat) :
    let a := d.ownerForward p e x
    a.op = (if p.op = .getM then .fwdGetM else .fwdGetS) ∧ a.dst = (if x < 4096 then d.id else x - 4096) ∧ a.reqDev = p.src ∧
      a.agent = p.agent ∧ a.entry = p.entry ∧ a.gen = p.gen ∧ a.acks = 0 := by
  intro a
  simp only [a, Dev.ownerForward, toPtr]
  split <;> exact ⟨rfl, rfl, rfl, rfl, rfl, rfl, rfl⟩

section
variable {d : Dev} {p : Packet} (home : d.isHome p.line = true)
include home

/-- An untracked line is granted from the home's own copy, E to a GetS and M to a GetM, and its new entry names the requester as owner. -/
theorem serveGet_untracked {i : Nat} {fr : SLine} (held : FrameHeld d (d.lineSlice p.line) p.line i fr)
    (absent : (d.slice (d.lineSlice p.line)).dirOf p.line = none)
    (room : ∃ w < 16, mhas (d.slice (d.lineSlice p.line)).dir (16 * (d.setOfLine p.line % 512) + w) = false) (k : Clock) :
    ∃ cnt x, d.serveGet k (d.lineSlice p.line) p = some ((({ d with cnt := cnt } : Dev).setSlice (d.lineSlice p.line) x).send
        (dataAnswer d p (if p.op = .getM then 3 else 2) 0 false fr.data fr.poison)) ∧
      x.dirOf p.line = some { DirEntry.reset with line := p.line, st := .exclusive, owner := ownerPtr d p } := by
  obtain ⟨cnt, plru, read⟩ := homeRead_held held k (p := p) rfl 0
  let e : DirEntry := { DirEntry.reset with line := p.line, st := .exclusive, owner := ownerPtr d p }
  let d' := d.sliceTouched (d.lineSlice p.line) cnt plru
  have slice : d'.slice (d.lineSlice p.line) = { d.slice (d.lineSlice p.line) with plru := plru } := sliceTouched_slice ..
  obtain ⟨x, set, names⟩ := dirSet_room (d := d') (n := d.lineSlice p.line) (e := e) (by rw [slice]; exact absent) DirState.noConfusion
    (by rw [slice]; exact room)
  refine ⟨cnt, x, ?_, names⟩
  have same : d'.setSlice (d.lineSlice p.line) x = ({ d with cnt := cnt } : Dev).setSlice (d.lineSlice p.line) x := setSlice_setSlice ..
  rw [same] at set
  unfold Dev.serveGet
  dsimp only
  rw [absent, home, read]
  by_cases getM : p.op = .getM
  · rw [getM]
    exact congrArg (Option.map fun e => e.send (dataAnswer e p 3 0 false fr.data fr.poison)) set
  · rw [if_neg getM, show (p.op == .getM) = false by simpa using getM]
    exact congrArg (Option.map fun e => e.send (dataAnswer e p 2 0 false fr.data fr.poison)) set

/-- A line that another agent holds alone is forwarded to it, and its entry handed on. -/
theorem serveGet_owned {e : DirEntry} {x : Nat} (listed : (d.slice (d.lineSlice p.line)).dirOf p.line = some e) (alone : e.st = .exclusive)
    (sharers : e.sharers = []) (fine : e.coarse = false) (near : e.far = false)
    (other : e.owner ≠ ownerPtr d p) (ptr : ownerAsPtr e.owner = some x) (k : Clock) :
    ∃ cnt y, d.serveGet k (d.lineSlice p.line) p =
        some ((({ d with cnt := cnt } : Dev).setSlice (d.lineSlice p.line) y).send (d.ownerForward p e x)) ∧
      y.dirOf p.line = some (e.handedOn d p) := by
  obtain ⟨line, far, cached⟩ := handedOn_kept e d p
  have same : (e.handedOn d p).line = p.line := line.trans (line_of_dirOf listed)
  refine ⟨(d.bump (82 + 2 * (d.lineSlice p.line / 32)) 1).cnt, (d.slice (d.lineSlice p.line)).dirPut (e.handedOn d p), ?_,
    (dirOf_dirPut listed same (far.trans near)).trans (if_neg cached)⟩
  have set : d.dirSet (d.lineSlice p.line) (e.handedOn d p) =
      some (d.setSlice (d.lineSlice p.line) ((d.slice (d.lineSlice p.line)).dirPut (e.handedOn d p))) :=
    dirSet_listed (by rw [same]; exact listed)
  have kept : d.suppliesSelf (d.lineSlice p.line) e p = false := by
    unfold Dev.suppliesSelf
    rw [alone]
  unfold Dev.serveGet Dev.ownerForward
  unfold DirEntry.handedOn at set ⊢
  dsimp only
  rw [listed, Option.getD_some, kept, home, ptr, alone]
  by_cases getM : p.op = .getM
  · have targets : invTargets e (sharerPtr d p) = [] := by simp [invTargets, fine, sharers]
    rw [targets, if_pos getM, if_pos getM, getM]
    rw [if_pos getM] at set
    simp only [if_neg other]
    exact congrArg (Option.map fun f : Dev => f.forward (d.lineSlice p.line) e (some x) p .fwdGetM 0) set
  · have added : addSharer { e with st := .owned } (sharerPtr d p) = { e with st := .owned, sharers := [sharerPtr d p] } := by
      simp [addSharer, fine, sharers]
    rw [added, if_neg getM, if_neg getM, show (p.op == .getM) = false by simpa using getM]
    rw [if_neg getM] at set
    exact congrArg (Option.map fun f : Dev => f.forward (d.lineSlice p.line) e (some x) p .fwdGetS 0) set

end

section
variable {s : State} {p : Packet} {op : PktOp} (atHome : AtHome s p) (h : Arrives s p op) (get : op = .getS ∨ op = .getM)
include atHome h get

theorem get_granted {fr : SLine} (absent : entryAt s p.line = none) (room : DirRoom s p.line) (holds : HomeHolds s p fr) :
    ∃ t a, reqIns op p s = .next t ∧ HomeFrame s p.line t ∧ Replaced s t p a ∧ AnswerTo s p a ∧
      a.op = .data ∧ a.grant = (if op = .getM then 3 else 2) ∧ a.data = lineWords fr.data ∧ a.acks = 0 ∧
      ∃ e, entryAt t p.line = some e ∧ e.st = .exclusive ∧ e.owner = ownerPtr s.dev p ∧ e.sharers = [] := by
  obtain ⟨i, held⟩ := frameHeld_of holds
  obtain ⟨t, x, ht, leaves, names⟩ := get_leaves atHome h get
    (P := fun x => x.dirOf p.line = some { DirEntry.reset with line := p.line, st := .exclusive, owner := ownerPtr s.dev p })
    (a := dataAnswer s.dev p (if p.op = .getM then 3 else 2) 0 false fr.data fr.poison)
    fun fab => serveGet_untracked (d := { s.dev with fab := fab }) atHome.home (held fab) absent room s.clk
  exact ⟨t, _, ht, leaves.frame, leaves.replaced, ⟨rfl, rfl, rfl, rfl, rfl, rfl⟩, rfl, by rw [← h.code]; rfl, rfl, rfl,
    _, leaves.entryAt.trans names, rfl, rfl, rfl⟩

theorem get_forwarded {e : DirEntry} {x : Nat} (listed : entryAt s p.line = some e) (alone : e.st = .exclusive) (sharers : e.sharers = [])
    (fine : e.coarse = false) (near : e.far = false) (other : e.owner ≠ ownerPtr s.dev p) (ptr : ownerAsPtr e.owner = some x) :
    ∃ t, reqIns op p s = .next t ∧ HomeFrame s p.line t ∧ Replaced s t p { s.dev.ownerForward p e x with via := none, esc := false } ∧
      entryAt t p.line = some (e.handedOn s.dev p) := by
  obtain ⟨t, y, ht, leaves, names⟩ := get_leaves atHome h get (P := fun y => y.dirOf p.line = some (e.handedOn s.dev p))
    (a := s.dev.ownerForward p e x) fun fab =>
      serveGet_owned (d := { s.dev with fab := fab }) atHome.home listed alone sharers fine near other ptr s.clk
  exact ⟨t, ht, leaves.frame, leaves.replaced, leaves.entryAt.trans names⟩

end

/-- Settles O21: an untracked line is granted, an owned one forwarded to its owner. -/
theorem directoryGets : Obligations.DirectoryGets := by
  intro s p fr atHome
  refine ⟨fun absent room holds => ⟨fun h => ?getS, fun h => ?getM⟩,
    fun e x listed alone sharers fine near other ptr => ⟨fun h => ?fwdGetS, fun h => ?fwdGetM⟩⟩
  case getS => exact get_granted atHome h (.inl rfl) absent room holds
  case getM => exact get_granted atHome h (.inr rfl) absent room holds
  case fwdGetS =>
    obtain ⟨t, ht, frame, replaced, entry⟩ := get_forwarded atHome h (.inl rfl) listed alone sharers fine near other ptr
    obtain ⟨op, dst, reqDev, agent, buffer, gen, -⟩ := ownerForward_fields s.dev p e x
    rw [h.code] at op
    exact ⟨t, _, ht, frame, replaced, op, dst, reqDev, agent, buffer, gen, entry.trans (congrArg some (if_neg (by rw [h.code]; decide)))⟩
  case fwdGetM =>
    obtain ⟨t, ht, frame, replaced, entry⟩ := get_forwarded atHome h (.inr rfl) listed alone sharers fine near other ptr
    obtain ⟨op, dst, reqDev, agent, buffer, gen, acks⟩ := ownerForward_fields s.dev p e x
    rw [h.code] at op
    exact ⟨t, _, ht, frame, replaced, op, dst, reqDev, agent, buffer, gen, acks, _, entry.trans (congrArg some (if_pos h.code)), rfl, rfl, rfl⟩

end Sys2Proof.Machine

namespace Sys2Proof.Machine

/-! ### The Puts at the home (R241, R242) -/

/-- The entry without a sharer that gives the line up (R241). -/
def DirEntry.lessSharer (e : DirEntry) (x : Nat) : DirEntry :=
  let left := e.sharers.filter fun y => y != x
  { e with sharers := left, st := if left.isEmpty && e.owner == 0 then .uncached else e.st }

/-- The entry without its owner, who gives the line up (R241). -/
def DirEntry.lessOwner (e : DirEntry) : DirEntry :=
  { e with owner := 0, st := if e.sharers.isEmpty && !e.coarse then .uncached else .shared }

/-- What is left of an entry after its owner's Put: it is freed if it names no sharer (R234, R241). -/
def DirEntry.afterOwner (e : DirEntry) : Option DirEntry := if e.sharers = [] then none else some { e with owner := 0, st := .shared }

/-- Nothing is given up of a line whose entry, if it has one, is of this device (R249). -/
theorem farIdle_near {d : Dev} {n line : Nat} (near : ∀ e, (d.slice n).dirOf line = some e → e.far = false) : d.farIdle n line = d := by
  unfold Dev.farIdle
  dsimp only
  split
  · rfl
  · next e listed => exact if_pos (by simp [near e listed])

/-- What a Put leaves of the home's slice `y`: its directory entry is written back. -/
theorem farIdle_put {d : Dev} {n line : Nat} {y : Slice} {e old : DirEntry} (listed : y.dirOf line = some old) (own : e.line = line)
    (near : e.far = false) (a : Packet) :
    ((d.setSlice n (y.dirPut e)).send a).farIdle n line = (d.setSlice n (y.dirPut e)).send a := by
  refine farIdle_near fun f here => ?_
  have slice : ((d.setSlice n (y.dirPut e)).send a).slice n = y.dirPut e := mget_mput_same ..
  rw [slice, dirOf_dirPut listed own near] at here
  split at here
  · cases here
  · cases here
    exact near

/-- Storing a holder's sectors in a frame that the home holds leaves its directory as it was. -/
theorem frameSectors_dir {d : Dev} {n line i : Nat} {fr : SLine} (home : d.isHome line = true) (sound : (takeLatent 1 n line d).1 = none)
    (found : (d.slice n).frameOf (d.setOfLine line) line = some i) (listed : mget? (d.slice n).frames i = some fr) (whole : fr.valid = 0xF#4)
    (k : Clock) (berth key mtype mirror : Nat) (secs : BitVec 4) (data : Line) (poison : BitVec 16) :
    ((d.frameSectors k n line berth key mtype mirror secs data poison).slice n).dir = (d.slice n).dir := by
  unfold Dev.frameSectors
  by_cases none' : secs = 0
  · rw [if_pos none']
  · obtain ⟨plru, f, eq, -⟩ := sliceWrite_held sound found listed whole k berth key mtype mirror (sectorBytes secs) data poison
    have slice : (d.setSlice n { d.slice n with plru := plru, frames := mput (d.slice n).frames i f }).slice n =
      { d.slice n with plru := plru, frames := mput (d.slice n).frames i f } := mget_mput_same ..
    rw [if_neg none', if_pos home, eq, slice]

/-- A sharer's Put frees the entry if it names no other holder. -/
theorem dirOf_lessSharer {y : Slice} {line x : Nat} {e : DirEntry} (listed : y.dirOf line = some e) (near : e.far = false)
    (cached : e.st ≠ .uncached) :
    let left := e.sharers.filter fun y => y != x
    (y.dirPut (e.lessSharer x)).dirOf line = if left = [] ∧ e.owner = 0 then none else some { e with sharers := left } := by
  intro left
  rw [dirOf_dirPut (e := e.lessSharer x) listed (line_of_dirOf (e := e) listed) near]
  have frees : (left.isEmpty && e.owner == 0) = true ↔ left = [] ∧ e.owner = 0 := by
    rw [Bool.and_eq_true, List.isEmpty_iff, beq_iff_eq]
  by_cases last : left = [] ∧ e.owner = 0
  · have freed : (e.lessSharer x).st = .uncached := if_pos (frees.mpr last)
    rw [if_pos freed, if_pos last]
  · have keeps : (e.lessSharer x).st = e.st := if_neg (mt frees.mp last)
    have entry : e.lessSharer x = { e with sharers := left, st := (e.lessSharer x).st } := rfl
    rw [if_neg (keeps ▸ cached), if_neg last, entry, keeps]

theorem dirOf_lessOwner {y : Slice} {line : Nat} {e : DirEntry} (listed : y.dirOf line = some e) (near : e.far = false)
    (fine : e.coarse = false) : (y.dirPut e.lessOwner).dirOf line = e.afterOwner := by
  rw [dirOf_dirPut (e := e.lessOwner) listed (line_of_dirOf (e := e) listed) near]
  by_cases last : e.sharers = [] <;> simp [DirEntry.lessOwner, DirEntry.afterOwner, fine, last]

section
variable {d : Dev} {n : Nat} {p : Packet} {e : DirEntry} (listed : (d.slice n).dirOf p.line = some e) (near : e.far = false) (k : Clock)
include listed near

theorem servePut_putS (op : p.op = .putS) (fine : e.coarse = false) (shares : e.sharers.contains (sharerPtr d p) = true) :
    d.servePut k n p = (d.setSlice n ((d.slice n).dirPut (e.lessSharer (sharerPtr d p)))).send (answerPkt d p .evictAck) := by
  refine Eq.trans ?_ (farIdle_put (e := e.lessSharer (sharerPtr d p)) listed (line_of_dirOf (e := e) listed) near _)
  have data : ¬(e.owner = ownerPtr d p ∧ (p.op = .putO ∨ p.op = .putM)) := by simp [op]
  have far : ¬(e.far ∧ e.owner = ownerPtr d p ∧ p.op = .putM) := by simp [near]
  unfold Dev.servePut
  dsimp only
  rw [listed]
  dsimp only
  rw [if_neg data, if_neg far, if_pos op, if_pos (by simp only [fine, shares]; rfl)]
  rfl

/-- A Put of the owner, after its dirty sectors, if any, have been stored. -/
theorem servePut_owner {stored : Dev} {y : Slice} (op : p.op ≠ .putS) (owns : e.owner = ownerPtr d p)
    (stores : (if p.op = .putO ∨ p.op = .putM then
      d.frameSectors k n p.line p.berth p.key p.mtype p.mirror p.sectors (lineOfWords p.data) (poisonMask p.poison) else d) = stored)
    (apart : SliceApart n d stored) (slice : stored.slice n = y) (dir : y.dir = (d.slice n).dir) :
    d.servePut k n p = (d.setSlice n (y.dirPut e.lessOwner)).send (answerPkt d p .evictAck) := by
  have listed' : y.dirOf p.line = some e := (dirOf_congr dir p.line).trans listed
  refine Eq.trans ?_ (farIdle_put (e := e.lessOwner) listed' (line_of_dirOf (e := e) listed) near _)
  have data : (e.owner = ownerPtr d p ∧ (p.op = .putO ∨ p.op = .putM)) = (p.op = .putO ∨ p.op = .putM) := by simp [owns]
  have far : ¬(e.far ∧ e.owner = ownerPtr d p ∧ p.op = .putM) := by simp [near]
  unfold Dev.servePut
  dsimp only
  rw [listed]
  dsimp only
  simp only [data, stores]
  rw [if_neg far, if_neg op, if_pos owns]
  unfold Dev.updSlice
  rw [slice, apart]
  rfl

/-- The owner's PutO or PutM of a line that the home's slice holds: its sectors are written into the frame. -/
theorem servePut_data {i : Nat} {fr : SLine} (fine : e.coarse = false) (home : d.isHome p.line = true) (op : p.op = .putO ∨ p.op = .putM)
    (owns : e.owner = ownerPtr d p) (held : FrameHeld d n p.line i fr) :
    ∃ x, d.servePut k n p = (d.setSlice n x).send (answerPkt d p .evictAck) ∧
      x.dirOf p.line = e.afterOwner ∧ x.HoldsData (d.setOfLine p.line) p.line (lineMerge (sectorBytes p.sectors) (lineOfWords p.data) fr.data) := by
  obtain ⟨stored, f, rfl, apart, -, -, found, written, data⟩ := frameSectors_held home held.sound held.found held.listed
    held.whole k p.berth p.key p.mtype p.mirror p.sectors (lineOfWords p.data) (poisonMask p.poison)
  have dir := frameSectors_dir home held.sound held.found held.listed held.whole k p.berth p.key p.mtype p.mirror p.sectors
    (lineOfWords p.data) (poisonMask p.poison)
  have other : p.op ≠ .putS := by rcases op with op | op <;> rw [op] <;> decide
  refine ⟨_, servePut_owner listed near k other owns (if_pos op) apart rfl dir, dirOf_lessOwner
    ((dirOf_congr dir p.line).trans listed) near fine, i, f, (dirPut_frameOf ..).trans found, by rw [dirPut_frames]; exact written, data⟩

end

section
variable {s : State} {p : Packet} {e : DirEntry} (home : s.dev.isHome p.line = true)
  (sound : ∀ k, k = 6 ∨ k = 7 → (takeLatent k (s.dev.lineSlice p.line) p.line s.dev).1 = none)
  (listed : entryAt s p.line = some e) (near : e.far = false) (fine : e.coarse = false)

include sound in
/-- A Put that changes the home's slice and draws an EvictAck leaves everything else as it was. -/
theorem put_leaves {op : PktOp} {P : Slice → Prop} (h : Arrives s p op)
    (served : ∀ fab, let d : Dev := { s.dev with fab := fab }
      ∃ x, d.servePut s.clk (d.lineSlice p.line) p = (d.setSlice (d.lineSlice p.line) x).send (answerPkt s.dev p .evictAck) ∧ P x) :
    ∃ t x, putIns op p s = .next t ∧ HomeLeaves s p x { answerPkt s.dev p .evictAck with via := none, esc := false } t ∧ P x := by
  refine home_leaves h fun fab => ?_
  let d : Dev := { s.dev with fab := fab }
  obtain ⟨x, acts, holds⟩ := served fab
  have met : d.meetDir s.clk p.line = d := meetDir_mesh sound fab
  exact ⟨d.cnt, d.ctl.ctxs, x, congrArg some ((congrArg (fun d' : Dev => d'.servePut s.clk (d'.lineSlice p.line) p) met).trans acts), holds⟩

include home sound listed near fine in
/-- PutO and PutM: the owner's sectors are written into the home's frame. -/
theorem putData_leaves {op : PktOp} (carries : op = .putO ∨ op = .putM) (h : Arrives s p op) (owns : e.owner = ownerPtr s.dev p) {fr : SLine}
    (holds : HomeHolds s p fr) :
    ∃ t a, putIns op p s = .next t ∧ HomeFrame s p.line t ∧ Replaced s t p a ∧
      (a.op = .evictAck ∧ a.dst = p.src ∧ a.tgt = p.agent ∧ a.line = p.line) ∧
      entryAt t p.line = e.afterOwner ∧
      FrameData t p.line (lineMerge (sectorBytes p.sectors) (lineOfWords p.data) fr.data) := by
  obtain ⟨i, held⟩ := frameHeld_of holds
  have own : p.op = .putO ∨ p.op = .putM := by
    rw [h.code]
    exact carries
  obtain ⟨t, x, ht, leaves, names, data⟩ := put_leaves sound
    (P := fun x => x.dirOf p.line = e.afterOwner ∧
      x.HoldsData (s.dev.setOfLine p.line) p.line (lineMerge (sectorBytes p.sectors) (lineOfWords p.data) fr.data)) h fun fab =>
    servePut_data (d := { s.dev with fab := fab }) listed near s.clk fine home own owns (held fab)
  exact ⟨t, _, ht, leaves.frame, leaves.replaced, ⟨rfl, rfl, rfl, rfl⟩, leaves.entryAt.trans names, leaves.frameData data⟩

end

/-- Settles O22: the entry loses a sharer or its owner, whose sectors, if it carries any, are stored first. -/
theorem directoryPuts : Obligations.DirectoryPuts := by
  intro s p e home sound listed near fine ack left gone
  refine ⟨fun h cached shares => ?putS, fun owns => ⟨fun h => ?putE, fun fr holds => ⟨fun h => ?putO, fun h => ?putM⟩⟩⟩
  case putS =>
    obtain ⟨t, x, ht, leaves, entry⟩ := put_leaves sound
      (P := fun x => x.dirOf p.line = if left = [] ∧ e.owner = 0 then none else some { e with sharers := left }) h fun fab =>
      ⟨_, servePut_putS (d := { s.dev with fab := fab }) listed near s.clk h.code fine shares, dirOf_lessSharer listed near cached⟩
    exact ⟨t, _, ht, leaves.frame, leaves.replaced, ⟨rfl, rfl, rfl, rfl⟩, leaves.entryAt.trans entry⟩
  case putE =>
    obtain ⟨t, x, ht, leaves, entry⟩ := put_leaves sound (P := fun x => x.dirOf p.line = gone) h fun fab =>
      ⟨_, servePut_owner (d := { s.dev with fab := fab }) listed near s.clk (by rw [h.code]; decide) owns
        (if_neg (by rw [h.code]; decide)) (fun _ => rfl) rfl rfl, dirOf_lessOwner listed near fine⟩
    exact ⟨t, _, ht, leaves.frame, leaves.replaced, ⟨rfl, rfl, rfl, rfl⟩, leaves.entryAt.trans entry⟩
  case putO => exact putData_leaves home sound listed near fine (.inl rfl) h owns holds
  case putM => exact putData_leaves home sound listed near fine (.inr rfl) h owns holds

end Sys2Proof.Machine

namespace Sys2Proof.Machine

/-! ### Bulk accesses to a line that its home's slice holds (R277, R278) -/

/-- A line that no agent holds is the home's at once (R253, R278). -/
theorem obtain_unheld {d : Dev} {line : Nat} (h : Unheld d line) (k : Clock) : d.obtain k (d.lineSlice line) line = (true, d) := by
  have called : (d.slice (d.lineSlice line)).recalls.any (fun r => r.ent.line == line) = false :=
    List.any_eq_false.mpr fun r hr => by simpa using h.called r hr
  have atom : (d.slice (d.lineSlice line)).atoms.any (fun a => a.line == line) = false :=
    List.any_eq_false.mpr fun a ha => by simpa using h.atom a ha
  unfold Dev.obtain
  simp only [called, atom, h.entry, Bool.or_self, Bool.false_eq_true, if_false]

theorem bulkGet_unheld {d : Dev} {line : Nat} (h : Unheld d line) (k : Clock) (p : Packet) : d.bulkGet k p line = (true, d) := by
  unfold Dev.bulkGet
  split
  · exact obtain_unheld h k
  · rfl

theorem foldr_words (ws : List W64) (tail : Nat) :
    ws.foldr (fun w acc => w.toNat + 2 ^ 64 * acc) tail = ws.foldr (fun w acc => w.toNat + 2 ^ 64 * acc) 0 + 2 ^ (64 * ws.length) * tail := by
  induction ws with
  | nil => simp
  | cons w ws ih =>
    rw [List.foldr_cons, List.foldr_cons, ih, List.length_cons, Nat.mul_add, Nat.mul_add, Nat.pow_add, Nat.mul_one]
    ring

/-- The low `n` words of a line spell its low 64 `n` bits. -/
theorem foldr_lineWords (l : Line) (n : Nat) :
    ((List.range n).map (lineWord l)).foldr (fun w acc => w.toNat + 2 ^ 64 * acc) 0 = l.toNat % 2 ^ (64 * n) := by
  induction n with
  | zero => simp [Nat.mod_one]
  | succ n ih =>
    rw [List.range_succ, List.map_append, List.foldr_append, foldr_words, ih]
    have word : (lineWord l n).toNat = l.toNat / 2 ^ (64 * n) % 2 ^ 64 := by
      simp [lineWord, BitVec.extractLsb'_toNat, Nat.shiftRight_eq_div_pow]
    simp only [List.map_cons, List.map_nil, List.foldr_cons, List.foldr_nil, word, List.length_map, List.length_range, Nat.mul_zero,
      Nat.add_zero]
    rw [Nat.mul_add, Nat.mul_one, Nat.pow_add, Nat.mod_mul]

/-- The words of a line spell the line. -/
theorem lineOfWords_lineWords (l : Line) : lineOfWords (lineWords l) = l := by
  have all : (lineWords l).take 16 = lineWords l := List.take_of_length_le (by simp [lineWords])
  unfold lineOfWords
  rw [all]
  unfold lineWords
  rw [foldr_lineWords]
  rw [Nat.mod_eq_of_lt l.isLt, BitVec.ofNat_toNat, BitVec.setWidth_eq]

/-- The mask of a span of bytes within a line is not empty. -/
theorem spanMask_ne_zero {i len : Nat} (some' : 0 < len) (inside : i + len ≤ 128) : spanMask i len ≠ 0 := by
  intro h
  have low : ((2 ^ len - 1) * 2 ^ i) % 2 ^ 128 = 0 := by simpa [spanMask] using congrArg BitVec.toNat h
  have bound : (2 ^ len - 1) * 2 ^ i < 2 ^ 128 := by
    calc (2 ^ len - 1) * 2 ^ i < 2 ^ len * 2 ^ i := Nat.mul_lt_mul_of_pos_right (Nat.sub_lt (by positivity) one_pos) (by positivity)
      _ = 2 ^ (i + len) := by rw [← Nat.pow_add, Nat.add_comm]
      _ ≤ 2 ^ 128 := Nat.pow_le_pow_right (by decide) inside
  rw [Nat.mod_eq_of_lt bound] at low
  have one : 2 ≤ 2 ^ len := Nat.le_self_pow (Nat.ne_of_gt some') 2
  have pos : 0 < (2 ^ len - 1) * 2 ^ i := Nat.mul_pos (by omega) (by positivity)
  omega

/-- The words that a reduction leaves do not depend on what is poisoned (R280). -/
theorem reduceLine_data (rtype : Nat) (m : BitVec 128) (src old : Line) (srcP oldP srcP' oldP' : BitVec 16) :
    (reduceLine rtype m src old srcP oldP).1 = (reduceLine rtype m src old srcP' oldP').1 := by
  unfold reduceLine
  refine List.foldl_rel (r := fun a b : Line × BitVec 16 => a.1 = b.1) rfl fun i _ a b same => ?_
  dsimp only
  split
  · simp only [same]
  · exact same

/-- A frame is still held after a change that leaves frames, repairs and storage errors as they are. -/
theorem FrameHeld.kept {d e : Dev} {n line i : Nat} {fr : SLine} (h : FrameHeld d n line i fr) (frames : (e.slice n).frames = (d.slice n).frames)
    (repairs : (e.slice n).repairs = (d.slice n).repairs) (latent : e.latent = d.latent) (set : e.setOfLine line = d.setOfLine line) :
    FrameHeld e n line i fr := by
  refine ⟨?_, by rw [frames]; exact h.listed, h.whole, h.clean, (takeLatent_congr latent ..).trans h.sound, by rw [repairs]; exact h.settled⟩
  rw [set, ← h.found]
  unfold Slice.frameOf
  rw [frames]

section
variable {d : Dev} {p : Packet} {i : Nat} {fr : SLine} (h : FrameHeld d (d.lineSlice p.line) p.line i fr) (normal : p.mtype ≠ 2)
include h

include normal in
/-- The bytes of a bulk write replace the frame's (R212, R274). -/
theorem bulkPut_held (k : Clock) (m : BitVec 128) (data : Line) (poison : BitVec 16) :
    ∃ erl x f, d.bulkPut k p p.line m data poison = ({ d with erl := erl } : Dev).setSlice (d.lineSlice p.line) x ∧
      x.frameOf (d.setOfLine p.line) p.line = some i ∧ mget? x.frames i = some f ∧ f.data = lineMerge m data fr.data := by
  let n := d.lineSlice p.line
  let d' := (d.updSlice n fun s => s.cancelRepair p.line m).untaint p.line (wholeSectors m)
  have slice : d'.slice n = (d.slice n).cancelRepair p.line m := mget_mput_same ..
  have found : (d'.slice n).frameOf (d'.setOfLine p.line) p.line = some i := by
    rw [slice]
    exact h.found
  have held : (d'.slice n).holds (d'.setOfLine p.line) p.line = true := by simp [Slice.holds, found]
  obtain ⟨plru, f, eq, own, valid, merged⟩ := sliceWrite_held (d := d') (n := n) (line := p.line) (i := i) (fr := fr)
    ((takeLatent_congr (d := d) (e := d') rfl ..).trans h.sound) found (by rw [slice]; exact h.listed) h.whole k
    p.berth p.key p.mtype p.mirror m data poison
  let x : Slice := { d'.slice n with plru := plru, frames := mput (d'.slice n).frames i f }
  have put : d.bulkPut k p p.line m data poison = d'.setSlice n x := by
    unfold Dev.bulkPut
    dsimp only
    rw [if_neg normal, if_neg fun whole => by simp [d', n, held] at whole]
    exact eq
  refine ⟨d'.erl, x, f, put.trans ?_, frameOf_mput (x := { d'.slice n with plru := plru }) found own valid,
    by rw [mget?_mput, if_pos rfl], merged⟩
  exact setSlice_setSlice ({ d with erl := d'.erl } : Dev) n ((d.slice n).cancelRepair p.line m) x

/-- A line that an access of another kind reads at its home comes at once, and leaves the slice as it found it but for figures (R278). -/
theorem fillRead_held (k : Clock) (normal : p.mtype ≠ 2)
    (free : ∀ q ∈ (d.slice (d.lineSlice p.line)).outs, q.op ≠ .bulkRead ∨ q.line ≠ p.line) :
    ∃ cnt x, d.fillRead k p p.line = (some (fr.data, fr.poison), ({ d with cnt := cnt } : Dev).setSlice (d.lineSlice p.line) x) ∧
      FrameHeld (({ d with cnt := cnt } : Dev).setSlice (d.lineSlice p.line) x) (d.lineSlice p.line) p.line i fr := by
  let n := d.lineSlice p.line
  obtain ⟨q, outs, own, fill⟩ : ∃ q outs, q.line = p.line ∧
      d.sliceOwn n { p with op := .bulkRead, line := p.line, lines := 1, off := 0, cnt := 128, dst := d.id } =
        (q, d.setSlice n { d.slice n with outs := outs }) := ⟨_, _, rfl, rfl⟩
  have slice : (d.setSlice n { d.slice n with outs := outs }).slice n = { d.slice n with outs := outs } := mget_mput_same ..
  have held : FrameHeld (d.setSlice n { d.slice n with outs := outs }) n p.line i fr :=
    h.kept (by rw [slice]) (by rw [slice]) rfl rfl
  obtain ⟨cnt, plru, read⟩ := homeRead_held held k own p.alloc
  have idle : (d.slice n).outs.any (fun q => q.op == .bulkRead && q.line == p.line) = false :=
    List.any_eq_false.mpr fun q hq => by
      have apart := free q hq
      simp only [Bool.and_eq_true, beq_iff_eq]
      tauto
  let x : Slice := ({ { d.slice n with outs := outs } with plru := plru } : Slice).ownDone q
  have left : ((d.setSlice n { d.slice n with outs := outs }).sliceTouched n cnt plru).updSlice n (fun s => s.ownDone q) =
      ({ d with cnt := cnt } : Dev).setSlice n x := by
    unfold Dev.updSlice
    rw [sliceTouched_slice, slice]
    unfold Dev.sliceTouched
    rw [slice, setSlice_setSlice]
    exact setSlice_setSlice ({ d with cnt := cnt } : Dev) n _ _
  have at' : (({ d with cnt := cnt } : Dev).setSlice n x).slice n = x := mget_mput_same ..
  refine ⟨cnt, x, ?_, h.kept (by rw [at']; rfl) (by rw [at']; rfl) rfl rfl⟩
  unfold Dev.fillRead
  dsimp only
  rw [idle, if_neg (by decide), fill]
  dsimp only
  rw [if_neg normal, read]
  exact congrArg _ left

end

/-! ### A bulk access of one line at its home (R277, R278, R306) -/

section
variable {p : Packet}

/-- The part of a bulk access on its one line. -/
theorem bulkPart_first (some' : 0 < p.cnt) (inside : p.off + p.cnt ≤ 128) :
    ∃ poison, bulkPart p 0 = (spanMask p.off p.cnt, lineOfWords p.data, poison) := by
  refine ⟨(bulkPart p 0).2.2, ?_⟩
  simp [bulkPart, inside, some']

theorem bulkLines_one (one : p.lines = 1) : (List.range (max 1 p.lines)).map (fun i => p.line + i) = [p.line] := by
  rw [one]
  rfl

variable {d : Dev} {i : Nat} {fr : SLine} (h : FrameHeld d (d.lineSlice p.line) p.line i fr) (normal : p.mtype ≠ 2)
  (unheld : Unheld d p.line) (one : p.lines = 1)

include h normal one in
/-- The lines of a bulk read of one line that the slice holds. -/
theorem bulkRead_held (k : Clock) (code : p.op = .bulkRead) :
    ∃ cnt plru, d.bulkRead k p = (some (lineWords fr.data, []), d.sliceTouched (d.lineSlice p.line) cnt plru) := by
  obtain ⟨cnt, plru, read⟩ := homeRead_held h k rfl p.alloc
  have none' : poisonList fr.poison = [] := poisonList_clean h.clean
  refine ⟨cnt, plru, ?_⟩
  unfold Dev.bulkRead
  rw [one]
  simp [List.range_succ, code, normal, read, none']

include h normal unheld one in
/-- A bulk read of one line is answered with the line's bytes (R278). -/
theorem bulkRead_served (k : Clock) (code : p.op = .bulkRead) : ∃ e, d.serveBulk k p = some e ∧ HomeServed d p
    { answerPkt d p .readData with data := lineWords fr.data, lines := p.lines } fr.data e := by
  obtain ⟨cnt, plru, read⟩ := bulkRead_held h normal one k code
  refine ⟨_, ?_, homeServed_send cnt d.erl (x := { d.slice (d.lineSlice p.line) with plru := plru }) h.found h.listed⟩
  unfold Dev.serveBulk
  simp only [bulkLines_one one, List.foldl_cons, List.foldl_nil, if_true, bulkGet_unheld unheld, Bool.not_true, Bool.false_eq_true, if_false,
    code, read]
  rfl

variable (some' : 0 < p.cnt) (inside : p.off + p.cnt ≤ 128)

include h in
/-- No mirror repair makes a write to a held frame wait (R477). -/
theorem writeWaits_held (m : BitVec 128) : (d.slice (d.lineSlice p.line)).writeWaits p.line m = false :=
  List.any_eq_false.mpr fun r hr => by simp [h.settled r hr]

include h normal unheld one some' inside in
/-- The bytes of a bulk write of one line replace the line's (R278). -/
theorem bulkWrite_served (k : Clock) (code : p.op = .bulkWrite) : ∃ e, d.serveBulk k p = some e ∧ HomeServed d p (answerPkt d p .writeAck)
    (lineMerge (spanMask p.off p.cnt) (lineOfWords p.data) fr.data) e := by
  obtain ⟨poison, part⟩ := bulkPart_first some' inside
  obtain ⟨erl, x, f, put, found, listed, merged⟩ := bulkPut_held h normal k (spanMask p.off p.cnt) (lineOfWords p.data) poison
  refine ⟨_, ?_, by rw [← merged]; exact homeServed_send d.cnt erl found listed⟩
  have fed (m : BitVec 128) : d.writeStarved k p p.line m = false := by simp [Dev.writeStarved, normal]
  unfold Dev.serveBulk
  simp only [bulkLines_one one, List.foldl_cons, List.foldl_nil, if_true, bulkGet_unheld unheld, Bool.not_true, Bool.false_eq_true, if_false,
    code, List.any_cons, List.any_nil, Bool.or_false, writeWaits_held h, fed, Nat.sub_self, part,
    spanMask_ne_zero some' inside, put]
  rfl

include h normal one in
/-- The line of a bulk reduction is read at its home (R277). -/
theorem bulkRead_filled (k : Clock) (code : p.op = .bulkReduce)
    (free : ∀ q ∈ (d.slice (d.lineSlice p.line)).outs, q.op ≠ .bulkRead ∨ q.line ≠ p.line) :
    ∃ cnt x, d.bulkRead k p = (some (lineWords fr.data, []), ({ d with cnt := cnt } : Dev).setSlice (d.lineSlice p.line) x) ∧
      FrameHeld (({ d with cnt := cnt } : Dev).setSlice (d.lineSlice p.line) x) (d.lineSlice p.line) p.line i fr := by
  obtain ⟨cnt, x, read, held⟩ := fillRead_held h k normal free
  have none' : poisonList fr.poison = [] := poisonList_clean h.clean
  refine ⟨cnt, x, ?_, held⟩
  unfold Dev.bulkRead
  rw [one]
  simp [List.range_succ, code, read, none']

include h normal unheld one some' inside in
/-- The words of a bulk reduction of one line are added to the line's (R277). -/
theorem bulkReduce_served (k : Clock) (code : p.op = .bulkReduce)
    (free : ∀ q ∈ (d.slice (d.lineSlice p.line)).outs, q.op ≠ .bulkRead ∨ q.line ≠ p.line) :
    let m := spanMask p.off p.cnt
    ∃ e, d.serveBulk k p = some e ∧ HomeServed d p (answerPkt d p .writeAck)
      (lineMerge m (reduceLine p.rtype m (lineOfWords p.data) fr.data 0 0).1 fr.data) e := by
  intro m
  obtain ⟨cnt, y, read, held⟩ := bulkRead_filled h normal one k code free
  obtain ⟨poison, part⟩ := bulkPart_first some' inside
  let l := reduceLine p.rtype m (lineOfWords p.data) fr.data poison 0
  let left := l.2 &&& poisonMask ((List.range 16).filter fun w => (m.extractLsb' (8 * w) 8) != 0)
  obtain ⟨erl, x, f, put, found, listed, merged⟩ := bulkPut_held held normal k m l.1 left
  have reduced : ((({ d with cnt := cnt } : Dev).setSlice (d.lineSlice p.line) y).bulkReducePut k p (lineWords fr.data) []) =
      ({ d with cnt := cnt, erl := erl } : Dev).setSlice (d.lineSlice p.line) x := by
    have lines : List.range (max 1 p.lines) = [0] := by
      rw [one]
      rfl
    unfold Dev.bulkReducePut
    rw [lines, List.foldl_cons, List.foldl_nil, part]
    dsimp only
    rw [if_neg (spanMask_ne_zero some' inside), Nat.mul_zero, List.drop_zero, lineOfWords_lineWords]
    exact put.trans (setSlice_setSlice ({ d with cnt := cnt, erl := erl } : Dev) (d.lineSlice p.line) y x)
  refine ⟨_, ?_, by rw [reduceLine_data (srcP' := poison) (oldP' := 0), ← merged]; exact homeServed_send cnt erl found listed⟩
  unfold Dev.serveBulk
  simp only [bulkLines_one one, List.foldl_cons, List.foldl_nil, if_true, bulkGet_unheld unheld, Bool.not_true, Bool.false_eq_true, if_false,
    code, List.any_cons, List.any_nil, Bool.or_false, writeWaits_held h, read, reduced, reduceCtorEq]
  rfl

end

/-- A bulk access to HBM of this device is served as any request is (R278). -/
theorem bulkArrive_reqIns {s : State} {p : Packet} {op : PktOp} (atHome : AtHome s p) (host : p.tgt ≠ 705)
    (hbm : isLmWindow (p.line % 2 ^ 38 * 128) = false) (ring : p.agent = 705 → p.aty ≠ 2) :
    (onMem s fun d => d.onPkt p op fun d => d.bulkArrive s.clk p) = reqIns op p s := by
  obtain ⟨fab, taken, -⟩ := take_eq s.dev p
  have met : ({ s.dev with fab := fab } : Dev).meetDir s.clk p.line = { s.dev with fab := fab } :=
    meetDir_sound (fun k hk => (takeLatent_congr (d := s.dev) (e := { s.dev with fab := fab }) rfl ..).trans (atHome.sound k hk)) _
  have same : (s.dev.take p).bulkArrive s.clk p = ((s.dev.take p).meetDir s.clk p.line).serveReq s.clk p := by
    rw [taken, met]
    unfold Dev.bulkArrive
    rw [if_neg host, hbm, if_neg (by decide), if_neg fun h => ring h.1 h.2]
  unfold reqIns onMem Dev.onPkt
  dsimp only
  rw [same]

/-- Settles O29: each access by what its home does with the frame. -/
theorem bulkAccesses : Obligations.BulkAccesses := by
  intro s p fr atHome holds unheld one host hbm ring m
  obtain ⟨i, held⟩ := frameHeld_of holds
  have free (fab : Fabric) : Unheld { s.dev with fab := fab } p.line := ⟨unheld.entry, unheld.called, unheld.atom⟩
  refine ⟨fun h => ?read, fun some' inside => ⟨fun h => ?write, fun h idle => ?reduce⟩⟩
  case read =>
    obtain ⟨t, ht, frame, replaced, data⟩ := home_answers atHome h
        (a := { answerPkt s.dev p .readData with data := lineWords fr.data, lines := p.lines }) fun fab => by
      obtain ⟨e, acts, served⟩ := bulkRead_served (held fab) holds.normal (free fab) one s.clk h.code
      exact ⟨e, by unfold Dev.serveHome; rw [h.code]; exact acts, served⟩
    exact ⟨t, _, (bulkArrive_reqIns atHome host hbm ring).trans ht, frame, replaced, ⟨rfl, rfl, rfl, rfl, rfl, rfl⟩, rfl, rfl, rfl, data⟩
  case write =>
    obtain ⟨t, ht, frame, replaced, data⟩ := home_answers atHome h (a := answerPkt s.dev p .writeAck) fun fab => by
      obtain ⟨e, acts, served⟩ := bulkWrite_served (held fab) holds.normal (free fab) one some' inside s.clk h.code
      exact ⟨e, by unfold Dev.serveHome; rw [h.code]; exact acts, served⟩
    exact ⟨t, _, (bulkArrive_reqIns atHome host hbm ring).trans ht, frame, replaced, ⟨rfl, rfl, rfl, rfl, rfl, rfl⟩, rfl, data⟩
  case reduce =>
    obtain ⟨t, ht, frame, replaced, data⟩ := home_answers atHome h (a := answerPkt s.dev p .writeAck) fun fab => by
      obtain ⟨e, acts, served⟩ := bulkReduce_served (held fab) holds.normal (free fab) one some' inside s.clk h.code idle
      exact ⟨e, by unfold Dev.serveHome; rw [h.code]; exact acts, served⟩
    exact ⟨t, _, (bulkArrive_reqIns atHome host hbm ring).trans ht, frame, replaced, ⟨rfl, rfl, rfl, rfl, rfl, rfl⟩, rfl, data⟩

end Sys2Proof.Machine

namespace Sys2Proof.Machine

/-! ### An access of a stream within one line (R273, R278) -/

/-- Two changes of a stream are one. -/
theorem updStream_updStream (d : Dev) (n : Nat) (f g : Stream → Stream) : (d.updStream n f).updStream n g = d.updStream n (g ∘ f) := by
  unfold Dev.updStream Dev.stream
  dsimp only
  rw [mget_mput_same, mput_mput]
  rfl

/-- A span within a line is one part. -/
theorem lineParts_one {va len : Nat} (some' : 0 < len) (fits : len ≤ 128 - va % 128) : lineParts va len = [(va, 0, len)] := by
  have one : (va + len - 1) / 128 - va / 128 + 1 = 1 := by omega
  have low : max va ((va / 128 + 0) * 128) = va := by omega
  have high : min (va + len) ((va / 128 + 0) * 128 + 128) = va + len := by omega
  unfold lineParts
  rw [if_neg (by omega), one, List.range_one, List.map_cons, List.map_nil, low, high]
  dsimp only
  rw [Nat.sub_self, Nat.add_sub_cancel_left]

/-- The part of a side that is device memory within a line (R278). -/
def linePart (e : BitVec 256) (va len : Nat) : BSeg := { BSeg.reset with entry := e, va := va, off := 0, len := len }

section
variable {d : Dev} {n va len need : Nat} {e : BitVec 256}

/-- A side that is device memory within a line is one part (R278). -/
theorem bargeSide_one (xlat : d.streamXlate n va need = .ok e) (kind : reKind e = 0) (some' : 0 < len) (fits : len ≤ 128 - va % 128) :
    d.bargeSide n va len need e = .ok [linePart e va len] := by
  unfold Dev.bargeSide
  rw [if_neg (by omega), lineParts_one some' fits]
  simp only [List.foldl_cons, List.foldl_nil, xlat, kind]
  rfl

theorem sideCut_one (some' : 0 < len) : sideCut [linePart e va len] len = [linePart e va len] := by
  simp [sideCut, linePart, some']

end

/-- Bytes of a LINEAR descriptor's access at place `cur` whose sides are both device memory (R278). -/
def linearLen (q : List (BitVec 64)) (cur : Nat) : Nat :=
  min (dPlace q cur 0).2.2 (min (128 - (dPlace q cur 0).1 % 128) (128 - (dPlace q cur 0).2.1 % 128))

/-- An access that a LINEAR descriptor has yet to issue moves bytes. -/
theorem linearLen_pos {q : List (BitVec 64)} {cur : Nat} (kind : dKind q = 0) (more : cur < dTotal q) : 0 < linearLen q cur := by
  have left : 0 < dRun q - cur % dRun q := by
    have runs : dRuns q = 1 := by simp only [dRuns, kind]
    have pos : 0 < dRun q := by
      rw [dTotal, runs] at more
      omega
    exact Nat.sub_pos_of_lt (Nat.mod_lt _ pos)
  have place : (dPlace q cur 0).2.2 = dRun q - cur % dRun q := by simp only [dPlace, kind]
  unfold linearLen
  omega

/-- Remembering a span changes nothing else of a stream (R273). -/
theorem touch_eq (x : Stream) (va len desc : Nat) (written : Bool) : ∃ h, x.touch va len desc written = { x with hazard := h } := by
  unfold Stream.touch
  split
  · split <;> exact ⟨_, rfl⟩
  · exact ⟨_, rfl⟩

/-- Issuing an access of `len` bytes moves a stream's cursor and adds `more` to its accesses in flight (R273, R278). -/
structure Issued (x y : Stream) (len more : Nat) : Prop where
  cur : y.cur = x.cur + len
  txns : y.txns.length = x.txns.length + more
  berth : y.berth = x.berth

/-- A read in flight of which one part is left sends that part's request (R278). -/
theorem bargeRead_one (d : Dev) (n : Nat) {t : BTxn} {g : BSeg} (src : t.src = [g]) :
    ∃ f, d.bargeRead n t = (d.updTxn n t.entry f).send ((d.updTxn n t.entry f).bargePkt n t g .bulkRead) := by
  unfold Dev.bargeRead
  rw [src]
  exact ⟨_, rfl⟩

/-- An access of one source part that a stream opens sends the read of that part (R278). -/
theorem openTxn_reads (d : Dev) (k : Clock) (n : Nat) {t : BTxn} {g : BSeg} (src : t.src = [g]) (f : BTxn → BTxn) {move : Stream → Stream}
    {len : Nat} (moves : ∀ x, Issued x (move x) len 0) :
    ∃ h u, (((d.openTxn k n t).2.updTxn n (d.openTxn k n t).1.entry f).updStream n move).bargeRead n (d.openTxn k n t).1 =
        (d.updStream n h).send ((d.updStream n h).bargePkt n u g .bulkRead) ∧ Issued (d.stream n) (h (d.stream n)) len 1 := by
  have opened : (d.openTxn k n t).1.src = [g] := by
    unfold Dev.openTxn
    exact src
  obtain ⟨f', read⟩ := bargeRead_one (((d.openTxn k n t).2.updTxn n (d.openTxn k n t).1.entry f).updStream n move) n opened
  rw [read]
  unfold Dev.openTxn Dev.updTxn
  simp only [updStream_updStream]
  refine ⟨_, _, rfl, ?_⟩
  refine ⟨(moves _).cur, ?_, (moves _).berth⟩
  have moved (x : Stream) : (move x).txns.length = x.txns.length := (moves x).txns
  simp only [Function.comp_apply, List.length_map, moved, List.length_append, List.length_singleton]

/-- The request of a part that is device memory (R278, R306). -/
theorem bargePkt_memory (d : Dev) (n : Nat) (t : BTxn) {g : BSeg} (memory : reKind g.entry = 0) (op : PktOp) :
    let p := d.bargePkt n t g op
    p.op = op ∧ p.dst = gaDev (reMap g.entry g.va) ∧ p.line = gaLine (reMap g.entry g.va) ∧ p.cnt = g.len ∧ p.agent = 640 + n / 64 ∧
      p.berth = (d.stream n).berth := by
  intro p
  unfold p Dev.bargePkt
  dsimp only
  rw [if_pos memory]
  exact ⟨rfl, rfl, rfl, rfl, rfl, rfl⟩

section
variable {d : Dev} {n : Nat} {q : List (BitVec 64)} {eS eD : BitVec 256}

/-- An access of a LINEAR descriptor from device memory to device memory sends the read of its source (R273, R278). -/
theorem bargeAccess_linear (kind : dKind q = 0) (more : (d.stream n).cur < dTotal q)
    (srcOk : d.streamXlate n (dPlace q (d.stream n).cur 0).1 1 = .ok eS) (dstOk : d.streamXlate n (dPlace q (d.stream n).cur 0).2.1 2 = .ok eD)
    (srcMem : reKind eS = 0) (dstMem : reKind eD = 0) (k : Clock) :
    let len := linearLen q (d.stream n).cur
    ∃ f t, d.bargeAccess k n q (some 0) =
        (d.updStream n f).send ((d.updStream n f).bargePkt n t (linePart eS (dPlace q (d.stream n).cur 0).1 len) .bulkRead) ∧
      Issued (d.stream n) (f (d.stream n)) len 1 := by
  intro len
  have pos : 0 < len := linearLen_pos kind more
  have src := bargeSide_one srcOk srcMem pos (by unfold len linearLen; omega)
  have dst := bargeSide_one dstOk dstMem pos (by unfold len linearLen; omega)
  have limit : min (dPlace q (d.stream n).cur 0).2.2 (min (sideLimit eS (dPlace q (d.stream n).cur 0).1 false)
      (sideLimit eD (dPlace q (d.stream n).cur 0).2.1 false)) = len := by
    simp [sideLimit, srcMem, dstMem, len, linearLen]
  have noSrc : (dKind q == 4 || (some 0 : Option Nat) == none && dKind q == 2) = false := by simp [kind]
  have reduces : ¬ dKind q = 5 := by omega
  have indexed : dIndexed q = false := by simp [dIndexed, kind]
  have sum (e : BitVec 256) (va : Nat) : sideLen [linePart e va len] = len := by simp [sideLen, sumNat, linePart]
  unfold Dev.bargeAccess
  simp only [Option.getD_some, noSrc, reduces, Bool.false_eq_true, if_false, srcOk, dstOk, srcMem, dstMem, bne_self_eq_false, Bool.not_false,
    Bool.and_false, Bool.false_and, Bool.or_false, limit, src, dst, sum, Nat.min_self, sideCut_one pos, indexed]
  refine openTxn_reads d k n rfl _ fun x => ?_
  obtain ⟨a, srcTouch⟩ := touch_eq { x with cur := x.cur + len } (dPlace q (d.stream n).cur 0).1 len x.di false
  rw [srcTouch]
  obtain ⟨b, dstTouch⟩ := touch_eq { { x with cur := x.cur + len } with hazard := a } (dPlace q (d.stream n).cur 0).2.1 len x.di true
  rw [dstTouch]
  exact ⟨rfl, rfl, rfl⟩

end

/-- A finished command has its status and its result (R369). -/
theorem finishes_finishCmd {s t : State} {q n status result : Nat}
    (queue : t.dev.queue q = (s.dev.finishCmd q n status result).queue q) : Finishes s t q n status result := by
  intro m listed number waits
  refine ⟨{ m with status := some status, result := BitVec.ofNat 64 result }, ?_, number, rfl, rfl, rfl⟩
  rw [queue]
  unfold Dev.finishCmd Dev.updCmd
  rw [Dev.updQueue_queue, if_pos rfl]
  exact List.mem_map.mpr ⟨m, listed, (if_pos number).trans (if_pos waits)⟩

/-! ### What a stream's events do (R273, R276, R278, R281, R288) -/

section
variable {n : Fin 4096} {s : State} (calm : Calm s.dev) (on : s.dev.stopped = false)
include calm on

/-- A stream reads its first descriptor from own memory (R273, R276). -/
theorem bargeDescriptorRead_takes {e : BitVec 256} (runs : (s.dev.stream n).st = .running) (sound : (s.dev.stream n).failed = none)
    (first : (s.dev.stream n).desc = none) (more : (s.dev.stream n).di < (s.dev.stream n).count)
    (idle : ∀ y ∈ (s.dev.stream n).txns, y.what ≠ 2 ∨ y.dead = true)
    (xlat : s.dev.streamXlate n ((s.dev.stream n).list + 64 * (s.dev.stream n).di) 1 = .ok e) :
    let x := s.dev.stream n
    let ga := reMap e (x.list + 64 * x.di)
    let a := gaLocal ga
    let q := (List.range 8).map fun i => BitVec.ofNat 64 (s.dev.peek (keyId x.berth (reKey e)) (a + 8 * i) 8)
    reKind e = 0 → gaDev ga = s.dev.id → isLmWindow a = false → (s.dev.locOf a).isSome = true →
    s.dev.mayAccess x.berth (reKey e) a true = true →
    Unheld s.dev (gaLine ga) → (∀ i < 8, s.dev.peekPoison (a + 8 * i) = false) → descInvalid q = false →
    (dKind q = 4 ∨ s.dev.windowSide x.ctx (qw q 1) = false ∨ windowSkew q true = false) →
    (s.dev.windowSide x.ctx (qw q 2) = false ∨ windowSkew q false = false) →
    ∃ t, exec (.bargeDescriptorRead n) s = .next t ∧
      Settled s (s.dev.updStream n fun s => { s with desc := some q, di := x.di, cur := 0, idx := none }) t := by
  intro x ga a q kind own hbm held may unheld clean valid srcFit dstFit
  have reads : ((s.dev.stream n).txns.any fun t => t.what == 2 && !t.dead) = false := List.any_eq_false.mpr fun y hy => by
    rcases idle y hy with apart | dead
    · simp [apart]
    · simp [dead]
  have pure : ((List.range 8).any fun i => s.dev.peekPoison (a + 8 * i)) = false :=
    List.any_eq_false.mpr fun i hi => by simp [clean i (List.mem_range.mp hi)]
  have fit : ((dKind q != 4 && s.dev.windowSide x.ctx (qw q 1) && windowSkew q true) ||
      (s.dev.windowSide x.ctx (qw q 2) && windowSkew q false)) = false := by
    rw [Bool.or_eq_false_iff]
    constructor
    · rcases srcFit with fill | near | even
      · rw [fill]; rfl
      · rw [near]; simp
      · rw [even, Bool.and_false]
    · rcases dstFit with near | even
      · rw [near, Bool.false_and]
      · rw [even, Bool.and_false]
  have taken : s.dev.takeDesc n x.di q false = s.dev.updStream n fun s => { s with desc := some q, di := x.di, cur := 0, idx := none } := by
    unfold Dev.takeDesc
    simp only [fit, valid, Bool.or_self, Bool.false_eq_true, if_false, x]
  unfold exec execBargeDescriptorRead
  refine onMem_settles ?_ calm
  have before : (s.dev.stream n).before (s.dev.stream n).di 0 = true := by simp [Stream.before, sound]
  simp only [on, runs, first, before, Option.isSome_none, Bool.false_eq_true, if_false, reads, xlat, Nat.not_le.mpr more,
    bne_self_eq_false, Bool.not_true, decide_false, Bool.or_self]
  have owned := obtain_unheld unheld s.clk
  rw [if_pos ⟨kind, own, hbm, held, may⟩, owned]
  dsimp only
  rw [if_neg (by decide), pure]
  exact taken

/-- A stream issues its next access (R273, R278). -/
theorem streamAccessIssue_linear {q : List (BitVec 64)} {f : Stream → Stream} {a : Packet} (runs : (s.dev.stream n).st = .running)
    (sound : (s.dev.stream n).failed = none) (desc : (s.dev.stream n).desc = some q) (kind : dKind q = 0) (fence : dFence q = false)
    (paid : (s.dev.stream n).owes = false) (more : (s.dev.stream n).cur < dTotal q) (room : (s.dev.engineUsed (n.val / 64)).length < 512)
    (access : s.dev.bargeAccess s.clk n q (some 0) = (s.dev.updStream n f).send a) :
    ∃ t, exec (.streamAccessIssue n) s = .next t ∧ Settled s ((s.dev.updStream n f).send a) t := by
  have before : (s.dev.stream n).before (s.dev.stream n).di (s.dev.stream n).cur = true := by simp [Stream.before, sound]
  have indexed : dIndexed q = false := by simp [dIndexed, kind]
  unfold exec execStreamAccessIssue
  refine onMem_settles ?_ calm
  simp [on, runs, paid, before, desc, Nat.not_le.mpr more, fence, Nat.not_le.mpr room, indexed, access]

end

/-- Settles O28: a stream's descriptor, its next access, its completion and its limit. -/
theorem streamsRun : Obligations.StreamsRun := by
  intro n s x own calm on
  subst own
  refine ⟨fun e runs sound first more idle xlat => ?descriptor, fun q eS eD runs sound desc kind fence paid more room => ?access,
    fun q runs done sound desc last all => ?complete, fun f fault waits late live => ?limit⟩
  case descriptor =>
    intro ga a q kind own hbm held may unheld clean valid srcFit dstFit
    obtain ⟨t, ht, settled⟩ :=
      bargeDescriptorRead_takes calm on runs sound first more idle xlat kind own hbm held may unheld clean valid srcFit dstFit
    have taken : t.dev.stream n = { s.dev.stream n with desc := some q, di := (s.dev.stream n).di, cur := 0, idx := none } := by
      rw [settled.dev]
      exact mget_mput_same ..
    exact ⟨t, ht, by rw [taken], by rw [taken], by rw [taken], settled.mem, settled.cores⟩
  case access =>
    intro src dst len srcOk dstOk srcMem dstMem
    obtain ⟨f, u, access, issued⟩ := bargeAccess_linear kind more srcOk dstOk srcMem dstMem s.clk
    obtain ⟨t, ht, settled⟩ := streamAccessIssue_linear calm on runs sound desc kind fence paid more room access
    have moved : t.dev.stream n = f (s.dev.stream n) := by
      rw [settled.dev]
      exact mget_mput_same ..
    have berth : ((s.dev.updStream n f).stream n).berth = (s.dev.stream n).berth := by
      rw [Dev.updStream_stream, if_pos rfl, issued.berth]
    obtain ⟨op, dev, line, cnt, agent, owner⟩ := bargePkt_memory (s.dev.updStream n f) n u (g := linePart eS src len) srcMem .bulkRead
    exact ⟨t, _, ht, settled.net, op, dev, line, cnt, agent, owner.trans berth, by rw [moved]; exact issued.cur,
      by rw [moved]; exact issued.txns, settled.mem⟩
  case complete =>
    obtain ⟨t, ht, settled⟩ : ∃ t, exec (.copyComplete n) s = .next t ∧
        Settled s ((s.dev.finishCmd (s.dev.stream n).queue (s.dev.stream n).order 0 (s.dev.stream n).di).idleStream n) t := by
      have over' : (s.dev.stream n).more = false := by simp [Stream.more, desc, Nat.not_lt.mpr all, last]
      unfold exec execCopyComplete
      refine onMem_settles ?_ calm
      simp [runs, done, on, over', sound, desc]
    refine ⟨t, ht, finishes_finishCmd (settled.queue _), ?_, settled.mem⟩
    rw [settled.dev]
    show (mget Stream.reset (mput _ _ _) _).st = _
    rw [mget_mput_same]
    rfl
  case limit =>
    obtain ⟨aborted, keeps⟩ := startAbort_aborts s.dev s.clk live 2 false
    obtain ⟨t, ht, settled⟩ : ∃ t, exec (.streamStallLimitExpiry n) s = .next t ∧
        Settled s (s.dev.startAbort s.clk (s.dev.stream n).ctx 2 false) t := by
      unfold exec execStreamStallLimitExpiry
      refine onMem_settles ?_ (keeps calm)
      dsimp only
      rw [fault]
      exact if_pos ⟨waits, late⟩
    exact ⟨t, ht, by rw [settled.ctx, aborted]⟩

end Sys2Proof.Machine

namespace Sys2Proof.Machine

/-! ### What a command comes to on a state that is written out -/

/-- Whether a command ends in a state of which a property holds. -/
def endsIn (o : Out) (p : State → Bool) : Bool :=
  match o with
  | .next t => p t
  | _ => false

/-- What a command ends in is its next state. -/
theorem of_endsIn {o : Out} {p : State → Bool} {t : State} (ends : endsIn o p = true) (next : o = .next t) : p t = true := by
  rw [next] at ends
  exact ends

/-! ### Pending records of a stream that is listed behind a greater key (R286, R287) -/

/-- A berth whose fault queue of two slots is full, and of whose streams stream 3 waits with a Pending record (R287). Stream 3 is listed
behind stream 5, so that a write of stream 3 adds an entry in front and leaves the old one. -/
def pendingBehind : State :=
  { State.reset with dev := { Dev.reset with
      ctl := { Dev.reset.ctl with
        berths := [(0, { Berth.reset with st := .live, fqSize := 1, fqProd := 2 })]
        streams := [(5, Stream.reset), (3, { Stream.reset with st := .pending, fault := some { SFault.reset with pend := true } })] } } }

/-- The one Pending record is found again after it was posted, and takes both slots that are freed. -/
theorem pendingBehind_posts_twice : endsIn (exec (.bthFqConsWrite 0 0 2) pendingBehind) (fun t => (t.dev.berth 0).fqProd == 4) = true := by
  decide +kernel

/-- Refutes O43: its clause on a Pending record that is posted in a freed slot does not ask that the streams are listed by rising
numbers. In `pendingBehind` they are not: the posted record stays Pending in the list, so it is posted again, and the queue's
producer index goes up by 2. -/
theorem not_berthRegisters : ¬ Obligations.BerthRegisters := by
  intro h
  obtain ⟨freed, -⟩ := h pendingBehind 0 0 ⟨rfl, rfl, rfl⟩ rfl rfl
  obtain ⟨-, posts⟩ := freed 2 (by decide)
  obtain ⟨t, ht, -, once, -⟩ := posts 3 { SFault.reset with pend := true } (by decide) (by decide) rfl rfl rfl (by decide) (by decide)
  have twice : ((t.dev.berth (0 : Fin 32)).fqProd == 4) = true := of_endsIn pendingBehind_posts_twice ht
  rw [once] at twice
  exact absurd twice (by decide)

/-! ### A context that is listed twice when its berth's reset ends (R413) -/

/-- An Aborted context of berth 1. -/
def abortedCtx : Ctx := { Ctx.reset with st := .aborted, berth := 1 }

/-- Berth 1 at the end of its reset (R413), with its one context, 3, listed twice. -/
def listedTwice : State :=
  { State.reset with dev := { Dev.reset with
      ctl := { Dev.reset.ctl with
        berths := [(1, { Berth.reset with st := .resetting, rst := some ResetRec.reset })]
        ctxs := [(3, abortedCtx), (3, abortedCtx)] } } }

/-- The reset frees the context, and then marks the free one as destroyed. -/
theorem listedTwice_destroyed : endsIn (exec (.berthResetComplete 1) listedTwice) (fun t => (t.dev.ctx 3).destroyed) = true := by
  decide +kernel

/-- Refutes O40: its clause on the end of a berth's reset does not ask that a context is listed once. In `listedTwice` context 3 is listed
twice with one entry; the reset frees it at the first and marks what is free already as destroyed at the second, so the context
does not read as reset. -/
theorem not_contextsEnd : ¬ Obligations.ContextsEnd := by
  intro h
  obtain ⟨-, -, resets⟩ := h listedTwice ⟨rfl, rfl, rfl⟩ rfl rfl
  have same : ∀ e ∈ listedTwice.dev.ctl.ctxs, e.2.berth = (1 : Fin 32).val →
      listedTwice.dev.ctx e.1 = e.2 ∧ e.2.st = .aborted ∧ e.2.abort = none ∧ e.2.orphans = 0 := by
    intro e he _
    obtain rfl : e = (3, abortedCtx) := by simpa [listedTwice] using he
    exact ⟨rfl, rfl, rfl, rfl⟩
  obtain ⟨t, ht, -, -, -, -, -, -, -, free, -⟩ := resets 1 ResetRec.reset rfl rfl rfl same
  have marked := of_endsIn listedTwice_destroyed ht
  rw [free 3 rfl CtxState.noConfusion] at marked
  exact Bool.noConfusion marked

/-! ### A queue that is listed behind a greater key (R362, R381) -/

/-- An EXPORT_FENCE of fence 7 to context 5 of device 0 (R381). -/
def exportRecord : List Nat := [0x47, 0, 0, 7, 5, 0, 0, 0]

/-- A Ready device with that record in the ring of queue 2. -/
def exportDev : Dev :=
  { Dev.reset with lkp := { Dev.reset.lkp with st := .ready } }.poke State.reset.clk 0 0x50000 (exportRecord.flatMap fun w => bytesOf 8 w)

/-- The command that the record becomes. -/
def exportCmd : Cmd := { Cmd.reset with order := 1, begin := gtime State.reset.clk exportDev, q := exportRecord.map fun w => BitVec.ofNat 64 w }

/-- Queue 2, whose earlier EXPORT_FENCE of fence 7 waits for its device's answer (R381). -/
def exportQueue : Queue := { Queue.reset with
  base := 0x50000, enable := true, granted := true, admin := true, tail := 1, nextOrder := 1
  cmds := [{ exportCmd with order := 0, reqs := [Packet.reset] }] }

/-- An admin queue with one EXPORT_FENCE in flight and another at its head, for a fence with six exports. Queue 2 is listed behind queue 5,
so that a write of queue 2 adds an entry in front and leaves the old one. -/
def queueBehind : State :=
  { State.reset with dev := { exportDev with
      ctl := { exportDev.ctl with
        queues := [(5, Queue.reset), (2, exportQueue)]
        berths := [(0, { Berth.reset with st := .live })]
        ctxs := [(0, { Ctx.reset with st := .live })]
        fences := [(7, { Fence.reset with valid := true, exports := (List.range 6).map fun i => { Export.reset with ctx := 10 + i } })] } } }

/-- The record at the head begins. -/
theorem queueBehind_begins : Begins queueBehind 2 0x47 exportCmd where
  calm := ⟨rfl, rfl, rfl⟩
  sound := rfl
  runs := by decide +kernel
  enabled := by decide +kernel
  live := by decide +kernel
  line := ⟨by decide +kernel, by decide +kernel, by decide +kernel⟩
  record := by decide +kernel
  poison := by decide +kernel
  code := by decide +kernel
  turn := by decide +kernel
  checked := by decide +kernel

/-- The command in flight is counted twice once the record is read, and the new one is refused. -/
theorem queueBehind_refuses : endsIn (exec (.exportFence 2) queueBehind)
    (fun t => (t.dev.queue 2).cmds.all fun x => x.order != 1 || x.status == some 3) = true := by
  decide +kernel

/-- Refutes O38: its clause on EXPORT_FENCE does not ask that the queues are listed by rising numbers. In `queueBehind` they are not: the
queue's commands stand in the list twice once the record is read, so its one EXPORT_FENCE in flight counts for two, and the fence
with six exports takes no seventh. -/
theorem not_adminCommands : ¬ Obligations.AdminCommands := by
  intro h
  obtain ⟨-, -, -, -, -, -, -, -, exports, -⟩ := h queueBehind 2 exportCmd
  obtain ⟨exported, -⟩ :=
    exports queueBehind_begins (by decide +kernel) (by decide +kernel) (by decide +kernel) (by decide +kernel) (by decide +kernel)
  obtain ⟨t, ht, -, -, ⟨x, listed, number, -, done, -⟩, -⟩ := exported (by decide +kernel) (by decide +kernel) (by decide +kernel)
  have refused := List.all_eq_true.mp (of_endsIn queueBehind_refuses ht) x listed
  rw [number, done] at refused
  exact absurd refused (by decide +kernel)

end Sys2Proof.Machine

/-! ## The fabric: what a storage error met on the way makes of it -/

namespace Sys2Proof.Machine

/-! ### A port that comes out of a retrain on a worn device (R228, R318, R474) -/

/-- The device of `wornState`, with port 2 in a retrain that began at 8 lanes (R318). -/
def wornRetraining : State :=
  { wornState with dev := { wornState.dev with
      fab := { Fabric.reset with ports := [(2, { Port.reset with role := .peer, nbrDev := 1, st := .retraining, width := 4, lanes := 0xFF })] } } }

/-- The retrain leaves 4 lanes, and the record of the narrower link is written to ring 0 (R474): this merges the oldest entry of the
write-combining buffer with HBM (R213), whose read meets the fault that loses the stack (R228). -/
theorem wornRetraining_ends_down :
    endsIn (exec (.portRetrainDone 2 true 0x0F) wornRetraining) (fun t => (t.dev.port 2).st == .down) = true := by
  decide +kernel

/-- Refutes O31: its clause on the end of a retrain asks for no `latent = []`, so the command may itself meet the storage error that
retires the device. In `wornRetraining` it does, and port 2 ends Down, not Up. -/
theorem not_peerPorts : ¬ Obligations.PeerPorts := by
  intro h
  obtain ⟨-, -, -, -, trained, -⟩ := h 2 wornRetraining _ rfl ⟨rfl, rfl, rfl⟩ rfl rfl
  obtain ⟨t, ht, up, -⟩ := trained 0x0F rfl (by decide)
  have down := of_endsIn wornRetraining_ends_down ht
  rw [beq_iff_eq] at down
  exact PortSt.noConfusion (up.symm.trans down)

/-! ### A peer that goes down while a recall of it is awaited (R228, R248, R250) -/

/-- A read of line 1028, which lies in stack 0 and slice 0 (R203, R205); it waits in the recall buffer (R248). -/
def waitingRead : Packet := { Packet.reset with op := .readU, line := 1028, sectors := 1 }

/-- The recall of that line from device 1, which owns it (R247). -/
def recallFromPeer : Recall :=
  { Recall.reset with ent := { DirEntry.reset with line := 1028, st := .exclusive, owner := ownDev 1 }, owner := true, waiting := [waitingRead] }

/-- A neighbour's word that device 1 is down (R322). -/
def peerOneDown : Packet := { Packet.reset with op := .peerDown, src := 1, agent := 704, tgt := 704, who := 1 }

/-- A Ready device, one uncorrectable burst from the loss of stack 0, that awaits device 1's answer to a recall; a read of the line waits
with it, and an uncorrectable fault waits in the line's first sector. PeerDown of device 1 has arrived, and port 2, which leads there, has
awaited the answer to its Ping for 50 ms. Nothing waits to be settled. -/
def recallingState : State :=
  { State.reset with
    clk := { State.reset.clk with tsc := msec 50 }
    dev := { Dev.reset with
      lkp := { Dev.reset.lkp with st := .ready, applied := true }
      slices := [(0, { Slice.reset with recalls := [recallFromPeer] })]
      mem := { Dev.reset.mem with stks := [(0, wornStack)] }
      fab := { Fabric.reset with
        ports := [(2, { Port.reset with role := .peer, nbrDev := 1, st := .down, pingAt := some 0 })]
        net := [peerOneDown] }
      latent := [{ Latent.reset with kind := 0, place := 4 * waitingRead.line, unc := true }] } }

/-- The recall ends with its owner (R250), and the read that it held back meets the fault: the stack is lost with a Device-fatal record,
and the retired device keeps no mark of a peer. -/
theorem recallingState_peerDown_unmarked :
    endsIn (exec (.peerDown peerOneDown) recallingState) (fun t => mget? t.dev.fab.down 1 == none) = true := by
  decide +kernel

/-- The same when the port's Ping stays without an answer (R322). -/
theorem recallingState_pingTimeout_unmarked :
    endsIn (exec (.pingTimeout 2) recallingState) (fun t => mget? t.dev.fab.down 1 == none) = true := by
  decide +kernel

theorem recallingState_arrives : Arrives recallingState peerOneDown .peerDown where
  calm := ⟨rfl, rfl, rfl⟩
  code := rfl
  here := rfl
  waits := List.mem_singleton.mpr rfl
  runs := rfl
  first := by simp [recallingState]

/-- Refutes O30: its clause on PeerDown asks for no `latent = []`, so what R250 asks of the device may itself meet the storage error that
retires it. In `recallingState` it does, and device 1 is not marked down. -/
theorem not_fabricMessages : ¬ Obligations.FabricMessages := by
  intro h
  obtain ⟨-, -, -, peerDown, -⟩ := h recallingState peerOneDown
  obtain ⟨t, ht, marked⟩ := peerDown recallingState_arrives (by decide) rfl
  have unmarked : mget? t.dev.fab.down 1 = none := beq_iff_eq.mp (of_endsIn recallingState_peerDown_unmarked ht)
  have named : peerOneDown.who = 1 := rfl
  rw [named, unmarked] at marked
  exact nomatch marked

/-- Refutes O32: its clause on a Ping without an answer asks for no `latent = []` either. In `recallingState` the device is retired, and its
neighbour is not marked down. -/
theorem not_linkTime : ¬ Obligations.LinkTime := by
  intro h
  obtain ⟨-, -, pingTimeout, -⟩ := h 2 recallingState _ rfl ⟨rfl, rfl, rfl⟩ rfl
  obtain ⟨t, ht, marked⟩ := pingTimeout 0 rfl (by decide) (by decide) rfl
  have unmarked : mget? t.dev.fab.down 1 = none := beq_iff_eq.mp (of_endsIn recallingState_pingTimeout_unmarked ht)
  have named : (recallingState.dev.port (2 : Fin 18)).nbrDev = 1 := rfl
  rw [named, unmarked] at marked
  exact nomatch marked

end Sys2Proof.Machine

/-! ## Management accesses (R315, R511, R512) -/

namespace Sys2Proof.Machine

/-- The answer to a management access, as it stands in the mesh. -/
def mgmtReply (d : Dev) (p : Packet) (ok : Bool) (data : List (BitVec 64)) : Packet :=
  { answerPkt d p .mgmtResp with err := !ok, data := if ok then data else [], reason := if ok then 0 else 3, via := none, esc := false }

theorem mgmtAnswer_eq (d : Dev) (p : Packet) (ok : Bool) (data : List (BitVec 64)) :
    d.mgmtAnswer p ok data = { d with fab := { d.fab with net := d.fab.net ++ [mgmtReply d p ok data] } } := rfl

theorem mgmtReply_answers (s : State) (p : Packet) (ok : Bool) (data : List (BitVec 64)) : AnswerTo s p (mgmtReply s.dev p ok data) :=
  ⟨rfl, rfl, rfl, rfl, rfl, rfl⟩

theorem mgmtHole_populated {d : Dev} {p : Packet} (h : regPopulated p.off = true) (k : Clock) : d.mgmtHole k p = d := if_pos h

section
variable {d e : Dev} {p : Packet} (k : Clock) (short : p.cnt ≤ 4) (populated : regPopulated p.off = true) (window : hostWindow p = true)
include short populated window

/-- A read of up to 4 bytes is answered with what the register reads (R512). -/
theorem mgmtReadReg_short {perm : Perm} {v : Nat} (read : d.regRead perm k (mgmtWho p) p.off = (some v, e)) :
    d.mgmtReadReg perm k p = e.mgmtAnswer p true [BitVec.ofNat 64 v] := by
  unfold Dev.mgmtReadReg
  rw [mgmtHole_populated populated]
  simp only [window, read, short, Bool.not_true, Bool.false_eq_true, if_false, if_true]

/-- A write of up to 4 bytes is acknowledged after the register took it (R512). -/
theorem mgmtWriteReg_short (write : d.regWrite k (mgmtWho p) p.off ((p.data.headD 0).setWidth 32) = (true, e)) :
    d.mgmtWriteReg k p = e.mgmtAnswer p true [] := by
  unfold Dev.mgmtWriteReg
  rw [mgmtHole_populated populated]
  simp only [window, write, short, Bool.not_true, Bool.false_eq_true, if_false, if_true]

end

/-- A packet whose action ends with a management answer of a device with nothing to settle. -/
theorem mgmt_answered {s : State} {p : Packet} {op : PktOp} {f : Dev → Option Dev} {d : Dev} {data : List (BitVec 64)} (h : Arrives s p op)
    (acts : f (s.dev.take p) = some (d.mgmtAnswer p true data)) (calm : Calm d) :
    ∃ t a, (onMem s fun d => d.onPkt p op f) = .next t ∧ AnswerTo { s with dev := d } p a ∧ a.op = .mgmtResp ∧ a.err = false ∧ a.data = data ∧
      Settled s { d with fab := { d.fab with net := d.fab.net ++ [a] } } t := by
  obtain ⟨t, ht, settled⟩ := onPkt_settles h acts calm
  exact ⟨t, mgmtReply d p true data, ht, mgmtReply_answers { s with dev := d } p true data, rfl, rfl, rfl, settled⟩

/-- The device once a management answer has freed the landing buffer that it names (R307). -/
def Dev.mgmtFreed (d : Dev) (p : Packet) : Dev := { d with fab := { d.fab with mgmtOut := mdel d.fab.mgmtOut p.entry } }

/-- Ports whose Ping was answered await it no longer; besides, nothing changes. -/
def Dev.answered (d : Dev) (qs : List Nat) : Dev := qs.foldl (fun d q => d.updPort q fun x => { x with pingAt := none }) d

theorem answered_eq (d : Dev) (qs : List Nat) : ∃ ports, d.answered qs = { d with fab := { d.fab with ports := ports } } := by
  induction qs generalizing d with
  | nil => exact ⟨_, rfl⟩
  | cons q qs ih =>
    obtain ⟨ports, h⟩ := ih (d.updPort q fun x => { x with pingAt := none })
    exact ⟨ports, h⟩

theorem answered_port (d : Dev) (qs : List Nat) (q : Nat) :
    (d.answered qs).port q = if q ∈ qs then { d.port q with pingAt := none } else d.port q := by
  induction qs generalizing d with
  | nil => rfl
  | cons r qs ih =>
    show ((d.updPort r fun x => { x with pingAt := none }).answered qs).port q = _
    rw [ih, Dev.updPort_port]
    by_cases hr : q = r
    · subst hr
      simp
    · simp [hr]

/-- The ports that a Ping's answer concerns are those to the device asked that wait for one. -/
theorem answered_pinged {d : Dev} {x q : Nat} (bound : q < 18) (nbr : (d.port q).nbrDev = x) :
    ((d.answered (d.pinged x)).port q).pingAt = none := by
  rw [answered_port]
  split
  · rfl
  · next absent =>
    simpa [Dev.pinged, bound, nbr] using absent

@[simp] theorem take_port_nbrDev (d : Dev) (p : Packet) (q : Nat) : ((d.take p).port q).nbrDev = (d.port q).nbrDev := by
  unfold Dev.take
  cases p.via with
  | none => rfl
  | some r =>
    show (({ d with fab := { d.fab with net := d.fab.net.erase p } } : Dev).updPort r _ |>.port q).nbrDev = _
    rw [Dev.updPort_port]
    split
    · next h => rw [h]; rfl
    · rfl

theorem take_mgmtOut (d : Dev) (p : Packet) : (d.take p).fab.mgmtOut = d.fab.mgmtOut := by
  unfold Dev.take
  cases p.via <;> rfl

/-- Settles O33: a register access is answered by `mgmtReadReg_short` and `mgmtWriteReg_short`; a Ping's answer frees its landing buffer and
the ports that awaited it. -/
theorem managementAccess : Obligations.ManagementAccess := by
  intro s p
  refine ⟨fun v d h notSeq short populated window read calm => ?read, fun d h plain short populated window write calm => ?write,
    fun r h host out gen agent ping fine => ?answer⟩
  case read =>
    unfold exec execMgmtRead
    refine mgmt_answered h ?_ calm
    rw [if_neg notSeq, mgmtReadReg_short s.clk short populated window read]
  case write =>
    obtain ⟨t, a, ht, answers, op, err, -, settled⟩ : ∃ t a, exec (.mgmtWrite p) s = .next t ∧ AnswerTo { s with dev := d } p a ∧
        a.op = .mgmtResp ∧ a.err = false ∧ a.data = [] ∧ Settled s { d with fab := { d.fab with net := d.fab.net ++ [a] } } t := by
      unfold exec execMgmtWrite
      refine mgmt_answered h ?_ calm
      dsimp only
      rw [if_pos plain, mgmtWriteReg_short s.clk short populated window write]
    exact ⟨t, a, ht, answers, op, err, settled⟩
  case answer =>
    have waiting := (congrArg (mget? · p.entry) (take_mgmtOut s.dev p)).trans out
    obtain ⟨fab, taken, net⟩ := take_eq s.dev p
    obtain ⟨ports, answered⟩ := answered_eq ((s.dev.take p).mgmtFreed p) (((s.dev.take p).mgmtFreed p).pinged r.dst)
    obtain ⟨t, ht, settled⟩ : ∃ t, exec (.mgmtResp p) s = .next t ∧
        Settled s (((s.dev.take p).mgmtFreed p).answered (((s.dev.take p).mgmtFreed p).pinged r.dst)) t := by
      unfold exec execMgmtResp
      refine onPkt_settles h ?_ ?_
      · rw [if_neg host]
        dsimp only at waiting ⊢
        rw [waiting]
        dsimp only
        rw [if_neg (by simp [gen, agent]), if_pos ping, if_neg (by simp [fine])]
        rfl
      · rw [answered, taken]
        exact h.calm
    refine ⟨t, ht, ?_, ?_, fun q bound nbr => ?_⟩
    · rw [settled.dev, answered]
      exact mget?_mdel_same _ _
    · rw [settled.net, answered, taken]
      exact net
    · rw [settled.ports]
      exact answered_pinged bound ((take_port_nbrDev s.dev p q).trans nbr)

end Sys2Proof.Machine

/-! ## The Lockkeeper's commands -/

namespace Sys2Proof.Machine

/-! ### What accesses to memory leave of the mesh (R212, R242, R247)

Writing HBM may send packets, and takes none from the mesh. -/

/-- With no storage error waiting, a change leaves none, and only adds packets to the mesh, behind those that are there. -/
structure Sends (d e : Dev) : Prop where
  adds : d.latent = [] → e.latent = [] ∧ d.fab.net <+: e.fab.net

theorem Sends.of_eq {d e : Dev} (latent : e.latent = d.latent) (net : e.fab.net = d.fab.net) : Sends d e :=
  ⟨fun hl => ⟨latent.trans hl, net ▸ List.prefix_rfl⟩⟩

theorem Sends.self (d : Dev) : Sends d d := .of_eq rfl rfl

theorem Sends.trans {a b c : Dev} (h1 : Sends a b) (h2 : Sends b c) : Sends a c := ⟨fun hl =>
  have ⟨latent1, net1⟩ := h1.adds hl
  have ⟨latent2, net2⟩ := h2.adds latent1
  ⟨latent2, net1.trans net2⟩⟩

/-- A step that does nothing without a storage error. -/
theorem Sends.of_sound {d e : Dev} (h : d.latent = [] → e = d) : Sends d e := ⟨fun hl => h hl ▸ (Sends.self d).adds hl⟩

theorem sends_foldl {α : Type} (f : Dev → α → Dev) (h : ∀ d a, Sends d (f d a)) (l : List α) (d : Dev) : Sends d (l.foldl f d) := by
  induction l generalizing d with
  | nil => exact Sends.self d
  | cons a t ih => exact (h d a).trans (ih _)

section
variable (d : Dev) (k : Clock)

theorem sends_send (p : Packet) : Sends d (d.send p) := ⟨fun hl => ⟨hl, List.prefix_append _ _⟩⟩

theorem sends_sendAll (ps : List Packet) : Sends d (d.sendAll ps) := sends_foldl _ sends_send ps d

theorem sends_updSlice (n : Nat) (f : Slice → Slice) : Sends d (d.updSlice n f) := .of_eq rfl rfl

theorem sends_setSlice (n : Nat) (x : Slice) : Sends d (d.setSlice n x) := .of_eq rfl rfl

theorem sends_bump (w n : Nat) : Sends d (d.bump w n) := .of_eq rfl rfl

theorem sends_charge (n b c : Nat) : Sends d (d.charge k n b c) := by
  unfold Dev.charge
  dsimp only
  split
  · exact Sends.self d
  · exact sends_updSlice ..

theorem sends_meetBurst (src b sec : Nat) : Sends d (d.meetBurst k src b sec) := .of_sound (meetBurst_none d k src b sec)

theorem sends_sliceMeet (n line : Nat) (full reads : List Nat) : Sends d (d.sliceMeet k n line full reads) :=
  .of_sound (sliceMeet_none d k n line full reads)

theorem sends_wcbMeet (n : Nat) (e : Wcb) : Sends d (d.wcbMeet k n e).2 := .of_sound fun hl => by rw [wcbMeet_none d k n e hl]

theorem sends_writeSector (key sec : Nat) (mask : BitVec 32) (v : Nat) (p : Bool) : Sends d (d.writeSector key sec mask v p) := by
  unfold Dev.writeSector
  split
  · exact Sends.self d
  · exact .of_eq rfl rfl

theorem sends_putSectors (key line : Nat) (s : BitVec 4) (data : Line) (p : BitVec 16) : Sends d (d.putSectors key line s data p) :=
  sends_foldl _ (fun d i => by
    split
    · exact sends_writeSector ..
    · exact Sends.self d) _ d

theorem sends_untaintSectors (x : SLine) (s : BitVec 4) : Sends d (d.untaintSectors x s) :=
  sends_foldl _ (fun d i => by
    dsimp only
    split
    · exact .of_eq rfl rfl
    · exact Sends.self d) _ d

/-- A request of a slice's own is noted and sent. -/
theorem sends_sliceOwn (n : Nat) (p : Packet) : Sends d ((d.sliceOwn n p).2.send (d.sliceOwn n p).1) :=
  (sends_setSlice d n _).trans (sends_send ..)

theorem sends_writeMirror (x : SLine) (s : BitVec 4) : Sends d (d.writeMirror x s) := by
  unfold Dev.writeMirror
  dsimp only
  split
  · exact Sends.self d
  · split
    · exact sends_putSectors ..
    · exact sends_sliceOwn ..

theorem sends_writeBack (x : SLine) (s : BitVec 4) : Sends d (d.writeBack k x s) :=
  (((sends_putSectors d ..).trans (sends_charge ..)).trans (sends_untaintSectors ..)).trans (sends_writeMirror ..)

theorem sends_farPut (n line : Nat) (st : LState) (f : SLine) : Sends d (d.farPut n line st f) :=
  (sends_updSlice d n _).trans (sends_send ..)

theorem sends_recallEnd (n : Nat) (r : Recall) : Sends d (d.recallEnd n r) := by
  unfold Dev.recallEnd
  dsimp only
  split
  · exact sends_updSlice ..
  · exact ((sends_updSlice ..).trans (sends_updSlice ..)).trans (sends_farPut ..)

theorem sends_startRecall (n : Nat) (e : DirEntry) (put : Bool) (kept : Option SLine) : Sends d (d.startRecall n e put kept) := by
  unfold Dev.startRecall
  dsimp only
  have called : ∀ (x : Slice) (ps : List Packet), Sends d ((d.setSlice n x).sendAll ps) := fun x ps =>
    (sends_setSlice d n x).trans (sends_sendAll ..)
  split
  · exact (called ..).trans (sends_recallEnd ..)
  · exact called ..

theorem sends_dropFrame (n : Nat) (f : SLine) : Sends d (d.dropFrame k n f) := by
  unfold Dev.dropFrame
  dsimp only
  split
  · exact sends_writeBack ..
  · split
    · split
      · exact Sends.self d
      · exact sends_sliceOwn ..
    · split
      · exact Sends.self d
      · split
        · split
          · exact Sends.self d
          · exact sends_startRecall ..
        · exact (sends_updSlice ..).trans (sends_farPut ..)

theorem sends_victimPush (n : Nat) (f : SLine) : Sends d (d.victimPush k n f) := by
  unfold Dev.victimPush
  dsimp only
  split
  · exact sends_setSlice ..
  · split
    · exact sends_setSlice ..
    · split
      · exact sends_dropFrame ..
      · exact (sends_setSlice ..).trans (sends_dropFrame ..)

theorem sends_insertFrame (n : Nat) (f : SLine) (lru : Bool) : Sends d (d.insertFrame k n f lru) := by
  unfold Dev.insertFrame
  dsimp only
  split
  · exact (sends_setSlice ..).trans (sends_victimPush ..)
  · exact sends_setSlice ..

theorem sends_putFrame (n : Nat) (f : SLine) : Sends d (d.putFrame n f) := by
  unfold Dev.putFrame
  dsimp only
  split <;> exact sends_setSlice ..

theorem sends_sliceFind (n line : Nat) : Sends d (d.sliceFind k n line).2 := by
  unfold Dev.sliceFind
  dsimp only
  split
  · exact sends_setSlice ..
  · split
    · exact (sends_setSlice ..).trans (sends_insertFrame ..)
    · exact Sends.self d

theorem sends_readHbm (key berth line : Nat) (w : BitVec 4) : Sends d (d.readHbm k key berth line w).2.2 := by
  unfold Dev.readHbm
  refine sends_foldl _ (fun d i => ?_) _ d
  split
  · exact (sends_meetBurst d k ..).trans (sends_bump ..)
  · exact Sends.self d

theorem sends_wcbFlush (e : Wcb) : Sends d (d.wcbFlush k e) := by
  unfold Dev.wcbFlush
  have met := sends_wcbMeet d k (d.lineSlice e.line) e
  generalize d.wcbMeet k (d.lineSlice e.line) e = r at met ⊢
  obtain ⟨e', d'⟩ := r
  refine met.trans (sends_foldl _ (fun d i => ?_) _ _)
  dsimp only
  split
  · exact Sends.self d
  · refine Sends.trans ?_ (sends_writeBack ..)
    split
    · exact Sends.self d
    · exact (((sends_meetBurst d k ..).trans (sends_bump ..)).trans (sends_bump ..)).trans (sends_charge ..)

theorem sends_sliceRead (n line berth key mtype mirror : Nat) (want : BitVec 4) (ins : Nat) :
    Sends d (d.sliceRead k n line berth key mtype mirror want ins).2 := by
  unfold Dev.sliceRead
  dsimp only
  have counted := sends_bump d ((if ((d.slice n).unitOf (d.setOfLine line) line).isSome = true then 70 else 71) + 2 * (n / 32)) 1
  generalize d.bump _ 1 = d0 at counted ⊢
  have found := counted.trans ((sends_sliceMeet d0 k n line [] allWords).trans (sends_sliceFind _ k n line))
  generalize (d0.sliceMeet k n line [] allWords).sliceFind k n line = r at found ⊢
  obtain ⟨hit, d1⟩ := r
  refine found.trans ?_
  cases hit with
  | some f =>
    dsimp only
    split
    · exact Sends.self d1
    · exact (sends_readHbm d1 k (keyId berth key) berth line _).trans (sends_putFrame ..)
  | none =>
    refine (sends_readHbm d1 k (keyId berth key) berth line want).trans ?_
    dsimp only
    split
    · exact ((sends_setSlice ..).trans (sends_wcbMeet ..)).trans (sends_insertFrame ..)
    · dsimp only
      split
      · exact Sends.self _
      · exact sends_insertFrame ..

theorem sends_sliceWrite (n line berth key mtype mirror : Nat) (mask : BitVec 128) (data : Line) (poison : BitVec 16) :
    Sends d (d.sliceWrite k n line berth key mtype mirror mask data poison) := by
  unfold Dev.sliceWrite
  have found := (sends_sliceMeet d k n line (maskWords mask).1 (maskWords mask).2).trans (sends_sliceFind _ k n line)
  generalize (d.sliceMeet k n line (maskWords mask).1 (maskWords mask).2).sliceFind k n line = r at found ⊢
  obtain ⟨hit, d⟩ := r
  refine found.trans ?_
  dsimp only
  have fetched : ∀ (c : Nat) (need : BitVec 4), Sends d ((d.charge k n berth c).sliceRead k n line berth key mtype mirror need 0).2 :=
    fun c need => (sends_charge d k n berth c).trans (sends_sliceRead ..)
  split
  · split
    · exact sends_putFrame ..
    · exact (fetched ..).trans (sends_putFrame ..)
  · split
    · split
      · refine Sends.trans ?_ (sends_setSlice ..)
        split
        · exact sends_insertFrame ..
        · exact fetched ..
      · refine Sends.trans ?_ (sends_insertFrame ..)
        split
        · exact sends_insertFrame ..
        · exact fetched ..
    · generalize (d.slice n).wcb.find? (fun e => e.line == line) = old
      cases old with
      | some e =>
        dsimp only
        split
        · exact (sends_setSlice ..).trans (sends_insertFrame ..)
        · exact sends_setSlice ..
      | none =>
        dsimp only
        split
        · exact (sends_setSlice ..).trans (sends_insertFrame ..)
        · split
          · exact sends_setSlice ..
          · split
            · exact (sends_setSlice ..).trans (sends_wcbFlush ..)
            · exact sends_setSlice ..

theorem sends_frameSectors (n line berth key mtype mirror : Nat) (s : BitVec 4) (data : Line) (p : BitVec 16) :
    Sends d (d.frameSectors k n line berth key mtype mirror s data p) := by
  unfold Dev.frameSectors
  split
  · exact Sends.self d
  · split
    · exact sends_sliceWrite ..
    · have found := sends_sliceFind d k n line
      dsimp only
      split
      · exact found.trans (sends_putFrame ..)
      · exact found.trans (sends_insertFrame ..)

theorem sends_drawLocal (n line : Nat) (keep : Bool) : Sends d (d.drawLocal k n line keep) := by
  unfold Dev.drawLocal
  refine sends_foldl _ (fun d c => ?_) _ d
  dsimp only
  split
  · exact Sends.self d
  · exact (sends_frameSectors d k ..).trans (.of_eq rfl rfl)

theorem sends_obtain (n line : Nat) : Sends d (d.obtain k n line).2 := by
  unfold Dev.obtain
  dsimp only
  split
  · exact Sends.self d
  · split
    · exact Sends.self d
    · split
      · split
        · exact sends_startRecall ..
        · exact Sends.self d
      · dsimp only
        exact (sends_drawLocal d k n line false).trans (sends_updSlice ..)

/-- A record that the device writes into own HBM takes no packet from the mesh. -/
theorem sends_poke (berth a : Nat) (bs : List Byte) : Sends d (d.poke k berth a bs) := by
  unfold Dev.poke
  refine sends_foldl _ (fun d ln => ?_) _ d
  exact (sends_obtain d k ..).trans (sends_sliceWrite ..)

end

end Sys2Proof.Machine

namespace Sys2Proof.Machine

/-! ### What a record of ring 0 leaves (R349, R371, R410) -/

/-- Handing out copies of a record changes the wharf alone: its sessions and the packets that it sends. -/
def Delivered (d e : Dev) : Prop := e = { d with whf := e.whf }

theorem Delivered.self (d : Dev) : Delivered d d := rfl

theorem Delivered.trans {a b c : Dev} (h1 : Delivered a b) (h2 : Delivered b c) : Delivered a c := by
  unfold Delivered at *
  rw [h2, h1]

theorem delivered_foldl {α : Type} (f : Dev → α → Dev) (h : ∀ d a, Delivered d (f d a)) (l : List α) (d : Dev) : Delivered d (l.foldl f d) := by
  induction l generalizing d with
  | nil => exact Delivered.self d
  | cons a t ih => exact (h d a).trans (ih _)

section
variable (d : Dev) (k : Clock) (n : Nat)

theorem delivered_updSession (f : Session → Session) : Delivered d (d.updSession n f) := rfl

theorem delivered_hostOut (p : HostPkt) : Delivered d (d.hostOut n p) := by
  unfold Dev.hostOut
  dsimp only
  split <;> rfl

theorem delivered_hostSend (reliable : Bool) (p : HostPkt) : Delivered d (d.hostSend k n reliable p) := by
  unfold Dev.hostSend
  dsimp only
  split
  · exact delivered_hostOut ..
  · split
    · exact delivered_updSession ..
    · exact (delivered_updSession ..).trans (delivered_hostOut ..)

theorem delivered_sendEvent (b : Nat) : Delivered d (d.sendEvent k n b) := by
  unfold Dev.sendEvent
  dsimp only
  split
  · exact Delivered.self d
  · exact (delivered_hostSend ..).trans (delivered_updSession ..)

theorem delivered_fillGaps : Delivered d (d.fillGaps k n) := by
  unfold Dev.fillGaps
  dsimp only
  split
  · exact Delivered.self d
  · exact delivered_updSession ..

theorem delivered_holdFor (v b ring index : Nat) (bytes : BitVec 512) (urgent : Bool) :
    Delivered d (d.holdFor k v n b ring index bytes urgent) := by
  unfold Dev.holdFor
  dsimp only
  split
  · exact delivered_hostSend ..
  · split
    · exact delivered_updSession ..
    · split
      · exact delivered_updSession ..
      · split
        · exact ((delivered_updSession ..).trans (delivered_sendEvent ..)).trans (delivered_fillGaps ..)
        · exact delivered_updSession ..

theorem delivered_deliverRecord (v b r i : Nat) (bytes : BitVec 512) (urgent : Bool) : Delivered d (d.deliverRecord k v b r i bytes urgent) :=
  delivered_foldl _ (fun d n => delivered_holdFor d k n v b r i bytes urgent) _ d

end

/-- What a record in a ring leaves of the keys and of the mesh: every berth's key is the same, and no packet is taken. -/
structure RingKeeps (d e : Dev) : Prop where
  sends : Sends d e
  keyGen : d.latent = [] → ∀ b, (e.berth b).keyGen = (d.berth b).keyGen

theorem RingKeeps.trans {a b c : Dev} (h1 : RingKeeps a b) (h2 : RingKeeps b c) : RingKeeps a c :=
  ⟨h1.sends.trans h2.sends, fun hl x => (h2.keyGen (h1.sends.adds hl).1 x).trans (h1.keyGen hl x)⟩

theorem RingKeeps.of_ctl {d e : Dev} (sends : Sends d e) (ctl : e.ctl = d.ctl) : RingKeeps d e :=
  ⟨sends, fun _ b => by unfold Dev.berth; rw [ctl]⟩

theorem Delivered.ringKeeps {d e : Dev} (h : Delivered d e) : RingKeeps d e :=
  .of_ctl (.of_eq (by rw [h]) (by rw [h])) (by rw [h])

theorem berth_keyGen_updBerth (d : Dev) (b : Nat) {f : Berth → Berth} (h : ∀ x, (f x).keyGen = x.keyGen) (j : Nat) :
    ((d.updBerth b f).berth j).keyGen = (d.berth j).keyGen := by
  rw [Dev.updBerth_berth]
  split
  · next same => rw [h, same]
  · rfl

theorem ringKeeps_updRing (d : Dev) (b r : Nat) (f : Ring → Ring) : RingKeeps d (d.updRing b r f) :=
  ⟨.of_eq rfl rfl, fun _ => berth_keyGen_updBerth d b fun _ => rfl⟩

theorem ringKeeps_poke (d : Dev) (k : Clock) (b a : Nat) (bs : List Byte) : RingKeeps d (d.poke k b a bs) :=
  ⟨sends_poke d k b a bs, fun hl x => by
    unfold Dev.berth
    rw [(stored_poke d k b a bs hl).dev]⟩

theorem ringKeeps_mgmtSend (d : Dev) (p : Packet) : RingKeeps d (d.mgmtSend p) :=
  .of_ctl ⟨fun hl => ⟨hl, List.prefix_append _ _⟩⟩ rfl

theorem ringKeeps_foldl {α : Type} (f : Dev → α → Dev) (h : ∀ d a, RingKeeps d (f d a)) (l : List α) (d : Dev) : RingKeeps d (l.foldl f d) := by
  induction l generalizing d with
  | nil => exact (Delivered.self d).ringKeeps
  | cons a t ih => exact (h d a).trans (ih _)

theorem ringKeeps_writeRing (d : Dev) (k : Clock) (b r : Nat) (bytes : BitVec 512) (urgent : Bool) :
    RingKeeps d (d.writeRing k b r bytes urgent) := by
  unfold Dev.writeRing
  dsimp only
  split
  · exact (Delivered.self d).ringKeeps
  · split
    · exact ringKeeps_updRing ..
    · split
      · exact ringKeeps_updRing ..
      · exact (((ringKeeps_poke d k ..).trans (ringKeeps_updRing ..)).trans (delivered_deliverRecord ..).ringKeeps).trans
          (ringKeeps_foldl _ (fun d x => ringKeeps_mgmtSend d _) _ _)

/-! ### How a command ends (R433) -/

/-- A device on which a command of the Lockkeeper has ended with a status. -/
def Dev.lkpStatus (d : Dev) (c status : Nat) : Dev := { d with lkp := { d.lkp with busy := false, cmd := c, status := status } }

/-- A command's end is its status, and for most a record in ring 0. -/
theorem lkpDone_reported (d : Dev) (k : Clock) (c status : Nat) (hl : d.latent = []) :
    Reported (d.lkpStatus c status) (d.lkpDone k c status) ∧ RingKeeps (d.lkpStatus c status) (d.lkpDone k c status) := by
  unfold Dev.lkpDone
  dsimp only
  split
  · exact ⟨Reported.self _, (Delivered.self _).ringKeeps⟩
  · exact ⟨reported_writeRing (d.lkpStatus c status) k 0 0 _ _ hl, ringKeeps_writeRing (d.lkpStatus c status) k 0 0 _ _⟩

/-- What a state holds once command `c`, whose effect was `d` and `p`, has ended with a status. -/
structure LkpEnded (d : Dev) (p : Perm) (c status : Nat) (t : State) : Prop where
  lkp : t.dev.lkp = (d.lkpStatus c status).lkp
  perm : t.perm = p
  gau : t.dev.gau = d.gau
  keyGen : ∀ b, (t.dev.berth b).keyGen = (d.berth b).keyGen
  mesh : ∀ a ∈ d.fab.net, a ∈ t.dev.fab.net

theorem LkpEnded.done {d : Dev} {p : Perm} {c status : Nat} {t : State} (h : LkpEnded d p c status t) :
    t.dev.lkp.busy = false ∧ t.dev.lkp.cmd = c ∧ t.dev.lkp.status = status := by
  rw [h.lkp]
  exact ⟨rfl, rfl, rfl⟩

/-- A row whose effect comes to the end of a command. -/
theorem onMem_lkpEnds {s : State} {p : Perm} {f : Dev → Dev} {d : Dev} {c status : Nat} (hf : f s.dev = d.lkpDone s.clk c status)
    (calm : Calm d) (sound : d.latent = []) : ∃ t, onMem { s with perm := p } f = .next t ∧ LkpEnded d p c status t := by
  obtain ⟨report, ring⟩ := lkpDone_reported d s.clk c status sound
  obtain ⟨t, ht, settled⟩ := onMem_settles (s := { s with perm := p }) hf (report.calm calm)
  refine ⟨t, ht, ?_, settled.perm, ?_, fun b => ?_, fun a ha => ?_⟩
  · rw [settled.dev, report]
  · rw [settled.dev, report]
    rfl
  · exact (congrArg (fun ctl : Ctl => (mget Berth.reset ctl.berths b).keyGen) settled.ctl).trans (ring.keyGen sound b)
  · rw [settled.net]
    exact (ring.sends.adds sound).2.subset ha

/-! ### When a command runs (R433) -/

section
variable {s : State} {c : Nat} {ok : Dev → Bool} {f : Dev → Dev} (serves : s.dev.lkpServes = true)
include serves

/-- A command that finds another one running only sets overrun. -/
theorem lkpRun_overruns (calm : Calm s.dev) (busy : s.dev.lkp.busy = true) (other : s.dev.lkp.cmd ≠ c) (runs : s.dev.stopped = false) :
    ∃ t, (onMem s fun d => d.lkpRun s.clk c (ok d) f) = .next t ∧
      Settled s { s.dev with lkp := { s.dev.lkp with overrun := true } } t := by
  refine onMem_settles ?_ calm
  simp [Dev.lkpRun, Dev.lkpFree, Dev.lkpTurn, serves, busy, other, runs]

/-- One that is not for the present state ends with WRONG_STATE. -/
theorem lkpRun_wrongState (calm : Calm s.dev) (sound : s.dev.latent = []) (free : s.dev.lkpFree c = true) (wrong : ok s.dev = false) :
    ∃ t, (onMem s fun d => d.lkpRun s.clk c (ok d) f) = .next t ∧ LkpEnded s.dev s.perm c 1 t := by
  refine onMem_lkpEnds ?_ calm sound
  simp [Dev.lkpRun, serves, free, wrong]

/-- One that is runs. -/
theorem lkpRun_runs (k : Clock) {right : Bool} (free : s.dev.lkpFree c = true) (state : right = true) :
    s.dev.lkpRun k c right f = f (s.dev.lkpBegin c) := by
  simp [Dev.lkpRun, serves, free, state]

/-- A command on the NVM that runs ends with the status of its effect. -/
theorem lkpNvm_ends {right : Bool} {g : Dev → Perm → Nat × Dev × Perm} {d : Dev} {p : Perm} {status : Nat}
    (free : s.dev.lkpFree c = true) (state : right = true) (effect : g (s.dev.lkpBegin c) s.perm = (status, d, p)) (calm : Calm d)
    (sound : d.latent = []) : ∃ t, lkpNvm s c right g = .next t ∧ LkpEnded d p c status t := by
  unfold lkpNvm
  simp only [serves, free, state, Bool.and_self, if_true, effect]
  exact onMem_lkpEnds rfl calm sound

end

/-- A command on the NVM that does not run is handled as any other. -/
theorem lkpNvm_held {s : State} {c : Nat} {right : Bool} {g : Dev → Perm → Nat × Dev × Perm} (held : s.dev.lkpFree c = false ∨ right = false) :
    lkpNvm s c right g = onMem s fun d => d.lkpRun s.clk c false fun d => d := by
  unfold lkpNvm
  refine if_neg ?_
  rcases held with h | h <;> simp [h]

end Sys2Proof.Machine

namespace Sys2Proof.Machine

/-! ### Measuring the links again (R326, R330) -/

theorem reported_updPort (d : Dev) (q : Nat) (f : Port → Port) : Reported d (d.updPort q f) := rfl

theorem reported_bump (d : Dev) (w n : Nat) : Reported d (d.bump w n) := rfl

/-- Packing what waits at a port changes ports and counters alone. -/
theorem reported_portPump (port fuel : Nat) (d : Dev) : Reported d (Dev.portPump port fuel d) := by
  induction fuel generalizing d with
  | zero => exact Reported.self d
  | succ n ih =>
    unfold Dev.portPump
    split
    · split
      · exact Reported.self d
      · exact (reported_updPort d port _).trans (ih _)
    · split
      · exact Reported.self d
      · dsimp only
        split
        · exact Reported.self d
        · exact ((reported_updPort d port _).trans (reported_bump ..)).trans (ih _)

theorem reported_linkSend (d : Dev) (port : Nat) (m : LinkMsg) : Reported d (d.linkSend port m) :=
  (reported_updPort d port _).trans (reported_portPump port _ _)

theorem reported_measureLink (d : Dev) (k : Clock) (port : Nat) : Reported d (d.measureLink k port) :=
  (reported_updPort d port _).trans (reported_linkSend _ port _)

/-- Measuring again is noted as under way; besides, it is a report. -/
theorem remeasure_reported (d : Dev) (k : Clock) : ∃ tim, Reported { d with tim := tim } (d.remeasure k) :=
  ⟨_, (reported_foldl _ (fun d q => reported_measureLink d k q) _ _).trans (reported_foldl _ (fun d _ => reported_mgmtSend d _) _ _)⟩

/-! ### The work and the keys that DEBUG_UNLOCK and MARGIN_STACKS end (R226, R354, R441) -/

theorem mget_mmap_listed {α : Type} (dflt : α) {m : List (Nat × α)} {k : Nat} (f : Nat → α → α) (h : mhas m k = true) :
    mget dflt (mmap m f) k = f k (mget dflt m k) := by
  induction m with
  | nil => exact Bool.noConfusion h
  | cons e t ih =>
    obtain ⟨j, v⟩ := e
    by_cases here : j = k
    · subst here
      simp [mmap, mget]
    · have later : mhas t k = true := by simpa [mhas, here] using h
      have past : mget dflt (mmap ((j, v) :: t) f) k = mget dflt (mmap t f) k := if_neg here
      have past' : mget dflt ((j, v) :: t) k = mget dflt t k := if_neg here
      rw [past, past', ih later]

/-- Berth `b` is listed, and its key has had `g` generations. -/
def Dev.KeyAt (d : Dev) (b g : Nat) : Prop := mhas d.ctl.berths b = true ∧ (d.berth b).keyGen = g

theorem newKeys_keyAt {d : Dev} {b g : Nat} (h : d.KeyAt b g) : (d.newKeys.berth b).keyGen = g + 1 := by
  obtain ⟨listed, rfl⟩ := h
  unfold Dev.newKeys Dev.berth
  dsimp only
  rw [mget_mmap_listed _ _ listed]

/-- Ending work is a report that leaves every berth its key. -/
structure EndsWork (d e : Dev) : Prop where
  reported : Reported d e
  keys : ∀ b g, d.KeyAt b g → e.KeyAt b g

theorem EndsWork.trans {a b c : Dev} (h1 : EndsWork a b) (h2 : EndsWork b c) : EndsWork a c :=
  ⟨h1.reported.trans h2.reported, fun x g h => h2.keys x g (h1.keys x g h)⟩

theorem EndsWork.self (d : Dev) : EndsWork d d := ⟨Reported.self d, fun _ _ => id⟩

theorem endsWork_foldl {α : Type} (f : Dev → α → Dev) (h : ∀ d a, EndsWork d (f d a)) (l : List α) (d : Dev) : EndsWork d (l.foldl f d) := by
  induction l generalizing d with
  | nil => exact EndsWork.self d
  | cons a t ih => exact (h d a).trans (ih _)

theorem endsWork_ite_foldl {α : Type} {c : Prop} [Decidable c] {f : Dev → α → Dev} (h : ∀ d a, EndsWork d (f d a)) (l : List α) (d : Dev) :
    EndsWork d (if c then l.foldl f d else d) := by
  split
  · exact endsWork_foldl f h l d
  · exact EndsWork.self d

section
variable (d : Dev)

theorem endsWork_send (p : Packet) : EndsWork d (d.send p) := ⟨rfl, fun _ _ => id⟩

theorem endsWork_updSession (n : Nat) (f : Session → Session) : EndsWork d (d.updSession n f) := ⟨rfl, fun _ _ => id⟩

theorem endsWork_updBerth (b : Nat) {f : Berth → Berth} (h : ∀ x, (f x).keyGen = x.keyGen) : EndsWork d (d.updBerth b f) :=
  ⟨rfl, fun x g ⟨listed, gen⟩ => ⟨by
    show mhas (mput d.ctl.berths b _) x = true
    rw [mhas_mput, listed, Bool.or_true], (berth_keyGen_updBerth d b h x).trans gen⟩⟩

theorem endsWork_tellSub (x : Nat × Nat × Nat) (on : Bool) : EndsWork d (d.tellSub x on) := by
  unfold Dev.tellSub
  split
  · exact EndsWork.self d
  · exact ⟨rfl, fun _ _ => id⟩

theorem endsWork_unsubscribe (n : Nat) (x : Nat × Nat × Nat) : EndsWork d (d.unsubscribe n x) :=
  (endsWork_updSession d n _).trans (endsWork_tellSub ..)

theorem endsWork_whf (w : Wharf) : EndsWork d { d with whf := w } := ⟨rfl, fun _ _ => id⟩

theorem endsWork_endSession (k : Clock) (n reason : Nat) : EndsWork d (d.endSession k n reason) := by
  unfold Dev.endSession
  refine EndsWork.trans ?_ (endsWork_ite_foldl (fun d b => ?grace) _ _)
  case grace =>
    split
    · exact endsWork_updBerth d b fun _ => rfl
    · exact EndsWork.self d
  refine EndsWork.trans ?_ (endsWork_updSession ..)
  refine EndsWork.trans ?_ (endsWork_foldl _ (fun d x => endsWork_unsubscribe d n x) _ _)
  refine EndsWork.trans (endsWork_foldl _ (fun d a => ?_) _ d) (endsWork_whf ..)
  dsimp only
  split <;> exact endsWork_send ..

theorem endsWork_haltWork (k : Clock) : EndsWork d (d.haltWork k) := by
  unfold Dev.haltWork
  refine EndsWork.trans (endsWork_foldl (fun (d : Dev) (e : Nat × Session) => d.endSession k e.1 4) (fun d e => ?_) _ d) ⟨rfl, fun _ _ => id⟩
  exact endsWork_endSession d k e.1 4

/-- Unlocking the debug port gives every berth a new key (R441). -/
theorem unlock_keyGen (k : Clock) {b : Nat} (listed : mhas d.ctl.berths b = true) :
    ((d.unlock k).berth b).keyGen = (d.berth b).keyGen + 1 := by
  have halted := (endsWork_haltWork d k).keys b _ ⟨listed, rfl⟩
  have still : mhas (d.haltWork k).newKeys.ctl.berths b = true := by
    simpa [Dev.newKeys, mhas, mmap, Function.comp_def] using halted.1
  rw [← newKeys_keyAt halted]
  unfold Dev.unlock Dev.dropHbm Dev.berth
  dsimp only
  rw [mget_mmap_listed _ _ still]

end

end Sys2Proof.Machine

namespace Sys2Proof.Machine

/-! ### The commands (R226, R330, R433 to R435, R441) -/

section
variable (d : Dev) (c : Nat)

@[simp] theorem lkpBegin_argOk : (d.lkpBegin c).argOk = d.argOk := rfl
@[simp] theorem lkpBegin_len : (d.lkpBegin c).lkp.len = d.lkp.len := rfl

end

section
variable {s : State} (calm : Calm s.dev) (sound : s.dev.latent = []) (serves : s.dev.lkpServes = true)
include calm sound serves

/-- A command on the NVM that leaves the device alone but for its status. -/
theorem lkpNvm_done {c status : Nat} {right : Bool} {g : Dev → Perm → Nat × Dev × Perm} {p : Perm} (free : s.dev.lkpFree c = true)
    (state : right = true) (effect : g (s.dev.lkpBegin c) s.perm = (status, s.dev.lkpBegin c, p)) :
    ∃ t, lkpNvm s c right g = .next t ∧ (t.dev.lkp.busy = false ∧ t.dev.lkp.cmd = c ∧ t.dev.lkp.status = status) ∧ t.perm = p := by
  obtain ⟨t, ht, ended⟩ := lkpNvm_ends serves free state effect calm sound
  exact ⟨t, ht, ended.done, ended.perm⟩

/-- A command that finds another one running, or the device in Debug. -/
theorem lockkeeperHeld {i : Instr} {c : Nat}
    (listed : (i, c) ∈ [(Instr.maintenanceEnter, 2), (.marginStacks [], 4), (.clearHealth, 5), (.remeasureTime, 8)]) :
    (s.dev.lkp.busy = true → s.dev.lkp.cmd ≠ c → s.dev.stopped = false → ∃ t, exec i s = .next t ∧
      Settled s { s.dev with lkp := { s.dev.lkp with overrun := true } } t) ∧
    (s.dev.lkpFree c = true → s.dev.lkp.st = .debug → ∃ t, exec i s = .next t ∧ LkpEnded s.dev s.perm c 1 t) := by
  have taken : s.dev.lkp.busy = true → s.dev.lkp.cmd ≠ c → s.dev.lkpFree c = false := fun busy other => by
    simp [Dev.lkpFree, busy, other]
  simp only [List.mem_cons, Prod.mk.injEq, List.not_mem_nil, or_false] at listed
  unfold exec
  rcases listed with ⟨rfl, rfl⟩ | ⟨rfl, rfl⟩ | ⟨rfl, rfl⟩ | ⟨rfl, rfl⟩
  case inl | inr.inr.inr =>
    exact ⟨fun busy other => lkpRun_overruns serves calm busy other,
      fun free debug => lkpRun_wrongState serves calm sound free (by simp [debug])⟩
  case inr.inl | inr.inr.inl =>
    refine ⟨fun busy other runs => ?_, fun free debug => ?_⟩
    · obtain ⟨t, ht, settled⟩ := lkpRun_overruns (ok := fun _ => false) (f := id) serves calm busy other runs
      exact ⟨t, (lkpNvm_held (.inl (taken busy other))).trans ht, settled⟩
    · obtain ⟨t, ht, ended⟩ := lkpRun_wrongState (ok := fun _ => false) (f := id) serves calm sound free rfl
      exact ⟨t, (lkpNvm_held (.inr (by simp [debug]))).trans ht, ended⟩

/-- MAINTENANCE_ENTER with no context left to abort. -/
theorem maintenanceEnter_ends (free : s.dev.lkpFree 2 = true) (ready : s.dev.lkp.st = .ready)
    (idle : ∀ e ∈ s.dev.ctl.ctxs, e.2.berth ≠ 0 → e.2.st ≠ .live ∧ e.2.abort = none) :
    ∃ t, exec .maintenanceEnter s = .next t ∧
      LkpEnded { s.dev.lkpBegin 2 with lkp := { (s.dev.lkpBegin 2).lkp with st := .maintenance } } s.perm 2 0 t := by
  have none' : (s.dev.ctl.ctxs.filterMap fun e => if e.2.st = .live ∧ e.2.berth ≠ 0 then some e.1 else none) = [] :=
    List.filterMap_eq_nil_iff.mpr fun e he => if_neg fun ⟨live, berth⟩ => (idle e he berth).1 live
  have settled : (s.dev.ctl.ctxs.any fun e => e.2.berth != 0 && e.2.abort.isSome) = false :=
    List.any_eq_false.mpr fun e he => by
      simp only [Bool.and_eq_true, bne_iff_ne]
      rintro ⟨berth, aborts⟩
      simp [(idle e he berth).2] at aborts
  unfold exec execMaintenanceEnter
  refine onMem_lkpEnds ?_ calm sound
  rw [lkpRun_runs serves _ free (by simp [ready])]
  dsimp only [Dev.lkpBegin]
  rw [none', List.foldl_nil, if_neg (by rw [settled]; decide)]

/-- REMEASURE_TIME at the time root begins to measure. -/
theorem remeasureTime_root (free : s.dev.lkpFree 8 = true) (ready : s.dev.lkp.st = .ready) (root : s.dev.tim.root = s.dev.id) :
    ∃ t, exec .remeasureTime s = .next t ∧ LkpEnded ((s.dev.lkpBegin 8).remeasure s.clk) s.perm 8 0 t := by
  obtain ⟨tim, report⟩ := remeasure_reported (s.dev.lkpBegin 8) s.clk
  unfold exec execRemeasureTime
  refine onMem_lkpEnds ?_ (report.calm calm) (by rw [report]; exact sound)
  rw [lkpRun_runs serves _ free (by simp [ready])]
  exact if_pos root

/-- Elsewhere it asks the root, which it can reach. -/
theorem remeasureTime_asks (free : s.dev.lkpFree 8 = true) (ready : s.dev.lkp.st = .ready) (away : s.dev.tim.root ≠ s.dev.id)
    (near : s.dev.reachable s.dev.tim.root = true) :
    ∃ t, exec .remeasureTime s = .next t ∧ LkpEnded ((s.dev.lkpBegin 8).mgmtSend { Packet.reset with
      op := .mgmtWrite, dst := s.dev.tim.root, tgt := 708, agent := 708, aop := 4, who := s.dev.id }) s.perm 8 0 t := by
  unfold exec execRemeasureTime
  refine onMem_lkpEnds ?_ calm sound
  rw [lkpRun_runs serves _ free (by simp [ready])]
  exact (if_neg away).trans (if_pos near)

theorem remeasureTime_unreachable (free : s.dev.lkpFree 8 = true) (ready : s.dev.lkp.st = .ready) (away : s.dev.tim.root ≠ s.dev.id)
    (far : s.dev.reachable s.dev.tim.root = false) :
    ∃ t, exec .remeasureTime s = .next t ∧ LkpEnded (s.dev.lkpBegin 8) s.perm 8 6 t := by
  unfold exec execRemeasureTime
  refine onMem_lkpEnds ?_ calm sound
  rw [lkpRun_runs serves _ free (by simp [ready])]
  exact (if_neg away).trans (if_neg (ne_true_of_eq_false far))

end

/-- Settles O49: each command runs, or does not, by the lemmas on `lkpRun` and `lkpNvm`; what it leaves is read from `LkpEnded`. -/
theorem lockkeeperCommands : Obligations.LockkeeperCommands := by
  intro s calm sound serves done
  refine ⟨fun i c listed => ?held, fun free ready idle => ?enter, fun xs free maintenance => ?margin, fun free maintenance => ?clear,
    fun img ok free serving => ?firmware, fun m ok free serving => ?manifest, fun free ready => ?time,
    fun sig serial hash free serving len arg => ?consent, fun sig serial hash runs => ?debug⟩
  case held =>
    obtain ⟨overrun, wrong⟩ := lockkeeperHeld calm sound serves listed
    refine ⟨overrun, fun free debug => ?_⟩
    obtain ⟨t, ht, ended⟩ := wrong free debug
    exact ⟨t, ht, ended.done, ended.perm, (congrArg Lkp.st ended.lkp).trans debug⟩
  case enter =>
    obtain ⟨t, ht, ended⟩ := maintenanceEnter_ends calm sound serves free ready idle
    exact ⟨t, ht, ended.done, congrArg Lkp.st ended.lkp, ended.perm⟩
  case margin =>
    obtain ⟨t, ht, ended⟩ : ∃ t, exec (.marginStacks xs) s = .next t ∧ LkpEnded _ _ 4 0 t := by
      unfold exec execMarginStacks
      exact lkpNvm_ends serves free (by simp [maintenance]) rfl calm sound
    refine ⟨t, ht, ended.done, ended.perm, fun b listed => (ended.keyGen b).trans (newKeys_keyAt (d := s.dev) ⟨listed, rfl⟩), ?_⟩
    rintro x rfl
    rw [ended.gau]
    exact List.mem_append_right _ (List.mem_singleton.mpr rfl)
  case clear =>
    obtain ⟨t, ht, ended⟩ : ∃ t, exec .clearHealth s = .next t ∧ LkpEnded _ _ 5 0 t := by
      unfold exec execClearHealth
      exact lkpNvm_ends serves free (by simp [maintenance]) rfl calm sound
    exact ⟨t, ht, ended.done, ended.perm⟩
  case firmware =>
    unfold exec execFwUpdate
    refine ⟨fun bad => lkpNvm_done calm sound serves free serving (by simp [bad]),
      fun good status => lkpNvm_done calm sound serves free serving (by simp [good, status]),
      fun good status => lkpNvm_done calm sound serves free serving ?_⟩
    cases ok <;> simp [good, status]
  case manifest =>
    unfold exec execManifestUpdate
    refine ⟨fun bad => lkpNvm_done calm sound serves free serving (by simp [bad]),
      fun good status => lkpNvm_done calm sound serves free serving (by simp [good, status]),
      fun good status => lkpNvm_done calm sound serves free serving ?_⟩
    cases ok <;> simp [good, status]
  case time =>
    refine ⟨fun root => ?_, fun away near => ?_, fun away far => ?_⟩
    · obtain ⟨t, ht, ended⟩ := remeasureTime_root calm sound serves free ready root
      exact ⟨t, ht, ended.done⟩
    · obtain ⟨t, ht, ended⟩ := remeasureTime_asks calm sound serves free ready away near
      exact ⟨t, _, ht, ended.done, ended.mesh _ (List.mem_append_right _ (List.mem_singleton.mpr rfl)), rfl, rfl, rfl, rfl⟩
    · obtain ⟨t, ht, ended⟩ := remeasureTime_unreachable calm sound serves free ready away far
      exact ⟨t, ht, ended.done⟩
  case consent =>
    refine ⟨fun good same => ?_, fun bad => ?_⟩
    · obtain ⟨t, ht, ended⟩ : ∃ t, exec (.debugConsent sig serial hash) s = .next t ∧
          LkpEnded { s.dev.lkpBegin 9 with lkp := { (s.dev.lkpBegin 9).lkp with consent := some hash } } s.perm 9 0 t := by
        unfold exec execDebugConsent
        exact lkpNvm_ends serves free serving (by simp [len, arg, good, same]) calm sound
      exact ⟨t, ht, ended.done, congrArg Lkp.consent ended.lkp, ended.perm⟩
    · obtain ⟨t, ht, ended⟩ : ∃ t, exec (.debugConsent sig serial hash) s = .next t ∧ LkpEnded (s.dev.lkpBegin 9) s.perm 9 3 t := by
        unfold exec execDebugConsent
        exact lkpNvm_ends serves free serving (by simp [len, arg, bad]) calm sound
      exact ⟨t, ht, ended.done, (congrArg Lkp.consent ended.lkp).trans rfl, ended.perm⟩
  case debug =>
    refine ⟨fun serving good same held => ?_, fun bad => ?_⟩
    · obtain ⟨t, ht, settled⟩ : ∃ t, exec (.debugUnlock sig serial hash) s = .next t ∧ Settled s (s.dev.unlock s.clk) t := by
        unfold exec execDebugUnlock
        exact onMem_settles (if_pos ⟨runs, serving, good, same, held⟩) ((endsWork_haltWork s.dev s.clk).reported.calm calm)
      refine ⟨t, ht, ?_, ?_, ?_, ?_, ?_, settled.net, settled.perm, fun b listed => ?_⟩
      · rw [settled.dev]
        rfl
      · rw [settled.dev]
        rfl
      · exact congrArg Ctl.ctxs settled.ctl
      · exact congrArg Wharf.sessions settled.whf
      · exact congrArg Mem.hbm settled.mem
      · exact (congrArg (fun ctl : Ctl => (mget Berth.reset ctl.berths b).keyGen) settled.ctl).trans (unlock_keyGen s.dev s.clk listed)
    · unfold exec execDebugUnlock
      refine onMem_settles (if_neg ?_) calm
      rintro ⟨-, -, good, same, held⟩
      rcases bad with bad | bad | bad
      · exact Bool.noConfusion (bad.symm.trans good)
      · exact bad same
      · exact bad held

end Sys2Proof.Machine

/-! ## Hosts and storage appliances -/

namespace Sys2Proof

open Sys2Proof.Machine

theorem Settled.session {s t : State} {d : Dev} (h : Settled s d t) (n : Nat) : t.dev.session n = d.session n := by
  unfold Dev.session
  rw [h.whf]

end Sys2Proof

namespace Sys2Proof.Machine

/-! ### One session and what the wharf sends (R335, R342) -/

/-- Writing a value at a key leaves a list that the entries of a map give, if neither the value nor what the map had there adds to it. -/
theorem flatMap_mput {α β : Type} (dflt : α) {m : List (Nat × α)} {n : Nat} {v : α} {g : Nat × α → List β} (new : g (n, v) = [])
    (old : g (n, mget dflt m n) = []) : (mput m n v).flatMap g = m.flatMap g := by
  induction m with
  | nil => simp [mput, new]
  | cons e t ih =>
    obtain ⟨j, w⟩ := e
    rcases Nat.lt_trichotomy n j with before | rfl | after
    · simp [mput, before, new]
    · simp only [mget, if_true] at old
      simp [mput, new, old]
    · have apart : ¬ n < j ∧ ¬ j = n := ⟨by omega, by omega⟩
      simp only [mget, apart, if_false] at old
      simp [mput, apart, ih old]

theorem mget_listed {α : Type} (dflt : α) (m : List (Nat × α)) (n : Nat) : mget dflt m n = dflt ∨ (n, mget dflt m n) ∈ m := by
  induction m with
  | nil => exact .inl rfl
  | cons e t ih =>
    obtain ⟨j, w⟩ := e
    by_cases here : j = n
    · simp [mget, here]
    · simp only [mget, here, if_false]
      exact ih.imp_right (List.mem_cons_of_mem _)

/-- Whether some entry of a map meets a predicate after a write at a key, when the value written meets it as the old one did. -/
theorem any_mput_same {α : Type} (dflt : α) {m : List (Nat × α)} {n : Nat} {v : α} {q : Nat × α → Bool}
    (same : q (n, v) = q (n, mget dflt m n)) (unlisted : q (n, dflt) = false) : (mput m n v).any q = m.any q := by
  induction m with
  | nil => simpa [mput, mget, unlisted] using same
  | cons e t ih =>
    obtain ⟨j, w⟩ := e
    rcases Nat.lt_trichotomy n j with before | rfl | after
    · rcases mget_listed dflt ((j, w) :: t) n with absent | listed
      · simp [mput, before, same, absent, unlisted]
      · have seen : q (n, v) = true → ((j, w) :: t).any q = true := fun met => List.any_eq_true.mpr ⟨_, listed, same ▸ met⟩
        cases met : q (n, v) <;> simp_all [mput]
    · simp only [mget, if_true] at same
      simp [mput, same]
    · have apart : ¬ n < j ∧ ¬ j = n := ⟨by omega, by omega⟩
      simp only [mget, apart, if_false] at same
      simp [mput, apart, ih same]

/-- The device with `x` as its session `n` and, after what it has sent, the packets `ps`. -/
def Dev.withSession (d : Dev) (n : Nat) (x : Session) (ps : List HostPkt) : Dev :=
  { d with whf := { d.whf with sessions := mput d.whf.sessions n x, out := d.whf.out ++ ps } }

section
variable (d : Dev) (n : Nat) (x : Session) (ps : List HostPkt)

theorem updSession_eq (f : Session → Session) : d.updSession n f = d.withSession n (f (d.session n)) [] := by
  simp [Dev.updSession, Dev.withSession]

@[simp] theorem withSession_session (m : Nat) : (d.withSession n x ps).session m = if m = n then x else d.session m := mget_mput ..

theorem withSession_same : (d.withSession n x ps).session n = x := mget_mput_same ..

@[simp] theorem withSession_updSession (f : Session → Session) : (d.withSession n x ps).updSession n f = d.withSession n (f x) ps := by
  simp [Dev.updSession, Dev.withSession, Dev.session, mput_mput]

@[simp] theorem withSession_withSession (y : Session) (qs : List HostPkt) :
    (d.withSession n x ps).withSession n y qs = d.withSession n y (ps ++ qs) := by
  simp [Dev.withSession, mput_mput]

theorem withSession_bridgeFree (k : Clock) (m : Nat) (before : (d.session n).ops.flatMap (fun o => o.parts.map HPart.entry) = [])
    (after : x.ops.flatMap (fun o => o.parts.map HPart.entry) = []) : (d.withSession n x ps).bridgeFree k m = d.bridgeFree k m := by
  have used : (d.withSession n x ps).bridgeUsed = d.bridgeUsed :=
    congrArg (· ++ d.whf.ghosts.map HPart.entry) (flatMap_mput Session.reset after before)
  unfold Dev.bridgeFree
  rw [used]
  rfl

/-- The wharf's own check of an operation reads of its session what binds it. -/
theorem withSession_hostCheck (host : isStorage n = false) (p : HostPkt) (port : x.port = (d.session n).port)
    (berths : x.berths = (d.session n).berths) (windows : x.windows = (d.session n).windows) (closing : x.closing = (d.session n).closing)
    (subs : x.subs = (d.session n).subs) : (d.withSession n x ps).hostCheck n p = d.hostCheck n p := by
  have limit : (d.withSession n x ps).sessLimit n = d.sessLimit n := by
    unfold Dev.sessLimit
    rw [withSession_same, port]
    rfl
  have opened : (d.withSession n x ps).windowOpen n p.op.obj = d.windowOpen n p.op.obj := by
    unfold Dev.windowOpen
    rw [withSession_same, windows, host]
    rfl
  unfold Dev.hostCheck
  dsimp only
  rw [limit, opened, withSession_session, if_pos rfl, berths, windows, closing, subs]
  rfl

end

/-! ### Packets that a session sends (R335, R342) -/

/-- A packet as session `n` puts it on its port (R335, R339). -/
def Session.stamp (x : Session) (n : Nat) (p : HostPkt) : HostPkt :=
  { p with
    session := if isStorage n then 0 else n, port := x.port, addr := x.addr, sport := x.sport, seq := x.txSeq
    ackValid := true, ack := x.rxRseq, iv := x.txIv ++ BitVec.ofNat 64 x.txSeq
    sack := x.staged.foldl (fun (m : BitVec 64) o =>
      let i := (o.rseq + 2 ^ 32 - x.rxRseq - 1) % 2 ^ 32
      if i < 64 then m ||| (1#64 <<< i) else m) 0 }

/-- A session that has sent a packet under the next sequence number. -/
def Session.stamped (x : Session) : Session := { x with txSeq := x.txSeq + 1 }

/-- A session that has sent a reliable packet (R342). -/
def Session.sent (x : Session) (k : Clock) (p : HostPkt) : Session :=
  { x with
    txRseq := (x.txRseq + 1) % 2 ^ 32
    unacked := x.unacked ++ [{ Unacked.reset with rseq := x.txRseq, pkt := { p with reliable := true, rseq := x.txRseq }, sentAt := k.tsc }]
    txSeq := x.txSeq + 1 }

/-- The ACK that a session sends for what it has received (R342). -/
def Session.ackPkt (x : Session) (n : Nat) : HostPkt :=
  x.stamp n { HostPkt.reset with
    typ := 0x13, ack := x.rxRseq, bitmap := x.staged.foldl (fun (m : BitVec 4096) o => m ||| (1#4096 <<< seqAfter o.rseq x.rxRseq)) 0 }

section
variable (x : Session) (n : Nat)

@[simp] theorem stamped_ops : x.stamped.ops = x.ops := rfl
@[simp] theorem stamped_windows : x.stamped.windows = x.windows := rfl
@[simp] theorem stamped_subs : x.stamped.subs = x.subs := rfl
@[simp] theorem stamped_spent : x.stamped.spent = x.spent := rfl
@[simp] theorem ackPkt_ack : (x.ackPkt n).ack = x.rxRseq := rfl

end

section
variable (d : Dev) {n : Nat} {x : Session} (ps : List HostPkt)

theorem withSession_hostOut (room : x.txSeq < 2 ^ 63) (p : HostPkt) :
    (d.withSession n x ps).hostOut n p = d.withSession n x.stamped (ps ++ [x.stamp n p]) := by
  unfold Dev.hostOut
  rw [withSession_same]
  dsimp only
  rw [if_neg (Nat.not_le.mpr room), withSession_updSession]
  simp [Dev.withSession, Session.stamp, Session.stamped]

theorem withSession_sendAck (room : x.txSeq < 2 ^ 63) :
    (d.withSession n x ps).sendAck n = d.withSession n x.stamped (ps ++ [x.ackPkt n]) := by
  unfold Dev.sendAck
  rw [withSession_same]
  exact withSession_hostOut d ps room _

/-- A session with nothing unacknowledged and nothing that waits sends a reliable packet at once. -/
theorem hostSend_sends {d : Dev} {n : Nat} (k : Clock) (room : (d.session n).txSeq < 2 ^ 63) (acked : (d.session n).unacked = [])
    (idle : (d.session n).waitq = []) (afloat : (d.session n).st ≠ .moored) (p : HostPkt) :
    d.hostSend k n true p = d.withSession n ((d.session n).sent k p)
      [(d.session n).stamp n { p with reliable := true, rseq := (d.session n).txRseq }] := by
  have moves : ¬ ((d.session n).windowFull || !(d.session n).waitq.isEmpty || (d.session n).st == .moored) = true := by
    simp [Session.windowFull, acked, idle, afloat]
  unfold Dev.hostSend
  dsimp only
  rw [if_neg (by simp), if_neg moves, updSession_eq]
  exact withSession_hostOut d [] (x := { (d.session n).sent k p with txSeq := (d.session n).txSeq }) room _

theorem withSession_hostSend (k : Clock) (room : x.txSeq < 2 ^ 63) (acked : x.unacked = []) (idle : x.waitq = []) (afloat : x.st ≠ .moored)
    (p : HostPkt) : (d.withSession n x ps).hostSend k n true p =
      d.withSession n (x.sent k p) (ps ++ [x.stamp n { p with reliable := true, rseq := x.txRseq }]) := by
  have same := withSession_same d n x ps
  rw [hostSend_sends k (by rwa [same]) (by rwa [same]) (by rwa [same]) (by rwa [same]), same, withSession_withSession]

end

/-! ### Sessions that have not spent their keys (R339) -/

/-- No session of the wharf has spent its keys. -/
def Unspent (d : Dev) : Prop := ∀ e ∈ d.whf.sessions, e.2.spent = false

theorem Unspent.session {d : Dev} (h : Unspent d) (n : Nat) : (d.session n).spent = false := by
  rcases mget_listed Session.reset d.whf.sessions n with absent | listed
  · exact congrArg Session.spent absent
  · exact h _ listed

theorem Unspent.withSession {d : Dev} (h : Unspent d) (n : Nat) {x : Session} (hx : x.spent = false) (ps : List HostPkt) :
    Unspent (d.withSession n x ps) := fun e he => by
  rcases mem_mput he with rfl | he
  · exact hx
  · exact h e he

theorem endSpent_unspent {d : Dev} (h : Unspent d) (k : Clock) : d.endSpent k = d := by
  unfold Dev.endSpent
  rw [List.filter_eq_nil_iff.mpr fun e he => by simp [h e he]]
  rfl

/-! ### A packet of a session is accepted (R334, R342) -/

/-- A session that has accepted a packet. -/
def Session.seen (x : Session) (p : HostPkt) : Session :=
  { x with rxHigh := max x.rxHigh p.seq, rxSeen := (p.seq :: x.rxSeen).filter fun y => decide (max x.rxHigh p.seq < y + 8192) }

/-- A session that has accepted its next reliable packet, with these operations, windows and subscriptions. -/
def Session.took (x : Session) (p : HostPkt) (ops : List HostOp) (windows : List (Nat × Nat)) (subs : List (Nat × Nat × Nat)) : Session :=
  { x with
    rxHigh := max x.rxHigh p.seq, rxSeen := (p.seq :: x.rxSeen).filter fun y => decide (max x.rxHigh p.seq < y + 8192)
    rxRseq := (x.rxRseq + 1) % 2 ^ 32, staged := [], ops := ops, windows := windows, subs := subs }

section
variable (x : Session) (p : HostPkt) (ops : List HostOp) (windows : List (Nat × Nat)) (subs : List (Nat × Nat × Nat))

@[simp] theorem took_st : (x.took p ops windows subs).st = x.st := rfl
@[simp] theorem took_txSeq : (x.took p ops windows subs).txSeq = x.txSeq := rfl
@[simp] theorem took_spent : (x.took p ops windows subs).spent = x.spent := rfl
@[simp] theorem took_unacked : (x.took p ops windows subs).unacked = x.unacked := rfl
@[simp] theorem took_waitq : (x.took p ops windows subs).waitq = x.waitq := rfl
@[simp] theorem took_winOut : (x.took p ops windows subs).winOut = x.winOut := rfl
@[simp] theorem took_ops : (x.took p ops windows subs).ops = ops := rfl
@[simp] theorem took_windows : (x.took p ops windows subs).windows = windows := rfl
@[simp] theorem took_subs : (x.took p ops windows subs).subs = subs := rfl
@[simp] theorem took_rxRseq : (x.took p ops windows subs).rxRseq = (x.rxRseq + 1) % 2 ^ 32 := rfl

end

/-- A session that has accepted its next reliable packet. -/
abbrev Session.accepted (x : Session) (p : HostPkt) : Session := x.took p x.ops x.windows x.subs

/-- A session that has taken in an acknowledgement: what is acknowledged leaves, and the last of it gives the round trip (R342). -/
def Session.acked (x : Session) (k : Clock) (ack : Nat) (got : List Nat) : Session :=
  let out := fun (u : Unacked) => decide (2 ^ 31 ≤ seqAfter u.rseq ack) || got.contains u.rseq
  { x with
    unacked := x.unacked.filter fun u => !out u
    srtt := match (x.unacked.filter out).getLast?.map fun u => k.tsc - u.sentAt with
      | some r => if x.srtt = 0 then r else (7 * x.srtt + r) / 8
      | none => x.srtt }

theorem acked_none {x : Session} (none' : x.unacked = []) (k : Clock) (ack : Nat) (got : List Nat) : x.acked k ack got = x := by
  unfold Session.acked
  simp only [none', List.filter_nil, List.getLast?_nil, Option.map_none]
  rw [← none']

theorem pumpWaitq_idle {d : Dev} {n : Nat} (idle : (d.session n).waitq = []) (k : Clock) : d.pumpWaitq k n = d := by
  unfold Dev.pumpWaitq
  rw [idle]
  rfl

theorem fillGaps_none {d : Dev} {n : Nat} (full : (d.session n).gapFrom = []) (k : Clock) : d.fillGaps k n = d := by
  unfold Dev.fillGaps
  dsimp only
  rw [full, List.take_nil]
  rfl

/-- A session with nothing that waits, and nothing that is sent again, takes in an acknowledgement. -/
theorem takeAck_quiet (d : Dev) {n : Nat} {x : Session} (ps : List HostPkt) (k : Clock) (ack : Nat) {got : List Nat} (idle : x.waitq = [])
    (full : x.gapFrom = []) (none' : x.unacked = [] ∨ got = []) :
    (d.withSession n x ps).takeAck k n ack got = d.withSession n (x.acked k ack got) ps := by
  have again : (x.unacked.filter fun u => !(decide (2 ^ 31 ≤ seqAfter u.rseq ack) || got.contains u.rseq)).filter
      (fun u => decide (3 ≤ (got.filter fun r => decide (seqAfter r u.rseq < 2 ^ 31)).length)) = [] := by
    rcases none' with none' | none' <;> simp [none']
  unfold Dev.takeAck
  rw [withSession_same]
  dsimp only
  rw [again, List.foldl_nil, withSession_updSession, pumpWaitq_idle, fillGaps_none]
  · rfl
  · simpa using full
  · simpa using idle

theorem seqAfter_self (r : Nat) : seqAfter r r = 0 := by
  unfold seqAfter
  rw [Nat.add_sub_cancel_left, Nat.mod_self]

section
variable {s : State} {n : Nat} {st : SessSt} {p : HostPkt} (k : Clock)

/-- A packet of a host's session, once the port takes it, goes to its session, and no session has spent its keys before. -/
theorem hostReceive_host (h : FromHost s n st p) (carried : p.typ = 0x05 ∨ 0x10 ≤ p.typ) :
    s.dev.hostReceive k p = (s.dev.hostAccept k n p).endSpent k := by
  have plain : p.typ ≠ 0x02 := by omega
  unfold Dev.hostReceive
  rw [h.runs, h.role]
  dsimp only
  rw [if_neg (by simp), if_neg plain, if_pos carried, h.number.1, if_pos h.number.2]

/-- None of the grounds to discard a packet holds (R334, R342). -/
theorem fromHost_passes (h : FromHost s n st p) :
    ¬ ((s.dev.session n).st = .free ∨ ((s.dev.session n).st = .moored ∧ isStorage n = false) ∨ (s.dev.session n).port ≠ p.port ∨
      (s.dev.session n).addr ≠ p.addr ∨ (s.dev.session n).sport ≠ p.sport ∨ p.tagOk = false ∨
      (s.dev.session n).rxSeen.contains p.seq = true ∨ (p.seq + 8192 ≤ (s.dev.session n).rxHigh)) := by
  obtain ⟨own, busy, afloat⟩ := h.state
  obtain ⟨port, addr, sport⟩ := h.place
  obtain ⟨new, recent⟩ := h.fresh
  simp only [own, busy, afloat, port, addr, sport, h.auth, new, ne_eq, not_true_eq_false, false_and, Bool.true_eq_false, Bool.false_eq_true, false_or]
  omega

theorem updSession_seen (d : Dev) (n : Nat) (p : HostPkt) : (d.updSession n fun x => { x with
      rxHigh := max (d.session n).rxHigh p.seq
      rxSeen := (p.seq :: x.rxSeen).filter fun y => decide (max (d.session n).rxHigh p.seq < y + 8192) }) =
    d.withSession n ((d.session n).seen p) [] := updSession_eq ..

/-- A packet behind which none is staged is the last that is delivered. -/
theorem deliver_last {d : Dev} {x : Session} {ps : List HostPkt} {fuel : Nat} (one : fuel = 1) (none' : x.staged = []) :
    Dev.hostDeliver k n fuel (d.withSession n x ps) p =
      (d.withSession n { x with rxRseq := (x.rxRseq + 1) % 2 ^ 32, staged := [] } ps).hostProcess k n p := by
  rw [one]
  unfold Dev.hostDeliver
  rw [withSession_updSession, none']
  dsimp only
  split
  · rfl
  · rfl
  · rfl

/-- The next packet of a session is processed, and acknowledged unless it ends the session. -/
theorem hostAccept_next (h : NextFromHost s n st p) (carried : p.typ = 0x05 ∨ st ≠ .joining) (other : p.typ ≠ 0x14) {e : Dev}
    (processed : (s.dev.withSession n ((s.dev.session n).accepted p) []).hostProcess k n p = e) :
    s.dev.hostAccept k n p = if (e.session n).st = .free then e else e.sendAck n := by
  have ack : ∀ got, (if p.ackValid || p.typ == 0x13 then (s.dev.withSession n ((s.dev.session n).seen p) []).takeAck k n p.ack got
      else s.dev.withSession n ((s.dev.session n).seen p) []) = s.dev.withSession n ((s.dev.session n).seen p) [] := fun got => by
    split
    · rw [takeAck_quiet _ (x := (s.dev.session n).seen p) _ _ _ h.quiet.1 h.quiet.2 (.inl h.acked), acked_none (x := (s.dev.session n).seen p) h.acked]
    · rfl
  have turn : seqAfter p.rseq (s.dev.session n).rxRseq = 0 := by rw [← h.turn.1, seqAfter_self]
  unfold Dev.hostAccept
  dsimp only
  rw [if_neg (fromHost_passes h.toFromHost), updSession_seen, ack, if_neg other, h.reliable, if_neg (by simp), turn,
    if_neg (by simp), if_neg ?_, h.staged, if_neg (by simp), if_pos rfl]
  · rw [deliver_last (fuel := ([] : List HostPkt).length + 1) (x := (s.dev.session n).seen p) k rfl h.staged]
    exact processed ▸ rfl
  · rintro ⟨joining, later, -⟩
    exact carried.elim later fun other => other (h.state.1.symm.trans joining)

/-- A row that brings the next packet of a session comes to what processing it leaves, acknowledged unless it ended the session. -/
theorem next_settles (h : NextFromHost s n st p) {ok : HostPkt → Bool} (due : ok p = true) (carried : p.typ = 0x05 ∨ st ≠ .joining)
    (session : p.typ = 0x05 ∨ 0x10 ≤ p.typ) (other : p.typ ≠ 0x14) {e d : Dev}
    (processed : (s.dev.withSession n ((s.dev.session n).accepted p) []).hostProcess s.clk n p = e)
    (ends : (if (e.session n).st = .free then e else e.sendAck n) = d) (unspent : Unspent d) (calm : Calm d) :
    ∃ t, hostIns ok p s = .next t ∧ Settled s d t := by
  refine onMem_settles ?_ calm
  rw [if_pos due, hostReceive_host s.clk h.toFromHost session, hostAccept_next s.clk h carried other processed, ends, endSpent_unspent unspent]

/-- The next packet of a session that goes on is processed and then acknowledged (R342). -/
theorem next_acknowledged (h : NextFromHost s n st p) {ok : HostPkt → Bool} (due : ok p = true) (carried : p.typ = 0x05 ∨ st ≠ .joining)
    (session : p.typ = 0x05 ∨ 0x10 ≤ p.typ) (other : p.typ ≠ 0x14) {e : Dev} {y : Session} {ps : List HostPkt}
    (processed : (s.dev.withSession n ((s.dev.session n).accepted p) []).hostProcess s.clk n p = e.withSession n y ps)
    (sessions : e.whf.sessions = s.dev.whf.sessions) (goes : y.st ≠ .free) (room : y.txSeq < 2 ^ 63) (own : y.spent = false) (calm : Calm e) :
    ∃ t, hostIns ok p s = .next t ∧ Settled s (e.withSession n y.stamped (ps ++ [y.ackPkt n])) t := by
  have unspent : Unspent e := by
    unfold Unspent
    rw [sessions]
    exact h.keys.1
  refine next_settles h due carried session other processed ?_ (unspent.withSession n (x := y.stamped) own _) calm
  rw [withSession_same, if_neg goes, withSession_sendAck e ps room]

end

end Sys2Proof.Machine

namespace Sys2Proof.Machine

/-! ### Operations of a session (R343, R344) -/

/-- An operation as the wharf takes it, not issued yet. -/
def hostOp (p : HostPkt) : HostOp := { HostOp.reset with rseq := p.rseq, pkt := p }

/-- A session that has taken an operation as its only one. -/
abbrev Session.asked (x : Session) (p : HostPkt) : Session := x.took p [hostOp p] x.windows x.subs

/-- The RESP of an operation without data that is complete (R336, R344). -/
def okResp (o : OpHdr) : HostPkt := { HostPkt.reset with typ := 0x11, op := { o with status := 0, fence := false, bytes := 0, pmap := 0 } }

theorem hostPump_idle {d : Dev} {n : Nat} (issued : ((d.session n).ops.find? fun o => !o.issued) = none) (k : Clock) (fuel : Nat) :
    Dev.hostPump k n fuel d = d := by
  cases fuel with
  | zero => rfl
  | succ fuel =>
    unfold Dev.hostPump
    dsimp only
    rw [issued]

/-- A session whose only operation has been answered. -/
def Session.answered (x : Session) (k : Clock) (p : HostPkt) : Session := { x with ops := [] }.sent k (okResp p.op)

section
variable (x : Session) (k : Clock) (p : HostPkt)

@[simp] theorem answered_st : (x.answered k p).st = x.st := rfl
@[simp] theorem answered_txSeq : (x.answered k p).txSeq = x.txSeq + 1 := rfl
@[simp] theorem answered_spent : (x.answered k p).spent = x.spent := rfl
@[simp] theorem answered_ops : (x.answered k p).ops = [] := rfl
@[simp] theorem answered_windows : (x.answered k p).windows = x.windows := rfl
@[simp] theorem answered_subs : (x.answered k p).subs = x.subs := rfl
@[simp] theorem answered_rxRseq : (x.answered k p).rxRseq = x.rxRseq := rfl

end

/-- The RESP of its only operation as a session sends it. -/
def Session.respPkt (x : Session) (n : Nat) (p : HostPkt) : HostPkt := x.stamp n { okResp p.op with reliable := true, rseq := x.txRseq }

/-- An operation that reads nothing is answered with status OK. -/
theorem hostDone_answers (d : Dev) {n : Nat} {x : Session} (ps : List HostPkt) (k : Clock) {p : HostPkt} (only : x.ops = [hostOp p])
    (room : x.txSeq < 2 ^ 63) (acked : x.unacked = []) (idle : x.waitq = []) (afloat : x.st ≠ .moored) (read : p.op.op ≠ 1 ∧ p.op.op ≠ 3) :
    (d.withSession n x ps).hostDone k n (hostOp p) 0 =
      d.withSession n (x.answered k p) (ps ++ [x.respPkt n p]) := by
  have silent : ((hostOp p).pkt.op.op == 1 || (hostOp p).pkt.op.op == 3) = false := by simpa [hostOp] using read
  have out : [hostOp p].filter (fun y => y.rseq != (hostOp p).rseq) = [] := by simp
  unfold Dev.hostDone
  dsimp only
  rw [withSession_updSession, only, silent, out]
  exact withSession_hostSend d (x := { x with ops := [] }) ps k room acked idle afloat (okResp p.op)

section
variable {s : State} {n o : Nat} {p : HostPkt}

theorem host_notStorage (h : OpFromHost s n o p) : isStorage n = false := by
  simpa [isStorage] using h.number.2

theorem op_pumps (h : OpFromHost s n o p) (k : Clock) :
    (s.dev.withSession n ((s.dev.session n).accepted p) []).hostProcess k n p =
      Dev.hostPump k n 2 (s.dev.withSession n ((s.dev.session n).asked p) []) := by
  have taken : (s.dev.withSession n ((s.dev.session n).accepted p) []).updSession n
      (fun x => { x with ops := x.ops ++ [{ HostOp.reset with rseq := p.rseq, pkt := p }] }) =
      s.dev.withSession n ((s.dev.session n).asked p) [] := by
    rw [withSession_updSession, took_ops, h.alone]
    rfl
  unfold Dev.hostProcess
  rw [h.typ, taken]
  unfold Dev.hostGo
  rw [withSession_same _ _ ((s.dev.session n).asked p)]
  rfl

/-- The wharf's check, which the operation passed on arrival, is passed when it is its turn. -/
theorem asked_checked (h : OpFromHost s n o p) : (s.dev.withSession n ((s.dev.session n).asked p) []).hostCheck n p = none :=
  (withSession_hostCheck s.dev n ((s.dev.session n).asked p) [] (host_notStorage h) p rfl rfl rfl rfl rfl).trans h.checked

section
variable (h : OpFromHost s n o p) (atOnce : 6 ≤ o) {e : Dev} {windows : List (Nat × Nat)} {subs : List (Nat × Nat × Nat)}
  (effect : (s.dev.withSession n ((s.dev.session n).asked p) []).hostLocal n p.op =
    (true, e.withSession n ((s.dev.session n).took p [hostOp p] windows subs) []))
include h atOnce effect

/-- An operation whose turn it is and that uses no fabric has its effect, and its RESP is sent. -/
theorem pump_answers (k : Clock) : Dev.hostPump k n 2 (s.dev.withSession n ((s.dev.session n).asked p) []) =
    e.withSession n (((s.dev.session n).took p [hostOp p] windows subs).answered k p)
      [((s.dev.session n).took p [hostOp p] windows subs).respPkt n p] := by
  have room : (s.dev.session n).txSeq < 2 ^ 63 := Nat.lt_of_le_of_lt (Nat.le_add_right ..) h.keys.2.2
  have found : [hostOp p].find? (fun x => !x.issued) = some (hostOp p) := rfl
  have alone : [hostOp p].any (fun y => y.issued) = false := rfl
  have turn : 6 ≤ (hostOp p).pkt.op.op := h.code ▸ atOnce
  have checked : (s.dev.withSession n ((s.dev.session n).asked p) []).hostCheck n (hostOp p).pkt = none := asked_checked h
  have done : (s.dev.withSession n ((s.dev.session n).asked p) []).hostLocal n (hostOp p).pkt.op = (true, _) := effect
  rw [Dev.hostPump]
  dsimp only
  rw [withSession_same, took_ops, found]
  dsimp only
  rw [alone, Bool.and_false, if_neg Bool.false_ne_true, checked]
  dsimp only
  rw [if_pos turn, done]
  dsimp only
  rw [if_pos rfl, hostDone_answers e (p := p) [] k (took_ops ..) room (by simp [h.acked]) (by simp [h.quiet.1]) (by simp [h.state.1])
    (by rw [h.code]; omega), hostPump_idle]
  · rfl
  · rw [withSession_same, answered_ops]
    rfl

/-- An operation that uses no fabric is answered at once (R344, R349). -/
theorem local_responds {ok : HostPkt → Bool} (due : ok p = true) (whf : e.whf = s.dev.whf) (calm : Calm e) :
    ∃ t, hostIns ok p s = .next t ∧ Responded s t n p ∧ t.dev.fab.net = e.fab.net ∧ (t.dev.session n).ops = [] ∧
      (t.dev.session n).windows = windows ∧ (t.dev.session n).subs = subs ∧
      t.dev.whf.sessions = mput s.dev.whf.sessions n (t.dev.session n) := by
  have room : (s.dev.session n).txSeq + 1 < 2 ^ 63 := Nat.lt_of_le_of_lt (Nat.add_le_add_left (by decide) _) h.keys.2.2
  have rx : (s.dev.session n).rxRseq = p.rseq := h.turn.1.symm
  obtain ⟨t, ht, settled⟩ := next_acknowledged h.toNextFromHost due (.inr SessSt.noConfusion) (.inr (by rw [h.typ])) (by rw [h.typ]; decide)
    ((op_pumps h s.clk).trans (pump_answers h atOnce effect s.clk)) (congrArg Wharf.sessions whf) (by simp [h.state.1])
    (by simpa using room) (by simp [h.keys.2.1]) calm
  have session : t.dev.session n = (((s.dev.session n).took p [hostOp p] windows subs).answered s.clk p).stamped :=
    (settled.session n).trans (withSession_same ..)
  have number : (if isStorage n then 0 else n) = n := by rw [host_notStorage h]; rfl
  refine ⟨t, ht, ⟨((s.dev.session n).took p [hostOp p] windows subs).respPkt n p, (((s.dev.session n).took p [hostOp p] windows subs).answered
    s.clk p).ackPkt n, ?_, rfl, number, rfl, rfl, rfl, rfl, number, ?_⟩, settled.net, ?_, ?_, ?_, ?_⟩
  · rw [settled.whf, ← whf]
    rfl
  · rw [ackPkt_ack, answered_rxRseq, took_rxRseq, rx]
  · rw [session, stamped_ops, answered_ops]
  · rw [session, stamped_windows, answered_windows, took_windows]
  · rw [session, stamped_subs, answered_subs, took_subs]
  · rw [session, settled.whf, ← whf]
    rfl

end

end

/-! ### Windows and subscriptions (R344, R347 to R349) -/

section
variable (d : Dev) (n : Nat) {op : OpHdr}

theorem hostLocal_open (code : op.op = 8) :
    d.hostLocal n op = (true, d.updSession n fun x => { x with windows := mput x.windows op.obj op.bytes }) := by
  unfold Dev.hostLocal
  rw [code]
  rfl

theorem hostLocal_close (code : op.op = 9) (quiet : ∀ a ∈ (d.session n).winOut, a.req.no ≠ op.obj) :
    d.hostLocal n op = (true, d.updSession n fun x => { x with windows := mdel x.windows op.obj }) := by
  unfold Dev.hostLocal
  rw [code]
  exact if_neg (by simpa using quiet)

theorem hostLocal_subscribe (code : op.op = 0xA) : d.hostLocal n op = (true, d.subscribe n (op.device, op.berth, op.obj)) := by
  unfold Dev.hostLocal
  rw [code]
  rfl

theorem hostLocal_unsubscribe (code : op.op = 0xB) : d.hostLocal n op = (true, d.unsubscribe n (op.device, op.berth, op.obj)) := by
  unfold Dev.hostLocal
  rw [code]
  rfl

end

theorem subscribed_iff (d : Dev) (v : Nat × Nat × Nat) : Subscribed d v ↔ (d.whf.sessions.any fun e => e.2.subs.contains v) = true :=
  List.any_eq_true.symm

/-- Who subscribes to a ring is read from the subscriptions of each session. -/
theorem subscribed_mput {d e : Dev} {n : Nat} {x : Session} (put : e.whf.sessions = mput d.whf.sessions n x) (v : Nat × Nat × Nat)
    (same : x.subs = (d.session n).subs) : Subscribed e v ↔ Subscribed d v := by
  rw [subscribed_iff, subscribed_iff, put]
  exact iff_of_eq (congrArg (· = true) (any_mput_same Session.reset (q := fun e => e.2.subs.contains v) (congrArg (List.contains · v) same) rfl))

/-- The device of a ring is told of a change of a subscription, unless it is this device or another session subscribes. -/
theorem tellSub_tells (d : Dev) (n : Nat) (x : Session) (ps : List HostPkt) (v : Nat × Nat × Nat) (on : Bool) :
    ∃ e, (d.withSession n x ps).tellSub v on = e.withSession n x ps ∧ e.whf = d.whf ∧ (Calm d → Calm e) ∧
      ∀ (s t : State) (other : Prop), s.dev = d → t.dev.fab.net = e.fab.net → (Subscribed (d.withSession n x ps) v ↔ other) →
        Told s t v (b2n on) other := by
  by_cases near : v.1 = d.id ∨ Subscribed (d.withSession n x ps) v
  · refine ⟨d, if_pos (near.imp_right (subscribed_iff ..).mp), rfl, id, ?_⟩
    rintro s t other rfl net same
    exact ⟨fun _ => net, fun away none' => absurd near (not_or.mpr ⟨away, mt same.mp none'⟩)⟩
  · refine ⟨d.mgmtSend { Packet.reset with
      op := .mgmtWrite, dst := v.1, tgt := 708, agent := 704, aop := 6, berth := v.2.1, no := v.2.2, cnt := b2n on },
      if_neg (mt (Or.imp_right (subscribed_iff ..).mpr) near), rfl, id, ?_⟩
    rintro s t other rfl net same
    exact ⟨fun near' => absurd (near'.imp_right same.mpr) near, fun _ _ => ⟨_, net, rfl, rfl, rfl, rfl, rfl, rfl⟩⟩

section
variable {s : State} {n : Nat} {p : HostPkt}

/-- WINDOW_OPEN opens the window (R347). -/
theorem windowOpen_responds (h : OpFromHost s n 8 p) : ∃ t, exec (.windowOpen p) s = .next t ∧ Responded s t n p ∧ t.dev.fab.net = s.dev.fab.net ∧
    mget? (t.dev.session n).windows p.op.obj = some p.op.bytes ∧ (t.dev.session n).ops = [] := by
  obtain ⟨t, ht, responded, net, ops, windows, -, -⟩ := local_responds h (by decide)
    ((hostLocal_open _ n h.code).trans (congrArg _ (withSession_updSession ..))) (ok := isOp 8) (by simp [isOp, h.typ, h.code]) rfl h.calm
  refine ⟨t, ht, responded, net, ?_, ops⟩
  rw [windows]
  exact (mget?_mput ..).trans (if_pos rfl)

/-- WINDOW_CLOSE closes the window at once when no access to it is out (R348). -/
theorem windowClose_responds (h : OpFromHost s n 9 p) (quiet : ∀ a ∈ (s.dev.session n).winOut, a.req.no ≠ p.op.obj) :
    ∃ t, exec (.windowClose p) s = .next t ∧ Responded s t n p ∧ t.dev.fab.net = s.dev.fab.net ∧
      mget? (t.dev.session n).windows p.op.obj = none ∧ (t.dev.session n).ops = [] := by
  obtain ⟨t, ht, responded, net, ops, windows, -, -⟩ := local_responds h (by decide)
    ((hostLocal_close _ n h.code (by rw [withSession_same]; exact quiet)).trans (congrArg _ (withSession_updSession ..)))
    (ok := isOp 9) (by simp [isOp, h.typ, h.code]) rfl h.calm
  refine ⟨t, ht, responded, net, ?_, ops⟩
  rw [windows]
  exact mget?_mdel_same ..

/-- SUBSCRIBE adds the ring to the session's subscriptions (R349). -/
theorem subscribe_responds (h : OpFromHost s n 0xA p) : ∃ t, exec (.subscribe p) s = .next t ∧ Responded s t n p ∧
    Told s t (p.op.device, p.op.berth, p.op.obj) 1 (Subscribed s.dev (p.op.device, p.op.berth, p.op.obj)) ∧
    (p.op.device, p.op.berth, p.op.obj) ∈ (t.dev.session n).subs := by
  obtain ⟨e, told, whf, calm, tells⟩ := tellSub_tells s.dev n ((s.dev.session n).asked p) [] (p.op.device, p.op.berth, p.op.obj) true
  obtain ⟨t, ht, responded, net, -, -, subs, -⟩ := local_responds h (by decide)
    ((hostLocal_subscribe _ n h.code).trans (congrArg _ ((congrArg (Dev.updSession · n _) told).trans (withSession_updSession ..))))
    (ok := isOp 0xA) (by simp [isOp, h.typ, h.code]) whf (calm h.calm)
  refine ⟨t, ht, responded, tells s t _ rfl net (subscribed_mput (d := s.dev) (x := (s.dev.session n).asked p) rfl _ rfl), ?_⟩
  rw [subs]
  split
  · next listed => exact List.contains_iff_mem.mp listed
  · exact List.mem_append_right _ (List.mem_singleton.mpr rfl)

/-- UNSUBSCRIBE takes the ring from the session's subscriptions (R349). -/
theorem unsubscribe_responds (h : OpFromHost s n 0xB p) : ∃ t, exec (.unsubscribe p) s = .next t ∧ Responded s t n p ∧
    Told s t (p.op.device, p.op.berth, p.op.obj) 0 (Subscribed t.dev (p.op.device, p.op.berth, p.op.obj)) ∧
    (t.dev.session n).subs = (s.dev.session n).subs.filter fun x => x != (p.op.device, p.op.berth, p.op.obj) := by
  obtain ⟨e, told, whf, calm, tells⟩ := tellSub_tells s.dev n ((s.dev.session n).took p [hostOp p] (s.dev.session n).windows
    ((s.dev.session n).subs.filter fun x => x != (p.op.device, p.op.berth, p.op.obj))) [] (p.op.device, p.op.berth, p.op.obj) false
  obtain ⟨t, ht, responded, net, -, -, subs, sessions⟩ := local_responds h (by decide)
    ((hostLocal_unsubscribe _ n h.code).trans (congrArg _ ((congrArg (Dev.tellSub · _ false) (withSession_updSession ..)).trans told)))
    (ok := isOp 0xB) (by simp [isOp, h.typ, h.code]) whf (calm h.calm)
  refine ⟨t, ht, responded, tells s t _ rfl net (subscribed_mput (n := n) (x := t.dev.session n) ?_ _ ?_).symm, subs⟩
  · rw [sessions]
    exact (mput_mput ..).symm
  · rw [subs, withSession_same, took_subs]

end

end Sys2Proof.Machine

namespace Sys2Proof.Machine

/-! ### Requests that the fabric takes (R309, R315, R343) -/

/-- What taking requests for another device changes: ports, the ports by which requests left, and counters, but not which ports are Up. -/
structure Admitted (d e : Dev) : Prop where
  dev : e = { d with fab := { d.fab with ports := e.fab.ports, left := e.fab.left }, cnt := e.cnt }
  up : ∀ q, (e.port q).st = (d.port q).st ∧ (e.port q).role = (d.port q).role

theorem Admitted.self (d : Dev) : Admitted d d := ⟨rfl, fun _ => ⟨rfl, rfl⟩⟩

theorem Admitted.trans {a b c : Dev} (first : Admitted a b) (second : Admitted b c) : Admitted a c := by
  refine ⟨?_, fun q => ?_⟩
  · rw [second.dev, first.dev]
  · rw [(second.up q).1, (second.up q).2]
    exact first.up q

theorem Admitted.calm {d e : Dev} (h : Admitted d e) (calm : Calm d) : Calm e := by
  rw [h.dev]
  exact calm

theorem Admitted.reachable {d e : Dev} (h : Admitted d e) (v : Nat) : e.reachable v = d.reachable v := by
  have up : e.portUp = d.portUp := funext fun q => by
    unfold Dev.portUp
    rw [(h.up q).1, (h.up q).2]
  unfold Dev.reachable Dev.routed Dev.id
  rw [up, h.dev]

theorem admitted_updPort (d : Dev) (q : Nat) {f : Port → Port} (st : (f (d.port q)).st = (d.port q).st)
    (role : (f (d.port q)).role = (d.port q).role) : Admitted d (d.updPort q f) := by
  refine ⟨rfl, fun j => ?_⟩
  rw [Dev.updPort_port]
  split
  · next same => rw [st, role, same]; exact ⟨rfl, rfl⟩
  · exact ⟨rfl, rfl⟩

theorem admitted_bump (d : Dev) (w n : Nat) : Admitted d (d.bump w n) := ⟨rfl, fun _ => ⟨rfl, rfl⟩⟩

/-- Choosing what a port sends next changes its turns alone. -/
theorem nextOut_port {d : Dev} {x y : Port} {p : Packet} (h : d.nextOut x = some (p, y)) : y.st = x.st ∧ y.role = x.role := by
  have fair : ∀ vc, ∀ r ∈ (d.fairPick x vc 8 x.deficit).map fun r => (r.1, { x with deficit := r.2, bulkTurn := vc == 1 }),
      r.2.st = x.st ∧ r.2.role = x.role := fun vc r hr => by
    obtain ⟨_, -, rfl⟩ := Option.map_eq_some_iff.mp hr
    exact ⟨rfl, rfl⟩
  unfold Dev.nextOut at h
  dsimp only at h
  split at h
  · cases h
    exact ⟨rfl, rfl⟩
  · have either : ∀ a b, Option.or ((d.fairPick x a 8 x.deficit).map fun r => (r.1, { x with deficit := r.2, bulkTurn := a == 1 }))
        ((d.fairPick x b 8 x.deficit).map fun r => (r.1, { x with deficit := r.2, bulkTurn := b == 1 })) = some (p, y) →
        y.st = x.st ∧ y.role = x.role := fun a b hab => by
      rcases Option.or_eq_some_iff.mp hab with ha | ⟨-, hb⟩
      · exact fair a _ ha
      · exact fair b _ hb
    split at h
    · exact either _ _ h
    · exact either _ _ h

theorem portPump_admitted (port fuel : Nat) (d : Dev) : Admitted d (Dev.portPump port fuel d) := by
  induction fuel generalizing d with
  | zero => exact Admitted.self d
  | succ fuel ih =>
    unfold Dev.portPump
    split
    · split
      · exact Admitted.self d
      · exact (admitted_updPort d port rfl rfl).trans (ih _)
    · split
      · exact Admitted.self d
      · next p x next' =>
        dsimp only
        split
        · exact Admitted.self d
        · obtain ⟨st, role⟩ := nextOut_port next'
          refine Admitted.trans ?_ (ih _)
          refine Admitted.trans (admitted_updPort d port ?_ ?_) (admitted_bump ..)
          · exact st
          · exact role

/-- A request for another device that can be reached leaves by its port when it has the credit. -/
theorem admitOne_away {d e : Dev} {p : Packet} (away : p.dst ≠ d.id) (near : d.reachable p.dst = true) (h : d.admitOne p = some e) :
    Admitted d e := by
  unfold Dev.admitOne at h
  rw [if_neg (by simp [away, near])] at h
  obtain ⟨x, -, rfl⟩ := Option.map_eq_some_iff.mp h
  have left : Admitted d (d.noteLeft p x.1) := by
    unfold Dev.noteLeft
    split
    · exact ⟨rfl, fun _ => ⟨rfl, rfl⟩⟩
    · exact Admitted.self d
  exact left.trans ((admitted_updPort _ x.1 rfl rfl).trans (portPump_admitted ..))

theorem admitAll_away {v : Nat} {ps : List Packet} {d e : Dev} (dst : ∀ p ∈ ps, p.dst = v) (away : v ≠ d.id) (near : d.reachable v = true)
    (h : d.admitAll ps = some e) : Admitted d e := by
  induction ps generalizing d with
  | nil =>
    cases h
    exact Admitted.self _
  | cons p ps ih =>
    obtain ⟨d', one, rest⟩ := Option.bind_eq_some_iff.mp h
    have first : Admitted d d' := admitOne_away (dst p (List.mem_cons_self ..) ▸ away) (dst p (List.mem_cons_self ..) ▸ near) one
    have same : d'.id = d.id := by
      unfold Dev.id
      rw [first.dev]
    exact first.trans (ih (fun q hq => dst q (List.mem_cons_of_mem _ hq)) (same ▸ away) ((first.reachable v).trans near) rest)

/-- Requests for this device enter the mesh. -/
theorem admitAll_here {ps : List Packet} {d : Dev} (dst : ∀ p ∈ ps, p.dst = d.id) : d.admitAll ps = some (d.sendAll ps) := by
  induction ps generalizing d with
  | nil => rfl
  | cons p ps ih =>
    have one : d.admitOne p = some (d.send p) := if_pos (.inl (dst p (List.mem_cons_self ..)))
    unfold Dev.admitAll
    rw [List.foldlM_cons, one]
    exact ih fun q hq => dst q (List.mem_cons_of_mem _ hq)

theorem sendAll_eq (d : Dev) (ps : List Packet) :
    d.sendAll ps = { d with fab := { d.fab with net := d.fab.net ++ ps.map fun p => { p with via := none, esc := false } } } := by
  induction ps generalizing d with
  | nil => simp [Dev.sendAll]
  | cons p ps ih =>
    unfold Dev.sendAll at ih ⊢
    rw [List.foldl_cons, ih]
    simp [Dev.send]

/-! The fabric takes requests without regard to the wharf's sessions. -/

section
variable (d : Dev) (n : Nat) (x : Session) (ps : List HostPkt)

theorem withSession_fairPick (y : Port) (vc fuel : Nat) (def' : List (Nat × Int)) :
    (d.withSession n x ps).fairPick y vc fuel def' = d.fairPick y vc fuel def' := by
  induction fuel generalizing def' with
  | zero => rfl
  | succ fuel ih =>
    unfold Dev.fairPick
    dsimp only
    simp only [ih]
    rfl

theorem withSession_nextOut (y : Port) : (d.withSession n x ps).nextOut y = d.nextOut y := by
  unfold Dev.nextOut
  simp only [withSession_fairPick]

theorem withSession_portPump (port fuel : Nat) :
    Dev.portPump port fuel (d.withSession n x ps) = (Dev.portPump port fuel d).withSession n x ps := by
  induction fuel generalizing d with
  | zero => rfl
  | succ fuel ih =>
    have next : ∀ e e' : Dev, e = e'.withSession n x ps → Dev.portPump port fuel e = (Dev.portPump port fuel e').withSession n x ps :=
      fun _ e' same => same ▸ ih e'
    unfold Dev.portPump
    have port' : (d.withSession n x ps).port port = d.port port := rfl
    rw [port', withSession_nextOut]
    split
    · split
      · rfl
      · exact next _ _ rfl
    · split
      · rfl
      · dsimp only
        split
        · rfl
        · exact next _ _ rfl

theorem withSession_toPort (port : Nat) (p : Packet) :
    (d.withSession n x ps).toPort port p = (d.toPort port p).withSession n x ps := by
  have up : ∀ f, (d.withSession n x ps).updPort port f = (d.updPort port f).withSession n x ps := fun _ => rfl
  unfold Dev.toPort Dev.pumpPort
  dsimp only
  rw [up]
  exact withSession_portPump ..

theorem withSession_admitOne (p : Packet) :
    (d.withSession n x ps).admitOne p = (d.admitOne p).map fun e => e.withSession n x ps := by
  have left : ∀ q, (d.withSession n x ps).noteLeft p q = (d.noteLeft p q).withSession n x ps := fun q => by
    unfold Dev.noteLeft
    split <;> rename_i mine
    · exact (if_pos mine).symm ▸ rfl
    · exact (if_neg mine).symm ▸ rfl
  have port : ∀ q, (d.withSession n x ps).choosePort q = d.choosePort q := fun _ => rfl
  have here : (d.withSession n x ps).id = d.id := rfl
  have reach : (d.withSession n x ps).reachable p.dst = d.reachable p.dst := rfl
  unfold Dev.admitOne
  rw [port, here, reach]
  split
  · rfl
  · rw [Option.map_map]
    refine Option.map_congr fun r _ => ?_
    rw [left]
    exact withSession_toPort ..

theorem withSession_admitAll (qs : List Packet) :
    (d.withSession n x ps).admitAll qs = (d.admitAll qs).map fun e => e.withSession n x ps := by
  induction qs generalizing d with
  | nil => rfl
  | cons q qs ih =>
    unfold Dev.admitAll at ih ⊢
    rw [List.foldlM_cons, List.foldlM_cons, withSession_admitOne]
    cases d.admitOne q with
    | none => rfl
    | some e => exact ih e

end

/-! ### Operations that use the fabric (R344) -/

/-- A session whose only operation is issued as these requests. -/
abbrev Session.issued (x : Session) (p : HostPkt) (parts : List HPart) : Session :=
  x.took p [{ hostOp p with issued := true, parts := parts }] x.windows x.subs

section
variable {s : State} {n o : Nat} {p : HostPkt}

/-- A register operation or a doorbell is one management request. -/
theorem hostRequests_register (d : Dev) (n : Nat) {p : HostPkt} (form : p.op.form = 0) (es : List Nat) :
    ∃ a, (d.hostRequests n p es).map HPart.req = [a] ∧ a.op = (if p.op.op = 1 then .mgmtRead else .mgmtWrite) ∧ a.dst = p.op.device ∧
      a.off = p.op.addr ∧ a.cnt = p.op.bytes ∧ a.berth = p.op.berth ∧
      a.data = (if p.op.op = 1 then [] else [BitVec.ofNat 64 (natOf p.data)]) ∧ a.via = none ∧ a.esc = false := by
  unfold Dev.hostRequests
  dsimp only
  rw [if_pos form]
  exact ⟨_, rfl, rfl, rfl, rfl, rfl, rfl, rfl, rfl, rfl⟩

/-- A memory operation is a bulk request for each of its lines. -/
theorem hostRequests_memory (d : Dev) (n : Nat) {p : HostPkt} (form : p.op.form ≠ 0) (es : List Nat) :
    ∀ a ∈ (d.hostRequests n p es).map HPart.req, a.op = (if p.op.op = 3 then .bulkRead else .bulkWrite) ∧ a.dst = p.op.device ∧
      a.berth = p.op.berth ∧ a.via = none ∧ a.esc = false := by
  unfold Dev.hostRequests
  dsimp only
  rw [if_neg form, List.map_map]
  intro a ha
  obtain ⟨x, -, rfl⟩ := List.mem_map.mp ha
  exact ⟨rfl, rfl, rfl, rfl, rfl⟩

/-- Every request of an operation goes to its device, and holds no slot of a receive buffer. -/
theorem hostRequests_dst (d : Dev) (n : Nat) (p : HostPkt) (es : List Nat) :
    ∀ a ∈ (d.hostRequests n p es).map HPart.req, a.dst = p.op.device ∧ a.via = none ∧ a.esc = false := by
  by_cases form : p.op.form = 0
  · obtain ⟨a, only, -, dst, -, -, -, -, via, esc⟩ := hostRequests_register d n form es
    rw [only]
    intro b hb
    rw [List.mem_singleton.mp hb]
    exact ⟨dst, via, esc⟩
  · intro a ha
    obtain ⟨-, dst, -, via, esc⟩ := hostRequests_memory d n form es a ha
    exact ⟨dst, via, esc⟩

/-- What an operation's requests leave once the fabric has taken them: those for this device are in the mesh. -/
theorem admitAll_requests {d : Dev} {es : List Nat} (near : d.reachable p.op.device = true)
    (credit : p.op.device = d.id ∨ (d.admitAll ((d.hostRequests n p es).map HPart.req)).isSome = true) :
    ∃ e, d.admitAll ((d.hostRequests n p es).map HPart.req) = some e ∧ e.whf = d.whf ∧ e.mem = d.mem ∧ e.cores = d.cores ∧ (Calm d → Calm e) ∧
      e.fab.net = d.fab.net ++ if p.op.device = d.id then (d.hostRequests n p es).map HPart.req else [] := by
  have dst := hostRequests_dst d n p es
  by_cases here : p.op.device = d.id
  · refine ⟨_, admitAll_here fun a ha => (dst a ha).1.trans here, ?_⟩
    have plain : ((d.hostRequests n p es).map HPart.req).map (fun a => { a with via := none, esc := false }) =
        (d.hostRequests n p es).map HPart.req := by
      refine (List.map_congr_left fun a ha => ?_).trans (List.map_id _)
      obtain ⟨-, via, esc⟩ := dst a ha
      rw [← via, ← esc]
      rfl
    rw [sendAll_eq, plain, if_pos here]
    exact ⟨rfl, rfl, rfl, id, rfl⟩
  · obtain ⟨e, taken⟩ := Option.isSome_iff_exists.mp (credit.resolve_left here)
    have admitted := admitAll_away (fun a ha => (dst a ha).1) here near taken
    rw [if_neg here, List.append_nil]
    refine ⟨e, taken, ?_, ?_, ?_, admitted.calm, ?_⟩ <;> rw [admitted.dev]

/-- An operation that passes the wharf's check has the form that its code asks for (R336, R345). -/
theorem hostCheck_formed {d : Dev} (h : d.hostCheck n p = none) : badOp n (d.sessLimit n) p = false := by
  refine Bool.eq_false_iff.mpr fun bad => ?_
  unfold Dev.hostCheck at h
  rw [if_pos bad] at h
  cases h

/-- The wharf passes an operation of the fabric only to a device that it can reach (R345). -/
theorem hostCheck_reachable {d : Dev} (h : d.hostCheck n p = none) (fabric : p.op.op ≤ 5) : d.reachable p.op.device = true := by
  by_contra far
  unfold Dev.hostCheck at h
  dsimp only at h
  split_ifs at h with _ _ _ _ _ _ _ _ _ _ reached
  · omega
  · omega
  · exact reached ⟨fabric, Bool.eq_false_iff.mpr far⟩

theorem register_form {d : Dev} (h : d.hostCheck n p = none) (code : p.op.op = 1 ∨ p.op.op = 2 ∨ p.op.op = 5) : p.op.form = 0 := by
  have formed := hostCheck_formed h
  unfold badOp at formed
  rcases code with code | code | code <;> simp [code] at formed <;> tauto

theorem memory_form {d : Dev} (h : d.hostCheck n p = none) (code : p.op.op = 3 ∨ p.op.op = 4) : p.op.form ≠ 0 := by
  have formed := hostCheck_formed h
  unfold badOp at formed
  rcases code with code | code <;> simp [code] at formed <;> omega

/-- An operation of the fabric whose turn it is, and whose requests the fabric takes, is issued. -/
theorem pump_issues (h : OpFromHost s n o p) (fabric : o ≤ 5) (k : Clock) {es : List Nat} (free : s.dev.bridgeFree k (hostParts p.op) = some es)
    {e : Dev} (taken : s.dev.admitAll ((s.dev.hostRequests n p es).map HPart.req) = some e) :
    Dev.hostPump k n 2 (s.dev.withSession n ((s.dev.session n).asked p) []) =
      e.withSession n ((s.dev.session n).issued p (s.dev.hostRequests n p es)) [] := by
  have found : ((s.dev.session n).asked p).ops.find? (fun x => !x.issued) = some (hostOp p) := rfl
  have alone : ((s.dev.session n).asked p).ops.any (fun y => y.issued) = false := rfl
  have checked : (s.dev.withSession n ((s.dev.session n).asked p) []).hostCheck n (hostOp p).pkt = none := asked_checked h
  have remote : ¬ 6 ≤ (hostOp p).pkt.op.op := by
    show ¬ 6 ≤ p.op.op
    rw [h.code]
    omega
  have buffers : (s.dev.withSession n ((s.dev.session n).asked p) []).bridgeFree k (hostParts (hostOp p).pkt.op) = some es :=
    (withSession_bridgeFree s.dev n ((s.dev.session n).asked p) [] k _ (by rw [h.alone]; rfl) rfl).trans free
  have marked : ∀ f : HostOp → HostOp, (s.dev.withSession n ((s.dev.session n).asked p) []).updHostOp n (hostOp p).rseq f =
      s.dev.withSession n ((s.dev.session n).took p [f (hostOp p)] (s.dev.session n).windows (s.dev.session n).subs) [] := fun f => by
    unfold Dev.updHostOp
    have only : [hostOp p].map (fun x => if x.rseq = (hostOp p).rseq then f x else x) = [f (hostOp p)] := by simp
    exact (withSession_updSession ..).trans (congrArg (fun l => s.dev.withSession n ((s.dev.session n).took p l _ _) []) only)
  rw [Dev.hostPump]
  dsimp only
  rw [withSession_same, found]
  dsimp only
  rw [alone, Bool.and_false, if_neg Bool.false_ne_true, checked]
  dsimp only
  rw [if_neg remote, buffers]
  dsimp only
  rw [marked, withSession_admitAll]
  have same : s.dev.admitAll (((s.dev.withSession n ((s.dev.session n).asked p) []).hostRequests n (hostOp p).pkt es).map HPart.req) = some e := taken
  rw [same]
  dsimp only [Option.map_some]
  rw [hostPump_idle]
  · rfl
  · rw [withSession_same]
    rfl

/-- An operation of the fabric is issued as its requests (R343, R344). -/
theorem fabric_issues (h : OpFromHost s n o p) (fabric : o ≤ 5) {es : List Nat} (free : s.dev.bridgeFree s.clk (hostParts p.op) = some es)
    (credit : p.op.device = s.dev.id ∨ (s.dev.admitAll ((s.dev.hostRequests n p es).map HPart.req)).isSome = true)
    {ok : HostPkt → Bool} (due : ok p = true) : ∃ t, hostIns ok p s = .next t ∧
      t.dev.fab.net = s.dev.fab.net ++ (if p.op.device = s.dev.id then (s.dev.hostRequests n p es).map HPart.req else []) ∧
      t.dev.mem = s.dev.mem ∧ t.dev.cores = s.dev.cores ∧
      ∃ x, (t.dev.session n).ops = [x] ∧ x.issued = true ∧ x.pkt = p ∧ x.parts = s.dev.hostRequests n p es := by
  obtain ⟨e, taken, whf, mem, cores, calm, net⟩ := admitAll_requests (hostCheck_reachable h.checked (h.code ▸ fabric)) credit
  have room : (s.dev.session n).txSeq < 2 ^ 63 := Nat.lt_of_le_of_lt (Nat.le_add_right ..) h.keys.2.2
  obtain ⟨t, ht, settled⟩ := next_acknowledged h.toNextFromHost due (.inr SessSt.noConfusion) (.inr (by rw [h.typ])) (by rw [h.typ]; decide)
    ((op_pumps h s.clk).trans (pump_issues h fabric s.clk free taken)) (congrArg Wharf.sessions whf) (by simp [h.state.1])
    (by simpa using room) (by simp [h.keys.2.1]) (calm h.calm)
  refine ⟨t, ht, settled.net.trans net, settled.mem.trans mem, settled.cores.trans cores,
    { hostOp p with issued := true, parts := s.dev.hostRequests n p es }, ?_, rfl, rfl, rfl⟩
  rw [settled.session, withSession_same, stamped_ops, took_ops]

end

/-- Settles O34: an operation of the fabric is issued as its requests, the others are answered at once. -/
theorem hostOperations : Obligations.HostOperations := by
  intro s n p
  refine ⟨fun es free credit => ⟨fun h => ⟨?_, ?_⟩, fun h => ⟨?_, ?_⟩, fun h => ⟨?_, ?_⟩, fun h => ⟨?_, ?_⟩, fun h => ⟨?_, ?_⟩⟩,
    windowOpen_responds, windowClose_responds, subscribe_responds, unsubscribe_responds⟩
  · exact fabric_issues h (by decide) free credit (by simp [isOp, h.typ, h.code])
  · obtain ⟨a, only, op, dst, off, cnt, berth, -⟩ := hostRequests_register s.dev n (register_form h.checked (.inl h.code)) es
    exact ⟨a, only, op.trans (if_pos h.code), dst, off, cnt, berth⟩
  · exact fabric_issues h (by decide) free credit (by simp [isOp, h.typ, h.code])
  · obtain ⟨a, only, op, dst, off, -, -, data, -⟩ := hostRequests_register s.dev n (register_form h.checked (.inr (.inl h.code))) es
    exact ⟨a, only, op.trans (if_neg (by rw [h.code]; decide)), dst, off, data.trans (if_neg (by rw [h.code]; decide))⟩
  · exact fabric_issues h (by decide) free credit (by simp [isOp, h.typ, h.code])
  · obtain ⟨a, only, op, dst, off, -, -, data, -⟩ := hostRequests_register s.dev n (register_form h.checked (.inr (.inr h.code))) es
    exact ⟨a, only, op.trans (if_neg (by rw [h.code]; decide)), dst, off, data.trans (if_neg (by rw [h.code]; decide))⟩
  · exact fabric_issues h (by decide) free credit (by simp [isOp, h.typ, h.code])
  · intro a ha
    obtain ⟨op, dst, berth, -⟩ := hostRequests_memory s.dev n (memory_form h.checked (.inl h.code)) es a ha
    exact ⟨op.trans (if_pos h.code), dst, berth⟩
  · exact fabric_issues h (by decide) free credit (by simp [isOp, h.typ, h.code])
  · intro a ha
    obtain ⟨op, dst, berth, -⟩ := hostRequests_memory s.dev n (memory_form h.checked (.inr h.code)) es a ha
    exact ⟨op.trans (if_neg (by rw [h.code]; decide)), dst, berth⟩

end Sys2Proof.Machine

namespace Sys2Proof.Machine

/-! ### The end of a session (R348, R354, R412) -/

/-- What the end of session `n` leaves of the others, of their keys and of the ports. -/
structure LeavesOthers (n : Nat) (d e : Dev) : Prop where
  others : ∀ m, m ≠ n → e.session m = d.session m
  unspent : Unspent d → Unspent e
  ports : e.whf.netPorts = d.whf.netPorts

theorem LeavesOthers.trans {n : Nat} {a b c : Dev} (first : LeavesOthers n a b) (second : LeavesOthers n b c) : LeavesOthers n a c :=
  ⟨fun m hm => (second.others m hm).trans (first.others m hm), fun h => second.unspent (first.unspent h), second.ports.trans first.ports⟩

theorem leavesOthers_of_sessions {n : Nat} {d e : Dev} (h : e.whf.sessions = d.whf.sessions) (ports : e.whf.netPorts = d.whf.netPorts) :
    LeavesOthers n d e := by
  refine ⟨fun m _ => ?_, fun unspent => ?_, ports⟩
  · unfold Dev.session
    rw [h]
  · unfold Unspent
    rw [h]
    exact unspent

theorem leavesOthers_of_whf {n : Nat} {d e : Dev} (h : e.whf = d.whf) : LeavesOthers n d e :=
  leavesOthers_of_sessions (congrArg Wharf.sessions h) (congrArg Wharf.netPorts h)

theorem leavesOthers_updSession (n : Nat) (d : Dev) {f : Session → Session} (h : ∀ x, x.spent = false → (f x).spent = false) :
    LeavesOthers n d (d.updSession n f) := by
  rw [updSession_eq]
  refine ⟨fun m hm => ?_, fun unspent => unspent.withSession n (h _ (unspent.session n)) [], rfl⟩
  rw [withSession_session, if_neg hm]

theorem leavesOthers_foldl {α : Type} {n : Nat} (f : Dev → α → Dev) (h : ∀ d a, LeavesOthers n d (f d a)) (l : List α) (d : Dev) :
    LeavesOthers n d (l.foldl f d) := by
  induction l generalizing d with
  | nil => exact leavesOthers_of_whf rfl
  | cons a t ih => exact (h d a).trans (ih _)

theorem tellSub_whf (d : Dev) (v : Nat × Nat × Nat) (on : Bool) : (d.tellSub v on).whf = d.whf := by
  unfold Dev.tellSub
  split <;> rfl

theorem leavesOthers_unsubscribe (n : Nat) (d : Dev) (v : Nat × Nat × Nat) : LeavesOthers n d (d.unsubscribe n v) := by
  refine LeavesOthers.trans ?_ (leavesOthers_of_whf (tellSub_whf ..))
  exact leavesOthers_updSession n d fun _ => id

/-- Steps that some condition calls for, and that leave the wharf, leave the wharf. -/
theorem ite_foldl_whf {α : Type} {c : Prop} [Decidable c] {f : Dev → α → Dev} (h : ∀ d a, (f d a).whf = d.whf) (l : List α) (d : Dev) :
    (if c then l.foldl f d else d).whf = d.whf := by
  split
  · exact foldl_keeps Dev.whf f h l d
  · rfl

/-- A session as its end leaves it: its slot is Free, and why it ended is kept if it had begun (R354, R357). -/
def Session.ended (x : Session) (k : Clock) (reason : Nat) : Session :=
  { Session.reset with endAt := some k.tsc, lastEnd := if x.st == .active || x.st == .moored then reason else x.lastEnd }

section
variable (d : Dev) (k : Clock) (n reason : Nat)

theorem endSession_session : (d.endSession k n reason).session n = (d.session n).ended k reason := by
  have put : ∀ {e : Dev} {w : Wharf}, e.whf = w → e.session n = mget Session.reset w.sessions n := fun h =>
    congrArg (fun w : Wharf => mget _ w.sessions n) h
  unfold Dev.endSession
  dsimp only
  rw [put (ite_foldl_whf (fun e b => by split <;> rfl) ..)]
  exact mget_mput_same ..

theorem endSession_leaves : LeavesOthers n d (d.endSession k n reason) := by
  unfold Dev.endSession
  dsimp only
  refine LeavesOthers.trans ?_ (leavesOthers_of_whf (ite_foldl_whf (fun e b => by split <;> rfl) ..))
  refine LeavesOthers.trans ?_ (leavesOthers_updSession n _ fun _ _ => rfl)
  refine LeavesOthers.trans ?_ (leavesOthers_foldl _ (leavesOthers_unsubscribe n) _ _)
  refine LeavesOthers.trans (leavesOthers_foldl _ (fun e a => ?_) (d.session n).winOut d) (leavesOthers_of_sessions rfl rfl)
  split <;> exact leavesOthers_of_whf rfl

end

theorem endSession_calm {d : Dev} (calm : Calm d) (k : Clock) (n reason : Nat) : Calm (d.endSession k n reason) :=
  (endsWork_endSession d k n reason).reported.calm calm

end Sys2Proof.Machine

namespace Sys2Proof.Machine

/-! ### Sessions begin (R339, R341, R347) -/

section
variable (x : Session) (wharf : Bool) (t : BitVec 512)

@[simp] theorem deriveKeys_st : (x.deriveKeys wharf t).st = x.st := rfl
@[simp] theorem deriveKeys_berths : (x.deriveKeys wharf t).berths = x.berths := rfl
@[simp] theorem deriveKeys_joinAt : (x.deriveKeys wharf t).joinAt = x.joinAt := rfl
@[simp] theorem deriveKeys_spent : (x.deriveKeys wharf t).spent = x.spent := rfl
@[simp] theorem deriveKeys_txSeq : (x.deriveKeys wharf t).txSeq = x.txSeq := rfl
@[simp] theorem deriveKeys_unacked : (x.deriveKeys wharf t).unacked = x.unacked := rfl
@[simp] theorem deriveKeys_waitq : (x.deriveKeys wharf t).waitq = x.waitq := rfl

end

theorem updSession_plainOut (d : Dev) (n : Nat) (f : Session → Session) (fresh : Nat) (a : HostPkt) :
    ({ d.updSession n f with fresh := fresh } : Dev).plainOut a = ({ d with fresh := fresh } : Dev).withSession n (f (d.session n)) [a] := rfl

/-- A JOIN that the wharf accepts makes its slot Joining, with the berths asked for and granted, and JOIN_ACCEPT says so. -/
theorem hostJoin_accepts {d : Dev} {k : Clock} {p : HostPkt} {n : Nat} {g : BitVec 32} (form : p.formOk = true)
    (grant : d.whf.grants.find? (fun x => x.1 == p.key) = some (p.key, g)) (common : p.mask &&& g ≠ 0) (ready : d.lkp.st = .ready)
    (room : d.sessionsUsed < min 256 d.whf.limit)
    (slot : (List.range 256).find? (fun i => (d.session i).st == .free && ((d.session i).endAt.elim true fun t => passed k t (msec 10000))) = some n) :
    ∃ y a, d.hostJoin k p = ({ d with fresh := d.fresh + 2 } : Dev).withSession n y [a] ∧ y.st = .joining ∧ y.berths = p.mask &&& g ∧
      y.joinAt = k.tsc ∧ y.spent = false ∧ a.typ = 0x03 ∧ a.session = n ∧ a.mask = p.mask &&& g ∧ a.port = p.port ∧ a.addr = p.addr := by
  have refused : ¬ ((p.mask &&& g) = 0 ∨ (d.lkp.st = .maintenance ∧ (p.mask &&& g).getLsbD 0 = false)) := by
    rintro (disjoint | ⟨maintenance, -⟩)
    · exact common disjoint
    · exact absurd (ready.symm.trans maintenance) (by decide)
  unfold Dev.hostJoin
  dsimp only
  rw [grant, Option.map_some, Option.getD_some, form, if_neg (by decide), if_neg (by simp), if_neg refused, if_pos room, slot]
  dsimp only
  rw [updSession_plainOut]
  exact ⟨_, _, rfl, rfl, rfl, rfl, rfl, rfl, rfl, rfl, rfl, rfl⟩

/-- A session as it becomes Active. -/
def Session.bound (x : Session) (k : Clock) : Session := { x with st := .active, beatAt := k.tsc, hbAt := k.tsc, beat := false, missed := 0 }

section
variable (x : Session) (k : Clock)

@[simp] theorem bound_st : (x.bound k).st = .active := rfl
@[simp] theorem bound_beatAt : (x.bound k).beatAt = k.tsc := rfl
@[simp] theorem bound_spent : (x.bound k).spent = x.spent := rfl
@[simp] theorem bound_txSeq : (x.bound k).txSeq = x.txSeq := rfl
@[simp] theorem bound_unacked : (x.bound k).unacked = x.unacked := rfl
@[simp] theorem bound_waitq : (x.bound k).waitq = x.waitq := rfl

end

/-- A session that becomes Active, and the berths that it is bound to. -/
theorem withSession_bindSession (d : Dev) (n : Nat) (x : Session) (ps : List HostPkt) (k : Clock) :
    ∃ ctl, (d.withSession n x ps).bindSession k n = ({ d with ctl := ctl } : Dev).withSession n (x.bound k) ps := by
  unfold Dev.bindSession
  rw [withSession_updSession]
  have keeps := foldl_keeps (fun e : Dev => ({ e with ctl := d.ctl } : Dev)) (fun (d : Dev) b =>
    if (d.session n).berths.getLsbD b ∧ (d.berth b).st ≠ .absent then d.updBerth b fun x => { x with graceSince := none, headless := false } else d) (fun d b => by split <;> rfl) (List.range 32)
    (d.withSession n (x.bound k) ps)
  exact ⟨_, congrArg (fun e : Dev => ({ e with ctl := _ } : Dev)) keeps⟩

section
variable {s : State} {n : Nat} {p : HostPkt}

theorem joinConfirm_binds (h : NextFromHost s n .joining p) (typ : p.typ = 0x05) (sig : p.sigOk = true) :
    ∃ t, exec (.joinConfirm p) s = .next t ∧ (t.dev.session n).st = .active ∧ (t.dev.session n).beatAt = s.clk.tsc := by
  obtain ⟨ctl, binds⟩ := withSession_bindSession s.dev n ((s.dev.session n).accepted p) [] s.clk
  have processed : (s.dev.withSession n ((s.dev.session n).accepted p) []).hostProcess s.clk n p =
      ({ s.dev with ctl := ctl } : Dev).withSession n (((s.dev.session n).accepted p).bound s.clk) [] := by
    unfold Dev.hostProcess
    rw [typ, withSession_same, took_st, if_pos h.state.1, if_pos sig, binds]
    rfl
  have room : (s.dev.session n).txSeq < 2 ^ 63 := Nat.lt_of_le_of_lt (Nat.le_add_right ..) h.keys.2.2
  obtain ⟨t, ht, settled⟩ := next_acknowledged h (ok := fun p => p.typ == 0x05) (by simp [typ]) (.inl typ) (.inl typ) (by rw [typ]; decide)
    processed rfl (by simp) (by simpa using room) (by simp [h.keys.2.1]) h.calm
  have session := (settled.session n).trans (withSession_same ..)
  exact ⟨t, ht, congrArg Session.st session, congrArg Session.beatAt session⟩

end

section
variable {s : State} {p : HostPkt}

theorem join_begins (calm : Calm s.dev) {n : Nat} {g : BitVec 32} (typ : p.typ = 0x02) (opened : s.dev.netOpen p.port = true)
    (role : (s.dev.port p.port).role = .host) (unspent : Unspent s.dev) (form : p.formOk = true)
    (grant : s.dev.whf.grants.find? (fun x => x.1 == p.key) = some (p.key, g)) (common : p.mask &&& g ≠ 0) (ready : s.dev.lkp.st = .ready)
    (room : s.dev.sessionsUsed < min 256 s.dev.whf.limit)
    (slot : (List.range 256).find? (fun i => (s.dev.session i).st == .free &&
      ((s.dev.session i).endAt.elim true fun t => passed s.clk t (msec 10000))) = some n) :
    ∃ t a, exec (.join p) s = .next t ∧ (t.dev.session n).st = .joining ∧ (t.dev.session n).berths = p.mask &&& g ∧
      (t.dev.session n).joinAt = s.clk.tsc ∧ t.dev.whf.out = s.dev.whf.out ++ [a] ∧ a.typ = 0x03 ∧ a.session = n ∧ a.mask = p.mask &&& g ∧
      a.port = p.port ∧ a.addr = p.addr := by
  obtain ⟨y, a, joins, st, berths, joinAt, own, accept⟩ := hostJoin_accepts form grant common ready room slot
  have received : s.dev.hostReceive s.clk p = ({ s.dev with fresh := s.dev.fresh + 2 } : Dev).withSession n y [a] := by
    unfold Dev.hostReceive
    rw [opened, role]
    dsimp only
    rw [if_neg (by simp), if_pos typ, joins]
    exact endSpent_unspent (Unspent.withSession (d := { s.dev with fresh := s.dev.fresh + 2 }) unspent n own _) s.clk
  obtain ⟨t, ht, settled⟩ := onMem_settles (s := s) (f := fun d => if (p.typ == 0x02) = true then d.hostReceive s.clk p else d)
    ((if_pos (by simp [typ])).trans received) calm
  have session : t.dev.session n = y := (settled.session n).trans (withSession_same ..)
  exact ⟨t, a, ht, session ▸ st, session ▸ berths, session ▸ joinAt, congrArg Wharf.out settled.whf, accept⟩

end

/-! ### The answers of a storage appliance (R347) -/

section
variable {s : State} {p : HostPkt} (opened : s.dev.netOpen p.port = true) (role : (s.dev.port p.port).role = .storage)
include opened role

theorem hostReceive_accept (k : Clock) (typ : p.typ = 0x03) : s.dev.hostReceive k p = (s.dev.storageAccept k p).endSpent k := by
  unfold Dev.hostReceive
  rw [opened, role, typ]
  rfl

theorem hostReceive_reject (k : Clock) (typ : p.typ = 0x04) (joining : (s.dev.session (256 + p.port)).st = .joining) :
    s.dev.hostReceive k p = (s.dev.updSession (256 + p.port) fun _ => Session.reset).endSpent k := by
  unfold Dev.hostReceive
  rw [opened, role, typ]
  dsimp only
  rw [if_neg (by simp)]
  exact congrArg (Dev.endSpent · k) (if_pos joining)

end

/-- A session of a Storage port as JOIN_ACCEPT completes it (R339). -/
def Session.confirmed (x : Session) (p : HostPkt) : Session :=
  { x with addr := p.addr, sport := p.sport, peerKey := p.key, peerX := p.xkey, rxRseq := 0 }.deriveKeys false (joinTranscript x.joined p)

section
variable (x : Session) (p : HostPkt)

@[simp] theorem confirmed_spent : (x.confirmed p).spent = x.spent := rfl
@[simp] theorem confirmed_txSeq : (x.confirmed p).txSeq = x.txSeq := rfl
@[simp] theorem confirmed_unacked : (x.confirmed p).unacked = x.unacked := rfl
@[simp] theorem confirmed_waitq : (x.confirmed p).waitq = x.waitq := rfl

end

/-- The JOIN_CONFIRM of a Storage port. -/
def confirmPkt (d : Dev) : HostPkt := { HostPkt.reset with typ := 0x05, sigOk := true, sig := Config.signature d.fresh }

/-- JOIN_ACCEPT makes the session of its port Active, and JOIN_CONFIRM answers it. -/
theorem storageAccept_confirms {d : Dev} (k : Clock) {p : HostPkt} (joining : (d.session (256 + p.port)).st = .joining) (sig : p.sigOk = true)
    (key : p.key = (mget NetPort.reset d.whf.netPorts p.port).appl) (room : (d.session (256 + p.port)).txSeq < 2 ^ 63)
    (acked : (d.session (256 + p.port)).unacked = []) (idle : (d.session (256 + p.port)).waitq = []) :
    ∃ ctl a, d.storageAccept k p = ({ d with ctl := ctl, fresh := d.fresh + 1 } : Dev).withSession (256 + p.port)
        ((((d.session (256 + p.port)).confirmed p).bound k).sent k (confirmPkt d)) [a] ∧ a.typ = 0x05 := by
  obtain ⟨ctl, binds⟩ := withSession_bindSession { d with fresh := d.fresh + 1 } (256 + p.port) ((d.session (256 + p.port)).confirmed p) [] k
  have refused : ¬ ((d.session (256 + p.port)).st ≠ SessSt.joining ∨ p.sigOk = false ∨
      p.key ≠ (mget NetPort.reset d.whf.netPorts p.port).appl) := by
    simp [joining, sig, key]
  have accepted : ({ d.updSession (256 + p.port) fun x => x.confirmed p with fresh := d.fresh + 1 } : Dev) =
      ({ d with fresh := d.fresh + 1 } : Dev).withSession (256 + p.port) ((d.session (256 + p.port)).confirmed p) [] :=
    congrArg (fun e : Dev => ({ e with fresh := d.fresh + 1 } : Dev)) (updSession_eq ..)
  refine ⟨ctl, (((d.session (256 + p.port)).confirmed p).bound k).stamp (256 + p.port)
    { confirmPkt d with reliable := true, rseq := (((d.session (256 + p.port)).confirmed p).bound k).txRseq }, ?_, rfl⟩
  unfold Dev.storageAccept
  dsimp only
  rw [if_neg refused]
  refine (congrArg (fun e : Dev => (e.bindSession k (256 + p.port)).hostSend k (256 + p.port) true _) accepted).trans ?_
  rw [binds]
  exact withSession_hostSend _ [] k (by simpa using room) (by simpa using acked) (by simpa using idle) (by simp) _

section
variable {s : State} {p : HostPkt} (calm : Calm s.dev) (opened : s.dev.netOpen p.port = true) (role : (s.dev.port p.port).role = .storage)
  (unspent : Unspent s.dev) (joining : (s.dev.session (256 + p.port)).st = .joining)
include calm opened role unspent joining

theorem joinAccept_binds (room : (s.dev.session (256 + p.port)).txSeq < 2 ^ 63) (idle : (s.dev.session (256 + p.port)).waitq = [])
    (acked : (s.dev.session (256 + p.port)).unacked = []) (typ : p.typ = 0x03) (sig : p.sigOk = true)
    (key : p.key = (mget NetPort.reset s.dev.whf.netPorts p.port).appl) :
    ∃ t a, exec (.joinAccept p) s = .next t ∧ (t.dev.session (256 + p.port)).st = .active ∧ t.dev.whf.out = s.dev.whf.out ++ [a] ∧
      a.typ = 0x05 := by
  obtain ⟨ctl, a, confirms, kind⟩ := storageAccept_confirms s.clk joining sig key room acked idle
  have own : ((((s.dev.session (256 + p.port)).confirmed p).bound s.clk).sent s.clk (confirmPkt s.dev)).spent = false := unspent.session _
  have unspent' : Unspent ({ s.dev with ctl := ctl, fresh := s.dev.fresh + 1 } : Dev) := unspent
  obtain ⟨t, ht, settled⟩ := onMem_settles (s := s) (f := fun d => if (p.typ == 0x03) = true then d.hostReceive s.clk p else d)
    ((if_pos (by simp [typ])).trans ((hostReceive_accept opened role s.clk typ).trans ((congrArg (Dev.endSpent · s.clk) confirms).trans
      (endSpent_unspent (unspent'.withSession _ own _) s.clk)))) calm
  exact ⟨t, a, ht, congrArg Session.st ((settled.session _).trans (withSession_same ..)), congrArg Wharf.out settled.whf, kind⟩

theorem joinReject_frees (typ : p.typ = 0x04) : ∃ t, exec (.joinReject p) s = .next t ∧ t.dev.session (256 + p.port) = Session.reset := by
  obtain ⟨t, ht, settled⟩ := onMem_settles (s := s) (f := fun d => if (p.typ == 0x04) = true then d.hostReceive s.clk p else d)
    ((if_pos (by simp [typ])).trans ((hostReceive_reject opened role s.clk typ joining).trans
      (endSpent_unspent ((leavesOthers_updSession _ s.dev fun _ _ => rfl).unspent unspent) s.clk))) calm
  refine ⟨t, ht, (settled.session _).trans ?_⟩
  rw [updSession_eq, withSession_same]

end

/-! ### Packets of a session that goes on, and LEAVE (R342, R346, R353, R354) -/

/-- A write acknowledgement of this device. -/
def writeAck (d : Dev) (p : Packet) : Packet := { answerPkt d p .writeAck with notPerf := false }

/-- The answer to the only part of a window write ends the access. -/
theorem windowResp_answers (d : Dev) (n : Nat) {x : Session} (ps : List HostPkt) (k : Clock) {p : HostPkt} {a : WinAcc} {y : BitVec 32 × Nat × Nat}
    (out : x.winOut = [a]) (write : a.req.op = .bulkWrite) (good : a.bad = false) (parts : a.parts = [y]) (tag : y.1 = p.op.tag)
    (alone : x.ops = []) (status : p.op.status = 0) :
    (d.withSession n x ps).windowResp k n p = (d.send (writeAck d a.req)).withSession n { x with winOut := [] } ps := by
  have found : [a].find? (fun a => a.parts.any fun y => y.1 == p.op.tag) = some a := by simp [parts, tag]
  have part : [y].find? (fun y => y.1 == p.op.tag) = some y := by simp [tag]
  have last : [y].erase y = [] := by simp
  have settled : ∀ e : Dev, (e.withSession n { x with winOut := [] } ps).windowSettle k n = e.withSession n { x with winOut := [] } ps := fun e => by
    unfold Dev.windowSettle
    rw [withSession_same, alone]
    rfl
  unfold Dev.windowResp
  rw [withSession_same, out, found]
  dsimp only
  rw [parts, part]
  dsimp only
  rw [last, List.isEmpty_nil, if_pos rfl, withSession_updSession, out, List.erase_cons_head, status, good]
  refine Eq.trans (congrArg (Dev.windowSettle · k n) ?_) (settled _)
  unfold Dev.windowAnswer
  rw [if_pos write]
  rfl

section
variable {s : State} {n : Nat} {p : HostPkt}

theorem resp_answers {a : WinAcc} {x : BitVec 32 × Nat × Nat} (h : NextFromHost s n .active p) (typ : p.typ = 0x11) (status : p.op.status = 0)
    (out : (s.dev.session n).winOut = [a]) (write : a.req.op = .bulkWrite) (good : a.bad = false) (parts : a.parts = [x]) (tag : x.1 = p.op.tag)
    (alone : (s.dev.session n).ops = []) :
    ∃ t b, exec (.resp p) s = .next t ∧ (t.dev.session n).winOut = [] ∧ t.dev.fab.net = s.dev.fab.net ++ [b] ∧ b.op = .writeAck ∧
      b.notPerf = false ∧ AnswerTo s a.req b := by
  have processed : (s.dev.withSession n ((s.dev.session n).accepted p) []).hostProcess s.clk n p =
      (s.dev.send (writeAck s.dev a.req)).withSession n { (s.dev.session n).accepted p with winOut := [] } [] := by
    unfold Dev.hostProcess
    rw [typ]
    exact windowResp_answers s.dev n (x := (s.dev.session n).accepted p) [] s.clk out write good parts tag alone status
  have room : (s.dev.session n).txSeq < 2 ^ 63 := Nat.lt_of_le_of_lt (Nat.le_add_right ..) h.keys.2.2
  obtain ⟨t, ht, settled⟩ := next_acknowledged h (ok := fun p => p.typ == 0x11) (by simp [typ]) (.inr SessSt.noConfusion) (.inr (by rw [typ]; decide))
    (by rw [typ]; decide) processed rfl (by simp [h.state.1]) (by simpa using room) (by simp [h.keys.2.1]) h.calm
  exact ⟨t, _, ht, congrArg Session.winOut ((settled.session n).trans (withSession_same ..)), settled.net, rfl, rfl, rfl, rfl, rfl, rfl, rfl, rfl⟩

end

/-- A session as a HEARTBEAT in time leaves it (R353). -/
def Session.alive (x : Session) (k : Clock) : Session := { x with beat := true, missed := 0, beatAt := (x.missedBy k).2 }

/-- A HEARTBEAT is noted, or finds that ten intervals are over. -/
theorem withSession_heartbeat (d : Dev) (n : Nat) {x : Session} (ps : List HostPkt) (k : Clock) (active : x.st = .active) :
    (d.withSession n x ps).heartbeat k n =
      if 10 ≤ (x.missedBy k).1 then (d.withSession n x ps).endSession k n 2 else d.withSession n (x.alive k) ps := by
  unfold Dev.heartbeat
  dsimp only
  rw [withSession_same, if_neg (not_not_intro active), withSession_updSession]
  rfl

section
variable {s : State} {n : Nat} {st : SessSt} {p : HostPkt} (h : FromHost s n st p)
include h

theorem host_settles (carried : p.typ = 0x05 ∨ 0x10 ≤ p.typ) {ok : HostPkt → Bool} (due : ok p = true) {d : Dev}
    (accepted : s.dev.hostAccept s.clk n p = d) (unspent : Unspent d) (calm : Calm d) : ∃ t, hostIns ok p s = .next t ∧ Settled s d t := by
  refine onMem_settles ?_ calm
  rw [if_pos due, hostReceive_host s.clk h carried, accepted, endSpent_unspent unspent]

theorem hostAccept_ack (k : Clock) (typ : p.typ = 0x13) (bare : p.bitmap = 0) (unreliable : p.reliable = false) :
    s.dev.hostAccept k n p = s.dev.withSession n (((s.dev.session n).seen p).acked k p.ack []) [] := by
  have got : (List.range 4096).filterMap (fun i => if p.bitmap.getLsbD i then some ((p.ack + i) % 2 ^ 32) else none) = [] := by simp [bare]
  have acks : (p.ackValid || p.typ == 0x13) = true := by simp [typ]
  have other : ¬ p.typ = 0x14 := by omega
  unfold Dev.hostAccept
  dsimp only
  rw [if_neg (fromHost_passes h), updSession_seen, if_pos typ, got, if_pos acks,
    takeAck_quiet _ (x := (s.dev.session n).seen p) _ _ _ h.quiet.1 h.quiet.2 (.inr rfl), if_neg other, unreliable]
  rfl

theorem hostAccept_heartbeat (k : Clock) (typ : p.typ = 0x14) (silent : p.ackValid = false) :
    s.dev.hostAccept k n p = (s.dev.withSession n ((s.dev.session n).seen p) []).heartbeat k n := by
  have acks : ¬ (p.ackValid || p.typ == 0x13) = true := by simp [typ, silent]
  unfold Dev.hostAccept
  dsimp only
  rw [if_neg (fromHost_passes h), updSession_seen, if_neg acks, if_pos typ]

end

section
variable {s : State} {n : Nat} {p : HostPkt}

theorem ack_noted (h : FromHost s n .active p) (typ : p.typ = 0x13) (bare : p.bitmap = 0) (unreliable : p.reliable = false) :
    ∃ t, exec (.ack p) s = .next t ∧ t.dev.whf.out = s.dev.whf.out ∧
      (t.dev.session n).unacked = (s.dev.session n).unacked.filter fun u => !decide (2 ^ 31 ≤ seqAfter u.rseq p.ack) := by
  have own : (((s.dev.session n).seen p).acked s.clk p.ack []).spent = false := h.keys.2.1
  obtain ⟨t, ht, settled⟩ := host_settles h (ok := fun p => p.typ == 0x13) (.inr (by rw [typ]; decide)) (by simp [typ])
    (hostAccept_ack h s.clk typ bare unreliable) (Unspent.withSession h.keys.1 n own _) h.calm
  refine ⟨t, ht, (congrArg Wharf.out settled.whf).trans (List.append_nil _), ?_⟩
  rw [settled.session, withSession_same]
  exact List.filter_congr fun u _ => by simp

theorem heartbeat_noted (h : FromHost s n .active p) (typ : p.typ = 0x14) (silent : p.ackValid = false)
    (alive : ((s.dev.session n).missedBy s.clk).1 < 10) :
    ∃ t, exec (.heartbeat p) s = .next t ∧ (t.dev.session n).beat = true ∧ (t.dev.session n).missed = 0 ∧
      (t.dev.session n).beatAt = ((s.dev.session n).missedBy s.clk).2 ∧ t.dev.whf.out = s.dev.whf.out := by
  have accepted := (hostAccept_heartbeat h s.clk typ silent).trans
    ((withSession_heartbeat s.dev n (x := (s.dev.session n).seen p) [] s.clk h.state.1).trans (if_neg (Nat.not_le.mpr alive)))
  have own : (((s.dev.session n).seen p).alive s.clk).spent = false := h.keys.2.1
  obtain ⟨t, ht, settled⟩ := host_settles h (ok := fun p => p.typ == 0x14) (.inr (by rw [typ]; decide)) (by simp [typ]) accepted
    (Unspent.withSession h.keys.1 n own _) h.calm
  have session := (settled.session n).trans (withSession_same ..)
  exact ⟨t, ht, congrArg Session.beat session, congrArg Session.missed session, congrArg Session.beatAt session,
    (congrArg Wharf.out settled.whf).trans (List.append_nil _)⟩

theorem heartbeat_late (h : FromHost s n .active p) (typ : p.typ = 0x14) (silent : p.ackValid = false)
    (gone : 10 ≤ ((s.dev.session n).missedBy s.clk).1) :
    ∃ t, exec (.heartbeat p) s = .next t ∧ (t.dev.session n).st = .free ∧ (t.dev.session n).lastEnd = 2 := by
  have accepted := (hostAccept_heartbeat h s.clk typ silent).trans
    ((withSession_heartbeat s.dev n (x := (s.dev.session n).seen p) [] s.clk h.state.1).trans (if_pos gone))
  have own : ((s.dev.session n).seen p).spent = false := h.keys.2.1
  obtain ⟨t, ht, settled⟩ := host_settles h (ok := fun p => p.typ == 0x14) (.inr (by rw [typ]; decide)) (by simp [typ]) accepted
    ((endSession_leaves _ s.clk n 2).unspent (Unspent.withSession h.keys.1 n own _)) (endSession_calm (d := s.dev.withSession n _ _) h.calm s.clk n 2)
  have session := (settled.session n).trans (endSession_session ..)
  rw [withSession_same] at session
  exact ⟨t, ht, congrArg Session.st session, (congrArg Session.lastEnd session).trans (if_pos (by simp [Session.seen, h.state.1]))⟩

theorem leave_frees (h : NextFromHost s n .active p) (typ : p.typ = 0x15) :
    ∃ t, exec (.leave p) s = .next t ∧ (t.dev.session n).st = .free ∧ (t.dev.session n).lastEnd = 1 ∧ (t.dev.session n).subs = [] := by
  have room : (s.dev.session n).txSeq < 2 ^ 63 := Nat.lt_of_le_of_lt (Nat.le_add_right ..) h.keys.2.2
  have processed : (s.dev.withSession n ((s.dev.session n).accepted p) []).hostProcess s.clk n p =
      (s.dev.withSession n ((s.dev.session n).accepted p).stamped [((s.dev.session n).accepted p).ackPkt n]).endSession s.clk n 1 := by
    unfold Dev.hostProcess
    rw [typ, withSession_sendAck s.dev (x := (s.dev.session n).accepted p) [] room]
    rfl
  have own : ((s.dev.session n).accepted p).stamped.spent = false := h.keys.2.1
  have ended := endSession_session (s.dev.withSession n ((s.dev.session n).accepted p).stamped [((s.dev.session n).accepted p).ackPkt n]) s.clk n 1
  rw [withSession_same] at ended
  obtain ⟨t, ht, settled⟩ := next_settles h (ok := fun p => p.typ == 0x15) (by simp [typ]) (.inr SessSt.noConfusion) (.inr (by rw [typ]; decide))
    (by rw [typ]; decide) processed (if_pos (congrArg Session.st ended))
    ((endSession_leaves _ s.clk n 1).unspent (Unspent.withSession h.keys.1 n own _)) (endSession_calm (d := s.dev.withSession n _ _) h.calm s.clk n 1)
  have session := (settled.session n).trans ended
  exact ⟨t, ht, congrArg Session.st session, (congrArg Session.lastEnd session).trans (if_pos (by simp [Session.stamped, h.state.1])),
    congrArg Session.subs session⟩

end

/-- Settles O35: each packet by what it leaves of its session. -/
theorem hostSessions : Obligations.HostSessions := by
  intro s p calm
  refine ⟨fun n g typ opened role unspent form grant common ready room slot => ?_, fun n h typ sig => joinConfirm_binds h typ sig,
    fun opened role unspent joining room idle acked => ⟨fun typ sig key => ?_, fun typ => ?_⟩,
    fun n a x h typ status out write good parts tag alone => resp_answers h typ status out write good parts tag alone,
    fun n h typ bare unreliable => ack_noted h typ bare unreliable,
    fun n h typ silent => ⟨heartbeat_noted h typ silent, heartbeat_late h typ silent⟩, fun n h typ => leave_frees h typ⟩
  · exact join_begins calm typ opened role unspent form grant common ready room slot
  · exact joinAccept_binds calm opened role unspent joining (Nat.lt_of_le_of_lt (Nat.le_add_right ..) room) idle acked typ sig key
  · exact joinReject_frees calm opened role unspent joining typ

end Sys2Proof.Machine

namespace Sys2Proof.Machine

/-! ### The Ethernet ports (R333, R338) -/

theorem passed_of_le {k : Clock} {since len : Nat} (h : since + len ≤ k.tsc) : passed k since len = true := decide_eq_true h

section
variable {s : State} (port : Fin 18)

theorem arp_answered {f : Frame} (calm : Calm s.dev) (runs : s.dev.stopped = false) (role : (s.dev.port port).role = .host)
    (up : (mget NetPort.reset s.dev.whf.netPorts port).up = true) (afloat : s.dev.pwr.st ≠ .moored) (kind : f.kind = .arp)
    (fits : f.len ≤ (mget NetPort.reset s.dev.whf.netPorts port).frame) (vlan : f.vlan = (mget NetPort.reset s.dev.whf.netPorts port).vlan)
    (mine : f.mine = true) (whole : f.fragment = false) (cksum : f.cksumOk = true) :
    ∃ t a, exec (.ethernetFrame port f) s = .next t ∧ t.dev.whf.out = s.dev.whf.out ++ [a] ∧ a.typ = 256 ∧ a.port = port.val ∧
      a.mac = (mget NetPort.reset s.dev.whf.netPorts port).mac ∧ a.addr = f.src := by
  have taken : ¬ ((mget NetPort.reset s.dev.whf.netPorts port).frame < f.len ∨ f.vlan ≠ (mget NetPort.reset s.dev.whf.netPorts port).vlan ∨
      f.mine = false ∨ f.fragment = true ∨ f.cksumOk = false) := by simp [vlan, mine, whole, cksum, fits]
  obtain ⟨t, ht, settled⟩ : ∃ t, exec (.ethernetFrame port f) s = .next t ∧ Settled s (s.dev.plainOut { HostPkt.reset with
      typ := 256, port := port, mac := (mget NetPort.reset s.dev.whf.netPorts port).mac, addr := f.src }) t := by
    unfold exec execEthernetFrame
    refine onMem_settles ?_ calm
    dsimp only
    rw [if_neg (by simp [role, up, runs, afloat]), if_neg (by simp [kind]), if_neg taken, kind]
    rfl
  exact ⟨t, _, ht, congrArg Wharf.out settled.whf, rfl, rfl, rfl, rfl⟩

theorem longFrame_discarded {f : Frame} (calm : Calm s.dev) (runs : s.dev.stopped = false) (role : (s.dev.port port).role = .host)
    (up : (mget NetPort.reset s.dev.whf.netPorts port).up = true) (afloat : s.dev.pwr.st ≠ .moored) (kind : f.kind ≠ .pause)
    (long : (mget NetPort.reset s.dev.whf.netPorts port).frame < f.len) :
    ∃ t, exec (.ethernetFrame port f) s = .next t ∧ t.dev.whf.out = s.dev.whf.out ∧ t.dev.whf.frames = satAdd 65535 s.dev.whf.frames 1 := by
  obtain ⟨t, ht, settled⟩ : ∃ t, exec (.ethernetFrame port f) s = .next t ∧ Settled s s.dev.discardFrame t := by
    unfold exec execEthernetFrame
    refine onMem_settles ?_ calm
    dsimp only
    rw [if_neg (by simp [role, up, runs, afloat]), if_neg kind, if_pos (.inl long)]
  exact ⟨t, ht, (congrArg Wharf.out settled.whf : _), (congrArg Wharf.frames settled.whf : _)⟩

theorem announce_sends (role : (s.dev.port port).role = .host) (opened : s.dev.netOpen port = true)
    (due : (mget NetPort.reset s.dev.whf.netPorts port).annAt + msec 1000 ≤ s.clk.tsc) :
    ∃ t a, exec (.announce port) s = .next t ∧ t.dev.whf.out = s.dev.whf.out ++ [a] ∧ a.typ = 0x01 ∧ a.port = port.val ∧
      a.limit = packetLimit (mget NetPort.reset s.dev.whf.netPorts port).frame ∧ a.free = min 256 s.dev.whf.limit - s.dev.sessionsUsed ∧
      (mget NetPort.reset t.dev.whf.netPorts port).annAt = s.clk.tsc := by
  have due : ¬ ((s.dev.port port).role ≠ .host ∨ s.dev.netOpen port = false ∨
      passed s.clk (mget NetPort.reset s.dev.whf.netPorts port).annAt (msec 1000) = false) := by simp [role, opened, passed_of_le due]
  show ∃ t a, execAnnounce port s = .next t ∧ _
  unfold execAnnounce
  rw [onDev_next]
  dsimp only
  rw [if_neg due]
  exact ⟨_, _, rfl, rfl, rfl, rfl, rfl, rfl, congrArg NetPort.annAt (mget_mput_same ..)⟩

end

/-! ### Sessions in their own time (R340, R342, R348, R351, R353) -/

theorem joinConfirmTimeout_frees {s : State} (runs : s.dev.stopped = false) (n : Fin 256) (joining : (s.dev.session n).st = .joining)
    (due : (s.dev.session n).joinAt + msec 1000 ≤ s.clk.tsc) :
    ∃ t, exec (.joinConfirmTimeout n) s = .next t ∧ (t.dev.session n).st = .free ∧ (t.dev.session n).endAt = some s.clk.tsc := by
  show ∃ t, execJoinConfirmTimeout n s = .next t ∧ _
  unfold execJoinConfirmTimeout
  rw [onDev_next]
  dsimp only
  rw [if_pos ⟨joining, runs, passed_of_le due⟩, updSession_eq]
  refine ⟨_, rfl, ?_⟩
  dsimp only
  rw [withSession_same]
  exact ⟨rfl, rfl⟩

/-- A session that notes when a packet was sent again. -/
def Session.resent (x : Session) (k : Clock) (u : Unacked) : Session :=
  { x with unacked := x.unacked.map fun y => if y.rseq = u.rseq then { y with sentAt := k.tsc } else y }

/-- A session that notes when it sent its HEARTBEAT. -/
def Session.beaten (x : Session) (k : Clock) : Session := { x with hbAt := k.tsc }

section
variable {s : State} (calm : Calm s.dev) (runs : s.dev.stopped = false)
include calm runs

section
variable (unspent : Unspent s.dev)
include unspent

theorem retransmit_sends (n : Fin 512) (r : BitVec 32) {u : Unacked} (found : (s.dev.session n).unacked.find? (fun u => u.rseq == r.toNat) = some u)
    (active : (s.dev.session n).st = .active)
    (due : u.sentAt + max (usec 50) (min (msec 20) (4 * (s.dev.session n).srtt)) ≤ s.clk.tsc) (room : (s.dev.session n).txSeq < 2 ^ 63)
    (own : (s.dev.session n).spent = false) :
    ∃ t a, exec (.retransmitTimeout n r) s = .next t ∧ t.dev.whf.out = s.dev.whf.out ++ [a] ∧ a.typ = u.pkt.typ ∧ a.rseq = u.pkt.rseq ∧
      a.seq = (s.dev.session n).txSeq ∧ (t.dev.session n).txSeq = (s.dev.session n).txSeq + 1 := by
  have resends : s.dev.resendPkt s.clk n u =
      s.dev.withSession n ((s.dev.session n).resent s.clk u).stamped [((s.dev.session n).resent s.clk u).stamp n u.pkt] := by
    unfold Dev.resendPkt
    rw [updSession_eq]
    exact withSession_hostOut s.dev (x := (s.dev.session n).resent s.clk u) [] room u.pkt
  have keys : ((s.dev.session n).resent s.clk u).stamped.spent = false := own
  obtain ⟨t, ht, settled⟩ : ∃ t, exec (.retransmitTimeout n r) s = .next t ∧
      Settled s (s.dev.withSession n ((s.dev.session n).resent s.clk u).stamped [((s.dev.session n).resent s.clk u).stamp n u.pkt]) t := by
    unfold exec execRetransmitTimeout
    refine onMem_settles ?_ calm
    dsimp only
    rw [found]
    dsimp only
    rw [if_pos ⟨.inl active, passed_of_le due, runs⟩, resends, endSpent_unspent (unspent.withSession n keys _)]
  exact ⟨t, _, ht, congrArg Wharf.out settled.whf, rfl, rfl, rfl, congrArg Session.txSeq ((settled.session n).trans (withSession_same ..))⟩

theorem heartbeatSend_sends (n : Fin 512) (active : (s.dev.session n).st = .active) (own : (s.dev.session n).spent = false)
    (due : (s.dev.session n).hbAt + msec 100 ≤ s.clk.tsc) (room : (s.dev.session n).txSeq < 2 ^ 63) :
    ∃ t a, exec (.heartbeatSend n) s = .next t ∧ t.dev.whf.out = s.dev.whf.out ++ [a] ∧ a.typ = 0x14 ∧ (t.dev.session n).hbAt = s.clk.tsc := by
  have sends : (s.dev.updSession n fun x => x.beaten s.clk).hostOut n { HostPkt.reset with typ := 0x14 } =
      s.dev.withSession n ((s.dev.session n).beaten s.clk).stamped [((s.dev.session n).beaten s.clk).stamp n { HostPkt.reset with typ := 0x14 }] := by
    rw [updSession_eq]
    exact withSession_hostOut s.dev (x := (s.dev.session n).beaten s.clk) [] room _
  have keys : ((s.dev.session n).beaten s.clk).stamped.spent = false := own
  obtain ⟨t, ht, settled⟩ : ∃ t, exec (.heartbeatSend n) s = .next t ∧ Settled s (s.dev.withSession n ((s.dev.session n).beaten s.clk).stamped
      [((s.dev.session n).beaten s.clk).stamp n { HostPkt.reset with typ := 0x14 }]) t := by
    unfold exec execHeartbeatSend
    refine onMem_settles ?_ calm
    dsimp only
    rw [if_pos ⟨active, runs, passed_of_le due⟩]
    exact (congrArg (Dev.endSpent · s.clk) sends).trans (endSpent_unspent (unspent.withSession n keys _) s.clk)
  exact ⟨t, _, ht, congrArg Wharf.out settled.whf, rfl, congrArg Session.hbAt ((settled.session n).trans (withSession_same ..))⟩

end

theorem heartbeatTimeout_misses (n : Fin 512) (active : (s.dev.session n).st = .active)
    (late : ((s.dev.session n).missedBy s.clk).2 ≠ (s.dev.session n).beatAt) (alive : ((s.dev.session n).missedBy s.clk).1 < 10) :
    ∃ t, exec (.heartbeatTimeout n) s = .next t ∧ (t.dev.session n).missed = ((s.dev.session n).missedBy s.clk).1 ∧
      (t.dev.session n).beat = false ∧ (t.dev.session n).st = .active := by
  obtain ⟨t, ht, settled⟩ : ∃ t, exec (.heartbeatTimeout n) s = .next t ∧ Settled s (s.dev.updSession n fun x => { x with
      beat := false, missed := ((s.dev.session n).missedBy s.clk).1, beatAt := ((s.dev.session n).missedBy s.clk).2 }) t := by
    unfold exec execHeartbeatTimeout
    refine onMem_settles ?_ calm
    dsimp only
    rw [if_neg (by simp [active, late, runs]), if_neg (Nat.not_le.mpr alive)]
  have session := (settled.session n).trans (Dev.updSession_session ..)
  rw [if_pos rfl] at session
  exact ⟨t, ht, congrArg Session.missed session, congrArg Session.beat session, (congrArg Session.st session).trans active⟩

omit runs in
theorem ends_settles {n reason : Nat} {f : Dev → Dev} (ends : f s.dev = s.dev.endSession s.clk n reason) (active : (s.dev.session n).st = .active) :
    ∃ t, onMem s f = .next t ∧ (t.dev.session n).st = .free ∧ (t.dev.session n).lastEnd = reason := by
  obtain ⟨t, ht, settled⟩ := onMem_settles ends (endSession_calm calm s.clk n reason)
  have session := (settled.session n).trans (endSession_session ..)
  exact ⟨t, ht, congrArg Session.st session, (congrArg Session.lastEnd session).trans (if_pos (by simp [active]))⟩

theorem heartbeatTimeout_ends (n : Fin 512) (active : (s.dev.session n).st = .active)
    (late : ((s.dev.session n).missedBy s.clk).2 ≠ (s.dev.session n).beatAt) (gone : 10 ≤ ((s.dev.session n).missedBy s.clk).1) :
    ∃ t, exec (.heartbeatTimeout n) s = .next t ∧ (t.dev.session n).st = .free ∧ (t.dev.session n).lastEnd = 2 := by
  unfold exec execHeartbeatTimeout
  refine ends_settles calm ?_ active
  dsimp only
  rw [if_neg (by simp [active, late, runs]), if_pos gone]

theorem windowAccessTimeout_ends (n : Fin 512) (active : (s.dev.session n).st = .active) {a : WinAcc} {x : BitVec 32 × Nat × Nat}
    (out : (s.dev.session n).winOut = [a]) (parts : a.parts = [x]) (due : a.since + msec 1000 ≤ s.clk.tsc) :
    ∃ t, exec (.windowAccessTimeout n x.1) s = .next t ∧ (t.dev.session n).st = .free ∧ (t.dev.session n).lastEnd = 3 := by
  unfold exec execWindowAccessTimeout
  refine ends_settles calm ?_ active
  rw [if_pos (by simp [runs, active, out, parts, passed_of_le due])]

end

end Sys2Proof.Machine

namespace Sys2Proof.Machine

/-! ### Held records (R351) -/

/-- The EVENT of one held record. -/
def eventPkt (h : HeldRec) : HostPkt := { HostPkt.reset with typ := 0x12, events := [entryOf h] }

/-- A session that has sent its only held record. -/
def Session.told (x : Session) (k : Clock) (h : HeldRec) : Session := { x.sent k (eventPkt h) with held := [] }

theorem sendEvent_sends {d : Dev} {n b : Nat} (k : Clock) {h : HeldRec} (held : (d.session n).held = [h]) (berth : h.berth = b)
    (fits : 1 ≤ d.eventMax n) (room : (d.session n).txSeq < 2 ^ 63) (acked : (d.session n).unacked = []) (idle : (d.session n).waitq = [])
    (afloat : (d.session n).st ≠ .moored) : d.sendEvent k n b = d.withSession n ((d.session n).told k h)
      [(d.session n).stamp n { eventPkt h with reliable := true, rseq := (d.session n).txRseq }] := by
  have mine : ([h].filter fun h => h.berth == b).take (d.eventMax n) = [h] := by
    rw [List.filter_cons_of_pos (by simp [berth]), List.filter_nil, List.take_of_length_le fits]
  have moves : ¬ ([h].isEmpty || (d.session n).windowFull || !(d.session n).waitq.isEmpty) = true := by
    simp [Session.windowFull, acked, idle]
  have rest : [h].filter (fun y => !([h].contains y)) = [] := by simp
  unfold Dev.sendEvent
  dsimp only
  rw [held, mine, if_neg moves]
  refine (congrArg (Dev.updSession · n _) (hostSend_sends k room acked idle afloat (eventPkt h))).trans ?_
  rw [withSession_updSession]
  refine congrArg (fun l => d.withSession n { (d.session n).sent k (eventPkt h) with held := l } _) ?_
  exact (congrArg (List.filter _) held).trans rest

theorem eventCoalesceTimeout_sends {s : State} (calm : Calm s.dev) (runs : s.dev.stopped = false) (unspent : Unspent s.dev) (n : Fin 256)
    (b : Fin 32) {h : HeldRec} (held : (s.dev.session n).held = [h]) (berth : h.berth = b.val) (active : (s.dev.session n).st = .active)
    (due : h.heldAt + usec (s.dev.berth b).coalesce ≤ s.clk.tsc) (fits : 1 ≤ s.dev.eventMax n) (acked : (s.dev.session n).unacked = [])
    (idle : (s.dev.session n).waitq = []) (full : (s.dev.session n).gapFrom = []) (room : (s.dev.session n).txSeq < 2 ^ 63)
    (own : (s.dev.session n).spent = false) :
    ∃ t a, exec (.eventCoalesceTimeout n b) s = .next t ∧ t.dev.whf.out = s.dev.whf.out ++ [a] ∧ a.typ = 0x12 ∧ a.reliable = true ∧
      a.events = [entryOf h] ∧ (t.dev.session n).held = [] := by
  have found : [h].find? (fun h => h.berth == b.val) = some h := by simp [berth]
  have keys : ((s.dev.session n).told s.clk h).spent = false := own
  have filled : ((s.dev.session n).told s.clk h).gapFrom = [] := full
  have sends := sendEvent_sends s.clk held berth fits room acked idle (by simp [active])
  obtain ⟨t, ht, settled⟩ : ∃ t, exec (.eventCoalesceTimeout n b) s = .next t ∧ Settled s (s.dev.withSession n ((s.dev.session n).told s.clk h)
      [(s.dev.session n).stamp n { eventPkt h with reliable := true, rseq := (s.dev.session n).txRseq }]) t := by
    unfold exec execEventCoalesceTimeout
    refine onMem_settles ?_ calm
    dsimp only
    rw [held, found]
    dsimp only
    rw [if_pos ⟨active, runs, passed_of_le due⟩, sends, fillGaps_none, endSpent_unspent (unspent.withSession n keys _)]
    rw [withSession_same, filled]
  exact ⟨t, _, ht, congrArg Wharf.out settled.whf, rfl, rfl, rfl, congrArg Session.held ((settled.session n).trans (withSession_same ..))⟩

/-! ### The grace time of a berth (R412) -/

/-- A Live context whose abort starts is Aborted; besides only what an ending touches is changed. -/
theorem startAbort_ended (d : Dev) (k : Clock) {x : Nat} (live : (d.ctx x).st = .live) (reason : Nat) (silent : Bool) :
    ∃ f : Ctx → Ctx, (f (d.ctx x)).st = .aborted ∧ Ended (d.updCtx x f) (d.startAbort k x reason silent) := by
  have drop : ∀ (e : Dev) p, Ended e (e.dropXlat x p) := fun _ _ => ⟨rfl, fun _ => rfl⟩
  unfold Dev.startAbort
  dsimp only
  rw [if_neg (not_not_intro live)]
  refine ⟨_, rfl, (ended_foldl _ (fun e w => ?_) _ _).trans ((ended_foldl _ (fun e m => ?_) _ _).trans ((ended_foldl _ (fun e g => ?_) _ _).trans
    ((ended_foldl _ (fun e l => ?_) _ _).trans ((ended_foldl _ (fun e n => ?_) _ _).trans (drop _ _)))))⟩
  · exact (ended_updFence ..).trans (ended_endWait ..)
  · split
    · exact ended_endWait ..
    · exact ended_finishCmd ..
  · exact ended_endGroup ..
  · exact ended_launchDone ..
  · exact ended_cancelStream ..

/-- What aborts leave of Live contexts: only ones that were Live already, and none of those aborted. -/
structure Aborts (xs : List Nat) (d e : Dev) : Prop where
  calm : Calm d → Calm e
  live : ∀ y, (e.ctx y).st = .live → (d.ctx y).st = .live ∧ y ∉ xs

theorem aborts_startAbort (d : Dev) (k : Clock) (x reason : Nat) (silent : Bool) : Aborts [x] d (d.startAbort k x reason silent) := by
  by_cases live : (d.ctx x).st = .live
  · obtain ⟨f, aborted, ended⟩ := startAbort_ended d k live reason silent
    refine ⟨fun calm => ended.calm calm, fun y still => ?_⟩
    rw [ended.ctx, Dev.updCtx_ctx] at still
    split at still
    · exact absurd (aborted.symm.trans still) (by decide)
    · next other => exact ⟨still, by simpa using other⟩
  · have same : d.startAbort k x reason silent = d := if_pos live
    rw [same]
    exact ⟨id, fun y still => ⟨still, fun listed => live (List.mem_singleton.mp listed ▸ still)⟩⟩

theorem aborts_foldl (k : Clock) (reason : Nat) (silent : Bool) (xs : List Nat) (d : Dev) :
    Aborts xs d (xs.foldl (fun d x => d.startAbort k x reason silent) d) := by
  induction xs generalizing d with
  | nil => exact ⟨id, fun y still => ⟨still, List.not_mem_nil⟩⟩
  | cons x xs ih =>
    have first := aborts_startAbort d k x reason silent
    have rest := ih (d.startAbort k x reason silent)
    refine ⟨fun calm => rest.calm (first.calm calm), fun y still => ?_⟩
    obtain ⟨still, other⟩ := rest.live y still
    obtain ⟨still, apart⟩ := first.live y still
    exact ⟨still, by simp_all⟩

/-- A departure write leaves no context of its Live berth Live. -/
theorem departure_aborts (d : Dev) (k : Clock) {b : Nat} (berth : (d.berth b).st = .live) :
    (Calm d → Calm (d.departure k b)) ∧ ∀ x, (d.ctx x).berth = b → ((d.departure k b).ctx x).st ≠ .live := by
  unfold Dev.departure
  rw [if_neg (not_not_intro berth)]
  have aborts := aborts_foldl k 5 false (d.ctl.ctxs.filterMap fun e => if e.2.st = .live ∧ e.2.berth = b then some e.1 else none) d
  refine ⟨aborts.calm, fun x own still => ?_⟩
  obtain ⟨was, unlisted⟩ := aborts.live x still
  refine unlisted (List.mem_filterMap.mpr ⟨(x, d.ctx x), ?_, if_pos ⟨was, own⟩⟩)
  refine (mget_listed Ctx.reset d.ctl.ctxs x).resolve_left fun absent => ?_
  exact absurd ((congrArg Ctx.st absent).symm.trans was) (by decide)

/-- Management requests change the fabric alone. -/
theorem mgmtSends_fab (p : Nat → Packet) (vs : List Nat) (d : Dev) : ∃ fab, vs.foldl (fun d v => d.mgmtSend (p v)) d = { d with fab := fab } := by
  have keeps := foldl_keeps (fun e : Dev => ({ e with fab := d.fab } : Dev)) (fun d v => d.mgmtSend (p v)) (fun _ _ => rfl) vs d
  exact ⟨(vs.foldl (fun d v => d.mgmtSend (p v)) d).fab,
    congrArg (fun e : Dev => ({ e with fab := (vs.foldl (fun d v => d.mgmtSend (p v)) d).fab } : Dev)) keeps⟩

theorem settled_berth {s t : State} {d : Dev} (h : Settled s d t) (b : Nat) : t.dev.berth b = d.berth b :=
  congrArg (fun c : Ctl => mget Berth.reset c.berths b) h.ctl

section
variable {s : State} (calm : Calm s.dev) (runs : s.dev.stopped = false) (b : Fin 32) {since : Nat}
  (grace : (s.dev.berth b).graceSince = some since) (due : since + msec (10 * (s.dev.berth b).grace) ≤ s.clk.tsc)
  (left : s.dev.boundSessions b = 0)
include calm runs grace due left

theorem graceTimeExpiry_headless (policy : (s.dev.berth b).headlessPol = true) : ∃ t, exec (.graceTimeExpiry b) s = .next t ∧
    (t.dev.berth b).headless = true ∧ (t.dev.berth b).graceSince = none ∧ t.dev.ctl.ctxs = s.dev.ctl.ctxs := by
  obtain ⟨t, ht, settled⟩ : ∃ t, exec (.graceTimeExpiry b) s = .next t ∧
      Settled s ((s.dev.updBerth b fun x => { x with graceSince := none }).updBerth b fun x => { x with headless := true }) t := by
    unfold exec execGraceTimeExpiry
    refine onMem_settles ?_ calm
    dsimp only
    rw [grace]
    dsimp only
    rw [if_neg (by simp [runs, left, passed_of_le due]), if_pos policy]
  have berth : t.dev.berth b = { s.dev.berth b with graceSince := none, headless := true } := by
    rw [settled_berth settled, Dev.updBerth_berth, if_pos rfl, Dev.updBerth_berth, if_pos rfl]
  exact ⟨t, ht, congrArg Berth.headless berth, congrArg Berth.graceSince berth, (congrArg Ctl.ctxs settled.ctl : _)⟩

theorem graceTimeExpiry_aborts (live : (s.dev.berth b).st = .live) (policy : (s.dev.berth b).headlessPol = false) :
    ∃ t, exec (.graceTimeExpiry b) s = .next t ∧ ∀ x, (s.dev.ctx x).berth = b.val → (t.dev.ctx x).st ≠ .live := by
  obtain ⟨fab, sent⟩ := mgmtSends_fab (fun v => { Packet.reset with op := .mgmtWrite, dst := v, tgt := 708, agent := 704, aop := 1, no := b.val })
    (s.dev.updBerth b fun x => { x with graceSince := none }).reachDevices (s.dev.updBerth b fun x => { x with graceSince := none })
  have serves : ((s.dev.updBerth b fun x => { x with graceSince := none }).berth b).st = .live := by
    rw [Dev.updBerth_berth, if_pos rfl]
    exact live
  obtain ⟨keeps, aborts⟩ := departure_aborts { s.dev.updBerth b fun x => { x with graceSince := none } with fab := fab } s.clk serves
  obtain ⟨t, ht, settled⟩ : ∃ t, exec (.graceTimeExpiry b) s = .next t ∧
      Settled s (({ s.dev.updBerth b fun x => { x with graceSince := none } with fab := fab } : Dev).departure s.clk b) t := by
    unfold exec execGraceTimeExpiry
    refine onMem_settles ?_ (keeps calm)
    dsimp only
    rw [grace]
    dsimp only
    rw [if_neg (by simp [runs, left, passed_of_le due]), if_neg (by simp [policy]), sent]
  exact ⟨t, ht, fun x own => by rw [settled.ctx]; exact aborts x own⟩

end

/-! ### A port goes down (R354) -/

/-- Sessions that end one after another are Free, and the ports are as they were. -/
theorem endSessions_frees (k : Clock) (reason : Nat) (l : List (Nat × Session)) (d : Dev) :
    (∀ n, (d.session n).st = .free ∨ n ∈ l.map Prod.fst → ((l.foldl (fun d e => d.endSession k e.1 reason) d).session n).st = .free) ∧
      (l.foldl (fun d e => d.endSession k e.1 reason) d).whf.netPorts = d.whf.netPorts ∧
      (Calm d → Calm (l.foldl (fun d e => d.endSession k e.1 reason) d)) := by
  induction l generalizing d with
  | nil => exact ⟨fun n h => by simpa using h, rfl, id⟩
  | cons e t ih =>
    obtain ⟨frees, ports, calm⟩ := ih (d.endSession k e.1 reason)
    have leaves := endSession_leaves d k e.1 reason
    have own : ((d.endSession k e.1 reason).session e.1).st = .free := congrArg Session.st (endSession_session ..)
    refine ⟨fun n h => frees n ?_, ports.trans leaves.ports, fun h => calm (endSession_calm h ..)⟩
    by_cases here : n = e.1
    · exact .inl (here ▸ own)
    · rw [leaves.others n here]
      exact h.imp_right fun h => by simpa [here] using h

theorem netPortDown_ends {s : State} (calm : Calm s.dev) (port : Fin 18) (up : (mget NetPort.reset s.dev.whf.netPorts port).up = true) :
    ∃ t, exec (.netPortDown port) s = .next t ∧ (mget NetPort.reset t.dev.whf.netPorts port).up = false ∧
      ∀ e ∈ s.dev.whf.sessions, e.2.st ≠ .free → e.2.port = port.val → (t.dev.session e.1).st = .free := by
  obtain ⟨frees, ports, keeps⟩ := endSessions_frees s.clk 5 (s.dev.whf.sessions.filter fun e => e.2.st != .free && e.2.port == port.val)
    { s.dev with whf := { s.dev.whf with
      netPorts := mput s.dev.whf.netPorts port { mget NetPort.reset s.dev.whf.netPorts port with up := false } } }
  obtain ⟨t, ht, settled⟩ : ∃ t, exec (.netPortDown port) s = .next t ∧ Settled s _ t := by
    unfold exec execNetPortDown
    refine onMem_settles ?_ (keeps calm)
    dsimp only
    rw [if_neg (by simp [up])]
  refine ⟨t, ht, ?_, fun e listed busy here => ?_⟩
  · rw [settled.whf, ports]
    exact congrArg NetPort.up (mget_mput_same ..)
  · rw [settled.session]
    exact frees e.1 (.inr (List.mem_map_of_mem (List.mem_filter.mpr ⟨listed, by simp [busy, here]⟩)))

/-- Intervals that are over, where the present one began later. -/
theorem missedBy_over {x : Session} {k : Clock} (late : (k.tsc - x.beatAt) / msec 100 ≠ 0) :
    (x.missedBy k).1 = (if x.beat then (k.tsc - x.beatAt) / msec 100 - 1 else x.missed + (k.tsc - x.beatAt) / msec 100) ∧
      (x.missedBy k).2 ≠ x.beatAt := by
  refine ⟨if_neg late, ?_⟩
  have moved : 0 < (k.tsc - x.beatAt) / msec 100 * msec 100 := Nat.mul_pos (Nat.pos_of_ne_zero late) (by decide)
  exact Nat.ne_of_gt (Nat.lt_add_of_pos_right moved)

/-- Settles O36: each row by what it does when it is due. -/
theorem hostTimers : Obligations.HostTimers := by
  intro s calm runs unspent
  refine ⟨fun port f role up afloat kind => ⟨fun arp fits vlan mine whole cksum => ?arp, longFrame_discarded port calm runs role up afloat kind⟩,
    fun port role opened due => announce_sends port role opened due, fun n joining due => joinConfirmTimeout_frees runs n joining due,
    fun n r u found active due room own => retransmit_sends calm runs unspent n r found active due room own,
    fun n active own => ⟨fun due room => heartbeatSend_sends calm runs unspent n active own due room, fun late => ?timeout,
      fun a x out parts due => windowAccessTimeout_ends calm runs n active out parts due⟩,
    fun n b h held berth active due fits acked idle full room own => ?coalesce,
    fun b since grace due left live => ⟨graceTimeExpiry_headless calm runs b grace due left, graceTimeExpiry_aborts calm runs b grace due left live⟩,
    fun port up => netPortDown_ends calm port up⟩
  case arp => exact arp_answered port calm runs role up afloat arp fits vlan mine whole cksum
  case timeout =>
    obtain ⟨count, moved⟩ := missedBy_over late
    rw [← count]
    exact ⟨heartbeatTimeout_misses calm runs n active moved, heartbeatTimeout_ends calm runs n active moved⟩
  case coalesce => exact eventCoalesceTimeout_sends calm runs unspent n b held berth active due fits acked idle full room own

end Sys2Proof.Machine
